-- ==== Sys2Proof/Word.lean ====
section
/-!
DEFINITION. The word types of the machine: a byte, a stream word's 64-bit register value, the 32-bit and 16-bit
instruction words (R6, R64, R75), a vector register (R124).
-/
namespace Sys2Proof

/-- A byte of memory. -/
abbrev Byte := BitVec 8
/-- A 64-bit register, address or doubleword. -/
abbrev Word := BitVec 64
/-- A stream instruction word (R64). -/
abbrev IWord := BitVec 32
/-- An engine word (R75). -/
abbrev EWord := BitVec 16
/-- The data of a vector register or landing slot (R124, R179). -/
abbrev VData := BitVec 2048

end Sys2Proof
end

