-- ==== Sys2Proof/Syntax.lean ====
section
/-!
DEFINITION. The abstract syntax: one constructor of `Instr` for each row of spec/opcode_table.json, in the table's
order (the events without operands last): the 186 encoded instructions (R64 to R80 and the owning chapters) and the 62 events, each "whole and
indivisible" (95_what_each_step_holds.md).
-/
namespace Sys2Proof

/-- The three engines of a core (R15), in the code order of R287. -/
inductive EngineId where
  | matrix | copy | query
  deriving DecidableEq, Repr, Inhabited

/-- The four streams of a seat (R15). Stream Y of a system core is stream K of that core's seat 0 (log 5). -/
inductive StreamId where
  | K | L | C | S
  deriving DecidableEq, Repr, Inhabited

/-- A seat: `core` is the device-wide core number die × 112 + core (R7), or 896 + d for the system core of die d
(the slot-wheel position of R255); `seat` is 0 or 1. -/
structure SeatRef where
  core : Fin 904
  seat : Fin 2
  deriving DecidableEq, Repr, Inhabited

/-- A stream of a seat. -/
structure Who where
  ref    : SeatRef
  stream : StreamId
  deriving DecidableEq, Repr, Inhabited

/-- A scalar operand named through a scalar specifier (R65). -/
inductive SSpec where
  | x (n : Fin 32)
  | q (n : Fin 16)
  deriving DecidableEq, Repr, Inhabited

/-- A vector source code (R68): v0-v31, or a landing slot. -/
inductive VSrc where
  | v  (n : Fin 32)
  | ln (n : Fin 64)
  deriving DecidableEq, Repr, Inhabited

/-- The scope codes of R67. -/
inductive Scope where
  | seat | core | cluster | die | device | domain
  deriving DecidableEq, Repr, Inhabited

/-- The conditions of R110, in minor order. -/
inductive Cond where
  | eq | ne | lt | le | gt | ge | ltn | len | gtn | gen
  deriving DecidableEq, Repr, Inhabited

/-- The conditions of CMPI (R111), in minor order. -/
inductive CondI where
  | eq | ne | lt | le | gt | ge | ltn | gen
  deriving DecidableEq, Repr, Inhabited

/-- The conditions of the floating VCMP (R136), in variant order from 2. -/
inductive CondF where
  | eq | ne | lt | le | gt | ge
  deriving DecidableEq, Repr, Inhabited

/-- The floating element types of layout F (R136). -/
inductive FpType where
  | fp32 | fp16 | bf16
  deriving DecidableEq, Repr, Inhabited

/-- Rounding modes (R84, R136). -/
inductive Rnd where
  | rn | rz | rd | ru
  deriving DecidableEq, Repr, Inhabited

/-- The integer element types of layout I (R136). -/
inductive IntType where
  | i8 | i16 | i32 | i64 | n8 | n16 | n32 | n64
  deriving DecidableEq, Repr, Inhabited

/-- Width codes (R136). -/
inductive LaneW where
  | w8 | w16 | w32 | w64
  deriving DecidableEq, Repr, Inhabited

/-- The conversion codes of VCVT (R152). -/
inductive CvtFmt where
  | fp32 | fp16 | bf16 | e4m3 | e5m2 | e2m3 | e3m2 | e2m1 | i4 | i8 | n8 | i16 | n16 | i32 | n32 | i64
  deriving DecidableEq, Repr, Inhabited

/-- The atomic operations of R218. -/
inductive AtomOp where
  | add | and | or | xor | min | max | minn | maxn | swap | cas | fadd
  deriving DecidableEq, Repr, Inhabited

/-- The kinds of FENCE (R214). -/
inductive FenceKind where
  | acq | rel | ar | sc
  deriving DecidableEq, Repr, Inhabited

/-- The destination of LDX and LDA: a landing slot (R = 0) or a scalar (R = 1), R67. -/
inductive LdDest where
  | slot   (n : Fin 64)
  | scalar (d : SSpec)
  deriving DecidableEq, Repr, Inhabited

/-- LDX (R67, R206): data, base, symbol, size code, V, M and the home-die hint. -/
structure LdxArgs where
  dest : LdDest
  base : Fin 32
  sym  : Fin 32
  size : Fin 4
  vec  : Bool
  skew : Bool
  hint : Option (Fin 8)
  deriving DecidableEq, Repr, Inhabited

/-- LDA (R67, R210). -/
structure LdaArgs where
  dest  : LdDest
  base  : Fin 32
  sym   : Fin 32
  size  : Fin 4
  vec   : Bool
  skew  : Bool
  scope : Scope
  deriving DecidableEq, Repr, Inhabited

/-- STX (R67, R206). -/
structure StxArgs where
  data : SSpec
  base : Fin 32
  size : Fin 4
  skew : Bool
  hint : Option (Fin 8)
  deriving DecidableEq, Repr, Inhabited

/-- STL (R67, R210). -/
structure StlArgs where
  data  : SSpec
  base  : Fin 32
  size  : Fin 4
  skew  : Bool
  scope : Scope
  deriving DecidableEq, Repr, Inhabited

/-- AMO and VAMO (R218, R219, R221): `dbl` is the size bit (.d), `pe` the error predicate. -/
structure AmoArgs where
  d   : SSpec
  a   : SSpec
  b   : SSpec
  op  : AtomOp
  dbl : Bool
  pe  : Fin 8
  deriving DecidableEq, Repr, Inhabited

/-- RED and VMRED (R220, R221). -/
structure RedArgs where
  a   : SSpec
  b   : SSpec
  op  : AtomOp
  dbl : Bool
  deriving DecidableEq, Repr, Inhabited

/-- MWAIT (R214, R223). -/
structure MwaitArgs where
  sym : Fin 32
  a   : SSpec
  b   : SSpec
  p   : Fin 16
  deriving DecidableEq, Repr, Inhabited

/-- PVIEW (R331). -/
structure PviewArgs where
  d : SSpec
  a : SSpec
  b : SSpec
  k : Fin 32
  n : Fin 4
  deriving DecidableEq, Repr, Inhabited

/-- The floating two-source instructions of layout F (R136, R137, R144). -/
structure FpArgs where
  d   : Fin 32
  a   : VSrc
  b   : VSrc
  k   : Fin 8
  t   : FpType
  r   : Rnd
  ftz : Bool
  raw : Bool
  deriving DecidableEq, Repr, Inhabited

/-- Floating VMIN and VMAX (R138). -/
structure FpMinArgs where
  d   : Fin 32
  a   : VSrc
  b   : VSrc
  k   : Fin 8
  t   : FpType
  raw : Bool
  deriving DecidableEq, Repr, Inhabited

/-- Floating VCMP (R138). -/
structure FpCmpArgs where
  kd  : Fin 8
  a   : VSrc
  b   : VSrc
  k   : Fin 8
  t   : FpType
  raw : Bool
  c   : CondF
  deriving DecidableEq, Repr, Inhabited

/-- Integer VADD, VSUB, VMUL (R139). -/
structure IntSatArgs where
  d   : Fin 32
  a   : VSrc
  b   : VSrc
  k   : Fin 8
  t   : IntType
  sat : Bool
  raw : Bool
  deriving DecidableEq, Repr, Inhabited

/-- Integer VCMP (R140). -/
structure IntCmpArgs where
  kd : Fin 8
  a  : VSrc
  b  : VSrc
  k  : Fin 8
  w  : LaneW
  c  : Cond
  deriving DecidableEq, Repr, Inhabited

/-- Major 43 (R141). -/
structure IntArgs where
  d : Fin 32
  a : VSrc
  b : VSrc
  k : Fin 8
  t : IntType
  deriving DecidableEq, Repr, Inhabited

/-- Major 44 (R142). -/
structure MoveArgs where
  d : Fin 32
  a : VSrc
  b : VSrc
  k : Fin 8
  w : LaneW
  deriving DecidableEq, Repr, Inhabited

/-- VDOT4 and VTACC (R143); `sat` is false for VTACC. -/
structure DotArgs where
  d   : Fin 32
  a   : VSrc
  b   : VSrc
  k   : Fin 8
  sat : Bool
  raw : Bool
  deriving DecidableEq, Repr, Inhabited

/-- VMOV to a vector register (R146): `tag` is T of vb. -/
structure VmovArgs where
  d   : Fin 32
  a   : VSrc
  k   : Fin 8
  tag : Fin 16
  deriving DecidableEq, Repr, Inhabited

/-- The type field of VNEG and VABS (R147). -/
inductive UnTy where
  | fp  (t : FpType) (raw : Bool)
  | int (w : LaneW) (sat : Bool)
  deriving DecidableEq, Repr, Inhabited

/-- VNEG and VABS (R147). -/
structure UnArgs where
  d  : Fin 32
  a  : VSrc
  k  : Fin 8
  ty : UnTy
  deriving DecidableEq, Repr, Inhabited

/-- VRND, VRCP, VRSQ, VEXP2, VLOG2, VCLASS (R148). -/
structure FpUnArgs where
  d   : Fin 32
  a   : VSrc
  k   : Fin 8
  t   : FpType
  r   : Rnd
  ftz : Bool
  raw : Bool
  deriving DecidableEq, Repr, Inhabited

/-- The type field of the reductions (R149). -/
inductive RedTy where
  | fp  (t : FpType) (r : Rnd) (raw : Bool)
  | int (w : LaneW) (unsigned : Bool) (sat : Bool) (raw : Bool)
  deriving DecidableEq, Repr, Inhabited

/-- VREDADD, VREDMAX, VREDMIN (R149). -/
structure VredArgs where
  d  : Fin 32
  a  : VSrc
  k  : Fin 8
  ty : RedTy
  deriving DecidableEq, Repr, Inhabited

/-- VEXTR (R150). -/
structure VextrArgs where
  d   : Fin 32
  a   : VSrc
  sgn : Bool
  w   : LaneW
  j   : Fin 8
  deriving DecidableEq, Repr, Inhabited

/-- VCVT (R152): `mode` is vb [1:0]. -/
structure VcvtArgs where
  d    : Fin 32
  a    : VSrc
  k    : Fin 8
  src  : CvtFmt
  dst  : CvtFmt
  mode : Fin 4
  deriving DecidableEq, Repr, Inhabited

/-- What SIGF signals (R280): a flag, or nothing, with the release scope. -/
inductive SigTarget where
  | flag (f : Fin 64) (rel : Option Scope)
  | none (rel : Option Scope)
  deriving DecidableEq, Repr, Inhabited

/-- The output types of MDRAIN (R173). -/
inductive DrainTy where
  | fp32 | fp16 | bf16 | e4m3 | e5m2 | i8 | i32
  deriving DecidableEq, Repr, Inhabited

/-- MDRAIN (R173). -/
structure DrainArgs where
  a   : Fin 4
  ty  : DrainTy
  rs  : Bool
  cs  : Bool
  vec : Bool
  clr : Bool
  deriving DecidableEq, Repr, Inhabited

/-- The operand of the copy words (R290): `dims` is D (0 where unused), `sub` is SUB (0 where unused). -/
structure CopyArgs where
  dims : Fin 3
  sync : Bool
  hint : Option (Fin 8)
  sub  : Fin 4
  deriving DecidableEq, Repr, Inhabited

/-- A host write or read through BAR2 (R399): offset, byte count, data (for a write). -/
structure Bar2Args where
  write : Bool
  off   : Nat
  size  : Fin 4
  data  : Word
  deriving DecidableEq, Repr, Inhabited

/-- What a flit carries (R319): a response; an arrival notice; a board post of the caller with a number, device-wide core × 2 + seat, and
its slot register and value; a write or a reduction of the flit's bytes; a release-marked flag with its count; a read of n bytes; an atomic
on n bytes with its operands; a BREAD of a slot, a BRESET with the edition that its caller expects and the caller's launch queue (none: it is
a stream Y), a BINFO. -/
inductive FlitLoad where
  | response
  | notice
  | post (rank : Nat) (xk value : Word)
  | write
  | reduce (op : AtomOp)
  | flag (count : Nat)
  | read (n : Nat)
  | atomic (op : AtomOp) (n : Nat) (v e : Word)
  | bread (lvl : Bool) (slot : Word)
  | breset (force : Bool) (q : Option Nat) (edition : Word)
  | binfo
  deriving DecidableEq, Repr, Inhabited

/-- The count of a release-marked flag. -/
def FlitLoad.count : FlitLoad → Nat
  | .flag n => n
  | _ => 0

/-- A request of a flit: what it carries, and the address and bytes of that; `more` tells that a write goes on in the next flit (R400). -/
structure FlitReq where
  load  : FlitLoad
  addr  : Nat
  bytes : List Byte
  more  : Bool
  deriving DecidableEq, Repr, Inhabited

/-- A received flit (R400): whether its CRC is right after FEC, its destination and source package, its sequence number, and its requests. -/
structure FlitArgs where
  crcOk : Bool
  dst   : Nat
  src   : Nat
  seq   : Nat
  reqs  : List FlitReq
  deriving DecidableEq, Repr, Inhabited

/-- A flit has room for three request headers and 192 bytes (R400). -/
def FlitArgs.fits (g : FlitArgs) : Bool := g.reqs.length ≤ 3 && (g.reqs.flatMap fun q => q.bytes).length ≤ 192

/-- The instructions and events of the part: one constructor per row of the opcode table. -/
inductive Instr where
  -- integer (R104, R106, R107, R108, R109)
  | add (d a b : SSpec)
  | sub (d a b : SSpec)
  | mul (d a b : SSpec)
  | mulh (d a b : SSpec)
  | and (d a b : SSpec)
  | or (d a b : SSpec)
  | xor (d a b : SSpec)
  | andn (d a b : SSpec)
  | shl (d a b : SSpec)
  | shr (d a b : SSpec)
  | sra (d a b : SSpec)
  | rotr (d a b : SSpec)
  | min (d a b : SSpec)
  | max (d a b : SSpec)
  | div (d a b : SSpec)
  | rem (d a b : SSpec)
  | dividerRelease (w : Who)
  | clz (d a : SSpec)
  | popc (d a : SSpec)
  | ext (d a : SSpec) (pos len : Fin 64)
  | ins (d a : SSpec) (pos len : Fin 64)
  | addi (d a : SSpec) (i : BitVec 11)
  | andi (d a : SSpec) (i : BitVec 11)
  | ori (d a : SSpec) (i : BitVec 11)
  | xori (d a : SSpec) (i : BitVec 11)
  | limm (d : SSpec) (v : BitVec 16) (h : Fin 4)
  | scale (d a : SSpec) (m : BitVec 11) (sh : Fin 8)
  -- compare and predicate (R110, R111, R112)
  | cmp (p : Fin 16) (a b : SSpec) (c : Cond)
  | sel (d a b : SSpec) (n : Fin 16)
  | cmpi (p : Fin 16) (a : SSpec) (i : BitVec 11) (c : CondI)
  | pand (d a b : Fin 16)
  | por (d a b : Fin 16)
  | pxor (d a b : Fin 16)
  | pnot (d a : Fin 16)
  -- control (R113, R114, R118, R122, R123)
  | nop
  | pbr (t : Fin 8) (i : BitVec 16)
  | br (t : Fin 8) (p : Fin 16)
  | call (t : Fin 8) (p : Fin 16)
  | ret (p : Fin 16)
  | halt
  | pbri (t : Fin 8) (a : SSpec) (i : BitVec 11)
  | loopReg (s : Fin 8) (a : SSpec) (b : BitVec 11)
  | loopImm (b : BitVec 6) (c : BitVec 16) (s : Fin 8)
  | repReg (a : SSpec)
  | repImm (n : BitVec 16)
  | gap (y : Fin 32) (k : BitVec 16)
  -- loads and stores (R206)
  | ld (d : Fin 64) (b y : Fin 32) (s : Fin 4) (o : BitVec 8)
  | ldV (d : Fin 64) (b y : Fin 32) (s : Fin 4) (o : BitVec 8)
  | st (d : SSpec) (b : Fin 32) (s : Fin 4) (o : BitVec 8)
  | pref (b y : Fin 32) (s : Fin 4) (o : BitVec 8)
  | ldx (g : LdxArgs)
  | lda (g : LdaArgs)
  | stx (g : StxArgs)
  | stl (g : StlArgs)
  -- memory events
  | landing (r : SeatRef) (slot : Fin 64)
  | fetchFill (die : Fin 8) (i : Nat)
  | storeDepart (r : SeatRef)
  | storePerform (i : Nat)
  | loadReplay (w : Who) (giveUp : Bool)
  | sideLogReplay (r : SeatRef) (i : Nat)
  -- atomics (R218 to R222)
  | amo (g : AmoArgs)
  | vamo (g : AmoArgs)
  | red (g : RedArgs)
  | vmred (g : RedArgs)
  -- order and wait (R214 to R217, R223)
  | fence (c : Scope) (k : FenceKind)
  | scOrderEvent (core : Fin 904)
  | domainFenceSettle (w : Who)
  | conj (t : Fin 64)
  | xfence
  | mwait (g : MwaitArgs)
  | mwaitTimeout (w : Who)
  -- engines, sync words, launch (R287, R288, R300, R301, R312, R317)
  | fork (e : EngineId) (i : BitVec 16)
  | join (e : EngineId)
  | sarm (a b : SSpec)
  | sarmFlag (d a b : SSpec) (f : Fin 64)
  | swait (d a b : SSpec)
  | launch (d a b : SSpec)
  | bar (d : SSpec) (j : Fin 7)
  | barrierOpen (i : Nat)
  -- boards (R331 to R336)
  | pview (g : PviewArgs)
  | boardRound (a : Nat) (late : List Nat)
  | bread (d a b : SSpec)
  | breadLvl (d a b : SSpec)
  | breset (d a b : SSpec)
  | bresetForce (d a b : SSpec)
  | binfo (d a : SSpec)
  | binfoVm (d : SSpec) (n : Fin 4) (w : Fin 16)
  -- vector, two sources (R136 to R144)
  | vaddFp (g : FpArgs)
  | vsubFp (g : FpArgs)
  | vmulFp (g : FpArgs)
  | vfma (g : FpArgs)
  | vfms (g : FpArgs)
  | vnfma (g : FpArgs)
  | vmadd (g : FpArgs)
  | vminFp (g : FpMinArgs)
  | vmaxFp (g : FpMinArgs)
  | vcmpFp (g : FpCmpArgs)
  | vaddInt (g : IntSatArgs)
  | vsubInt (g : IntSatArgs)
  | vmulInt (g : IntSatArgs)
  | vcmpInt (g : IntCmpArgs)
  | vminInt (g : IntArgs)
  | vmaxInt (g : IntArgs)
  | vshl (g : IntArgs)
  | vshr (g : IntArgs)
  | vsra (g : IntArgs)
  | vand (g : IntArgs)
  | vor (g : IntArgs)
  | vxor (g : IntArgs)
  | vsel (g : MoveArgs)
  | vperm (g : MoveArgs)
  | vshuf (g : MoveArgs)
  | vzip0 (g : MoveArgs)
  | vzip1 (g : MoveArgs)
  | vuzp0 (g : MoveArgs)
  | vuzp1 (g : MoveArgs)
  | vslide0 (g : MoveArgs)
  | vslide1 (g : MoveArgs)
  | vdot4I8 (g : DotArgs)
  | vdot4N8 (g : DotArgs)
  | vtacc (g : DotArgs)
  | vscale (g : FpArgs)
  -- vector, one source (R145 to R152)
  | vmov (g : VmovArgs)
  | vmovQ (q9 : Bool) (a : VSrc)
  | vidx (d : Fin 32) (w : LaneW) (k : Fin 8)
  | vsetvl (d : Fin 32) (a : SSpec) (w : LaneW)
  | vneg (g : UnArgs)
  | vabs (g : UnArgs)
  | vnot (d : Fin 32) (a : VSrc) (w : LaneW) (k : Fin 8)
  | vrnd (g : FpUnArgs)
  | vrcp (g : FpUnArgs)
  | vrsq (g : FpUnArgs)
  | vexp2 (g : FpUnArgs)
  | vlog2 (g : FpUnArgs)
  | vclass (g : FpUnArgs)
  | vredadd (g : VredArgs)
  | vredmax (g : VredArgs)
  | vredmin (g : VredArgs)
  | vbcast (d : Fin 32) (a : VSrc) (w : LaneW) (j : Fin 16) (k : Fin 8)
  | vbcastScalar (d : Fin 32) (a : SSpec) (tag : Fin 16) (k : Fin 8)
  | vextr (g : VextrArgs)
  | vtunpk (d : Fin 32) (a : VSrc) (raw : Bool) (k : Fin 8)
  | vcvt (g : VcvtArgs)
  -- system (R184, R185, R191, R192)
  | srr (d : SSpec) (i : BitVec 16)
  | srw (s : SSpec) (i : BitVec 16)
  | comma (n : BitVec 10) (m : BitVec 6)
  | trap (i : BitVec 16)
  | eret
  | qcnt (d : SSpec) (n : Fin 16)
  | qcntFree (d : SSpec) (n : Fin 16)
  | symrd (d : SSpec) (y : Fin 32) (w : Fin 8)
  | symsetB (s : SSpec) (y : Fin 32)
  | symsetPol (s : SSpec) (y : Fin 32)
  | symsetClr (y : Fin 32)
  -- translation, keys, catalogue (R349 to R351, R360)
  | tlbiPage (a b : SSpec)
  | tlbiAsid (b : SSpec)
  | tlbiAll
  | tlbiVa (a : SSpec)
  | tlbfence
  | keyld (a b : SSpec)
  | keyldClr (b : SSpec)
  | capq (d : SSpec) (i : BitVec 16) (p : Fin 8)
  | codesync
  -- engine words, common (R75, R76, R159 to R161, R280)
  | lit (v : BitVec 15)
  | litx (next : EWord)
  | dup
  | drop
  | swap
  | over
  | addw
  | subw
  | mulw
  | shlw (n : Fin 64)
  | qpop
  | loopw (d : BitVec 10)
  | endw
  | stopw
  | waitf (acq : Option Scope) (n : Fin 64)
  | sigf (note : Bool) (t : SigTarget)
  -- matrix words (R165 to R173)
  | mldt (b : Fin 8) (sideB half : Bool)
  | mstt (b : Fin 8) (sideB half : Bool)
  | mma (a : Fin 4) (raw : Bool)
  | mhad (b : Fin 8) (z : Fin 4)
  | mzero (a : Fin 4) (fp36 : Bool)
  | mdrain (g : DrainArgs)
  | msrec (sideB en : Bool)
  | mgeom (a b : Fin 16) (askew bskew : Bool)
  -- copy words (R290)
  | copy (g : CopyArgs)
  | cgath (g : CopyArgs)
  | cscat (g : CopyArgs)
  | cfill (g : CopyArgs)
  | cbcast (g : CopyArgs)
  | cremote (g : CopyArgs)
  | cacc (g : CopyArgs)
  -- query words (R237)
  | afolio (e4m3 : Bool) (hd : Fin 3)
  | aappend
  | aquery (e4m3 : Bool) (hd : Fin 3) (y : Fin 32)
  | astat
  -- engine events
  | engineCommandStart (core : Fin 904) (e : EngineId) (seat : Fin 2)
  | flagWaitMet (core : Fin 904) (e : EngineId) (seat : Fin 2)
  | engineCommandComplete (core : Fin 904) (e : EngineId) (seat : Fin 2) (i : Nat)
  | syncArrival (i : Nat)
  | attentionSlice (i : Nat)
  | appendAtController (i : Nat)
  -- cuts, faults, instances
  | cut (r : SeatRef)
  | preemptRequest (r : SeatRef)
  | bmarkArm (r : SeatRef) (pass : BitVec 32)
  | commaTimeout (r : SeatRef)
  | faultServiceResume (r : SeatRef)
  | launchAbort (q : Fin 512)
  | instanceStart (r : SeatRef)
  | retirement (r : SeatRef)
  | packetAtHead (q : Fin 512)
  | launchActivation (q : Fin 512)
  | seatGrant (die : Fin 8)
  | pipeGrant (core : Fin 904) (vector : Bool)
  | lqRestart (q : Fin 512)
  | abortedClear (q : Fin 512)
  | hubDataAccess (die : Fin 8) (write : Option Word)
  -- clock, heat, refresh, life, freeze line
  | clockPlanTick (die : Fin 8)
  | temperatureReading (stk : Fin 24) (celsius : Int)
  | refresh (stk : Fin 24) (bank : Fin 1024)
  | scrub (stk : Fin 24) (unit : Nat)
  | mgmtRaise (die : Fin 8)
  | mgmtLower (die : Fin 8)
  | junctionOvertemp (die : Fin 8)
  -- fabric
  | timebaseMarker (port : Fin 64) (drift : Int)
  | flitReceive (port : Fin 64) (g : FlitArgs)
  | linkTrainingTimeout (port : Fin 64)
  | lostRequestTimeout (i : Nat)
  -- resets, host
  | dieResetStart (die : Fin 8)
  | dieResetDone (die : Fin 8)
  | doorbell (die : Fin 8)
  | mailboxTake (die : Fin 8)
  | graphCompletion (i : Nat)
  | lostClear (die : Fin 8)
  | hostBar2Access (g : Bar2Args)
  | scalarAnswer (w : Who) (i : Nat)
  | undefinedEncoding (w : IWord)
  | undefinedEngineWord (w : EWord)
  | linkRetrainComplete (port : Fin 64)
  | mailboxMessageWrite (die : Fin 8) (dw : Fin 8) (v : Word)
  -- the events without operands stand last
  | lifeRecord
  | freezeLineAssert
  | freezeLineRelease
  | packageReset
  | unsupportedRequest
  | powerUp
  deriving DecidableEq, Repr, Inhabited

end Sys2Proof
end

