-- ==== Sys2Proof/WellFormed.lean ====
section
/-!
DEFINITION. Well-formedness of instructions: the conditions that the spec puts on an instruction's fields beyond the
range of each field. Each failure has a name; `wellFormed` gives the first one that holds.
-/
namespace Sys2Proof

/-- Why an instruction has no encoding. Raised by `wellFormed` alone; safe: the decoder never yields such a term. -/
inductive IllFormed where
  /-- EXT, INS: pos + len above 64 (R107). -/
  | bitField
  /-- A d field that is both read and written names a queue (R102: INS, LIMM with a nonzero quarter; R219: .cas). -/
  | readWriteQueue
  /-- A LOOP body length of 0 (R118). -/
  | loopBody
  /-- LDX, LDA with R = 1 and V = 1, or with R = 1 and a nonzero symbol (R67, R206). -/
  | scalarVectorLoad
  /-- An atomic operation the instruction does not take (R218). -/
  | atomicOp
  /-- A landing slot above ln31 outside major 47 (R68). -/
  | slotRange
  /-- A tag code that VMOV or VBCAST does not take (R146, R150). -/
  | tagCode
  /-- A mode or clamp a group must leave 0 (R148, R149). -/
  | unusedMode
  /-- VCVT with equal codes, or an integer conversion with mode bit 1 set (R152). -/
  | conversion
  /-- A system register number that is not defined (R182). -/
  | sysreg
  /-- LOOPW with distance 0 (R160). -/
  | loopDistance
  /-- MGEOM formats of two families (R165). -/
  | geometry
  /-- MDRAIN .vec with an output wider than 16 bits (R173). -/
  | drainVec
  /-- A copy operand field the word does not use (R290). -/
  | copyField
  deriving DecidableEq, Repr

/-- The system register numbers that the table of R182 and the chapters owning its ranges define. -/
def sysregDefined (n : Nat) : Bool :=
  n ≤ 0x0004 || n = 0x0100 || n = 0x0101 || (0x0104 ≤ n && n ≤ 0x0109)
  || (0x0200 ≤ n && n ≤ 0x0203) || (0x0208 ≤ n && n ≤ 0x020F)
  || (0x0300 ≤ n && n ≤ 0x0305) || (0x0400 ≤ n && n ≤ 0x040C)
  || (0x0500 ≤ n && n ≤ 0x0521) || (0x0530 ≤ n && n ≤ 0x0533) || n = 0x0540 || n = 0x0550
  || n = 0x0600 || n = 0x0680
  || (0x0700 ≤ n && n ≤ 0x07C3)
  || (0x0800 ≤ n && n ≤ 0x0802) || n = 0x0840 || (0x0880 ≤ n && n ≤ 0x0887)
  || (0x08E0 ≤ n && n ≤ 0x08E9) || (0x08F0 ≤ n && n ≤ 0x08F2)
  || n = 0x0900 || n = 0x0901 || n = 0x0908 || n = 0x0910

/-- A source code that majors 32 to 46 can hold (R68): landing slots ln0-ln31 only. -/
def VSrc.low : VSrc → Bool
  | .v _ => true
  | .ln n => n.val < 32

/-- A specifier that names x0-x31 (R102). -/
def SSpec.isX : SSpec → Bool
  | .x _ => true
  | .q _ => false

/-- The integer conversion codes of R152. -/
def CvtFmt.isInt : CvtFmt → Bool
  | .i4 | .i8 | .n8 | .i16 | .n16 | .i32 | .n32 | .i64 => true
  | _ => false

/-- The geometry family of a tag code (R165): 1 float, 2 MX, 3 integer, 0 none. -/
def geomFamily (t : Nat) : Nat :=
  if t = 2 || t = 3 || t = 4 || t = 5 then 1
  else if t = 6 || t = 7 || t = 8 then 2
  else if t = 9 || t = 10 || t = 14 then 3
  else 0

/-- `ok c e`: no failure when `c` holds, else `e`. -/
def need (c : Bool) (e : IllFormed) : Option IllFormed := if c then none else some e

/-- Two source codes of a two-source vector instruction. -/
def needLow (a b : VSrc) : Option IllFormed := need (a.low && b.low) .slotRange

/-- The destination rules of LDX and LDA (R67, R206). -/
def needLoad (dest : LdDest) (vec : Bool) (sym : Fin 32) : Option IllFormed :=
  match dest with
  | .slot _ => none
  | .scalar _ => need (!vec && sym = 0) .scalarVectorLoad

/-- .fadd has no .d form (R218). -/
def faddOk (op : AtomOp) (dbl : Bool) : Bool := !(op = .fadd && dbl)

/-- The first well-formedness condition an instruction breaks; none for a well-formed one. DESIGN CHOICE (log 56): AMO.cas accepts d = x0, for
R219 names a fault for a queue code alone. -/
def wellFormed : Instr → Option IllFormed
  | .ext _ _ pos len => need (pos.val + len.val + 1 ≤ 64) .bitField
  | .ins d _ pos len =>
      (need (pos.val + len.val + 1 ≤ 64) .bitField).or (need d.isX .readWriteQueue)
  | .limm d _ h => need (h = 0 || d.isX) .readWriteQueue
  | .loopReg _ _ b => need (b ≠ 0) .loopBody
  | .loopImm b _ _ => need (b ≠ 0) .loopBody
  | .ldx g => needLoad g.dest g.vec g.sym
  | .lda g => needLoad g.dest g.vec g.sym
  | .amo g => (need (faddOk g.op g.dbl) .atomicOp).or (need (g.op ≠ .cas || g.d.isX) .readWriteQueue)
  | .vamo g => need (faddOk g.op g.dbl && g.op ≠ .cas) .atomicOp
  | .red g | .vmred g => need (faddOk g.op g.dbl && g.op ≠ .cas && g.op ≠ .swap) .atomicOp
  | .vaddFp g | .vsubFp g | .vmulFp g | .vfma g | .vfms g | .vnfma g | .vmadd g | .vscale g => needLow g.a g.b
  | .vminFp g | .vmaxFp g => needLow g.a g.b
  | .vcmpFp g => needLow g.a g.b
  | .vaddInt g | .vsubInt g | .vmulInt g => needLow g.a g.b
  | .vcmpInt g => needLow g.a g.b
  | .vminInt g | .vmaxInt g | .vshl g | .vshr g | .vsra g | .vand g | .vor g | .vxor g => needLow g.a g.b
  | .vsel g | .vperm g | .vshuf g | .vzip0 g | .vzip1 g | .vuzp0 g | .vuzp1 g | .vslide0 g | .vslide1 g =>
      needLow g.a g.b
  | .vdot4I8 g | .vdot4N8 g => needLow g.a g.b
  | .vtacc g => (needLow g.a g.b).or (need (!g.sat) .unusedMode)
  | .vmov g => need (g.tag ≠ 15) .tagCode
  | .vexp2 g => need (g.r = .rn) .unusedMode
  | .vclass g => need (g.r = .rn && !g.ftz) .unusedMode
  | .vredmax g | .vredmin g =>
      match g.ty with
      | .fp _ r _ => need (r = .rn) .unusedMode
      | .int _ _ sat _ => need (!sat) .unusedMode
  | .vbcastScalar _ _ tag _ => need ((1 ≤ tag.val && tag.val ≤ 5) || (10 ≤ tag.val && tag.val ≤ 13)) .tagCode
  | .vcvt g => need (g.src ≠ g.dst && !(g.src.isInt && g.dst.isInt && 2 ≤ g.mode.val)) .conversion
  | .srr _ i | .srw _ i => need (sysregDefined i.toNat) .sysreg
  | .loopw d => need (d ≠ 0) .loopDistance
  | .mgeom a b _ _ => need (geomFamily a.val ≠ 0 && geomFamily a.val = geomFamily b.val) .geometry
  | .mdrain g => need (!g.vec || !(g.ty = .fp32 || g.ty = .i32)) .drainVec
  | .copy g | .cremote g => need (g.sub = 0) .copyField
  | .cgath g | .cscat g => need (g.dims = 0) .copyField
  | .cfill g | .cbcast g => need (g.dims = 0 && g.sub = 0) .copyField
  | _ => none

/-- An instruction that has an encoding. -/
def Instr.wf (i : Instr) : Bool := (wellFormed i).isNone

end Sys2Proof
end

