-- ==== Sys2Proof/Decode.lean ====
section
/-!
DEFINITION. Decoding of stream words (R64 to R73) and engine words (R75 to R77), total on any word, and after it the
encoder written from the same tables. A refused word is `none`: the step raises UNDEF_MAJOR or UNDEF_OP for it through
the row UNDEFINED_ENCODING (R72) or UNDEFINED_ENGINE_WORD (R75).
-/
namespace Sys2Proof

/-- Bits [hi:lo] of a word (R6). -/
def bits (w hi lo : Nat) : Nat := (w / 2 ^ lo) % 2 ^ (hi + 1 - lo)

/-- Bit n of a word. -/
def bit1 (w n : Nat) : Bool := (w / 2 ^ n) % 2 = 1

/-! ## Field decoders -/

/-- A field as a number below `n`. -/
def fin? (n : Nat) [NeZero n] (v : Nat) : Option (Fin n) := if h : v < n then some ⟨v, h⟩ else none

/-- A field of exactly log2 n bits, taken as a number below `n`. -/
def finOf (n : Nat) [NeZero n] (v : Nat) : Fin n := Fin.ofNat n v

/-- A scalar specifier (R65): codes 48-63 are reserved. -/
def sspec? (c : Nat) : Option SSpec :=
  if c < 32 then some (.x (finOf 32 c)) else if c < 48 then some (.q (finOf 16 (c - 32))) else none

/-- A vector source code of majors 32 to 46 (R68). -/
def vsrc (c : Nat) : VSrc := if c < 32 then .v (finOf 32 c) else .ln (finOf 64 (c - 32))

/-- A vector source code of major 47, whose variant bit [5] is `hi` (R68): the bit moves codes 32 to 63 to ln32 to ln63, and codes below
32 name v0 to v31 whatever it is (log 19). -/
def vsrc47? (c : Nat) (hi : Bool) : Option VSrc :=
  some (if c < 32 then .v (finOf 32 c) else .ln (finOf 64 (if hi then c else c - 32)))

/-- The scope codes of R67; 6 and 7 are refused. -/
def scope? : Nat → Option Scope
  | 0 => some .seat
  | 1 => some .core
  | 2 => some .cluster
  | 3 => some .die
  | 4 => some .device
  | 5 => some .domain
  | _ => none

/-- Conditions 0-9 (R110). -/
def cond? : Nat → Option Cond
  | 0 => some .eq
  | 1 => some .ne
  | 2 => some .lt
  | 3 => some .le
  | 4 => some .gt
  | 5 => some .ge
  | 6 => some .ltn
  | 7 => some .len
  | 8 => some .gtn
  | 9 => some .gen
  | _ => none

/-- Conditions of CMPI (R111). -/
def condI? : Nat → Option CondI
  | 0 => some .eq
  | 1 => some .ne
  | 2 => some .lt
  | 3 => some .le
  | 4 => some .gt
  | 5 => some .ge
  | 6 => some .ltn
  | 7 => some .gen
  | _ => none

/-- Floating types of layout F (R136); 3 is refused. -/
def fpType? : Nat → Option FpType
  | 0 => some .fp32
  | 1 => some .fp16
  | 2 => some .bf16
  | _ => none

/-- Rounding codes (R136). -/
def rnd : Nat → Rnd
  | 0 => .rn
  | 1 => .rz
  | 2 => .rd
  | _ => .ru

/-- Integer types of layout I (R136). -/
def intType : Nat → IntType
  | 0 => .i8
  | 1 => .i16
  | 2 => .i32
  | 3 => .i64
  | 4 => .n8
  | 5 => .n16
  | 6 => .n32
  | _ => .n64

/-- Width codes (R136). -/
def laneW : Nat → LaneW
  | 0 => .w8
  | 1 => .w16
  | 2 => .w32
  | _ => .w64

/-- Conversion codes (R152). -/
def cvtFmt : Nat → CvtFmt
  | 0 => .fp32
  | 1 => .fp16
  | 2 => .bf16
  | 3 => .e4m3
  | 4 => .e5m2
  | 5 => .e2m3
  | 6 => .e3m2
  | 7 => .e2m1
  | 8 => .i4
  | 9 => .i8
  | 10 => .n8
  | 11 => .i16
  | 12 => .n16
  | 13 => .i32
  | 14 => .n32
  | _ => .i64

/-- Atomic operation codes (R218); 11-15 are refused. -/
def atomOp? : Nat → Option AtomOp
  | 0 => some .add
  | 1 => some .and
  | 2 => some .or
  | 3 => some .xor
  | 4 => some .min
  | 5 => some .max
  | 6 => some .minn
  | 7 => some .maxn
  | 8 => some .swap
  | 9 => some .cas
  | 10 => some .fadd
  | _ => none

/-- Fence kinds (R214). -/
def fenceKind : Nat → FenceKind
  | 0 => .acq
  | 1 => .rel
  | 2 => .ar
  | _ => .sc

/-- Engine codes (R287); 3-63 are refused. -/
def engine? : Nat → Option EngineId
  | 0 => some .matrix
  | 1 => some .copy
  | 2 => some .query
  | _ => none

/-- The home-die hint of an attribute byte (R67, R290): H in [5], HINT in [4:2]. HINT is read only when H is set (of LDX and STX: log 12). -/
def hintOf (a : Nat) : Option (Fin 8) := if bit1 a 5 then some (finOf 8 (bits a 4 2)) else none

/-- `i` when `c` holds. -/
def guardI (c : Bool) (i : Option Instr) : Option Instr := if c then i else none

/-! ## The majors -/

/-- Major 0 (R104). -/
def decInt (w : Nat) : Option Instr := do
  let d ← sspec? (bits w 25 20)
  let a ← sspec? (bits w 19 14)
  let b ← sspec? (bits w 13 8)
  match bits w 7 0 with
  | 0 => some (.add d a b)
  | 1 => some (.sub d a b)
  | 2 => some (.mul d a b)
  | 3 => some (.mulh d a b)
  | 4 => some (.and d a b)
  | 5 => some (.or d a b)
  | 6 => some (.xor d a b)
  | 7 => some (.andn d a b)
  | 8 => some (.shl d a b)
  | 9 => some (.shr d a b)
  | 10 => some (.sra d a b)
  | 11 => some (.rotr d a b)
  | 12 => some (.min d a b)
  | 13 => some (.max d a b)
  | _ => none

/-- Major 1 (R106). -/
def decDiv (w : Nat) : Option Instr := do
  let d ← sspec? (bits w 25 20)
  let a ← sspec? (bits w 19 14)
  let b ← sspec? (bits w 13 8)
  match bits w 7 0 with
  | 0 => some (.div d a b)
  | 1 => some (.rem d a b)
  | _ => none

/-- Major 2 (R107). -/
def decBits (w : Nat) : Option Instr := do
  let d ← sspec? (bits w 25 20)
  let a ← sspec? (bits w 19 14)
  let pos := finOf 64 (bits w 13 8)
  let len := finOf 64 (bits w 5 0)
  match bits w 7 6 with
  | 0 =>
    if pos = 0 then
      match len.val with
      | 0 => some (.clz d a)
      | 1 => some (.popc d a)
      | _ => none
    else none
  | 1 => some (.ext d a pos len)
  | 2 => some (.ins d a pos len)
  | _ => none

/-- Major 3 (R104). -/
def decImm (w : Nat) : Option Instr := do
  let d ← sspec? (bits w 25 20)
  let a ← sspec? (bits w 19 14)
  let i := BitVec.ofNat 11 (bits w 13 3)
  match bits w 2 0 with
  | 0 => some (.addi d a i)
  | 1 => some (.andi d a i)
  | 2 => some (.ori d a i)
  | 3 => some (.xori d a i)
  | _ => none

/-- Major 4 (R108). -/
def decLimm (w : Nat) : Option Instr := do
  let d ← sspec? (bits w 25 20)
  if bits w 3 2 = 0 then some (.limm d (BitVec.ofNat 16 (bits w 19 4)) (finOf 4 (bits w 1 0))) else none

/-- Major 5 (R109). -/
def decScale (w : Nat) : Option Instr := do
  let d ← sspec? (bits w 25 20)
  let a ← sspec? (bits w 19 14)
  some (.scale d a (BitVec.ofNat 11 (bits w 13 3)) (finOf 8 (bits w 2 0)))

/-- Major 8 (R110). -/
def decCmp (w : Nat) : Option Instr := do
  let a ← sspec? (bits w 19 14)
  let b ← sspec? (bits w 13 8)
  if bits w 3 0 = 10 then
    let d ← sspec? (bits w 25 20)
    some (.sel d a b (finOf 16 (bits w 7 4)))
  else
    let c ← cond? (bits w 3 0)
    let p ← fin? 16 (bits w 25 20)
    if bits w 7 4 = 0 then some (.cmp p a b c) else none

/-- Major 9 (R111). -/
def decCmpi (w : Nat) : Option Instr := do
  let p ← fin? 16 (bits w 25 20)
  let a ← sspec? (bits w 19 14)
  let c ← condI? (bits w 2 0)
  some (.cmpi p a (BitVec.ofNat 11 (bits w 13 3)) c)

/-- Major 10 (R112). -/
def decPred (w : Nat) : Option Instr := do
  let d ← fin? 16 (bits w 25 20)
  let a ← fin? 16 (bits w 19 14)
  let b ← fin? 16 (bits w 13 8)
  match bits w 7 0 with
  | 0 => some (.pand d a b)
  | 1 => some (.por d a b)
  | 2 => some (.pxor d a b)
  | 3 => if b = 0 then some (.pnot d a) else none
  | _ => none

/-- Major 12 (R113). -/
def decBranch (w : Nat) : Option Instr :=
  let t := finOf 8 (bits w 25 23)
  let p := finOf 16 (bits w 22 19)
  let i := BitVec.ofNat 16 (bits w 18 3)
  match bits w 2 0 with
  | 0 => if t = 0 ∧ p = 0 ∧ i = 0 then some .nop else none
  | 1 => if p = 0 then some (.pbr t i) else none
  | 2 => if i = 0 then some (.br t p) else none
  | 3 => if i = 0 then some (.call t p) else none
  | 4 => if t = 0 ∧ i = 0 then some (.ret p) else none
  | 5 => if t = 0 ∧ p = 0 ∧ i = 0 then some .halt else none
  | _ => none

/-- Major 13 (R114). -/
def decPbri (w : Nat) : Option Instr := do
  let t ← fin? 8 (bits w 25 20)
  let a ← sspec? (bits w 19 14)
  if bits w 2 0 = 0 then some (.pbri t a (BitVec.ofNat 11 (bits w 13 3))) else none

/-- Major 14 (R118, R122). -/
def decLoopReg (w : Nat) : Option Instr := do
  let a ← sspec? (bits w 19 14)
  let b := BitVec.ofNat 11 (bits w 13 3)
  match bits w 2 0 with
  | 0 => if bits w 25 23 = 0 ∧ b ≠ 0 then some (.loopReg (finOf 8 (bits w 22 20)) a b) else none
  | 1 => if bits w 25 20 = 0 ∧ b = 0 then some (.repReg a) else none
  | _ => none

/-- Major 15 (R118, R122, R123). -/
def decLoopImm (w : Nat) : Option Instr :=
  let d := bits w 25 20
  let i := BitVec.ofNat 16 (bits w 19 4)
  let m := bits w 3 0
  if m < 8 then
    if d = 0 then none else some (.loopImm (BitVec.ofNat 6 d) i (finOf 8 m))
  else if m = 8 then
    if d = 0 then some (.repImm i) else none
  else if m = 9 then
    (fin? 32 d).map fun y => .gap y i
  else none

/-- Majors 16 to 19 (R67, R206): LD, LD.v, ST, PREF. -/
def decPlainMem (major w : Nat) : Option Instr :=
  let data := bits w 25 20
  let b := finOf 32 (bits w 19 15)
  let y := finOf 32 (bits w 14 10)
  let s := finOf 4 (bits w 9 8)
  let o := BitVec.ofNat 8 (bits w 7 0)
  match major with
  | 16 => some (.ld (finOf 64 data) b y s o)
  | 17 => some (.ldV (finOf 64 data) b y s o)
  | 18 => if y = 0 then (sspec? data).map fun d => .st d b s o else none
  | 19 => if data = 0 then some (.pref b y s o) else none
  | _ => none

/-- The destination of LDX and LDA (R67, R206): R = 1 names a scalar and needs V = 0 and sym 0. -/
def loadDest? (data : Nat) (r v : Bool) (y : Fin 32) : Option LdDest :=
  if r then (if !v && y = 0 then (sspec? data).map .scalar else none) else some (.slot (finOf 64 data))

/-- Major 20 (R67): LDX. -/
def decLdx (w : Nat) : Option Instr :=
  let y := finOf 32 (bits w 14 10)
  if bit1 w 0 then none
  else (loadDest? (bits w 25 20) (bit1 w 1) (bit1 w 7) y).map fun dest =>
    .ldx ⟨dest, finOf 32 (bits w 19 15), y, finOf 4 (bits w 9 8), bit1 w 7, bit1 w 6, hintOf (bits w 7 0)⟩

/-- Major 21 (R67): LDA. -/
def decLda (w : Nat) : Option Instr := do
  let y := finOf 32 (bits w 14 10)
  let c ← scope? (bits w 5 3)
  let dest ← loadDest? (bits w 25 20) (bit1 w 2) (bit1 w 7) y
  if bits w 1 0 = 0 then
    some (.lda ⟨dest, finOf 32 (bits w 19 15), y, finOf 4 (bits w 9 8), bit1 w 7, bit1 w 6, c⟩)
  else none

/-- Major 22 (R67): STX. -/
def decStx (w : Nat) : Option Instr := do
  let d ← sspec? (bits w 25 20)
  if bits w 14 10 = 0 ∧ bit1 w 7 = false ∧ bits w 1 0 = 0 then
    some (.stx ⟨d, finOf 32 (bits w 19 15), finOf 4 (bits w 9 8), bit1 w 6, hintOf (bits w 7 0)⟩)
  else none

/-- Major 23 (R67): STL. -/
def decStl (w : Nat) : Option Instr := do
  let d ← sspec? (bits w 25 20)
  let c ← scope? (bits w 5 3)
  if bits w 14 10 = 0 ∧ bit1 w 7 = false ∧ bits w 2 0 = 0 then
    some (.stl ⟨d, finOf 32 (bits w 19 15), finOf 4 (bits w 9 8), bit1 w 6, c⟩)
  else none

/-- Majors 24 and 25 (R218, R219, R221). -/
def decAmo (vec : Bool) (w : Nat) : Option Instr := do
  let d ← sspec? (bits w 25 20)
  let a ← sspec? (bits w 19 14)
  let b ← sspec? (bits w 13 8)
  let op ← atomOp? (bits w 7 4)
  let g : AmoArgs := ⟨d, a, b, op, bit1 w 3, finOf 8 (bits w 2 0)⟩
  some (if vec then .vamo g else .amo g)

/-- Major 26 (R218, R220, R221). -/
def decRed (w : Nat) : Option Instr := do
  let a ← sspec? (bits w 19 14)
  let b ← sspec? (bits w 13 8)
  let op ← atomOp? (bits w 7 4)
  let g : RedArgs := ⟨a, b, op, bit1 w 3⟩
  if bits w 25 20 = 0 ∧ bits w 1 0 = 0 then some (if bit1 w 2 then .vmred g else .red g) else none

/-- Major 27 (R214). -/
def decOrder (w : Nat) : Option Instr :=
  let d := bits w 25 20
  let a := bits w 19 14
  let b := bits w 13 8
  match bits w 7 4 with
  | 0 =>
    if a = 0 ∧ b = 0 ∧ bits w 1 0 = 0 then (scope? d).map fun c => .fence c (fenceKind (bits w 3 2)) else none
  | 1 => if d = 0 ∧ b = 0 ∧ bits w 3 0 = 0 then some (.conj (finOf 64 a)) else none
  | 2 => if d = 0 ∧ a = 0 ∧ b = 0 ∧ bits w 3 0 = 0 then some .xfence else none
  | 3 => do
    let y ← fin? 32 d
    let sa ← sspec? a
    let sb ← sspec? b
    some (.mwait ⟨y, sa, sb, finOf 16 (bits w 3 0)⟩)
  | _ => none

/-- Major 28 (R287). -/
def decFork (w : Nat) : Option Instr := do
  let e ← engine? (bits w 25 20)
  match bits w 3 0 with
  | 0 => some (.fork e (BitVec.ofNat 16 (bits w 19 4)))
  | 1 => if bits w 19 4 = 0 then some (.join e) else none
  | _ => none

/-- Major 29 (R300, R312, R317). -/
def decSync (w : Nat) : Option Instr :=
  let m := bits w 7 0
  if m = 129 then do
    let d ← sspec? (bits w 25 20)
    let j ← fin? 7 (bits w 19 14)
    if bits w 13 8 = 0 then some (.bar d j) else none
  else do
    let d ← sspec? (bits w 25 20)
    let a ← sspec? (bits w 19 14)
    let b ← sspec? (bits w 13 8)
    if m = 0 then (if bits w 25 20 = 0 then some (.sarm a b) else none)
    else if m = 1 then some (.swait d a b)
    else if m = 128 then some (.launch d a b)
    else if 64 ≤ m ∧ m < 128 then some (.sarmFlag d a b (finOf 64 (m - 64)))
    else none

/-- Major 30 (R331). -/
def decPview (w : Nat) : Option Instr := do
  let d ← sspec? (bits w 25 20)
  let a ← sspec? (bits w 19 14)
  let b ← sspec? (bits w 13 8)
  if bit1 w 0 then none else some (.pview ⟨d, a, b, finOf 32 (bits w 7 3), finOf 4 (bits w 2 1)⟩)

/-- Major 31 (R335). -/
def decBoard (w : Nat) : Option Instr := do
  let d ← sspec? (bits w 25 20)
  let m := bits w 7 0
  if m = 5 then
    let n ← fin? 4 (bits w 19 14)
    let k ← fin? 16 (bits w 13 8)
    some (.binfoVm d n k)
  else
    let a ← sspec? (bits w 19 14)
    if m = 4 then (if bits w 13 8 = 0 then some (.binfo d a) else none)
    else
      let b ← sspec? (bits w 13 8)
      match m with
      | 0 => some (.bread d a b)
      | 1 => some (.breadLvl d a b)
      | 2 => some (.breset d a b)
      | 3 => some (.bresetForce d a b)
      | _ => none

/-- Majors 32 to 38 and 46, layout F (R136). -/
def decFp (major w : Nat) : Option Instr := do
  let t ← fpType? (bits w 5 4)
  let g : FpArgs := ⟨finOf 32 (bits w 25 21), vsrc (bits w 20 15), vsrc (bits w 14 9), finOf 8 (bits w 8 6), t,
    rnd (bits w 3 2), bit1 w 1, bit1 w 0⟩
  match major with
  | 32 => some (.vaddFp g)
  | 33 => some (.vsubFp g)
  | 34 => some (.vmulFp g)
  | 35 => some (.vfma g)
  | 36 => some (.vfms g)
  | 37 => some (.vnfma g)
  | 38 => some (.vmadd g)
  | 46 => some (.vscale g)
  | _ => none

/-- Major 39 (R136, R138). -/
def decFpMin (w : Nat) : Option Instr := do
  let t ← fpType? (bits w 5 4)
  let a := vsrc (bits w 20 15)
  let b := vsrc (bits w 14 9)
  let k := finOf 8 (bits w 8 6)
  let raw := bit1 w 3
  let cmp (c : CondF) : Option Instr := (fin? 8 (bits w 25 21)).map fun kd => .vcmpFp ⟨kd, a, b, k, t, raw, c⟩
  match bits w 2 0 with
  | 0 => some (.vminFp ⟨finOf 32 (bits w 25 21), a, b, k, t, raw⟩)
  | 1 => some (.vmaxFp ⟨finOf 32 (bits w 25 21), a, b, k, t, raw⟩)
  | 2 => cmp .eq
  | 3 => cmp .ne
  | 4 => cmp .lt
  | 5 => cmp .le
  | 6 => cmp .gt
  | _ => cmp .ge

/-- Majors 40 and 41, layout I (R136, R139). -/
def decIntSat (major w : Nat) : Option Instr :=
  let g : IntSatArgs := ⟨finOf 32 (bits w 25 21), vsrc (bits w 20 15), vsrc (bits w 14 9), finOf 8 (bits w 8 6),
    intType (bits w 5 3), bit1 w 2, bit1 w 1⟩
  match major with
  | 40 => some (if bit1 w 0 then .vsubInt g else .vaddInt g)
  | 41 => if bit1 w 0 then none else some (.vmulInt g)
  | _ => none

/-- Major 42 (R136, R140). -/
def decIntCmp (w : Nat) : Option Instr := do
  let kd ← fin? 8 (bits w 25 21)
  let c ← cond? (bits w 3 0)
  some (.vcmpInt ⟨kd, vsrc (bits w 20 15), vsrc (bits w 14 9), finOf 8 (bits w 8 6), laneW (bits w 5 4), c⟩)

/-- Major 43 (R136, R141). -/
def decIntOp (w : Nat) : Option Instr :=
  let g : IntArgs := ⟨finOf 32 (bits w 25 21), vsrc (bits w 20 15), vsrc (bits w 14 9), finOf 8 (bits w 8 6),
    intType (bits w 5 3)⟩
  match bits w 2 0 with
  | 0 => some (.vminInt g)
  | 1 => some (.vmaxInt g)
  | 2 => some (.vshl g)
  | 3 => some (.vshr g)
  | 4 => some (.vsra g)
  | 5 => some (.vand g)
  | 6 => some (.vor g)
  | _ => some (.vxor g)

/-- Major 44 (R136, R142). -/
def decMove (w : Nat) : Option Instr :=
  let g : MoveArgs := ⟨finOf 32 (bits w 25 21), vsrc (bits w 20 15), vsrc (bits w 14 9), finOf 8 (bits w 8 6),
    laneW (bits w 5 4)⟩
  match bits w 3 0 with
  | 0 => some (.vsel g)
  | 1 => some (.vperm g)
  | 2 => some (.vshuf g)
  | 3 => some (.vzip0 g)
  | 4 => some (.vzip1 g)
  | 5 => some (.vuzp0 g)
  | 6 => some (.vuzp1 g)
  | 7 => some (.vslide0 g)
  | 8 => some (.vslide1 g)
  | _ => none

/-- Major 45 (R136, R143). -/
def decDot (w : Nat) : Option Instr :=
  let g : DotArgs := ⟨finOf 32 (bits w 25 21), vsrc (bits w 20 15), vsrc (bits w 14 9), finOf 8 (bits w 8 6),
    bit1 w 2, bit1 w 1⟩
  if bit1 w 0 then none
  else
    match bits w 5 3 with
    | 0 => some (.vdot4I8 g)
    | 1 => some (.vdot4N8 g)
    | 2 => if g.sat then none else some (.vtacc g)
    | _ => none

/-- Group 0 of major 47 (R146). -/
def decMoves (w : Nat) : Option Instr :=
  let vd := finOf 32 (bits w 25 21)
  let va := bits w 20 15
  let k := finOf 8 (bits w 8 6)
  let hi := bit1 w 5
  match bits w 14 13 with
  | 0 => (vsrc47? va hi).map fun a => .vmov ⟨vd, a, k, finOf 16 (bits w 12 9)⟩
  | 1 =>
    if bits w 12 9 = 0 ∧ k = 0 ∧ (vd = 8 ∨ vd = 9) then (vsrc47? va hi).map fun a => .vmovQ (vd = 9) a else none
  | 2 =>
    if bits w 12 11 = 0 ∧ va = 0 ∧ hi = false then some (.vidx vd (laneW (bits w 10 9)) k) else none
  | _ =>
    if bits w 12 11 = 0 ∧ k = 0 ∧ hi = false then (sspec? va).map fun a => .vsetvl vd a (laneW (bits w 10 9)) else none

/-- Group 1 of major 47 (R147). -/
def decNeg (w : Nat) : Option Instr := do
  let a ← vsrc47? (bits w 20 15) (bit1 w 5)
  let vd := finOf 32 (bits w 25 21)
  let k := finOf 8 (bits w 8 6)
  let ty ← if bit1 w 12 then some (UnTy.int (laneW (bits w 11 10)) (bit1 w 9))
           else (fpType? (bits w 11 10)).map fun t => UnTy.fp t (bit1 w 9)
  match bits w 14 13 with
  | 0 => some (.vneg ⟨vd, a, k, ty⟩)
  | 1 => some (.vabs ⟨vd, a, k, ty⟩)
  | 2 => if bit1 w 12 ∧ bit1 w 9 = false then some (.vnot vd a (laneW (bits w 11 10)) k) else none
  | _ => none

/-- Groups 2 to 7 of major 47 (R148). -/
def decFpUn (w : Nat) : Option Instr := do
  let a ← vsrc47? (bits w 20 15) (bit1 w 5)
  let t ← fpType? (bits w 14 13)
  let g : FpUnArgs := ⟨finOf 32 (bits w 25 21), a, finOf 8 (bits w 8 6), t, rnd (bits w 12 11), bit1 w 10, bit1 w 9⟩
  match bits w 4 0 with
  | 2 => some (.vrnd g)
  | 3 => some (.vrcp g)
  | 4 => some (.vrsq g)
  | 5 => some (.vexp2 g)
  | 6 => some (.vlog2 g)
  | 7 => some (.vclass g)
  | _ => none

/-- Groups 8 to 10 of major 47 (R149). -/
def decReduce (w : Nat) : Option Instr := do
  let a ← vsrc47? (bits w 20 15) (bit1 w 5)
  let ty ← if bit1 w 14 then some (RedTy.int (laneW (bits w 13 12)) (bit1 w 11) (bit1 w 10) (bit1 w 9))
           else (fpType? (bits w 13 12)).map fun t => RedTy.fp t (rnd (bits w 11 10)) (bit1 w 9)
  let g : VredArgs := ⟨finOf 32 (bits w 25 21), a, finOf 8 (bits w 8 6), ty⟩
  match bits w 4 0 with
  | 8 => some (.vredadd g)
  | 9 => some (.vredmax g)
  | 10 => some (.vredmin g)
  | _ => none

/-- Groups 11 to 14 of major 47 (R150, R151). -/
def decLane (w : Nat) : Option Instr :=
  let vd := finOf 32 (bits w 25 21)
  let va := bits w 20 15
  let k := finOf 8 (bits w 8 6)
  let hi := bit1 w 5
  match bits w 4 0 with
  | 11 => (vsrc47? va hi).map fun a => .vbcast vd a (laneW (bits w 14 13)) (finOf 16 (bits w 12 9)) k
  | 12 =>
    if bits w 14 13 = 0 ∧ hi = false then
      (sspec? va).map fun a => .vbcastScalar vd a (finOf 16 (bits w 12 9)) k
    else none
  | 13 =>
    if k = 0 then
      (vsrc47? va hi).map fun a => .vextr ⟨vd, a, bit1 w 14, laneW (bits w 13 12), finOf 8 (bits w 11 9)⟩
    else none
  | 14 => if bits w 14 10 = 0 then (vsrc47? va hi).map fun a => .vtunpk vd a (bit1 w 9) k else none
  | _ => none

/-- Groups 16 to 31 of major 47 (R152). -/
def decVcvt (w : Nat) : Option Instr := do
  let a ← vsrc47? (bits w 20 15) (bit1 w 5)
  some (.vcvt ⟨finOf 32 (bits w 25 21), a, finOf 8 (bits w 8 6), cvtFmt (bits w 14 11), cvtFmt (bits w 3 0),
    finOf 4 (bits w 10 9)⟩)

/-- Major 47 (R145). -/
def decUnary (w : Nat) : Option Instr :=
  let g := bits w 4 0
  if g = 0 then decMoves w
  else if g = 1 then decNeg w
  else if g ≤ 7 then decFpUn w
  else if g ≤ 10 then decReduce w
  else if g ≤ 14 then decLane w
  else if g = 15 then none
  else decVcvt w

/-- Majors 48 and 49 (R184). -/
def decSysreg (write : Bool) (w : Nat) : Option Instr := do
  let d ← sspec? (bits w 25 20)
  let i := BitVec.ofNat 16 (bits w 19 4)
  if bits w 3 0 = 0 then some (if write then .srw d i else .srr d i) else none

/-- Major 50 (R192). -/
def decComma (w : Nat) : Option Instr :=
  if bits w 25 20 = 0 ∧ bits w 3 0 = 0 then some (.comma (BitVec.ofNat 10 (bits w 19 10)) (BitVec.ofNat 6 (bits w 9 4)))
  else none

/-- Major 51 (R191). -/
def decTrap (w : Nat) : Option Instr :=
  if bits w 25 20 = 0 then
    match bits w 3 0 with
    | 0 => some (.trap (BitVec.ofNat 16 (bits w 19 4)))
    | 1 => if bits w 19 4 = 0 then some .eret else none
    | _ => none
  else none

/-- Major 52 (R185). -/
def decQcnt (w : Nat) : Option Instr := do
  let d ← sspec? (bits w 25 20)
  let n ← fin? 16 (bits w 19 14)
  if bits w 13 8 = 0 then
    match bits w 7 0 with
    | 0 => some (.qcnt d n)
    | 1 => some (.qcntFree d n)
    | _ => none
  else none

/-- Major 53 (R325). -/
def decSym (w : Nat) : Option Instr := do
  let y ← fin? 32 (bits w 19 14)
  match bits w 2 0 with
  | 0 => do
    let d ← sspec? (bits w 25 20)
    let k ← fin? 8 (bits w 13 3)
    some (.symrd d y k)
  | 1 => do
    let d ← sspec? (bits w 25 20)
    if bits w 13 3 = 0 then some (.symsetB d y) else none
  | 2 => do
    let d ← sspec? (bits w 25 20)
    if bits w 13 3 = 0 then some (.symsetPol d y) else none
  | 3 => if bits w 25 20 = 0 ∧ bits w 13 3 = 0 then some (.symsetClr y) else none
  | _ => none

/-- Major 54 (R349). -/
def decXlat (w : Nat) : Option Instr :=
  let a := bits w 19 14
  let b := bits w 13 8
  if bits w 25 20 = 0 then
    match bits w 7 0 with
    | 0x00 => do some (.tlbiPage (← sspec? a) (← sspec? b))
    | 0x01 => if a = 0 then (sspec? b).map .tlbiAsid else none
    | 0x02 => if a = 0 ∧ b = 0 then some .tlbiAll else none
    | 0x03 => if b = 0 then (sspec? a).map .tlbiVa else none
    | 0x10 => if a = 0 ∧ b = 0 then some .tlbfence else none
    | 0x20 => do some (.keyld (← sspec? a) (← sspec? b))
    | 0x21 => if a = 0 then (sspec? b).map .keyldClr else none
    | _ => none
  else none

/-- Major 55 (R360). -/
def decCat (w : Nat) : Option Instr :=
  let m := bits w 3 0
  if m < 8 then (sspec? (bits w 25 20)).map fun d => .capq d (BitVec.ofNat 16 (bits w 19 4)) (finOf 8 m)
  else if m = 8 then (if bits w 25 20 = 0 ∧ bits w 19 4 = 0 then some .codesync else none)
  else none

/-- The fields of a stream word by its major (R71), before the conditions of `wellFormed`. -/
def decFields (w : Nat) : Option Instr :=
  match bits w 31 26 with
  | 0 => decInt w
  | 1 => decDiv w
  | 2 => decBits w
  | 3 => decImm w
  | 4 => decLimm w
  | 5 => decScale w
  | 8 => decCmp w
  | 9 => decCmpi w
  | 10 => decPred w
  | 12 => decBranch w
  | 13 => decPbri w
  | 14 => decLoopReg w
  | 15 => decLoopImm w
  | 16 => decPlainMem 16 w
  | 17 => decPlainMem 17 w
  | 18 => decPlainMem 18 w
  | 19 => decPlainMem 19 w
  | 20 => decLdx w
  | 21 => decLda w
  | 22 => decStx w
  | 23 => decStl w
  | 24 => decAmo false w
  | 25 => decAmo true w
  | 26 => decRed w
  | 27 => decOrder w
  | 28 => decFork w
  | 29 => decSync w
  | 30 => decPview w
  | 31 => decBoard w
  | 39 => decFpMin w
  | 40 => decIntSat 40 w
  | 41 => decIntSat 41 w
  | 42 => decIntCmp w
  | 43 => decIntOp w
  | 44 => decMove w
  | 45 => decDot w
  | 47 => decUnary w
  | 48 => decSysreg false w
  | 49 => decSysreg true w
  | 50 => decComma w
  | 51 => decTrap w
  | 52 => decQcnt w
  | 53 => decSym w
  | 54 => decXlat w
  | 55 => decCat w
  | m => decFp m w

/-- Decoding of a stream word: check 4 of R73. `none` is a word that is no instruction. -/
def decodeWord (w : Nat) : Option Instr := (decFields w).filter Instr.wf

/-- A reserved major (R72). -/
def majorReserved (m : Nat) : Bool := m = 6 || m = 7 || m = 11 || 56 ≤ m

/-! ## Stream classes (R69, R70) -/

/-- The stream classes: K, L, C, S of an ordinary core, Y of the system core. -/
inductive SClass where
  | K | L | C | S | Y
  deriving DecidableEq, Repr

/-- The streams a major accepts (R70). Y accepts every major that K accepts, and major 54. -/
def majorAccepts (m : Nat) (c : SClass) : Bool :=
  let klcs : Bool := true
  let k : Bool := c = .K || c = .Y
  let kls : Bool := c ≠ .C
  match m with
  | 0 | 2 | 3 | 4 | 5 | 8 | 9 | 10 | 12 | 13 | 14 | 15 => klcs
  | 1 => kls
  | 16 | 17 | 19 => c = .L
  | 18 | 22 | 23 => k || c = .S
  | 20 | 21 => k || c = .L
  | 24 => kls
  | 25 => c = .S
  | 26 => k || c = .S
  | 27 => kls
  | 28 | 29 | 30 | 31 => k
  | 48 | 49 | 50 | 51 | 52 => klcs
  | 53 => k
  | 54 => c = .Y
  | 55 => kls
  | _ => c = .C && 32 ≤ m && m ≤ 47

/-- The narrowings of check 5 of R73: streams that the minor, variant or field of an instruction accepts. DESIGN CHOICE (log 5): CAPQ is
refused to Y, as R360 lists K, L and S for it, though R69 has Y accept what K accepts. -/
def narrowAccepts (i : Instr) (c : SClass) : Bool :=
  match i with
  | .gap _ _ => c = .C
  | .ldx g => match g.dest with | .slot _ => c = .L | .scalar _ => true
  | .lda g => match g.dest with | .slot _ => c = .L | .scalar _ => true
  | .vmred _ => c = .S
  | .conj _ => c = .L || c = .S
  | .xfence => c = .K || c = .Y
  | .mwait _ => c = .K || c = .Y
  | .fork _ _ | .join _ => c = .K
  | .sarmFlag _ _ _ _ => c = .K
  | .bar _ _ => c = .K
  | .symrd _ _ _ | .symsetB _ _ | .symsetPol _ _ | .symsetClr _ => c = .K
  | .eret => c = .K || c = .Y
  | .capq _ _ _ => c = .K || c = .L || c = .S
  | .codesync => c = .K || c = .Y
  | _ => true

/-! ## Engine words (R75 to R77) -/

/-- A scope code 0-5, or 6 for none (R280). -/
def scopeOrNone? (c : Nat) : Option (Option Scope) := if c = 6 then some none else (scope? c).map some

/-- SIGF's operand (R280). -/
def decSigf (o : Nat) : Option Instr :=
  let note := bit1 o 9
  let c := bits o 8 6
  if c = 7 then
    if bits o 5 3 = 0 then (scopeOrNone? (bits o 2 0)).map fun r => .sigf note (.none r) else none
  else (scopeOrNone? c).map fun r => .sigf note (.flag (finOf 64 (bits o 5 0)) r)

/-- The common words, opcodes 1-15 (R159, R160, R280); LITX takes the next word of the program (R76). -/
def decCommon (op o next : Nat) : Option Instr :=
  let z (i : Instr) : Option Instr := if o = 0 then some i else none
  match op with
  | 1 => z (.litx (BitVec.ofNat 16 next))
  | 2 => z .dup
  | 3 => z .drop
  | 4 => z .swap
  | 5 => z .over
  | 6 => z .addw
  | 7 => z .subw
  | 8 => z .mulw
  | 9 => if bits o 9 6 = 0 then some (.shlw (finOf 64 (bits o 5 0))) else none
  | 10 => z .qpop
  | 11 => some (.loopw (BitVec.ofNat 10 o))
  | 12 => z .endw
  | 13 => z .stopw
  | 14 =>
    if bit1 o 9 then none
    else (scopeOrNone? (bits o 8 6)).map fun a => .waitf a (finOf 64 (bits o 5 0))
  | 15 => decSigf o
  | _ => none

/-- MDRAIN output codes (R173). -/
def drainTy? : Nat → Option DrainTy
  | 1 => some .fp32
  | 2 => some .fp16
  | 3 => some .bf16
  | 4 => some .e4m3
  | 5 => some .e5m2
  | 10 => some .i8
  | 12 => some .i32
  | _ => none

/-- The matrix words, opcodes 16-23 (R165 to R173). -/
def decMatrix (op o : Nat) : Option Instr :=
  match op with
  | 16 => if bits o 4 0 = 0 then some (.mldt (finOf 8 (bits o 9 7)) (bit1 o 6) (bit1 o 5)) else none
  | 17 => if bits o 4 0 = 0 then some (.mstt (finOf 8 (bits o 9 7)) (bit1 o 6) (bit1 o 5)) else none
  | 18 => if bits o 6 0 = 0 then some (.mma (finOf 4 (bits o 9 8)) (bit1 o 7)) else none
  | 19 => if bits o 4 0 = 0 then some (.mhad (finOf 8 (bits o 9 7)) (finOf 4 (bits o 6 5))) else none
  | 20 => if bits o 6 0 = 0 then some (.mzero (finOf 4 (bits o 9 8)) (bit1 o 7)) else none
  | 21 => (drainTy? (bits o 7 4)).map fun t => .mdrain ⟨finOf 4 (bits o 9 8), t, bit1 o 3, bit1 o 2, bit1 o 1, bit1 o 0⟩
  | 22 => if bits o 7 0 = 0 then some (.msrec (bit1 o 9) (bit1 o 8)) else none
  | 23 => some (.mgeom (finOf 16 (bits o 9 6)) (finOf 16 (bits o 5 2)) (bit1 o 1) (bit1 o 0))
  | _ => none

/-- The copy words, opcodes 16-22 (R290, R291). -/
def decCopy (op o : Nat) : Option Instr := do
  let d ← fin? 3 (bits o 9 8)
  let g : CopyArgs := ⟨d, bit1 o 7, hintOf o, finOf 4 (bits o 1 0)⟩
  if bit1 o 6 || (!bit1 o 5 && bits o 4 2 ≠ 0) then none
  else
    match op with
    | 16 => some (.copy g)
    | 17 => some (.cgath g)
    | 18 => some (.cscat g)
    | 19 => some (.cfill g)
    | 20 => some (.cbcast g)
    | 21 => some (.cremote g)
    | 22 => some (.cacc g)
    | _ => none

/-- The query words, opcodes 16-19 (R237). -/
def decQuery (op o : Nat) : Option Instr :=
  match op with
  | 16 => if bits o 6 0 = 0 then (fin? 3 (bits o 8 7)).map fun h => .afolio (bit1 o 9) h else none
  | 17 => if o = 0 then some .aappend else none
  | 18 =>
    if bits o 6 5 = 0 then (fin? 3 (bits o 8 7)).map fun h => .aquery (bit1 o 9) h (finOf 32 (bits o 4 0)) else none
  | 19 => if o = 0 then some .astat else none
  | _ => none

/-- Decoding of an engine word by the executing engine; `next` is the following word of the program (R75 to R77). -/
def decodeEngine (e : EngineId) (w next : Nat) : Option Instr :=
  if bit1 w 15 then some (.lit (BitVec.ofNat 15 (bits w 14 0)))
  else
    let op := bits w 14 10
    let o := bits w 9 0
    (if op < 16 then decCommon op o next
     else match e with
      | .matrix => decMatrix op o
      | .copy => decCopy op o
      | .query => decQuery op o).filter Instr.wf

/-! ## Bytes and the table's numbering -/

/-- The little-endian number of a list of bytes (R64, R75). -/
def leNat : List Byte → Nat
  | [] => 0
  | b :: r => b.toNat + 256 * leNat r

/-- The low `n` bytes of a number, lowest first. -/
def leBytes : Nat → Nat → List Byte
  | 0, _ => []
  | n + 1, v => BitVec.ofNat 8 v :: leBytes n (v / 256)

/-- A stream instruction from the four bytes at its address (R64). -/
def decodeStreamBytes (bs : List Byte) : Option Instr := decodeWord (leNat (bs.take 4))

/-- An engine instruction from the bytes at its address: two words, the second read only by LITX (R75, R76). -/
def decodeEngineBytes (e : EngineId) (bs : List Byte) : Option Instr :=
  decodeEngine e (leNat (bs.take 2)) (leNat ((bs.drop 2).take 2))

/-- The engine that a table word of 16 bits is read for: opcodes 16-23 mean another word on each engine (R77), and the
table's number does not name the engine. The first engine, in the order matrix, copy, query, for which the word is
defined (log 10). -/
def tableEngine (w : Nat) : EngineId :=
  let bs := leBytes 4 w
  if (decodeEngineBytes .matrix bs).isSome then .matrix
  else if (decodeEngineBytes .copy bs).isSome then .copy
  else .query

/-- The instruction the decoder reads from an instruction whose bits the opcode table numbers as `w`. -/
def decodeTableWord (nbits w : Nat) : Option Instr :=
  if nbits = 32 then decodeStreamBytes (leBytes 4 w)
  else if nbits = 16 then decodeEngineBytes (tableEngine w) (leBytes 4 w)
  else none

/-! ## The encoder -/

/-- A scalar specifier's code (R65). -/
def SSpec.code : SSpec → Nat
  | .x n => n.val
  | .q n => 32 + n.val

/-- A vector source's code (R68). -/
def VSrc.code : VSrc → Nat
  | .v n => n.val
  | .ln n => 32 + n.val % 32

/-- Variant bit [5] of major 47 for a source (R68). -/
def VSrc.hi : VSrc → Nat
  | .v _ => 0
  | .ln n => n.val / 32

/-- A flag bit as a number. -/
def b2n (b : Bool) : Nat := if b then 1 else 0

def Scope.code : Scope → Nat
  | .seat => 0
  | .core => 1
  | .cluster => 2
  | .die => 3
  | .device => 4
  | .domain => 5

def Cond.code : Cond → Nat
  | .eq => 0
  | .ne => 1
  | .lt => 2
  | .le => 3
  | .gt => 4
  | .ge => 5
  | .ltn => 6
  | .len => 7
  | .gtn => 8
  | .gen => 9

def CondI.code : CondI → Nat
  | .eq => 0
  | .ne => 1
  | .lt => 2
  | .le => 3
  | .gt => 4
  | .ge => 5
  | .ltn => 6
  | .gen => 7

def CondF.code : CondF → Nat
  | .eq => 2
  | .ne => 3
  | .lt => 4
  | .le => 5
  | .gt => 6
  | .ge => 7

def FpType.code : FpType → Nat
  | .fp32 => 0
  | .fp16 => 1
  | .bf16 => 2

def Rnd.code : Rnd → Nat
  | .rn => 0
  | .rz => 1
  | .rd => 2
  | .ru => 3

def IntType.code : IntType → Nat
  | .i8 => 0
  | .i16 => 1
  | .i32 => 2
  | .i64 => 3
  | .n8 => 4
  | .n16 => 5
  | .n32 => 6
  | .n64 => 7

def LaneW.code : LaneW → Nat
  | .w8 => 0
  | .w16 => 1
  | .w32 => 2
  | .w64 => 3

def CvtFmt.code : CvtFmt → Nat
  | .fp32 => 0
  | .fp16 => 1
  | .bf16 => 2
  | .e4m3 => 3
  | .e5m2 => 4
  | .e2m3 => 5
  | .e3m2 => 6
  | .e2m1 => 7
  | .i4 => 8
  | .i8 => 9
  | .n8 => 10
  | .i16 => 11
  | .n16 => 12
  | .i32 => 13
  | .n32 => 14
  | .i64 => 15

def AtomOp.code : AtomOp → Nat
  | .add => 0
  | .and => 1
  | .or => 2
  | .xor => 3
  | .min => 4
  | .max => 5
  | .minn => 6
  | .maxn => 7
  | .swap => 8
  | .cas => 9
  | .fadd => 10

def FenceKind.code : FenceKind → Nat
  | .acq => 0
  | .rel => 1
  | .ar => 2
  | .sc => 3

def EngineId.code : EngineId → Nat
  | .matrix => 0
  | .copy => 1
  | .query => 2

def DrainTy.code : DrainTy → Nat
  | .fp32 => 1
  | .fp16 => 2
  | .bf16 => 3
  | .e4m3 => 4
  | .e5m2 => 5
  | .i8 => 10
  | .i32 => 12

/-- Form A (R66). -/
def encA (major d a b minor : Nat) : Nat := major * 2 ^ 26 + d * 2 ^ 20 + a * 2 ^ 14 + b * 2 ^ 8 + minor
/-- Form B (R66). -/
def encB (major d a imm minor : Nat) : Nat := major * 2 ^ 26 + d * 2 ^ 20 + a * 2 ^ 14 + imm * 2 ^ 3 + minor
/-- Form C (R66). -/
def encC (major d imm minor : Nat) : Nat := major * 2 ^ 26 + d * 2 ^ 20 + imm * 2 ^ 4 + minor
/-- Form D (R66). -/
def encD (major data base sym size off : Nat) : Nat :=
  major * 2 ^ 26 + data * 2 ^ 20 + base * 2 ^ 15 + sym * 2 ^ 10 + size * 2 ^ 8 + off
/-- Form E (R66). -/
def encE (major vd va vb mask variant : Nat) : Nat :=
  major * 2 ^ 26 + vd * 2 ^ 21 + va * 2 ^ 15 + vb * 2 ^ 9 + mask * 2 ^ 6 + variant
/-- Form F (R66). -/
def encF (t p imm minor : Nat) : Nat := 12 * 2 ^ 26 + t * 2 ^ 23 + p * 2 ^ 19 + imm * 2 ^ 3 + minor

def LdDest.code : LdDest → Nat
  | .slot n => n.val
  | .scalar d => d.code

def LdDest.r : LdDest → Nat
  | .slot _ => 0
  | .scalar _ => 1

/-- H and HINT of an attribute byte (R67). -/
def encHint : Option (Fin 8) → Nat
  | none => 0
  | some n => 32 + n.val * 4

def encFp (major : Nat) (g : FpArgs) : Nat :=
  encE major g.d.val g.a.code g.b.code g.k.val (g.t.code * 16 + g.r.code * 4 + b2n g.ftz * 2 + b2n g.raw)

def encIntSat (major op : Nat) (g : IntSatArgs) : Nat :=
  encE major g.d.val g.a.code g.b.code g.k.val (g.t.code * 8 + b2n g.sat * 4 + b2n g.raw * 2 + op)

def encInt43 (op : Nat) (g : IntArgs) : Nat := encE 43 g.d.val g.a.code g.b.code g.k.val (g.t.code * 8 + op)

def encMove (op : Nat) (g : MoveArgs) : Nat := encE 44 g.d.val g.a.code g.b.code g.k.val (g.w.code * 16 + op)

def encDot (op : Nat) (g : DotArgs) : Nat :=
  encE 45 g.d.val g.a.code g.b.code g.k.val (op * 8 + b2n g.sat * 4 + b2n g.raw * 2)

def encUn (op : Nat) (g : UnArgs) : Nat :=
  encE 47 g.d.val g.a.code
    (op * 16 + match g.ty with
      | .fp t raw => t.code * 2 + b2n raw
      | .int w sat => 8 + w.code * 2 + b2n sat)
    g.k.val (g.a.hi * 32 + 1)

def encFpUn (group : Nat) (g : FpUnArgs) : Nat :=
  encE 47 g.d.val g.a.code (g.t.code * 16 + g.r.code * 4 + b2n g.ftz * 2 + b2n g.raw) g.k.val (g.a.hi * 32 + group)

def encRed (group : Nat) (g : VredArgs) : Nat :=
  encE 47 g.d.val g.a.code
    (match g.ty with
      | .fp t r raw => t.code * 8 + r.code * 2 + b2n raw
      | .int w u sat raw => 32 + w.code * 8 + b2n u * 4 + b2n sat * 2 + b2n raw)
    g.k.val (g.a.hi * 32 + group)

def encOptScope : Option Scope → Nat
  | none => 6
  | some s => s.code

/-- A copy word's operand (R290). -/
def encCopy (op : Nat) (g : CopyArgs) : Nat :=
  op * 1024 + g.dims.val * 256 + b2n g.sync * 128 + encHint g.hint + g.sub.val

/-- The word of an encoded instruction: 32 bits for a stream instruction, 16 for an engine word (of LITX, its first).
Events have no encoding; their value here is 0 and `Instr.encoded` is false. -/
def encode : Instr → Nat
  | .add d a b => encA 0 d.code a.code b.code 0
  | .sub d a b => encA 0 d.code a.code b.code 1
  | .mul d a b => encA 0 d.code a.code b.code 2
  | .mulh d a b => encA 0 d.code a.code b.code 3
  | .and d a b => encA 0 d.code a.code b.code 4
  | .or d a b => encA 0 d.code a.code b.code 5
  | .xor d a b => encA 0 d.code a.code b.code 6
  | .andn d a b => encA 0 d.code a.code b.code 7
  | .shl d a b => encA 0 d.code a.code b.code 8
  | .shr d a b => encA 0 d.code a.code b.code 9
  | .sra d a b => encA 0 d.code a.code b.code 10
  | .rotr d a b => encA 0 d.code a.code b.code 11
  | .min d a b => encA 0 d.code a.code b.code 12
  | .max d a b => encA 0 d.code a.code b.code 13
  | .div d a b => encA 1 d.code a.code b.code 0
  | .rem d a b => encA 1 d.code a.code b.code 1
  | .clz d a => encA 2 d.code a.code 0 0
  | .popc d a => encA 2 d.code a.code 0 1
  | .ext d a pos len => encA 2 d.code a.code pos.val (64 + len.val)
  | .ins d a pos len => encA 2 d.code a.code pos.val (128 + len.val)
  | .addi d a i => encB 3 d.code a.code i.toNat 0
  | .andi d a i => encB 3 d.code a.code i.toNat 1
  | .ori d a i => encB 3 d.code a.code i.toNat 2
  | .xori d a i => encB 3 d.code a.code i.toNat 3
  | .limm d v h => encC 4 d.code v.toNat h.val
  | .scale d a m sh => encB 5 d.code a.code m.toNat sh.val
  | .cmp p a b c => encA 8 p.val a.code b.code c.code
  | .sel d a b n => encA 8 d.code a.code b.code (n.val * 16 + 10)
  | .cmpi p a i c => encB 9 p.val a.code i.toNat c.code
  | .pand d a b => encA 10 d.val a.val b.val 0
  | .por d a b => encA 10 d.val a.val b.val 1
  | .pxor d a b => encA 10 d.val a.val b.val 2
  | .pnot d a => encA 10 d.val a.val 0 3
  | .nop => encF 0 0 0 0
  | .pbr t i => encF t.val 0 i.toNat 1
  | .br t p => encF t.val p.val 0 2
  | .call t p => encF t.val p.val 0 3
  | .ret p => encF 0 p.val 0 4
  | .halt => encF 0 0 0 5
  | .pbri t a i => encB 13 t.val a.code i.toNat 0
  | .loopReg s a b => encB 14 s.val a.code b.toNat 0
  | .loopImm b c s => encC 15 b.toNat c.toNat s.val
  | .repReg a => encB 14 0 a.code 0 1
  | .repImm n => encC 15 0 n.toNat 8
  | .gap y k => encC 15 y.val k.toNat 9
  | .ld d b y s o => encD 16 d.val b.val y.val s.val o.toNat
  | .ldV d b y s o => encD 17 d.val b.val y.val s.val o.toNat
  | .st d b s o => encD 18 d.code b.val 0 s.val o.toNat
  | .pref b y s o => encD 19 0 b.val y.val s.val o.toNat
  | .ldx g => encD 20 g.dest.code g.base.val g.sym.val g.size.val
      (b2n g.vec * 128 + b2n g.skew * 64 + encHint g.hint + g.dest.r * 2)
  | .lda g => encD 21 g.dest.code g.base.val g.sym.val g.size.val
      (b2n g.vec * 128 + b2n g.skew * 64 + g.scope.code * 8 + g.dest.r * 4)
  | .stx g => encD 22 g.data.code g.base.val 0 g.size.val (b2n g.skew * 64 + encHint g.hint)
  | .stl g => encD 23 g.data.code g.base.val 0 g.size.val (b2n g.skew * 64 + g.scope.code * 8)
  | .amo g => encA 24 g.d.code g.a.code g.b.code (g.op.code * 16 + b2n g.dbl * 8 + g.pe.val)
  | .vamo g => encA 25 g.d.code g.a.code g.b.code (g.op.code * 16 + b2n g.dbl * 8 + g.pe.val)
  | .red g => encA 26 0 g.a.code g.b.code (g.op.code * 16 + b2n g.dbl * 8)
  | .vmred g => encA 26 0 g.a.code g.b.code (g.op.code * 16 + b2n g.dbl * 8 + 4)
  | .fence c k => encA 27 c.code 0 0 (k.code * 4)
  | .conj t => encA 27 0 t.val 0 16
  | .xfence => encA 27 0 0 0 32
  | .mwait g => encA 27 g.sym.val g.a.code g.b.code (48 + g.p.val)
  | .fork e i => encC 28 e.code i.toNat 0
  | .join e => encC 28 e.code 0 1
  | .sarm a b => encA 29 0 a.code b.code 0
  | .sarmFlag d a b f => encA 29 d.code a.code b.code (64 + f.val)
  | .swait d a b => encA 29 d.code a.code b.code 1
  | .launch d a b => encA 29 d.code a.code b.code 128
  | .bar d j => encA 29 d.code j.val 0 129
  | .pview g => encA 30 g.d.code g.a.code g.b.code (g.k.val * 8 + g.n.val * 2)
  | .bread d a b => encA 31 d.code a.code b.code 0
  | .breadLvl d a b => encA 31 d.code a.code b.code 1
  | .breset d a b => encA 31 d.code a.code b.code 2
  | .bresetForce d a b => encA 31 d.code a.code b.code 3
  | .binfo d a => encA 31 d.code a.code 0 4
  | .binfoVm d n w => encA 31 d.code n.val w.val 5
  | .vaddFp g => encFp 32 g
  | .vsubFp g => encFp 33 g
  | .vmulFp g => encFp 34 g
  | .vfma g => encFp 35 g
  | .vfms g => encFp 36 g
  | .vnfma g => encFp 37 g
  | .vmadd g => encFp 38 g
  | .vminFp g => encE 39 g.d.val g.a.code g.b.code g.k.val (g.t.code * 16 + b2n g.raw * 8)
  | .vmaxFp g => encE 39 g.d.val g.a.code g.b.code g.k.val (g.t.code * 16 + b2n g.raw * 8 + 1)
  | .vcmpFp g => encE 39 g.kd.val g.a.code g.b.code g.k.val (g.t.code * 16 + b2n g.raw * 8 + g.c.code)
  | .vaddInt g => encIntSat 40 0 g
  | .vsubInt g => encIntSat 40 1 g
  | .vmulInt g => encIntSat 41 0 g
  | .vcmpInt g => encE 42 g.kd.val g.a.code g.b.code g.k.val (g.w.code * 16 + g.c.code)
  | .vminInt g => encInt43 0 g
  | .vmaxInt g => encInt43 1 g
  | .vshl g => encInt43 2 g
  | .vshr g => encInt43 3 g
  | .vsra g => encInt43 4 g
  | .vand g => encInt43 5 g
  | .vor g => encInt43 6 g
  | .vxor g => encInt43 7 g
  | .vsel g => encMove 0 g
  | .vperm g => encMove 1 g
  | .vshuf g => encMove 2 g
  | .vzip0 g => encMove 3 g
  | .vzip1 g => encMove 4 g
  | .vuzp0 g => encMove 5 g
  | .vuzp1 g => encMove 6 g
  | .vslide0 g => encMove 7 g
  | .vslide1 g => encMove 8 g
  | .vdot4I8 g => encDot 0 g
  | .vdot4N8 g => encDot 1 g
  | .vtacc g => encDot 2 g
  | .vscale g => encFp 46 g
  | .vmov g => encE 47 g.d.val g.a.code g.tag.val g.k.val (g.a.hi * 32)
  | .vmovQ q9 a => encE 47 (8 + b2n q9) a.code 16 0 (a.hi * 32)
  | .vidx d w k => encE 47 d.val 0 (32 + w.code) k.val 0
  | .vsetvl d a w => encE 47 d.val a.code (48 + w.code) 0 0
  | .vneg g => encUn 0 g
  | .vabs g => encUn 1 g
  | .vnot d a w k => encE 47 d.val a.code (40 + w.code * 2) k.val (a.hi * 32 + 1)
  | .vrnd g => encFpUn 2 g
  | .vrcp g => encFpUn 3 g
  | .vrsq g => encFpUn 4 g
  | .vexp2 g => encFpUn 5 g
  | .vlog2 g => encFpUn 6 g
  | .vclass g => encFpUn 7 g
  | .vredadd g => encRed 8 g
  | .vredmax g => encRed 9 g
  | .vredmin g => encRed 10 g
  | .vbcast d a w j k => encE 47 d.val a.code (w.code * 16 + j.val) k.val (a.hi * 32 + 11)
  | .vbcastScalar d a tag k => encE 47 d.val a.code tag.val k.val 12
  | .vextr g => encE 47 g.d.val g.a.code (b2n g.sgn * 32 + g.w.code * 8 + g.j.val) 0 (g.a.hi * 32 + 13)
  | .vtunpk d a raw k => encE 47 d.val a.code (b2n raw) k.val (a.hi * 32 + 14)
  | .vcvt g => encE 47 g.d.val g.a.code (g.src.code * 4 + g.mode.val) g.k.val (g.a.hi * 32 + 16 + g.dst.code)
  | .srr d i => encC 48 d.code i.toNat 0
  | .srw s i => encC 49 s.code i.toNat 0
  | .comma n m => encC 50 0 (n.toNat * 64 + m.toNat) 0
  | .trap i => encC 51 0 i.toNat 0
  | .eret => encC 51 0 0 1
  | .qcnt d n => encA 52 d.code n.val 0 0
  | .qcntFree d n => encA 52 d.code n.val 0 1
  | .symrd d y w => encB 53 d.code y.val w.val 0
  | .symsetB s y => encB 53 s.code y.val 0 1
  | .symsetPol s y => encB 53 s.code y.val 0 2
  | .symsetClr y => encB 53 0 y.val 0 3
  | .tlbiPage a b => encA 54 0 a.code b.code 0x00
  | .tlbiAsid b => encA 54 0 0 b.code 0x01
  | .tlbiAll => encA 54 0 0 0 0x02
  | .tlbiVa a => encA 54 0 a.code 0 0x03
  | .tlbfence => encA 54 0 0 0 0x10
  | .keyld a b => encA 54 0 a.code b.code 0x20
  | .keyldClr b => encA 54 0 0 b.code 0x21
  | .capq d i p => encC 55 d.code i.toNat p.val
  | .codesync => encC 55 0 0 8
  | .lit v => 0x8000 + v.toNat
  | .litx _ => 0x0400
  | .dup => 0x0800
  | .drop => 0x0C00
  | .swap => 0x1000
  | .over => 0x1400
  | .addw => 0x1800
  | .subw => 0x1C00
  | .mulw => 0x2000
  | .shlw n => 0x2400 + n.val
  | .qpop => 0x2800
  | .loopw d => 0x2C00 + d.toNat
  | .endw => 0x3000
  | .stopw => 0x3400
  | .waitf a n => 0x3800 + encOptScope a * 64 + n.val
  | .sigf note t => 0x3C00 + b2n note * 512 + match t with
      | .flag f r => encOptScope r * 64 + f.val
      | .none r => 7 * 64 + encOptScope r
  | .mldt b sideB half => 0x4000 + b.val * 128 + b2n sideB * 64 + b2n half * 32
  | .mstt b sideB half => 0x4400 + b.val * 128 + b2n sideB * 64 + b2n half * 32
  | .mma a raw => 0x4800 + a.val * 256 + b2n raw * 128
  | .mhad b z => 0x4C00 + b.val * 128 + z.val * 32
  | .mzero a fp36 => 0x5000 + a.val * 256 + b2n fp36 * 128
  | .mdrain g => 0x5400 + g.a.val * 256 + g.ty.code * 16 + b2n g.rs * 8 + b2n g.cs * 4 + b2n g.vec * 2 + b2n g.clr
  | .msrec sideB en => 0x5800 + b2n sideB * 512 + b2n en * 256
  | .mgeom a b askew bskew => 0x5C00 + a.val * 64 + b.val * 4 + b2n askew * 2 + b2n bskew
  | .copy g => encCopy 16 g
  | .cgath g => encCopy 17 g
  | .cscat g => encCopy 18 g
  | .cfill g => encCopy 19 g
  | .cbcast g => encCopy 20 g
  | .cremote g => encCopy 21 g
  | .cacc g => encCopy 22 g
  | .afolio e4m3 hd => 0x4000 + b2n e4m3 * 512 + hd.val * 128
  | .aappend => 0x4400
  | .aquery e4m3 hd y => 0x4800 + b2n e4m3 * 512 + hd.val * 128 + y.val
  | .astat => 0x4C00
  | _ => 0

/-- The second word of LITX (R76). -/
def encodeNext : Instr → Nat
  | .litx w => w.toNat
  | _ => 0

/-- The engine whose word an instruction is: none for a stream instruction or event; the common words are given for the
matrix engine. -/
def Instr.engine : Instr → Option EngineId
  | .lit _ | .litx _ | .dup | .drop | .swap | .over | .addw | .subw | .mulw | .shlw _ | .qpop | .loopw _ | .endw
  | .stopw | .waitf _ _ | .sigf _ _ | .mldt _ _ _ | .mstt _ _ _ | .mma _ _ | .mhad _ _ | .mzero _ _ | .mdrain _
  | .msrec _ _ | .mgeom _ _ _ _ => some .matrix
  | .copy _ | .cgath _ | .cscat _ | .cfill _ | .cbcast _ | .cremote _ | .cacc _ => some .copy
  | .afolio _ _ | .aappend | .aquery _ _ _ | .astat => some .query
  | _ => none

/-- The rows of the table that are events and have no encoding. -/
def Instr.isEvent : Instr → Bool
  | .dividerRelease _ | .landing _ _ | .fetchFill _ _ | .storeDepart _ | .storePerform _ | .loadReplay _ _
  | .sideLogReplay _ _ | .scOrderEvent _ | .domainFenceSettle _ | .mwaitTimeout _ | .barrierOpen _ | .boardRound _ _
  | .engineCommandStart _ _ _ | .flagWaitMet _ _ _ | .engineCommandComplete _ _ _ _ | .syncArrival _
  | .attentionSlice _ | .appendAtController _ | .cut _ | .preemptRequest _ | .bmarkArm _ _ | .commaTimeout _
  | .faultServiceResume _ | .launchAbort _ | .instanceStart _ | .retirement _ | .packetAtHead _
  | .launchActivation _ | .seatGrant _ | .pipeGrant _ _ | .lqRestart _ | .abortedClear _ | .hubDataAccess _ _
  | .clockPlanTick _ | .temperatureReading _ _ | .refresh _ _ | .scrub _ _ | .mgmtRaise _ | .mgmtLower _
  | .junctionOvertemp _ | .lifeRecord | .freezeLineAssert | .freezeLineRelease | .timebaseMarker _ _
  | .flitReceive _ _ | .linkTrainingTimeout _ | .lostRequestTimeout _ | .dieResetStart _ | .dieResetDone _
  | .packageReset | .doorbell _ | .mailboxTake _ | .graphCompletion _ | .lostClear _ | .hostBar2Access _
  | .unsupportedRequest | .scalarAnswer _ _ | .undefinedEncoding _ | .undefinedEngineWord _ | .powerUp
  | .linkRetrainComplete _ | .mailboxMessageWrite _ _ _ => true
  | _ => false

/-- A stream instruction: encoded in 32 bits. -/
def Instr.isStream (i : Instr) : Bool := i.engine.isNone && !i.isEvent

end Sys2Proof
end

