-- ==== Sys2Proof/Config.lean ====
section
/-!
DEFINITION. What one implementation fixes, the acts a step can be, and the FREE VALUES: opaque constants with no body, so
that no proof can use a value of them (log 1, 8, 13, 14, 15, 23, 27, 36, 41, 49, 50).
-/
namespace Sys2Proof

/-- What the next step of the package is (log 1). Every row of the opcode table that is an event is `event`; an encoded
row runs through `issue` (a stream issues one instruction) or `word` (an engine program runs one word). -/
inductive Act where
  /-- Stream `w` issues the instruction at its program counter, if it can. -/
  | issue (w : Who)
  /-- The program of `seat` on engine `e` of `core` runs one word, if it can. -/
  | word  (core : Fin 904) (e : EngineId) (seat : Fin 2)
  /-- An event row of the opcode table. -/
  | event (i : Instr)
  /-- One core cycle of `core` passes (R6, R32). -/
  | cycle (core : Fin 904)
  /-- `n` timebase nanoseconds pass (R32). -/
  | nanos (n : Nat)
  /-- Write number `i` in flight moves to the exit queue of the next boundary on its path (R251). -/
  | move  (i : Nat)
  /-- One 32-byte beat of write number `i` in flight is performed at its home (R202). -/
  | beat  (i : Nat)
  /-- Entry `i` of the load queue of a seat goes on: into an exit queue, to the next one, or to its home (R251). -/
  | pass  (r : SeatRef) (i : Nat)
  /-- One 32-byte beat of entry `i` of the load queue of a seat is read at its home (R202). -/
  | readBeat (r : SeatRef) (i : Nat)
  /-- Another package's home wakes the monitor on which stream `w` waits (R223, R301). -/
  | remoteWake (w : Who)
  /-- One flit slot of a fabric port passes (R319). -/
  | slot (port : Fin 64)
  /-- The oldest flit that a fabric port has sent is acknowledged, and its credit returns (R319, R401). -/
  | ack (port : Fin 64)
  /-- A bit upset: an 8-byte word of a slice or hub, or a 32-byte unit of a stack, comes to hold a correctable or (hard) an
  uncorrectable error (R201, R230, R393). -/
  | upset (key : Nat) (hard : Bool)
  /-- The copy engine of `core` moves the next piece of `seat`'s moving command (R292, R411). -/
  | piece (core : Fin 904) (seat : Fin 2)
  /-- Stream `w` refills its packet buffers ahead of its program counter (R78). -/
  | ahead (w : Who)
  /-- The program of `seat` on engine `e` of `core` refills its packet buffers ahead of its next word (R78). -/
  | aheadWord (core : Fin 904) (e : EngineId) (seat : Fin 2)
  /-- TLBI number `i` on its way reaches the TLBs of a core (R350). -/
  | shoot (i : Nat) (core : Fin 904)
  /-- TLBI number `i` has reached every TLB of the package (R350). -/
  | shootAll (i : Nat)
  /-- The runner of graph number `i` tries its remaining launch records again (R314). -/
  | graph (i : Nat)
  /-- The loader of a die releases loaded image `i` (R366). -/
  | unload (die : Fin 8) (i : Nat)
  /-- The translator, an instance on seat `r` launched from the system queue, translates portable object `k` of loaded image `i` (R372). -/
  | translate (r : SeatRef) (i k : Nat)
  /-- An instance of a translated portable object on seat `r` runs its next strip (R372). -/
  | strip (r : SeatRef)
  /-- The device operating system retires a quad (die × 16 + quad) of a stack (R232). -/
  | quadRetire (stk : Fin 24) (quad : Fin 256)
  /-- The writes in flight with the numbers `l`, reductions of one operation to one place, are performed at their home as one combined
  operand (R220). -/
  | merged (l : List Nat)
  /-- Started matrix command `i` of `seat` reads the next row it takes from memory (R163, R260). -/
  | row (core : Fin 904) (seat : Fin 2) (i : Nat)
  /-- Job `i` of the stack controllers reads its next token, or moves its next row (R239, R244, R260). -/
  | jobRow (i : Nat)
  /-- The management controller takes a junction reading of a die (R407). -/
  | junction (die : Fin 8) (celsius : Int)
  /-- The management controller takes a reading of module power in W, averaged over 1 ms (R407). -/
  | power (watts : Nat)
  /-- The host reads the doubleword at a BAR0 offset (R396). -/
  | bar0Read (off : Nat)
  /-- The host writes the doubleword at a BAR0 offset (R396, R397, R409). -/
  | bar0Write (off : Nat) (v : Word)
  /-- The host is given the oldest completion that the package owes it (R393, R395). -/
  | complete
  /-- Record mode streams its next log entry to the host buffer (R393). -/
  | streamLog
  /-- Replay mode injects the next event of its log (R393). -/
  | inject
  /-- A fabric port returns to its neighbour the credits of the flits that have arrived (R319, R393). -/
  | credit (port : Fin 64)
  deriving DecidableEq, Repr, Inhabited

/-- What record mode logs (R393): the measured boot image, an entropy draw, or an arrival from outside, a temperature reading or an
error event, which is the act that brings it. -/
inductive RecItem where
  | boot (digest : BitVec 512)
  | entropy (draw : BitVec 512)
  | act (a : Act)
  deriving DecidableEq, Repr

/-- An entry of record mode's log, with the timebase ns of its event (R393). -/
structure RecEntry where
  at'  : Nat
  item : RecItem
  deriving DecidableEq, Repr

/-- The parts of the line (R1). -/
inductive Part where
  | mz9a | mz9s | mz5a
  deriving DecidableEq, Repr, Inhabited

namespace Config

/-- The act of step number `t` when the agenda is empty: FREE (log 1). -/
opaque nextAct : Nat → Act

/-- Whether the link of fabric port `p` dropped during the freeze that ends in step number `t`: FREE (R389; log 8). -/
opaque linkDropped : Nat → Nat → Bool

/-- Whether the atomic request with a number, accepted before the reset of its home die, was applied before the reset's answer: FREE (R403;
log 36). -/
opaque resetApplied : Nat → Bool

/-- The other packages with a die in collective group `g`: FREE (R406; log 8). -/
opaque groupPackages : Nat → List Nat

/-- The 2,048 doublewords of a life record, from the digest of the record before it and its counts, section by section: the manual gives no
layout, and the counts at full width would not fit: FREE (R388; log 15). -/
opaque lifeImage : BitVec 512 → List Nat → List Word

/-- Which doubleword of the ring of life records the host reads at a BAR0 offset behind BOOT_STAT in step number `t`: the manual gives no
selection, FREE (R388, R408; log 15). -/
opaque ringWord : Nat → Nat → Nat

/-- The answer of another package, or of a device beyond a port, to a read at a key in step number `t`: FREE (log 8). -/
opaque remoteData : Nat → Nat → BitVec 2048

/-- Whether that answer is an error answer, and of which kind: FREE (log 8). -/
opaque remoteError : Nat → Nat → Option Bool

/-- The same for the request of a stream with a number, at a key: FREE (log 8). -/
opaque remoteLoadError : Nat → Nat → Option Bool

/-- Whether another package's home has a free monitor for the request with a number: FREE (log 8). -/
opaque remoteMonitor : Nat → Bool

/-- The SHA-512 digest of a byte string, as used for a life record's chain and for an image digest: FREE (log 13). -/
opaque sha512 : List Byte → BitVec 512

/-- Whether the two signatures over an image, a firmware or a token verify (R3): FREE (log 13). -/
opaque signaturesVerify : List Byte → Bool

/-- The two signatures an attestation report carries over its contents (R410): FREE (log 13). -/
opaque sign : List Byte → List Byte

/-- Choices of the device operating system that the manual leaves to it, by request number: FREE (log 14). -/
opaque osChoice : Nat → Nat → Nat

/-- The boot's checks that depend on hardware and flash contents (self-test of die d, firmware signatures, firmware SVN,
entropy health), by check number: FREE (log 14). -/
opaque bootCheck : Nat → Nat → Bool

/-- What a package booted in replay mode in step number `t` has to replay, oldest first: FREE (R393; log 41). -/
opaque replayLog : Nat → List RecEntry

/-- The largest clock-plan request of collective group `g` among the dies of other packages, as the tick at timebase `t` applies it:
FREE (R406; log 8). -/
opaque remoteRequest : Nat → Nat → Fin 13

/-- The first junction reading of stack `n` after the reset in step number `t`, in whole degrees: FREE (R228; log 14). -/
opaque firstReading : Nat → Nat → BitVec 8

/-- The device operating system's key, loaded into slot 0 by the boot in step number `t`: FREE (R352, R408; log 14). -/
opaque bootKey : Nat → BitVec 512

/-- A fresh key that the device operating system loads for an image in step number `t` (R367): FREE (log 14). -/
opaque freshKey : Nat → BitVec 512

/-- What the relocation entry of a section index and byte offset names in the image of a digest: 0 and a distance from the data segment's
base, or n + 1 and a distance from the address of its declaration number n. The file's record does not say it: FREE (R362; log 49). -/
opaque namedLabel : BitVec 512 → Word → Nat × Nat

/-- The version of the translator (R372, R373): FREE (log 50). -/
opaque translatorVersion : BitVec 32

/-- The words that the translator makes of an object of a digest under a CATSIG and its version: stream code (0 to 3) and engine words
(4 to 6). FREE in the code chosen, but fixed by the key (R372; log 50). -/
opaque translated : BitVec 512 → Word → BitVec 32 → Nat → List Word

/-- The trip length, in schedule cycles, of the code so made: FREE (R372; log 50). -/
opaque tripLength : BitVec 512 → Word → BitVec 32 → Nat

/-- The offset in the own slice at which the code of an object of a digest stages a trip of a load stream: the translator's choice, FREE
(R372; log 50). -/
opaque stagedAt : BitVec 512 → Nat → Nat → Nat

/-- The result of op number n of a portable object where no rule states it, from the op and its source values: FREE (R371; log 50). -/
opaque portableValue : BitVec 512 → Word → List Nat → Nat

/-- Whether the integers of an op of a portable object are unsigned, which its tag does not tell: FREE (R371; log 50). -/
opaque portableUnsigned : BitVec 512 → Word → Bool

/-- Whether a sum of a portable object starts from the element as it stands: FREE (R371; log 50). -/
opaque sumKeeps : Bool

/-- The firmware digest that the boot in step number `t` measures: FREE (R408; log 13). -/
opaque measurement : Nat → BitVec 512

/-- The SAVED bits of a save area (R193), which record the registers written, those a live map's masks list: FREE in their layout, which
the manual does not give (log 23). -/
opaque savedBits : List Word → BitVec 256

/-- The 128 bytes of a save area that hold an engine's parameter stack, its depth and its loop stack (R193), top first: FREE in their
layout, which the manual does not give (log 23). -/
opaque savedStack : List Word → List (Nat × Nat × Nat) → BitVec 1024

/-- The value that P of a lexicon entry shows after a late sample of schedule time `t` has dropped its proposal: FREE (R43, R321; log 27). -/
opaque droppedP : Nat → BitVec 24

/-- Life-record history kept in flash before this power-up: FREE (log 15). -/
opaque flashHistory : Nat → BitVec 512

/-- The fabric port by which a core (or hub) sends to a package: fixed by the routing table, FREE (R259; log 8). -/
opaque routePort : Nat → Nat → Fin 64

/-- Number of packages in the load-store domain (R195 allows 0-431): log 4. -/
def domainPackages : Nat := 432

/-- This package's number: log 4. -/
def thisPackage : Nat := 0

/-- The part of the state after reset: log 4. -/
def part : Part := .mz9a

/-- Its fused die concordance (R354): site 8 hidden as the spare; log 4. -/
def concDie : Word := 0x18_7654_3210#64

/-- Its fused row concordance of every die (R355): physical row 14; log 4. -/
def concRow : Word := 14#64

end Config
end Sys2Proof
end

