-- ==== Sys2Proof/Machine/State.lean ====
section
/-!
DEFINITION. The state of the package as plain data: every register and memory the spec names (INVENTORY.md, ## State),
the reasons a step can stop, and the state right after reset.
-/
namespace Sys2Proof.Machine

/-- Why the machine stops. -/
inductive Fault where
  /-- Raised by `step` when a die junction at 115 °C has stopped the package with a device error (R407) and the act is no reset:
  safe, nothing runs until a package reset. -/
  | deviceError
  deriving DecidableEq, Repr

/-- Why a step has no meaning. -/
inductive Refusal where
  /-- Raised by `exec` alone, for an instruction the model has not reached: safe. -/
  | notModelled (mnemonic : String)
  deriving DecidableEq, Repr

/-! ## Agents -/

/-- Who made a write: a stream, or a command of an engine (accession number). -/
inductive Source where
  | stream (w : Who)
  | engine (core : Fin 904) (e : EngineId) (seat : Fin 2) (acc : BitVec 32)
  | hub (die : Fin 8)
  deriving DecidableEq, Repr, Inhabited

/-! ## Streams -/

/-- An entry of a queue register and the live core cycle in which it is enqueued (R178). -/
structure QItem where
  data : VData
  at'  : Nat
  deriving DecidableEq, Repr, Inhabited

/-- A release that has been performed while writes that happen before it were still on their way: who made it, its scope, and the
numbers of those writes (R253). -/
structure Heard where
  src   : Source
  scope : Scope
  ids   : List Nat
  deriving DecidableEq, Repr, Inhabited

/-- A queue register (R176): the entries from the head, and how many were dequeued in live core cycle `deqAt` (their room
is free only from the next cycle, R178). -/
structure Fifo where
  items : List QItem
  deqAt : Nat
  deqN  : Nat
  deriving DecidableEq, Repr, Inhabited

/-- A packet buffer (R78): the packet's address, and its 64 bytes or the fault its fetch met. -/
structure Packet where
  addr : Word
  data : BitVec 512
  bad  : Option (Nat × Nat)
  deriving DecidableEq, Repr, Inhabited

/-- The divider of a stream (R106): destination, result, the live core cycle in which it is released, and whether it has found its queue
full (R392). -/
structure DivOp where
  dest : SSpec
  res  : Word
  due  : Nat
  full : Bool
  deriving DecidableEq, Repr, Inhabited

/-- A scalar register under interlock and the live core cycle from which it may be read (R103). -/
structure Busy where
  reg   : Nat
  ready : Nat
  deriving DecidableEq, Repr, Inhabited

/-- What a home answers a board instruction: a BOARD fault, an error answer, a view with its level, or a value; the code goes into BSTATUS. -/
inductive BoardAns where
  | fault (d : Nat)
  | poison
  | view (level : Nat) (v : BitVec 1024) (code : Nat)
  | value (v : Word) (code : Nat)
  deriving DecidableEq, Repr, Inhabited

/-- What a stream waits for inside one instruction. -/
inductive Wait where
  /-- Nothing. -/
  | none
  /-- MWAIT with its monitor armed at `key`: expected value, predicate, deadline in schedule time, and the sources still
  to be dequeued (R223). -/
  | mwait (key : Nat) (expected : Word) (p : Fin 16) (deadline : Nat) (srcs : List SSpec)
  /-- MWAIT whose monitor has woken it in a freeze of its core: it writes its result and ends when the freeze has ended (R18, R223). -/
  | woken (p : Fin 16) (srcs : List SSpec) (v : Bool)
  /-- SWAIT with its monitor armed at the sync word `key` (R301): expected value, destination, sources; `since` is the core
  cycle of the arm. -/
  | swait (key : Nat) (expected : Word) (d : SSpec) (srcs : List SSpec) (since : Nat)
  /-- SWAIT whose monitor has seen generation `gen` pass: it ends when the stream next runs (R301). -/
  | passed (gen : Nat) (d : SSpec) (srcs : List SSpec) (since : Nat)
  /-- XFENCE since the core cycle `since` (R217). -/
  | xfence (since : Nat)
  /-- A sc fence whose condition ar holds, waiting for its order event (R215). -/
  | scEvent (scope : Scope)
  /-- A sc fence whose order event is taken; at domain scope it settles until timebase `until'` (R256). -/
  | scTaken (until' : Nat)
  /-- A sc fence whose order event has come in a freeze of its core: it ends when the stream next runs (R18, R215). -/
  | scDone
  /-- A load, atomic or monitor wait held on a missing page (R212): its address and the detail of the page request. -/
  | held (va : Word) (detail : Nat)
  /-- PVIEW posted to its board, post number `id` (R332): its destination, view mask and sources. -/
  | board (id : Nat) (d : SSpec) (vm : Fin 4) (srcs : List SSpec)
  /-- PVIEW whose answer has come in a freeze of its core: it ends, or raises its fault, when the stream next runs (R18, R332). -/
  | viewed (d : SSpec) (vm : Fin 4) (srcs : List SSpec) (va : Word) (x : BoardAns) (full : Bool)
  /-- BAR waits on its arrival at a level, for a generation (R317). -/
  | bar (level : Nat) (gen : BitVec 32)
  /-- JOIN since the core cycle `since`, for the wait record (R385). -/
  | join (since : Nat)
  /-- CODESYNC since the core cycle `since` (R370): the seat's commands then placed, by engine and accession; once they and the
  stores are done, the number before which every fill must have ended. -/
  | codesync (since : Nat) (cmds : List (Fin 3 × BitVec 32)) (fills : Option Nat)
  deriving DecidableEq, Repr, Inhabited

/-- One stream of a seat (R101, R117, R45, R78). -/
structure Stream where
  x       : Vector Word 32
  p       : BitVec 16
  t       : Vector Word 8
  pc      : Word
  lc      : Word
  loopPc  : Word
  ps      : BitVec 8
  repLeft : BitVec 32
  /-- The stage of each body instruction of the active LOOP, read from its stage table at issue (R74). -/
  stages  : List (Fin 8)
  /-- The stage that the instruction after a REP of a body takes (R122). -/
  repStage : Option (Fin 8)
  halted  : Bool
  passes  : BitVec 32
  /-- Stopped at the comma of a latched cut, with its index and map (R47). -/
  comma   : Option (BitVec 10 × BitVec 6)
  packets : List Packet
  busy    : List Busy
  div     : Option DivOp
  wait    : Wait
  /-- Live core cycle of the last issue plus one; 0 when it has not issued (R33: one issue a cycle). -/
  issued  : Nat
  /-- Numbers of the writes in flight that its next release waits for: those whose value it took from a forward record, and those that
  a release it has acquired stands for (R253, R254). -/
  fwd     : List Nat
  /-- What its plain reads took from releases, for an acquire fence to come (R253). -/
  heard   : List Heard
  /-- Its release fences, each with its scope and the writes that were then still on their way (R253). -/
  fenced  : List (Scope × List Nat)
  /-- The page of the last access and the direction of its stream TLB's prefetch (R347). -/
  lastPage : Option Word
  /-- Waiting on a queue register: an empty one (false) or a full one (true), for R384 and R392. -/
  waiting : Option Bool
  deriving DecidableEq, Repr, Inhabited

/-- What a C instruction writes at its result cycle (R33). -/
inductive CWrite where
  /-- Masked bits of a physical vector register, with the tag written when the write is whole (R126). -/
  | vreg (n : Fin 32) (data mask : VData) (tag : Option (Fin 16))
  | kreg (n : Fin 8) (data mask : BitVec 256)
  | xreg (n : Fin 32) (v : Word)
  | preg (n : Fin 16) (v : Bool)
  | treg (n : Fin 8) (v : Word)
  | queue (n : Fin 16) (v : VData)
  | vlen (v : Word)
  | vstat (bits : BitVec 8)
  | sysreg (num : BitVec 16) (v : Word)
  deriving DecidableEq, Repr, Inhabited

/-- A result in C's pipeline, due at C clock `due` (R33). -/
structure CPend where
  due : Nat
  w   : CWrite
  deriving DecidableEq, Repr, Inhabited

/-- C's schedule (R33, R34): `clock` counts the schedule cycles in which C is not held; C issues next at clock `ready`;
`done` tells that C has issued, or cannot, in this core cycle; `lead` that C had its cycle before the fault that holds it, so that
its clock still passes it; `release` that the hold ends with this core cycle (R189, R191); `landed` are the results that reached their
registers at the beginning of this core cycle (R126). -/
structure CSched where
  clock : Nat
  ready : Nat
  done  : Bool
  held  : Bool
  lead  : Bool
  release : Bool
  pipe  : List CPend
  landed : List CWrite
  deriving DecidableEq, Repr, Inhabited

/-! ## Registers of a seat -/

/-- Vector registers by physical number, tags, lane masks, VLEN and VSTAT (R100, R124, R127, R129, R130). -/
structure VecFile where
  v     : Vector VData 32
  tag   : Vector (Fin 16) 32
  k     : Vector (BitVec 256) 8
  vlen  : Word
  vstat : Word
  rrb   : BitVec 4
  deriving DecidableEq, Repr

/-- An operand tile (R153). -/
structure BTile where
  data : BitVec 65536
  tag  : Fin 16
  had  : Fin 4
  deriving DecidableEq, Repr

/-- An accumulator tile (R155): cell (i, j) at bit 36 × (128 i + j). -/
structure ATile where
  data   : BitVec 294912
  tag    : Fin 16
  fp36   : Bool
  hnorm  : Fin 16
  budget : Word
  deriving DecidableEq, Repr

/-- Tiles and the matrix registers (R153 to R156, R164, R167). -/
structure TileFile where
  b       : Vector BTile 8
  a       : Vector ATile 4
  mstat   : Word
  matgeom : Word
  srec    : Vector Word 2
  deriving DecidableEq, Repr

/-- A landing slot (R179): state 0 FREE, 1 PENDING, 2 FULL. -/
structure Slot where
  data   : VData
  named  : BitVec 40
  sym    : Fin 32
  drst   : Bool
  scalar : Bool
  err    : Bool
  state  : Fin 4
  deriving DecidableEq, Repr, Inhabited

/-- The trap registers (R188) and the hidden shadow of K's loop state (R189). -/
structure TrapFile where
  vec      : Word
  info     : Word
  addr     : Word
  pc       : Vector Word 4
  scratch  : Vector Word 2
  lstat    : Word
  saveBase : Word
  nestInfo : Word
  nestPc   : Word
  shLc     : Word
  shLoopPc : Word
  shPs     : BitVec 8
  shRep    : BitVec 32
  shStages : List (Fin 8)
  shRepStage : Option (Fin 8)
  /-- K stood at the comma of a latched cut when the handler started (R189). -/
  shComma  : Option (BitVec 10 × BitVec 6)
  /-- The core cycle, plus one, of the latest fault, and its SRC: faults of one core cycle are taken in ascending SRC (R189). -/
  last     : Nat × Nat
  deriving DecidableEq, Repr, Inhabited

/-- A latched cut (R47): its pass number, the schedule cycles counted against COMMA_LIMIT since, and whether PREEMPT and BOOKMARK have
joined it. -/
structure Latch where
  n   : BitVec 32
  age : Nat
  preempt  : Bool
  bookmark : Bool
  deriving DecidableEq, Repr, Inhabited

/-- The cut registers (R48, R50) and what is pending for the next cut (R47). `atRetire`: the latest cut was performed at
retirement; `handlerAge`: schedule cycles since the re-timing handler was entered. -/
structure CutFile where
  info       : Word
  syms       : Word
  pc         : Vector Word 4
  retimeVec  : Word
  commaLimit : Word
  latch      : Option Latch
  preempt    : Bool
  bookmark   : Bool
  atRetire   : Bool
  handlerAge : Nat
  deriving DecidableEq, Repr, Inhabited

/-- A lexicon entry (R321), and its frozen cycles since the last SYMSET.clr (R324). -/
structure LexEntry where
  hi      : BitVec 24
  lo      : BitVec 24
  npol    : BitVec 2
  setc    : Bool
  setp    : Bool
  setb    : Bool
  policy  : BitVec 2
  state   : BitVec 3
  b       : BitVec 24
  p       : BitVec 24
  p1      : BitVec 24
  sb      : BitVec 24
  samples : BitVec 8
  span0   : BitVec 32
  frozen  : BitVec 32
  late    : BitVec 32
  early   : BitVec 32
  fvalue  : BitVec 24
  maxs    : BitVec 24
  bkt     : Vector (BitVec 8) 16
  frozenTotal : Nat
  /-- The LEX_PARAM in force for the symbol since its last window end (R322). -/
  par     : Word
  deriving DecidableEq, Repr, Inhabited

/-! ## Memory requests -/

/-- A home (R203): a package, a die, and the slice of a core or (none) the die's hub. -/
structure Home where
  pkg  : Nat
  die  : Nat
  unit : Option Nat
  deriving DecidableEq, Repr, Inhabited

/-- Where an access falls: the memory key of its first byte (a window address, or 2^52 plus a physical address), its
home, its key slot when it lies in a stack, and whether the skewed layout applies (R195, R198, R203, R341, R353). -/
structure Place where
  key   : Nat
  home  : Home
  slot  : Option (Fin 64)
  skew  : Bool
  deriving DecidableEq, Repr, Inhabited

/-- What an answer of the load queue does (R207, R208, R211, R218). -/
inductive LoadKind where
  /-- A landing request (R207). -/
  | slot (n : Fin 64)
  /-- A scalar load into `d` (R208). -/
  | scalar (d : SSpec)
  /-- PREF: a sample of its symbol and nothing else (R211). -/
  | pref
  /-- AMO (R219): operation, destination, operand, compared value, error predicate. -/
  | amo (op : AtomOp) (d : SSpec) (v expected : Word) (pe : Fin 8)
  /-- An element of a VAMO (R221): operation and operand. -/
  | elem (op : AtomOp) (v : Word)
  /-- The arm and compare of a MWAIT, with its expected value (R223). -/
  | mwait (expected : Word)
  /-- The arm and compare of a SWAIT, with the generation to pass (R301). -/
  | swait (expected : Word)
  deriving DecidableEq, Repr, Inhabited

/-- The kinds of answer: data, an error of the uncorrectable kind, an error of the die-reset kind (R205). -/
inductive Ans where
  | ok | uncorrectable | dieReset
  deriving DecidableEq, Repr, Inhabited

/-- The answer to a read, fixed: its kind and data; `near` when the store queue or an exit queue gave it (R205, R209, R251). -/
structure Answer where
  ans  : Ans
  data : VData
  near : Bool
  deriving DecidableEq, Repr, Inhabited

/-- Where a stream stands in its code (R117, R122, R190): its program counter and its loop and repeat state. -/
structure Site where
  pc      : Word
  lc      : Word
  loopPc  : Word
  ps      : BitVec 8
  repLeft : BitVec 32
  stages  : List (Fin 8)
  repStage : Option (Fin 8)
  deriving DecidableEq, Repr, Inhabited

/-- A request in the load queue of a seat (R209), or an atomic on its way. -/
structure LoadReq where
  seq    : Nat
  stream : StreamId
  kind   : LoadKind
  place  : Place
  va     : Word
  size   : Nat
  sym    : Fin 32
  /-- The binding of the symbol at issue (R35). -/
  b      : Nat
  /-- The core cycle of issue (R38). -/
  issued : Nat
  /-- Where its stream stood at the instruction that made it, and whether a handler ran then (R189, R190). -/
  site   : Site
  inHandler : Bool
  conj   : Nat
  /-- The scope of an LDA (R210). -/
  acq    : Option Scope
  /-- On its way: the exit queue it stands in and its number there (R251). -/
  way    : Option (Nat × Nat)
  /-- 32-byte beats read at the home so far, and their data and kind of answer (R202). -/
  beats  : Nat
  part   : Answer
  /-- The answer, once it is fixed at the home or on the way. -/
  got    : Option Answer
  /-- The detail of the page request it is held on (R212). -/
  missing : Option Nat
  /-- Its home-die hint (R24). -/
  hint   : Option (Fin 8)
  /-- It has found the queue of its destination full (R392). -/
  full   : Bool
  deriving DecidableEq, Repr, Inhabited

/-- What a write does to the bytes at its home (R209, R218, R220, R293). -/
inductive WKind where
  | store
  | red (op : AtomOp)
  /-- CACC element operations: 0 addi32, 1 addf32, 2 addbf16, 3 maxf32 (R290). -/
  | acc (op : Fin 4)
  deriving DecidableEq, Repr, Inhabited

/-- An entry of the store queue (R209). -/
structure StoreReq where
  seq    : Nat
  stream : StreamId
  kind   : WKind
  place  : Place
  va     : Word
  size   : Nat
  data   : VData
  issued : Nat
  conj   : Nat
  /-- Release scope of an STL (R210). -/
  rel    : Option Scope
  /-- Its home-die hint (R24). -/
  hint   : Option (Fin 8)
  deriving DecidableEq, Repr, Inhabited

/-- An entry of the side log (R213). -/
structure LogEntry where
  kind   : Fin 8
  src    : StreamId
  size   : Nat
  op     : AtomOp
  rel    : Option Scope
  hint   : Option (Fin 8)
  elem   : Nat
  /-- Its address had been translated when it joined the log (R350). -/
  trans  : Bool
  va     : Word
  data   : VData
  seq    : Nat
  conj   : Nat
  issued : Nat
  deriving DecidableEq, Repr, Inhabited

/-- A write on its way to its home (R251): `stage` is the exit queue that holds it (0 network interface, 1 cluster,
2 die, 3 package), or 4 when it has been handed to a fabric port, `last` the queues of its path; `sync` is the sync word its bytes count into (R299); `bad` is set
when the bytes written are poisoned (R292); `issued` and `born` are the source's core cycles of issue and departure, `id` its
number at issue and `ent` its number in the queue that holds it; `beats` of its 32-byte beats are performed (R202); `rels` are the
releases it stands for, each with the writes before it that were on their way at its departure (R253). -/
structure Flight where
  id    : Nat
  ent   : Nat
  src   : Source
  kind  : WKind
  place : Place
  size  : Nat
  data  : VData
  stage : Nat
  last  : Nat
  conj  : Nat
  sync  : Option Nat
  bad   : Bool
  issued : Nat
  born   : Nat
  beats  : Nat
  rels   : List (Scope × List Nat)
  deriving DecidableEq, Repr, Inhabited

/-! ## Engines -/

/-- Pending attributes of an engine program (R280). -/
structure Attrs where
  hasW  : Bool
  w     : Bool
  wflag : Fin 64
  wacc  : BitVec 32
  acq   : Option Scope
  hasS  : Bool
  note  : Bool
  s     : Bool
  sflag : Fin 64
  rel   : Option Scope
  deriving DecidableEq, Repr, Inhabited

/-- A block of an access, within one aligned 256-byte block: place, bytes, address. -/
structure Blk where
  place : Place
  size  : Nat
  va    : Word
  deriving DecidableEq, Repr, Inhabited

/-- A row that a matrix command takes: a value it has, or bytes of memory it has still to read (R163). -/
inductive RowSrc where
  | value (v : Nat)
  | row (l : List Blk)
  deriving DecidableEq, Repr, Inhabited

/-- A command of a queue (R277). `args` hold the popped values, top first. `met`: its flag wait is met; `started`: it has started; `stuck`: it failed a check at
its start and waits for the retry (R289); `headAt`: core cycle at which it reached the head. -/
structure Cmd where
  acc     : BitVec 32
  opc     : Fin 32
  opnd    : BitVec 10
  attr    : Attrs
  args    : List Word
  met     : Bool
  started : Bool
  stuck   : Bool
  headAt  : Nat
  /-- Core cycle of placement, and for AQUERY the binding then in force (R246). -/
  placedAt : Nat
  bind    : Nat
  /-- The request number from which its reads may have left (R251), and writes that its release waits for (R253, R254). -/
  sent    : Nat
  fwd     : List Nat
  /-- Pages of its accesses that its engine has touched (R296). -/
  touched : List Nat
  /-- Live core cycle from which a started command may complete, or move its first piece (R175, R296). -/
  due     : Nat
  /-- Values read so far, the rows still to be read, and the places checked for its writes (R163, R291). -/
  data    : List Nat
  todo    : List RowSrc
  dest    : List (Place × Nat)
  /-- Position of a moving copy (R292): i2, i1 (or element or target index), bytes moved of the run. -/
  i2      : Nat
  i1      : Nat
  k       : Nat
  /-- Its work is done; it waits for its release (R257), or for its writes. -/
  moved   : Bool
  deriving DecidableEq, Repr, Inhabited

/-- The copy progress record (R297). -/
structure Progress where
  valid : Bool
  acc   : BitVec 32
  i2    : Nat
  i1    : Nat
  k     : Nat
  deriving DecidableEq, Repr, Inhabited

/-- A frame of an engine loop stack (R160): body start, passes left, and the word index of its ENDW. -/
structure LoopFrame where
  start : Nat
  left  : Nat
  stop  : Nat
  deriving DecidableEq, Repr, Inhabited

/-- An engine program of a seat and the seat's command queue (R157, R158, R277, R287). -/
structure EngineCtx where
  stack    : List Word
  loops    : List LoopFrame
  /-- Natural index of the next word in the task's section for the engine (R287). -/
  pc       : Nat
  running  : Bool
  faulted  : Bool
  forked   : Bool
  attrs    : Attrs
  queue    : List Cmd
  /-- The newest command of the seat on this engine (0 none), for the wait record of JOIN (R385). -/
  lastAcc  : BitVec 32
  progress : Progress
  /-- The queue is held at its first unstarted command by a bookmark (R390). -/
  frozen   : Bool
  packets  : List Packet
  /-- Live core cycle of the program's last step plus one (R158). -/
  stepped  : Nat
  /-- A launch word has found its return queue full (R279, R392). -/
  full     : Bool
  /-- Writes on their way that completed commands marked .rel stand for, for JOIN (R257). -/
  heard    : List Nat
  /-- The address ranges that commands with writes on their way have written, by accession (R162). -/
  drains   : List (BitVec 32 × List (Nat × Nat))
  deriving DecidableEq, Repr, Inhabited

/-! ## Translation -/

/-- A cached leaf (R347): address space, virtual page base, page size, entry. -/
structure TlbEntry where
  asid : BitVec 16
  base : Nat
  size : Nat
  leaf : Word
  deriving DecidableEq, Repr, Inhabited

/-- A TLB, most recently used first (R347). -/
abbrev Tlb := List TlbEntry

/-! ## Seats and cores -/

/-- The instance states of R25. -/
inductive Phase where
  | free | dispatched | running | retiring | preempted | faulted
  deriving DecidableEq, Repr, Inhabited

/-- How far an instance of a translated portable object has come (R372): strips run, the sums so far, by output stream, for each load
stream the trips whose elements it has loaded, and those elements by stream and number, where they are still needed. -/
structure PortRun where
  strip : Nat
  sums  : List (Nat × Nat)
  ahead : List (Nat × Nat)
  elems : List ((Nat × Nat) × Nat)
  deriving DecidableEq, Repr, Inhabited

/-- What the seat runs (R20, R25): the launch's queue id, the task descriptor, the seat group (its fixed coordinates and
FREE index), the SERIAL index of the running instance, the entry points and engine section bases of the task, and, of a task translated from portable form, how far it has come (R366). -/
structure Inst where
  phase  : Phase
  q      : Fin 512
  task   : Word
  key    : Nat
  free   : Nat
  serial : Nat
  entry  : Vector Word 4
  ebase  : Vector Word 3
  arg    : Word
  port   : Option PortRun
  deriving DecidableEq, Repr, Inhabited

/-- An arrival at a level barrier that has not opened (R317): level and the generation awaited. -/
structure BarWait where
  level : Nat
  gen   : BitVec 32
  deriving DecidableEq, Repr, Inhabited

/-- The remaining system registers of a seat. -/
structure SysFile where
  wid       : Word
  roles     : Word
  schedTime : Word
  win       : Vector Word 8
  xlatRoot  : Word
  larg      : Word
  bstatus   : Word
  perfCnt   : Vector Word 16
  /-- What each counter has counted in this core cycle (R383). -/
  perfNow   : Vector Word 16
  perfSel   : Vector Word 16
  bmark     : Word
  bmHead    : Vector Word 3
  dbgCtl    : Word
  deriving DecidableEq, Repr

/-- One seat of a core. -/
structure Seat where
  str     : Vector Stream 4
  c       : CSched
  vec     : VecFile
  q       : Vector Fifo 16
  ln      : Vector Slot 64
  tile    : TileFile
  trap    : TrapFile
  cut     : CutFile
  lex     : Vector LexEntry 32
  /-- The core cycles, plus one, of the last sample and of the last clock-plan step (R323, R324). -/
  lexAt   : Nat × Nat
  sys     : SysFile
  loads   : List LoadReq
  stores  : List StoreReq
  /-- Core cycle of the last departures from the store queue, and how many: their room is free from the next one (R209). -/
  left    : Nat × Nat
  /-- Elements of an issued VMRED that wait for room, each with its index and whether its page was missing (R209, R213, R222). -/
  elems   : List (StoreReq × Nat × Bool)
  sideLog : List LogEntry
  conjL   : Nat
  conjS   : Nat
  /-- Tags of the CONJ of L and S executed since the last cut, oldest first (R216). -/
  tagsL   : List (Fin 64)
  tagsS   : List (Fin 64)
  /-- The VAMO restart index and the address of its VAMO (R222). -/
  vamo    : Option (Word × Nat)
  eng     : Vector EngineCtx 3
  vm      : Vector (BitVec 1024) 4
  inst    : Inst
  bars    : List BarWait
  tlbK    : Tlb
  tlbL    : Tlb
  tlbS    : Tlb
  deriving DecidableEq, Repr

/-- A flag (R282). -/
structure Flag where
  kind   : Fin 4
  pushed : BitVec 32
  done   : BitVec 32
  /-- The releases its signals stand for (R253). -/
  heard  : List Heard
  deriving DecidableEq, Repr, Inhabited

/-- What freezes a core (R36, R116): a landing read of the seat's slot for a symbol, or C waiting for a packet. -/
inductive Freeze where
  | slot (seat : Fin 2) (first : Fin 64) (second : Option (Fin 64))
  | fetch (seat : Fin 2)
  deriving DecidableEq, Repr, Inhabited

/-- A shared pipe (R318): requesters and the core cycle since which each has waited, the last grant, the last stream of
each seat granted, and the requester granted in this core cycle. -/
structure Pipe where
  reqs    : List (Fin 2 × StreamId × Nat)
  last    : Fin 2 × StreamId
  lastOf  : Vector StreamId 2
  granted : Option (Fin 2 × StreamId)
  decided : Bool
  deriving DecidableEq, Repr

/-- One core (R15). The core cycle counter is the model's. -/
structure Core where
  seat     : Vector Seat 2
  /-- Core cycles, and of them those not frozen, since reset (R6, R18, R32). -/
  cycle    : Nat
  live     : Nat
  freeze   : Option Freeze
  flags    : Vector Flag 64
  accNext  : Word
  ageLimit : Word
  lexParam : Word
  wrecBase : Word
  wrecPtr  : Word
  vpipe    : Pipe
  port     : Pipe
  /-- Seat last served by the matrix load side, the matrix array side, the copy engine, the query engine (R162, R411). -/
  served   : Vector (Fin 2) 4
  etlb     : Vector Tlb 3
  /-- The slot-wheel rotation: the last of K, L, S of seat 0, K, L, S of seat 1 served (R255). -/
  wheel    : Fin 6
  /-- The turn of the slot wheel in which it last served a fence, plus one (R215). -/
  wheelTurn : Nat
  /-- The core cycle in which the present freeze began (for the life record, R388). -/
  frozeAt  : Nat
  /-- The core cycle, plus one, of the last met wait of the core's wait record, and the place of its waiter in R386's order. -/
  metAt    : Nat × Nat
  /-- Live core cycle, plus one, in which the copy engine moved its last piece and the query engine started its last command
  (R296, R411). -/
  pieceAt  : Nat
  queryAt  : Nat
  deriving DecidableEq, Repr

/-! ## Dies -/

/-- A packet fill that the fetch agent has begun (R79): its number, the launch, task and translation root of its subscribers (or the
system core), and the packet it read. -/
structure Fill where
  id   : Nat
  q    : Fin 512
  task : Word
  root : Word
  sys  : Bool
  pkt  : Packet
  deriving DecidableEq, Repr, Inhabited

/-- The waits of an extended packet at the head (R311): for each flag wait, the core cycle of its flag's core in which the packet
reached the head, and whether it is met; `seen` tells that they have been evaluated. -/
structure PktWait where
  seen : Bool
  at8  : Nat
  at9  : Nat
  met8 : Bool
  met9 : Bool
  deriving DecidableEq, Repr, Inhabited

/-- A launch queue (R306). -/
structure LaunchQ where
  ring : Word
  ptr  : Word
  ctl  : Word
  /-- The head packet and its task descriptor, once the checks of R309 have passed. -/
  head : Option (List Word × List Word)
  /-- The head packet's waits (R311). -/
  wait : Option PktWait
  /-- The package's request number at the completion of the queue's last launch (R369). -/
  done : Nat
  deriving DecidableEq, Repr

/-- One logical die. -/
structure Die where
  lq      : Vector LaunchQ 64
  ageUs   : Word
  arbPtr  : Vector (BitVec 9) 8
  clkPlan : Word
  collGrp : Word
  /-- The group's requests as they changed: timebase, step and group, newest first (R406). -/
  steps   : List (Nat × Nat × Nat)
  /-- The timebase ns until which a clock-plan step stops the die's core clocks (R320, R406). -/
  haltTo  : Nat
  /-- The junction reading in °C, and the timebase ns of the latest step of MGMT (R407). -/
  junction : Int
  mgmtAt  : Nat
  msg     : Vector Word 8
  mbox    : Word
  hubSel  : Word
  hubIdx  : Word
  fills   : List Fill
  ftlb    : Tlb
  /-- In reset, and the package's request number at its start (R403). -/
  inReset : Bool
  resetAt : Nat
  /-- Keys of the code lines its image cache holds (R369). -/
  icache  : List Nat
  deriving DecidableEq, Repr

/-! ## Package -/

/-- An active launch (R20, R307, R315): its queue, its 16 doublewords, its task descriptor, groups placed by fixed
coordinates, instances retired, whether it was aborted, the ready time of each die's demand, writes of retired instances' engine
commands that its completion releases, and the releases that its met waits acquire (R311). -/
structure Launch where
  q       : Fin 512
  dw      : List Word
  desc    : List Word
  ext     : Bool
  placed  : List (Nat × Nat)
  retired : List Word
  aborted : Bool
  ready   : Vector Nat 8
  owed    : List Nat
  heard   : List Heard
  deriving DecidableEq, Repr

/-- A barrier group of an active launch (R317): the level, the identifier bits that name the group, its generation, the members that have
arrived, and the writes on their way that their arrivals, and those of the generation opened last, release. -/
structure Barrier where
  q       : Fin 512
  level   : Nat
  key     : Nat
  gen     : BitVec 32
  arrived : List Word
  ids     : List Nat
  opened  : List Nat
  deriving DecidableEq, Repr, Inhabited

/-- A board post on its way (R332): caller, board, slot register, value, arrival number; `pkg` and `rank` (device-wide core × 2 + seat)
order the posts of a round. -/
structure Post where
  id    : Nat
  /-- The caller, when it is of this package. -/
  who   : Option Who
  pkg   : Nat
  rank  : Nat
  board : Nat
  xk    : Word
  value : Word
  /-- Doubleword 1 of the board's header as the caller read it, and writes on their way that the post releases (R258). -/
  d1    : Word
  ids   : List Nat
  /-- PVIEW has found the queue of its destination full (R392). -/
  full  : Bool
  deriving DecidableEq, Repr, Inhabited

/-- A sync-word arrival on its way (R299): sync word, bytes, the seat that pushed the command. -/
structure Arrival where
  key   : Nat
  bytes : Nat
  src   : Source
  /-- A release-marked notice waits for the writes of its command (R295). -/
  after : Option (BitVec 32)
  deriving DecidableEq, Repr, Inhabited

/-- The running sums of a slice (R243). -/
structure SliceAcc where
  m   : Nat
  s   : Nat
  acc : List Nat
  deriving DecidableEq, Repr, Inhabited

/-- What a slice has found so far (R243, R244). -/
structure SliceScan where
  acc     : SliceAcc
  scanned : Nat
  excl    : Nat
  first   : Nat
  bank    : Nat
  deriving DecidableEq, Repr, Inhabited

/-- What a controller has begun for a job (R239, R242): a slice that began at a timebase ns and reads its tokens up to `stop`, with the
data units of token `next` read so far (a unit in error by its stack offset); an append at work until a timebase ns, with the header
it read, the units of its sources read so far and the count of row units written; work with the result it will bring, until a
timebase ns; or the result on its way back since a core cycle. -/
inductive JobOut where
  | scanning (since next stop : Nat) (units : List (Nat ⊕ Nat)) (scan : SliceScan)
  | moving (until' head : Nat) (read : List Nat) (written : Nat)
  | running (until' : Nat) (result : Nat)
  | leaving (since : Nat) (result : Nat)
  deriving DecidableEq, Repr, Inhabited

/-- A slice, an append or an AFOLIO on its way to a stack controller (R238, R239, R242): the command it serves, its folio, the header an
AFOLIO writes, the slice's first token in the range and token count, where its record or status goes (none: no report), and the core
cycle in which it reaches the controller at the earliest. -/
structure CtlJob where
  core   : Fin 904
  seat   : Fin 2
  acc    : BitVec 32
  append : Bool
  head   : Option Nat
  folio  : Place
  first  : Nat
  len    : Nat
  dest   : Option Place
  at'    : Nat
  out    : Option JobOut
  deriving DecidableEq, Repr, Inhabited

/-- A stack (R228 to R233): band, reading, the timebase microsecond of that reading plus one, state, REFI, retired quads (bit die × 16 +
quad), counts of each bank's errors, the timebase ns of its uncorrectable errors in the last 24 hours, error table and counts. -/
structure Stack where
  reading : Int
  readAt  : Nat
  refi    : Nat
  band    : Fin 8
  down    : Bool
  retired : BitVec 256
  bankErr : List (Nat × Nat)
  recent  : List (Nat × Nat)
  table   : Vector Word 256
  next    : Nat
  ceCount : Nat
  ueCount : Nat
  deriving DecidableEq, Repr

/-- A flit that a fabric port sends (R319): its destination package, its channel (0 response, 1 notice, 2 posted write, 3 request), the
number of the request it carries, whether it is a posted write that the port counts, the count that a release-marked flag carries (R259),
whether it is an error answer (R205, R347), the value that an answer brings, and the timebase ns at which it was sent. -/
structure OutFlit where
  pkg   : Nat
  ch    : Fin 4
  id    : Option Nat
  write : Bool
  flag  : Bool
  count : BitVec 32
  err   : Bool
  data  : Nat
  at'   : Nat
  deriving DecidableEq, Repr, Inhabited

/-- A fabric port (R259, R319, R400, R401): posted writes sent to and landed from each package, the release-marked flags that wait
for their count, each with its source package, how often in a row the flit expected next has been refused; the queue and the credits of each channel, whether the last of
posted writes and requests was a posted write, the replay buffer of flits sent and not acknowledged, the timebase ns at which its training
began, and by channel the credits of arrived flits that it has not yet returned to its neighbour. -/
structure Port where
  up       : Bool
  training : Bool
  trainAt  : Nat
  rxSeq    : BitVec 12
  txSeq    : BitVec 12
  sent     : List (Nat × BitVec 32)
  landed   : List (Nat × BitVec 32)
  held     : List (Nat × FlitReq)
  refusals : Nat
  queue    : Vector (List OutFlit) 4
  credit   : Vector Nat 4
  posted   : Bool
  replay   : List OutFlit
  owed     : Vector Nat 4
  /-- Arriving references refused (R347). -/
  denied   : Nat
  deriving DecidableEq, Repr

/-- A portable object of a loaded image (R371): its SHA-512 digest, its doublewords and its length in bytes. -/
structure PortObj where
  digest : BitVec 512
  words  : List Word
  bytes  : Nat
  deriving DecidableEq, Repr, Inhabited

/-- A loaded image (R364, R397, R412): its handle and queue, whether it came under a debug token, for each task graph its launch records
as packets, its security version; the root and the key slot of its tables (R367), the addresses of its task descriptors in force (R366),
the addresses and lengths of its boards (R327), the physical memory it takes with the next free table in it, and its portable objects. -/
structure Image where
  handle : BitVec 32
  q      : Fin 64
  debug  : Bool
  graphs : List (List (List Word))
  svn    : Nat
  root   : Word
  slot   : Fin 64
  descs  : List Nat
  boards : List (Nat × Nat)
  ranges : List (Nat × Nat)
  table  : Nat
  objs   : List PortObj
  deriving DecidableEq, Repr, Inhabited

/-- A translation (R372): its key, the object, its descriptor and catalogue entry, and the translator's choices: the strips of a trip (none
where the object has too many live values for one), each load stream's prefetch distance in trips, and the load streams that copy
commands stage. -/
structure Translation where
  obj    : PortObj
  catsig : Word
  tver   : BitVec 32
  desc   : Nat
  entry  : Nat
  group  : Option Nat
  dist   : List (Nat × Nat)
  staged : List Nat
  deriving DecidableEq, Repr, Inhabited

/-- A task graph running on a die's runner (R314, R397): the queue of its image, and the launch records still to be launched. -/
structure Graph where
  die    : Fin 8
  handle : BitVec 32
  q      : Fin 64
  left   : List (List Word)
  graph  : Nat
  arg    : Word
  compl  : Word
  /-- Launches not yet completed: queue id and slot count. -/
  pending : List (Fin 512 × BitVec 32)
  aborted : Bool
  deriving DecidableEq, Repr, Inhabited

/-- A life record (R388): its number and the digest of the record before it. -/
structure LifeRec where
  number : Nat
  digest : BitVec 512
  body   : List Nat
  deriving DecidableEq, Repr

/-- Cumulative counts for the life record (R388). -/
structure Life where
  freezes : Vector (Vector Nat 16) 8
  rebinds : Vector Nat 8
  bounds  : Vector Nat 8
  faults  : Vector (Vector Nat 20) 8
  heat    : Vector (Vector Nat 5) 24
  steps   : Vector (Vector Nat 13) 8
  replays : Vector Nat 64
  /-- The quads retired over the life of the part, by stack (R232). -/
  quads   : Vector (BitVec 256) 24
  deriving DecidableEq, Repr

/-- An armed monitor (R223, R301): the stream that waits and the place of its word. -/
structure Monitor where
  who   : Who
  place : Place
  deriving DecidableEq, Repr, Inhabited

/-- A TLBI that its stream Y has not yet fenced (R350): its die, the page and the address space it names, and, once every TLB has
dropped its entries, the request number and the started commands at that time, whose accesses a TLBFENCE waits for. -/
structure Shoot where
  die  : Fin 8
  page : Option Nat
  asid : Option (BitVec 16)
  mark : Option (Nat × List (SeatRef × Fin 3 × BitVec 32))
  deriving DecidableEq, Repr, Inhabited

/-- What is fused at test and never changes (R2): the part (R1), the die concordance (R354) and the row concordances (R355). -/
structure Fuses where
  part    : Part
  concDie : Word
  concRow : Vector Word 8
  deriving DecidableEq, Repr

/-- A completion that the package owes the host (R395, R399): the data of a read, Unsupported Request, or Completer Abort. -/
inductive HostCpl where
  | data (v : Word)
  | unsupported
  | abort
  deriving DecidableEq, Repr

/-- The package. -/
structure State where
  fuse     : Fuses
  core     : Vector Core 904
  die      : Vector Die 8
  mem      : List Host.Cell
  /-- 8-byte words of slices and hubs with a poison mark (R200, R201): key / 8, rising. -/
  poison   : List Nat
  /-- Words and stack units with a correctable error (R201, R230). -/
  corr     : List Nat
  /-- Stack data units in uncorrectable error (R230): key / 32, rising. -/
  badUnits : List Nat
  /-- The key contents under which a stack unit was written (R353): key / 32, slot contents; unlisted units were written
  under slot 0's boot contents. -/
  unitKey  : List (Nat × BitVec 512)
  flights  : List Flight
  /-- Performed releases of the bytes of an access, with the writes before them still on their way (R253). -/
  carried  : List (Place × Nat × Heard)
  /-- The sc fences whose order event is past, with the writes before them still on their way (R256). -/
  scPast   : List Heard
  monitors : List Monitor
  arrivals : List Arrival
  posts    : List Post
  jobs     : List CtlJob
  /-- The timebase ns from which an attention unit is free (R228, R242), by stack × 256 + die × 16 + quad. -/
  unitFree : List (Nat × Nat)
  /-- The armed accession of each sync word (R299): key, core, number. -/
  armed    : List (Nat × BitVec 32)
  shoots   : List Shoot
  launches : List Launch
  barriers : List Barrier
  images   : List Image
  graphs   : List Graph
  /-- The translations made since reset (R372); their entries stand in stack memory (R373). -/
  transl   : List Translation
  /-- The digests of the objects that the translator has answered FORMAT (R371). -/
  badObjs  : List (BitVec 512)
  keys     : Vector (BitVec 512) 64
  keyStat  : Word
  hostRoot : Word
  domRoot  : Word
  quar     : Word
  dieRst   : Word
  hbarVa   : Word
  recCtl   : Word
  /-- Record mode's log since reset, newest first (R393). -/
  recLog   : List RecEntry
  /-- How many of its entries have been streamed to the host buffer (R393). -/
  recSent  : Nat
  /-- What replay mode has still to inject, oldest first (R393). -/
  replayLog : List RecEntry
  /-- The boot's debug token names debug mode (R394). -/
  dbgToken : Bool
  bootStat : Word
  /-- The firmware digest measured into the attestation log (R408 step 4). -/
  measured : BitVec 512
  timebase : Word
  secctr   : Word
  stack    : Vector Stack 24
  port     : Vector Port 64
  hostTlb  : Tlb
  portTlb  : Vector Tlb 64
  /-- MSI-X vectors raised (R397). -/
  msix     : BitVec 64
  /-- Completions that the host has not yet been given, oldest first (R395, R399). -/
  hostOut  : List HostCpl
  /-- Module power in W, averaged over 1 ms (R407). -/
  power    : Nat
  /-- A device error has been raised (R228, R402, R407). -/
  devError : Bool
  life     : Life
  lifeRing : List LifeRec
  /-- The timebase hour of the last life record since reset (R388). -/
  lifeHour : Nat
  freezeN  : Bool
  /-- Timebase synchronised to the domain (R389, R402). -/
  synced   : Bool
  stopped  : Bool
  seq      : Nat
  /-- MODEL: the stream whose instruction runs (log 1). -/
  turn     : Who
  /-- MODEL: the engine whose program's word runs (log 1). -/
  turnE    : EngineId
  /-- MODEL: the acts to come (log 1, 2). -/
  agenda   : List Act
  /-- MODEL: the number of steps taken, to which the free choices are applied (log 1). -/
  tick     : Nat
  deriving DecidableEq, Repr

/-! ## Reset -/

def Fifo.reset : Fifo := ⟨[], 0, 0⟩

def Stream.reset : Stream :=
  { x := Vector.replicate 32 0, p := 1, t := Vector.replicate 8 0, pc := 0, lc := 0, loopPc := 0, ps := 0, repLeft := 0,
    stages := [], repStage := none, halted := true, passes := 0, comma := none, packets := [], busy := [], div := none,
    wait := .none, issued := 0, fwd := [], heard := [], fenced := [], lastPage := none, waiting := none }

def CSched.reset : CSched := ⟨0, 0, false, false, false, false, [], []⟩

def VecFile.reset : VecFile :=
  { v := Vector.replicate 32 0, tag := Vector.replicate 32 0, k := Vector.replicate 8 0, vlen := 256, vstat := 0, rrb := 0 }

def TileFile.reset : TileFile :=
  { b := Vector.replicate 8 ⟨0, 0, 0⟩, a := Vector.replicate 4 ⟨0, 0, false, 0, 0⟩, mstat := 0, matgeom := 0,
    srec := Vector.replicate 2 0 }

def Slot.reset : Slot := ⟨0, 0, 0, false, false, false, 0⟩

def TrapFile.reset : TrapFile :=
  { vec := 0, info := 0, addr := 0, pc := Vector.replicate 4 0, scratch := Vector.replicate 2 0, lstat := 0, saveBase := 0,
    nestInfo := 0, nestPc := 0, shLc := 0, shLoopPc := 0, shPs := 0, shRep := 0, shStages := [], shRepStage := none,
    shComma := none, last := (0, 0) }

def CutFile.reset : CutFile :=
  { info := 0, syms := 0, pc := Vector.replicate 4 0, retimeVec := 0, commaLimit := 65536, latch := none, preempt := false, bookmark := false, atRetire := false, handlerAge := 0 }

/-- An entry that no `.sym` declares (R321): HOLD, everything else 0. -/
def LexEntry.reset : LexEntry :=
  { hi := 0, lo := 0, npol := 0, setc := false, setp := false, setb := false, policy := 2, state := 0, b := 0, p := 0,
    p1 := 0, sb := 0, samples := 0, span0 := 0, frozen := 0, late := 0, early := 0, fvalue := 0, maxs := 0,
    bkt := Vector.replicate 16 0, frozenTotal := 0, par := 0x1000_0020_0620#64 }

def Attrs.reset : Attrs := ⟨false, false, 0, 0, none, false, false, false, 0, none⟩

def Progress.reset : Progress := ⟨false, 0, 0, 0, 0⟩

def EngineCtx.reset : EngineCtx :=
  { stack := [], loops := [], pc := 0, running := false, faulted := false, forked := false, attrs := Attrs.reset,
    queue := [], lastAcc := 0, progress := Progress.reset, frozen := false, packets := [],
    stepped := 0, full := false, heard := [], drains := [] }

def Inst.reset : Inst :=
  { phase := .free, q := 0, task := 0, key := 0, free := 0, serial := 0, entry := Vector.replicate 4 0,
    ebase := Vector.replicate 3 0, arg := 0, port := none }

def SysFile.reset : SysFile :=
  { wid := 0, roles := 0, schedTime := 0, win := Vector.replicate 8 0, xlatRoot := 0, larg := 0, bstatus := 0,
    perfCnt := Vector.replicate 16 0, perfNow := Vector.replicate 16 0, perfSel := Vector.replicate 16 0, bmark := 0, bmHead := Vector.replicate 3 0,
    dbgCtl := 0 }

def Seat.reset : Seat :=
  { str := Vector.replicate 4 Stream.reset, c := CSched.reset, vec := VecFile.reset, q := Vector.replicate 16 Fifo.reset,
    ln := Vector.replicate 64 Slot.reset, tile := TileFile.reset, trap := TrapFile.reset, cut := CutFile.reset,
    lex := Vector.replicate 32 LexEntry.reset, lexAt := (0, 0), sys := SysFile.reset, loads := [], stores := [], left := (0, 0), elems := [],
    sideLog := [],
    conjL := 0, conjS := 0, tagsL := [], tagsS := [], vamo := none, eng := Vector.replicate 3 EngineCtx.reset,
    vm := Vector.replicate 4 0, inst := Inst.reset, bars := [], tlbK := [], tlbL := [], tlbS := [] }

/-- R318: each pipe acts as if its last grant had gone to seat 1 S (seat 1 C on the vector pipe). -/
def Pipe.reset (s : StreamId) : Pipe := ⟨[], (1, s), Vector.replicate 2 s, none, false⟩

def Core.reset : Core :=
  { seat := Vector.replicate 2 Seat.reset, cycle := 0, live := 0, freeze := none, flags := Vector.replicate 64 ⟨0, 0, 0, []⟩, accNext := 1,
    ageLimit := 64, lexParam := 0x1000_0020_0620#64, wrecBase := 0, wrecPtr := 0, vpipe := Pipe.reset .C,
    port := Pipe.reset .S, served := Vector.replicate 4 1, etlb := Vector.replicate 3 [], wheel := 5, wheelTurn := 0,
    frozeAt := 0, metAt := (0, 0), pieceAt := 0, queryAt := 0 }

def LaunchQ.reset : LaunchQ := ⟨0, 0, 0, none, none, 0⟩

def Die.reset : Die :=
  { lq := Vector.replicate 64 LaunchQ.reset, ageUs := 50, arbPtr := Vector.replicate 8 0, clkPlan := 0, collGrp := 0,
    steps := [], haltTo := 0, junction := 0, mgmtAt := 0, msg := Vector.replicate 8 0, mbox := 0, hubSel := 0, hubIdx := 0, fills := [], ftlb := [],
    inReset := false, resetAt := 0, icache := [] }

def Stack.reset : Stack :=
  { reading := 0, readAt := 0, refi := 0, band := 0, down := false, retired := 0, bankErr := [], recent := [], table := Vector.replicate 256 0, next := 0,
    ceCount := 0, ueCount := 0 }

def Port.reset : Port :=
  { up := true, training := false, trainAt := 0, rxSeq := 0, txSeq := 0, sent := [], landed := [], held := [], refusals := 0,
    queue := Vector.replicate 4 [], credit := #v[64, 16, 128, 64], posted := false, replay := [], owed := Vector.replicate 4 0, denied := 0 }

def Life.reset : Life :=
  { freezes := Vector.replicate 8 (Vector.replicate 16 0), rebinds := Vector.replicate 8 0, bounds := Vector.replicate 8 0,
    faults := Vector.replicate 8 (Vector.replicate 20 0), heat := Vector.replicate 24 (Vector.replicate 5 0),
    steps := Vector.replicate 8 (Vector.replicate 13 0), replays := Vector.replicate 64 0, quads := Vector.replicate 24 0 }

/-- The fuses of the state after reset (log 4). -/
def Fuses.reset : Fuses := ⟨Config.part, Config.concDie, Vector.replicate 8 Config.concRow⟩

/-- The package right after reset (R409): every register at its stated reset value, memory with nothing listed, and the
boot still to run (R408); the values that no rule states are those of log 2, 4 and 20. -/
def State.reset : State :=
  { fuse := Fuses.reset, core := Vector.replicate 904 Core.reset, die := Vector.replicate 8 Die.reset, mem := [], poison := [], corr := [],
    badUnits := [], unitKey := [], flights := [], carried := [], scPast := [], monitors := [], arrivals := [], posts := [], jobs := [], unitFree := [], armed := [], shoots := [], launches := [],
    barriers := [], images := [], graphs := [], transl := [], badObjs := [], keys := Vector.replicate 64 0, keyStat := 0, hostRoot := 0, domRoot := 0,
    quar := 0, dieRst := 0, hbarVa := 0, recCtl := 0, recLog := [], recSent := 0, replayLog := [], dbgToken := false, bootStat := 0, measured := 0, timebase := 0, secctr := 0,
    stack := Vector.replicate 24 Stack.reset, port := Vector.replicate 64 Port.reset, hostTlb := [],
    portTlb := Vector.replicate 64 [], msix := 0, hostOut := [], power := 0, devError := false, life := Life.reset, lifeRing := [], lifeHour := 0, freezeN := false,
    synced := true, stopped := false, seq := 0, turn := ⟨⟨0, 0⟩, .K⟩, turnE := .matrix, agenda := [.event .powerUp], tick := 0 }

end Sys2Proof.Machine
end

