-- ==== Sys2Proof/Machine/Bits.lean ====
section
/-!
DEFINITION. Bit fields, byte order, sign extension and element lists: the helpers every other file of the machine uses.
-/
namespace Sys2Proof

/-- The stream's place in a seat's vector of streams, and the SRC code of R188. -/
def StreamId.idx : StreamId → Fin 4
  | .K => 0 | .L => 1 | .C => 2 | .S => 3

/-- The engine code of R287. -/
def EngineId.idx : EngineId → Fin 3
  | .matrix => 0 | .copy => 1 | .query => 2

/-- A system core (log 5): the core of slot-wheel position 896 + d (R255). -/
def SeatRef.isSys (r : SeatRef) : Bool := 896 ≤ r.core.val

/-- The stream is a stream Y (R69). -/
def Who.isY (w : Who) : Bool := w.ref.isSys

end Sys2Proof

namespace Sys2Proof.Machine

/-- Bits [lo + len − 1 : lo] of a value, as a natural number (R6). -/
def fld {n : Nat} (w : BitVec n) (lo len : Nat) : Nat := (w.toNat >>> lo) % 2 ^ len

/-- Bit i. -/
def bit {n : Nat} (w : BitVec n) (i : Nat) : Bool := w.getLsbD i

/-- `w` with bits [lo + len − 1 : lo] replaced by v mod 2^len. -/
def putFld {n : Nat} (w : BitVec n) (lo len v : Nat) : BitVec n :=
  (w &&& ~~~(BitVec.ofNat n ((2 ^ len - 1) <<< lo))) ||| BitVec.ofNat n ((v % 2 ^ len) <<< lo)

/-- A natural number read as two's complement in `w` bits. -/
def toSigned (w v : Nat) : Int :=
  let u := v % 2 ^ w
  if u < 2 ^ (w - 1) then (u : Int) else (u : Int) - (2 ^ w : Nat)

/-- An integer modulo 2^w. -/
def ofSigned (w : Nat) (i : Int) : Nat := (i % ((2 ^ w : Nat) : Int)).toNat

/-- Sign extension of the low `w` bits to 64. -/
def signExt (w : Nat) (v : Nat) : Word := BitVec.ofInt 64 (toSigned w v)

/-- Element i of width w bits. -/
def lane {n : Nat} (d : BitVec n) (w i : Nat) : Nat := (d.toNat >>> (w * i)) % 2 ^ w

/-- The value whose element i of width w is the i-th of the list (each taken modulo 2^w). -/
def packLanes (w : Nat) : List Nat → Nat
  | [] => 0
  | x :: xs => x % 2 ^ w + 2 ^ w * packLanes w xs

/-- The value of n elements of width w given by a function of the element index, from index i on. -/
def tabulate (w : Nat) (f : Nat → Nat) : Nat → Nat → Nat
  | 0, _ => 0
  | n + 1, i => f i % 2 ^ w + 2 ^ w * tabulate w f n (i + 1)

/-- A mask of n one bits. -/
def ones (n : Nat) : Nat := 2 ^ n - 1

/-- Update of one entry of a register file. -/
def vmod {α : Type} {n : Nat} (v : Vector α n) (i : Fin n) (f : α → α) : Vector α n := v.set i (f v[i])

/-- Bit length of a natural number below 2^fuel. -/
def bitLen : Nat → Nat → Nat
  | 0, _ => 0
  | f + 1, n => if n = 0 then 0 else 1 + bitLen f (n / 2)

/-- Number of one bits among the low `f` bits. -/
def popCount : Nat → Nat → Nat
  | 0, _ => 0
  | f + 1, n => n % 2 + popCount f (n / 2)

/-- Floor of the square root, by bits from 2^f down. -/
def isqrtGo (n : Nat) : Nat → Nat → Nat
  | 0, r => if (r + 1) * (r + 1) ≤ n then r + 1 else r
  | f + 1, r => let c := r + 2 ^ (f + 1); isqrtGo n f (if c * c ≤ n then c else r)

/-- Floor of the square root of n < 4^(f+1). -/
def isqrt (f n : Nat) : Nat := isqrtGo n f 0

/-- Insertion into a rising list of numbers. -/
def insNat (k : Nat) : List Nat → List Nat
  | [] => [k]
  | a :: as => if k < a then k :: a :: as else if k = a then a :: as else a :: insNat k as

/-- The association of a key, in a list of pairs. -/
def assoc {β : Type} (k : Nat) : List (Nat × β) → Option β
  | [] => none
  | (a, b) :: r => if a = k then some b else assoc k r

/-- Setting the association of a key in a list with rising keys. -/
def setAssoc {β : Type} (k : Nat) (v : β) : List (Nat × β) → List (Nat × β)
  | [] => [(k, v)]
  | (a, b) :: r => if k < a then (k, v) :: (a, b) :: r else if k = a then (k, v) :: r else (a, b) :: setAssoc k v r

/-- The list without its i-th entry. -/
def dropAt {α : Type} : Nat → List α → List α
  | _, [] => []
  | 0, _ :: r => r
  | i + 1, a :: r => a :: dropAt i r

end Sys2Proof.Machine
end

