-- ==== Sys2Proof/Machine/Cipher.lean ====
section
/-!
DEFINITION. AES-256-XTS, with which the stack controllers encrypt every 32-byte data unit (R227, R353): the cipher of FIPS 197 and
the XTS mode of IEEE 1619, over lists of bytes. The order of a key slot's bytes is that of log 6.
-/
namespace Sys2Proof.Machine.Aes

/-- The S-box in rows of 32 bytes, byte 0 lowest. -/
def sboxRows : List Nat :=
  [0xc072a49cafa2d4adf04759fa7dc982ca76abd7fe2b670130c56f6bf27b777c63,
   0x75b227ebe28012079a059618c323c7041531d871f1e5a534ccf73f362693fdb7,
   0xcf584c4a39becb6a5bb1fc20ed00d153842fe329b3d63b52a05a6e1b1a2c8309,
   0xd2f3ff1021dab6bcf5389d928f40a351a89f3c507f02f94585334d43fbaaefd0,
   0xdb0b5ede14b8ee4688902a22dc4f816073195d643d7ea7c41744975fec130ccd,
   0x08ae7a65eaf4566ca94ed58d6d37c8e779e4959162acd3c25c2406490a3a32e0,
   0x9e1dc186b95735610ef6034866b53e708a8bbd4b1f74dde8c6b4a61c2e2578ba,
   0x16bb54b00f2d99416842e6bf0d89a18cdf2855cee9871e9b948ed9691198f8e1]

/-- The inverse S-box. -/
def invRows : List Nat :=
  [0xcbe9dec444438e3487ff2f9b8239e37cfbd7f3819ea340bf38a53630d56a0952,
   0x25d18b6d49a25b76b224d92866a12e084ec3fa420b954cee3d23c2a632947b54,
   0x849d8da75746155edab9edfd5048706c92b6655dcc5ca4d41698688664f6f872,
   0x6b8a130103bdafc1020f3fca8f1e2cd00645b3b80558e4f70ad3bc8c00abd890,
   0x6edf751ce837f9e28535ade72274ac9673e6b4f0cecff297eadc674f4111913a,
   0xf45acd78fec0db9a2079d2c64b3e56fc1bbe18aa0e62b76f89c5291d711af147,
   0xef9cc9939f7ae52d0d4ab519a97f51605fec8027591012b131c7078833a8dd1f,
   0x7d0c2155631469e126d677ba7e042b17619953833cbbebc8b0f52aae4d3be0a0]

/-- A byte of a table. -/
def look (t : List Nat) (b : Nat) : Nat := t.getD (b / 32) 0 / 2 ^ (8 * (b % 32)) % 256

/-- Multiplication by x in GF(2^8). -/
def xtime (b : Nat) : Nat := if 128 ≤ b then (2 * b) ^^^ 0x11B else 2 * b

/-- Multiplication by a constant below 16. -/
def times (c b : Nat) : Nat :=
  let b2 := xtime b
  let b4 := xtime b2
  let b8 := xtime b4
  (if c % 2 = 1 then b else 0) ^^^ (if c / 2 % 2 = 1 then b2 else 0) ^^^ (if c / 4 % 2 = 1 then b4 else 0) ^^^
    (if c / 8 % 2 = 1 then b8 else 0)

/-- Byte-wise sum. -/
def xors (a b : List Nat) : List Nat := List.zipWith (fun x y => x ^^^ y) a b

/-- The bytes of a block taken in the order of a shift of rows: byte (r, c) comes from column c + d × r. -/
def shiftRows (d : Nat) (s : List Nat) : List Nat :=
  (List.range 16).map fun i => s.getD (4 * ((i / 4 + d * (i % 4)) % 4) + i % 4) 0

/-- The columns times the circulant matrix whose first row is `m`. -/
def mixColumns (m : List Nat) (s : List Nat) : List Nat :=
  (List.range 16).map fun i =>
    (List.range 4).foldl (fun v k => v ^^^ times (m.getD ((k + 4 - i % 4) % 4) 0) (s.getD (4 * (i / 4) + k) 0)) 0

/-- The next eight words of the key schedule, as 32 bytes, from the last eight. -/
def nextKey (w : List Nat) (rc : Nat) : List Nat :=
  let word (l : List Nat) (i : Nat) : List Nat := (l.drop (4 * i)).take 4
  let sub (l : List Nat) : List Nat := l.map (look sboxRows)
  let last := word w 7
  let t := xors (sub (last.tail ++ last.take 1)) [rc, 0, 0, 0]
  let a0 := xors (word w 0) t
  let a1 := xors (word w 1) a0
  let a2 := xors (word w 2) a1
  let a3 := xors (word w 3) a2
  let a4 := xors (word w 4) (sub a3)
  let a5 := xors (word w 5) a4
  let a6 := xors (word w 6) a5
  a0 ++ a1 ++ a2 ++ a3 ++ a4 ++ a5 ++ a6 ++ xors (word w 7) a6

/-- The key schedule of a 32-byte key: n more groups of eight words. -/
def schedule : Nat → Nat → List Nat → List Nat
  | 0, _, w => w
  | n + 1, rc, w => w ++ schedule n (xtime rc) (nextKey w rc)

/-- The 15 round keys of 16 bytes. -/
def roundKeys (key : List Nat) : List (List Nat) :=
  let w := schedule 7 1 key
  (List.range 15).map fun i => (w.drop (16 * i)).take 16

/-- The rounds of the cipher with the keys left. -/
def encRounds : List (List Nat) → List Nat → List Nat
  | [], s => s
  | [k], s => xors (shiftRows 1 (s.map (look sboxRows))) k
  | k :: r, s => encRounds r (xors (mixColumns [2, 3, 1, 1] (shiftRows 1 (s.map (look sboxRows)))) k)

/-- Encryption of a block. -/
def encrypt (key s : List Nat) : List Nat :=
  match roundKeys key with
  | [] => s
  | k :: r => encRounds r (xors s k)

/-- The rounds of the inverse cipher with the keys left, last key first. -/
def decRounds : List (List Nat) → List Nat → List Nat
  | [], s => s
  | [k], s => xors ((shiftRows 3 s).map (look invRows)) k
  | k :: r, s => decRounds r (mixColumns [14, 11, 13, 9] (xors ((shiftRows 3 s).map (look invRows)) k))

/-- Decryption of a block. -/
def decrypt (key s : List Nat) : List Nat :=
  match (roundKeys key).reverse with
  | [] => s
  | k :: r => decRounds r (xors s k)

/-- The n low bytes of a number, lowest first. -/
def bytesOf : Nat → Nat → List Nat
  | 0, _ => []
  | n + 1, v => v % 256 :: bytesOf n (v / 256)

/-- Multiplication of a tweak by α (XTS). -/
def alpha (t : Nat) : Nat := if 2 ^ 127 ≤ t then (2 * t % 2 ^ 128) ^^^ 0x87 else 2 * t

/-- The two tweaks of data unit u under a key slot. -/
def tweaks (key : BitVec 512) (u : Nat) : Nat × Nat :=
  let t := packLanes 8 (encrypt (bytesOf 32 (key.toNat / 2 ^ 256)) (bytesOf 16 u))
  (t, alpha t)

/-- A 32-byte unit through a block function under tweaks (XTS). -/
def xts (f : List Nat → List Nat) (t : Nat × Nat) (v : Nat) : Nat :=
  let one (t v : Nat) : Nat := packLanes 8 (f (bytesOf 16 (v ^^^ t))) ^^^ t
  one t.1 (v % 2 ^ 128) + 2 ^ 128 * one t.2 (v / 2 ^ 128 % 2 ^ 128)

/-- Unit u encrypted under a key slot's contents (R227). -/
def encryptUnit (key : BitVec 512) (u : Nat) (d : BitVec 256) : BitVec 256 :=
  BitVec.ofNat 256 (xts (encrypt (bytesOf 32 key.toNat)) (tweaks key u) d.toNat)

/-- Unit u decrypted under a key slot's contents (R227). -/
def decryptUnit (key : BitVec 512) (u : Nat) (d : BitVec 256) : BitVec 256 :=
  BitVec.ofNat 256 (xts (decrypt (bytesOf 32 key.toNat)) (tweaks key u) d.toNat)

end Sys2Proof.Machine.Aes

namespace Sys2Proof.Machine

/-- The tweak of the data unit at a physical key / 32: (stack index × 2^36 + o) / 32 (R227). -/
def unitTweak (u : Nat) : Nat := u % 2 ^ 36

/-- What unit u, written under key contents `kw`, reads as under key contents `kr` (R353). -/
def recrypt (kw kr : BitVec 512) (u : Nat) (d : BitVec 256) : BitVec 256 :=
  Aes.decryptUnit kr (unitTweak u) (Aes.encryptUnit kw (unitTweak u) d)

end Sys2Proof.Machine
end

