-- ==== Sys2Proof/Machine/Mem.lean ====
section
/-!
DEFINITION. Memory as a canonical list of (address, byte) pairs: addresses rising, no entry equal to 0, which an unlisted
address reads as (R200 for slices and hubs; log 3 for the stacks and host memory). Layouts and byte order (R198, R202).
-/
namespace Sys2Proof.Machine

abbrev Cells := List Host.Cell

/-- What an unlisted address reads as: 0 (R200; log 3). -/
def unlisted : Byte := 0

/-- The byte at a key. -/
def Cells.read : Cells → Nat → Byte
  | [], _ => unlisted
  | (a, b) :: r, k => if k = a then b else if k < a then unlisted else Cells.read r k

/-- Writing one byte keeps the canonical form: writing 0 removes the entry. -/
def Cells.write : Cells → Nat → Byte → Cells
  | [], k, v => if v = unlisted then [] else [(k, v)]
  | (a, b) :: r, k, v =>
    if k < a then (if v = unlisted then (a, b) :: r else (k, v) :: (a, b) :: r)
    else if k = a then (if v = unlisted then r else (k, v) :: r)
    else (a, b) :: Cells.write r k v

/-- Every address of a list is above k. -/
def Cells.above (k : Nat) : Cells → Bool
  | [] => true
  | (a, _) :: _ => k < a

/-- The canonical form: addresses strictly rising and no entry equal to what an unlisted address reads as. -/
def Memory.wf : Cells → Bool
  | [] => true
  | (a, b) :: r => decide (b ≠ unlisted) && Cells.above a r && Memory.wf r

/-- Where stack and host memory stand in the key space: 2^52 above the physical address (R341). -/
def physBase : Nat := 2 ^ 52

/-- The skewed layout of a slice (R198): bits [7:3] of the offset become (o[12:8] + o[7:3]) mod 32. -/
def skewKey (k : Nat) : Nat :=
  let bank := (k / 256 % 32 + k / 8 % 32) % 32
  k / 256 * 256 + bank * 8 + k % 8

/-- The key of byte i of an access. -/
def Place.keyOf (p : Place) (i : Nat) : Nat := if p.skew then skewKey (p.key + i) else p.key + i

/-- The stored bytes of n consecutive keys, little-endian. -/
def Cells.readN (m : Cells) (k : Nat) : Nat → Nat
  | 0 => 0
  | n + 1 => (Cells.read m k).toNat + 256 * Cells.readN m (k + 1) n

/-- The package, die and slice or hub that a window address names (R195). -/
def windowHome (a : Nat) : Home :=
  let u := a / 2 ^ 22 % 128
  { pkg := a / 2 ^ 32 % 512, die := a / 2 ^ 29 % 8, unit := if u < 112 then some u else none }

/-- The key of an address lies in stack or host memory. -/
def isPhys (k : Nat) : Bool := physBase ≤ k

/-- Physical address of a key. -/
def physOf (k : Nat) : Nat := k - physBase

/-- The stack a key of kind 0 lies in (R341). -/
def stackOf (k : Nat) : Nat := physOf k / 2 ^ 36 % 32

/-- Where domain references stand in the key space: by package and virtual address, which the access carries (R341, R347). -/
def domBase : Nat := 2 ^ 80

/-- The key of a virtual address of another package (R341 kind 2). -/
def domKey (pkg va : Nat) : Nat := domBase + pkg * 2 ^ 57 + va

/-- The kind of a physical key (R341). -/
def kindOf (k : Nat) : Nat := if domBase ≤ k then 2 else physOf k / 2 ^ 50 % 4

/-- The key contents of a slot. -/
def State.keyOf (s : State) (slot : Option (Fin 64)) : BitVec 512 :=
  match slot with
  | some k => s.keys[k]
  | none => 0

/-- One byte of a stack or window as read through a key slot: a unit written under other key contents decrypts to other
bytes (R353). -/
def State.readKeyed (s : State) (slot : Option (Fin 64)) (k : Nat) : Byte :=
  if isPhys k then
    match assoc (k / 32) s.unitKey with
    | none => Cells.read s.mem k
    | some kw =>
      if kw = s.keyOf slot then Cells.read s.mem k
      else (recrypt kw (s.keyOf slot) (physOf k / 32)
             (BitVec.ofNat 256 (Cells.readN s.mem (k / 32 * 32) 32))).extractLsb' (8 * (k % 32)) 8
  else Cells.read s.mem k

/-- Bytes i to i + n − 1 of an access, little-endian. -/
def State.readFrom (s : State) (p : Place) (i : Nat) : Nat → Nat
  | 0 => 0
  | n + 1 => (s.readKeyed p.slot (p.keyOf i)).toNat + 256 * s.readFrom p (i + 1) n

/-- The first n bytes of an access. -/
def State.readPlace (s : State) (p : Place) (n : Nat) : Nat := s.readFrom p 0 n

/-- The bytes of a 32-byte unit as they decrypt now, written back under the current key (a partial write of a unit). -/
def rekeyBytes (v : BitVec 256) (k : Nat) : Nat → Cells → Cells
  | 0, m => m
  | n + 1, m => rekeyBytes v (k + 1) n (Cells.write m k (v.extractLsb' (8 * (k % 32)) 8))

/-- Unit u is made to stand under the key contents `kw`, its bytes as they read now (R353). -/
def State.rekey (s : State) (kw : BitVec 512) (u : Nat) : State :=
  match assoc u s.unitKey with
  | none => { s with unitKey := setAssoc u kw s.unitKey }
  | some ko =>
    if ko = kw then s
    else
      let v := recrypt ko kw (u - physBase / 32) (BitVec.ofNat 256 (Cells.readN s.mem (u * 32) 32))
      { s with mem := rekeyBytes v (u * 32) 32 s.mem, unitKey := setAssoc u kw s.unitKey }

/-- One byte written through a key slot. -/
def State.writeKeyed (s : State) (slot : Option (Fin 64)) (k : Nat) (b : Byte) : State :=
  if isPhys k && kindOf k = 0 then
    let s := s.rekey (s.keyOf slot) (k / 32)
    { s with mem := Cells.write s.mem k b }
  else { s with mem := Cells.write s.mem k b }

/-- The low n bytes of v written from byte i of an access on. -/
def State.writeFrom (s : State) (p : Place) (v : Nat) (i : Nat) : Nat → State
  | 0 => s
  | n + 1 => (s.writeKeyed p.slot (p.keyOf i) (BitVec.ofNat 8 v)).writeFrom p (v / 256) (i + 1) n

/-- The low n bytes of v written at an access. -/
def State.writePlace (s : State) (p : Place) (n v : Nat) : State := s.writeFrom p v 0 n

/-- The 8-byte words an access of n bytes touches, from byte i on (by whole words from the aligned start). -/
def wordsOf (p : Place) (i : Nat) : Nat → List Nat
  | 0 => []
  | n + 1 => insNat (p.keyOf i / 8) (wordsOf p (i + 1) n)

/-- The 8-byte words an access touches. -/
def Place.words (p : Place) (n : Nat) : List Nat := wordsOf p 0 n

/-- The 32-byte units an access touches. -/
def Place.units (p : Place) (n : Nat) : List Nat :=
  (p.words n).foldr (fun w l => insNat (w / 4) l) []

/-- A placed window access. -/
def windowPlace (a : Nat) (skew : Bool) : Place :=
  let h := windowHome a
  { key := a, home := h, slot := none, skew := skew && h.unit.isSome }

end Sys2Proof.Machine
end

