-- ==== Sys2Proof/Machine/Ops.lean ====
section
/-!
DEFINITION. Named operations over the state: reaching a core, seat or stream; counting events; the sequencer (advance,
loop trips, jumps); queue registers; taking a fault (R189) and returning from one (R191).
-/
namespace Sys2Proof.Machine

/-- The outcome of one instruction or step. -/
abbrev Res := Host.Outcome State Fault Refusal

/-! ## Reaching a part of the state -/

/-- One seat. -/
def State.getSeat (s : State) (r : SeatRef) : Seat := s.core[r.core].seat[r.seat]

/-- Replacing a core. -/
def State.setCore (s : State) (c : Fin 904) (v : Core) : State := { s with core := s.core.set c v }

/-- Replacing a seat. -/
def State.setSeat (s : State) (r : SeatRef) (v : Seat) : State :=
  s.setCore r.core { s.core[r.core] with seat := s.core[r.core].seat.set r.seat v }

/-- Changing a seat. -/
def State.modSeat (s : State) (r : SeatRef) (f : Seat → Seat) : State := s.setSeat r (f (s.getSeat r))

/-- One stream of a seat. -/
def Seat.getStr (st : Seat) (i : StreamId) : Stream := st.str[i.idx]

/-- Changing one stream of a seat. -/
def Seat.modStr (st : Seat) (i : StreamId) (f : Stream → Stream) : Seat := { st with str := vmod st.str i.idx f }

/-- One stream. -/
def State.getStr (s : State) (w : Who) : Stream := (s.getSeat w.ref).getStr w.stream

/-- Changing a stream. -/
def State.modStr (s : State) (w : Who) (f : Stream → Stream) : State := s.modSeat w.ref fun st => st.modStr w.stream f

/-- The seat of the running step. -/
def State.mySeat (s : State) : Seat := s.getSeat s.turn.ref

/-- The stream of the running step. -/
def State.me (s : State) : Stream := s.getStr s.turn

/-- Changing the seat of the running step. -/
def State.modMySeat (s : State) (f : Seat → Seat) : State := s.modSeat s.turn.ref f

/-- Changing the stream of the running step. -/
def State.modMe (s : State) (f : Stream → Stream) : State := s.modStr s.turn f

/-- The core of the running step. -/
def State.myCore (s : State) : Core := s.core[s.turn.ref.core]

/-- The live core cycle of the running step's core. -/
def State.now (s : State) : Nat := s.myCore.live

/-- The running step is stream C's. -/
def State.isC (s : State) : Bool := s.turn.stream = .C

/-- The die a core belongs to: core / 112, or the d of system core 896 + d (R7, R255). -/
def coreDie (c : Fin 904) : Fin 8 := if c.val < 896 then ⟨c.val / 112 % 8, by omega⟩ else ⟨(c.val - 896) % 8, by omega⟩

/-- The system core of a die. -/
def sysRef (d : Fin 8) : SeatRef := ⟨⟨896 + d.val, by omega⟩, 0⟩

/-- The schedule time of a seat (R32). -/
def Seat.sched (st : Seat) : Nat := st.sys.schedTime.toNat

/-- One more step of the package-wide request numbering. -/
def State.bump (s : State) : State := { s with seq := s.seq + 1 }

/-! ## Events counted (R383, R384) -/

/-- Counter n of a seat after `k` events of code `ev`, of stream `i` when it is a stream event. -/
def countOne (sel cnt : Word) (ev : Nat) (i : Option StreamId) (k : Nat) : Word :=
  if bit sel 31 && decide (fld sel 0 16 = ev) && (match i with | none => true | some j => bit sel (16 + j.idx.val)) then
    cnt + BitVec.ofNat 64 k
  else cnt

/-- `k` events of code `ev` counted in a seat. -/
def Seat.count (st : Seat) (ev : Nat) (i : Option StreamId) (k : Nat) : Seat :=
  { st with sys := { st.sys with
      perfCnt := Vector.ofFn fun n => countOne st.sys.perfSel[n] st.sys.perfCnt[n] ev i k,
      perfNow := Vector.ofFn fun n => countOne st.sys.perfSel[n] st.sys.perfNow[n] ev i k } }

/-- A new core cycle begins for the counters (R383). -/
def Seat.newCount (st : Seat) : Seat := { st with sys := { st.sys with perfNow := Vector.replicate 16 0 } }

/-! ## Sequencer -/

/-- LC fields (R117). -/
def Stream.act (st : Stream) : Bool := bit st.lc 33
def Stream.lcLen (st : Stream) : Nat := fld st.lc 34 11
def Stream.lcStg (st : Stream) : Nat := fld st.lc 45 3
def Stream.lcIter (st : Stream) : Nat := fld st.lc 0 32

/-- LC of a running LOOP (R119). -/
def mkLc (stg len iter : Nat) (act : Bool) : Word :=
  BitVec.ofNat 64 (iter + (if act then 2 ^ 33 else 0) + len * 2 ^ 34 + stg * 2 ^ 45)

/-- The first address after the body of the active LOOP. -/
def Stream.bodyEnd (st : Stream) : Word := st.loopPc + BitVec.ofNat 64 (4 * st.lcLen)

/-- The index in the body of the instruction at the program counter. -/
def Stream.bodyIndex (st : Stream) : Nat := (st.pc - st.loopPc).toNat / 4

/-- The stage of the instruction at the program counter of an active body: its table entry, or REP's for the
instruction after a REP (R74, R122). -/
def Stream.stageNow (st : Stream) : Fin 8 :=
  match st.repStage with
  | some g => g
  | none => st.stages.getD st.bodyIndex 0

/-- The stage predicate of the instruction at the program counter is on, or no LOOP is active (R119). -/
def Stream.enabled (st : Stream) : Bool := !st.act || st.ps.getLsbD st.stageNow.val

/-- The end of a trip (R119): predicates shift, the next trip starts or the loop exits. -/
def Stream.tripEnd (st : Stream) : Stream :=
  let iter := st.lcIter
  let ps' : BitVec 8 := ((st.ps <<< 1) &&& BitVec.ofNat 8 (2 ^ (st.lcStg + 1) - 1)) ||| (if 0 < iter then 1 else 0)
  let iter' := iter - 1
  if ps' = 0 then
    { st with ps := 0, lc := mkLc st.lcStg st.lcLen iter' false, pc := st.bodyEnd }
  else
    { st with ps := ps', lc := mkLc st.lcStg st.lcLen iter' true, pc := st.loopPc }

/-- The program counter goes to `pc'` in sequence; true when a trip has ended (R119). -/
def Stream.goSeq (st : Stream) (pc' : Word) : Stream × Bool :=
  if st.act && decide (pc' = st.bodyEnd) then ((st.tripEnd), true) else ({ st with pc := pc' }, false)

/-- The stream after the issue of the instruction at its program counter, in sequence: a REP counts down (R122), a trip
ends (R119); the flag tells a trip's end. -/
def Stream.advance (st : Stream) : Stream × Bool :=
  if st.repLeft = 0 then ({ st with repStage := none } : Stream).goSeq (st.pc + 4)
  else if st.repLeft = 1 then ({ st with repLeft := 0, repStage := none } : Stream).goSeq (st.pc + 4)
  else ({ st with repLeft := st.repLeft - 1 }, false)

/-- RRB turns at a trip's end of C (R119, R120). -/
def Seat.turnRrb (st : Seat) (i : StreamId) (t : Bool) : Seat :=
  if t && decide (i = .C) then { st with vec := { st.vec with rrb := st.vec.rrb + 1 } } else st

/-- The seat after stream i has issued in live cycle `now` and stands at `r` (R33: C issues again a schedule cycle later). -/
def Seat.goOn (st : Seat) (i : StreamId) (now : Nat) (r : Stream × Bool) : Seat :=
  let st := (st.modStr i fun _ => { r.1 with issued := now + 1, wait := .none, waiting := none }).turnRrb i r.2
  if i = .C then { st with c := { st.c with ready := st.c.clock + 1, done := true } } else st

/-- The running stream goes on in sequence. -/
def State.retire (s : State) : State :=
  s.modMySeat fun st => st.goOn s.turn.stream s.now (st.getStr s.turn.stream).advance

/-- The running stream goes on at `pc'`, still in sequence (LOOP skipping its body, REP #0). -/
def State.retireTo (s : State) (pc' : Word) : State :=
  s.modMySeat fun st =>
    st.goOn s.turn.stream s.now (({ st.getStr s.turn.stream with repStage := none } : Stream).goSeq pc')

/-- The running stream does not issue in this cycle: it waits (on a queue register: `why`). The machine is as it was
(log 11). -/
def State.stall (s : State) (why : Option Bool) : Res :=
  .next (s.modMySeat fun st =>
    let st := st.modStr s.turn.stream fun t => { t with waiting := why }
    if s.isC then { st with c := { st.c with done := true } } else st)

/-- A taken control transfer: the loop of a body is abandoned (R121). -/
def Stream.jump (st : Stream) (target : Word) : Stream :=
  if st.act then
    { st with pc := target, ps := 0, lc := mkLc st.lcStg st.lcLen 0 false, repStage := none }
  else { st with pc := target, repStage := none }

/-- The running stream has issued a taken transfer to `target`. -/
def State.jumpTo (s : State) (target : Word) : State :=
  s.modMySeat fun st => st.goOn s.turn.stream s.now ((st.getStr s.turn.stream).jump target, false)

/-! ## Clocks -/

/-- Logical die d is present by the concordance (R354). -/
def State.diePresent (s : State) (d : Nat) : Bool := d < 8 && fld s.fuse.concDie (4 * (d % 8)) 4 ≠ 15

/-- A die that runs nothing: it is in reset (R403), or the package lacks it (R354). -/
def State.dieInReset (s : State) (d : Nat) : Bool := if h : d < 8 then s.die[d].inReset || !s.diePresent d else false

/-- The core clocks of a die do not run: it runs nothing, or a clock-plan step stops it for 200 ns (R320, R406). -/
def State.dieStopped (s : State) (d : Fin 8) : Bool := s.dieInReset d.val || decide (s.timebase.toNat < s.die[d].haltTo)

/-- A core's clock domain stands still: in a freeze (R18), or with the clocks of its die. -/
def State.coreHeld (s : State) (c : Fin 904) : Bool := s.core[c].freeze.isSome || s.dieStopped (coreDie c)

/-! ## Queue registers (R176 to R178) -/

/-- Depth (R176). -/
def qDepth (n : Fin 16) : Nat := if n.val = 3 || n.val = 4 then 16 else if n.val < 3 then 8 else if n.val < 8 then 4 else
  if n.val < 13 then 8 else 4

/-- The stream that produces a queue (R176); none for q13 to q15. -/
def qProducer (n : Fin 16) : Option StreamId :=
  match n.val with
  | 0 | 1 | 2 | 10 | 11 | 12 => some .K
  | 3 | 4 | 7 => some .L
  | 5 | 8 | 9 => some .C
  | 6 => some .S
  | _ => none

/-- The stream that consumes a queue (R176); none for q10 to q12. -/
def qConsumer (n : Fin 16) : Option StreamId :=
  match n.val with
  | 0 => some .L
  | 1 | 4 => some .C
  | 2 | 3 | 8 | 9 => some .S
  | 5 | 6 | 7 | 13 | 14 | 15 => some .K
  | _ => none

/-- Entries that can be dequeued in cycle `now`: those enqueued before it. -/
def Fifo.avail (f : Fifo) (now : Nat) : Nat := (f.items.filter fun i => decide (i.at' < now)).length

/-- Entries held, with the room not yet freed in cycle `now` and `pend` results still on their way to it. -/
def Fifo.used (f : Fifo) (now pend : Nat) : Nat := f.items.length + (if f.deqAt = now then f.deqN else 0) + pend

/-- Removing the head in cycle `now`. -/
def Fifo.pop (f : Fifo) (now : Nat) : Fifo :=
  { items := f.items.tail, deqAt := now, deqN := (if f.deqAt = now then f.deqN else 0) + 1 }

/-- The head's data. -/
def Fifo.head (f : Fifo) : VData := match f.items with | [] => 0 | i :: _ => i.data

/-- An entry takes its place by the cycle of its enqueue, behind those of the same cycle. -/
def insItem (x : QItem) : List QItem → List QItem
  | [] => [x]
  | a :: r => if x.at' < a.at' then x :: a :: r else a :: insItem x r

/-- Enqueuing in cycle `at'`: an entry stands behind those enqueued before it (R102, R178). -/
def Fifo.push (f : Fifo) (v : VData) (at' : Nat) : Fifo := { f with items := insItem ⟨v, at'⟩ f.items }

/-- Results of C on their way to queue n. -/
def CSched.pendQ (c : CSched) (n : Fin 16) : Nat :=
  (c.pipe.filter fun p => match p.w with | .queue m _ => decide (m = n) | _ => false).length

/-- Scalar loads of a stream whose value goes to queue n (R208). -/
def Seat.loadsToQ (st : Seat) (n : Fin 16) : Nat :=
  (st.loads.filter fun l => match l.kind with
    | .scalar (.q m) => decide (m = n)
    | .amo _ (.q m) _ _ _ => decide (m = n)
    | _ => false).length

/-- Divides whose result goes to queue n when their divider is released (R106). -/
def Seat.divsToQ (st : Seat) (n : Fin 16) : Nat :=
  (st.str.toList.filter fun t => match t.div with | some o => decide (o.dest = .q n) | none => false).length

/-- Queue n has room for k more entries in cycle `now`. -/
def Seat.qRoom (st : Seat) (n : Fin 16) (now k : Nat) : Bool :=
  decide (st.q[n].used now (st.c.pendQ n + st.loadsToQ n + st.divsToQ n) + k ≤ qDepth n)

/-- Changing a queue register. -/
def Seat.modQ (st : Seat) (n : Fin 16) (f : Fifo → Fifo) : Seat := { st with q := vmod st.q n f }

/-! ## Faults (R186 to R191) -/

/-- The causes of R186. -/
inductive Cause where
  | trap | undefMajor | undefOp | streamClass | queueClass | tag | align | page | perm | poison | latencyBound
  | commaTimeout | forwardWait | engineStack | dieAbsent | codeRevoked | board | queryFormat | hazard | bookmark
  deriving DecidableEq, Repr

/-- The code of a cause. -/
def Cause.code : Cause → Nat
  | .trap => 0 | .undefMajor => 1 | .undefOp => 2 | .streamClass => 3 | .queueClass => 4 | .tag => 5 | .align => 6
  | .page => 7 | .perm => 8 | .poison => 9 | .latencyBound => 10 | .commaTimeout => 11 | .forwardWait => 12
  | .engineStack => 13 | .dieAbsent => 14 | .codeRevoked => 15 | .board => 16 | .queryFormat => 17 | .hazard => 18
  | .bookmark => 19

/-- A fault to take: cause, detail, address, and whether its class is S (R186). -/
structure Flt where
  cause  : Cause
  detail : Nat
  addr   : Word
  sys    : Bool
  deriving DecidableEq, Repr

/-- A fault of class H without an address. -/
def Flt.mk' (c : Cause) (d : Nat) : Flt := ⟨c, d, 0, false⟩

/-- A fault of class H with an address. -/
def Flt.at' (c : Cause) (d : Nat) (a : Word) : Flt := ⟨c, d, a, false⟩

/-- Fields of FAULT_INFO (R188). -/
def TrapFile.active (t : TrapFile) : Bool := bit t.info 2
def TrapFile.kind (t : TrapFile) : Bool := bit t.info 3
def TrapFile.nested (t : TrapFile) : Bool := bit t.info 1
def TrapFile.src (t : TrapFile) : Nat := fld t.info 21 3

/-- A fault record word: DETAIL, SRC, CAUSE and the low bits (R188). -/
def mkInfo (detail src cause low : Nat) : Word :=
  BitVec.ofNat 64 (detail % 2 ^ 32 * 2 ^ 32 + src % 8 * 2 ^ 21 + cause % 32 * 2 ^ 16 + low)

/-- K's loop state moves to the hidden shadow and is cleared (R189 step 3). -/
def Seat.shadowIn (st : Seat) : Seat :=
  let k := st.getStr .K
  { (st.modStr .K fun k => { k with lc := 0, loopPc := 0, ps := 0, repLeft := 0, stages := [], repStage := none }) with
    trap := { st.trap with shLc := k.lc, shLoopPc := k.loopPc, shPs := k.ps, shRep := k.repLeft, shStages := k.stages,
                           shRepStage := k.repStage, shComma := k.comma } }

/-- K's loop state returns from the shadow (R191). -/
def Seat.shadowOut (st : Seat) : Seat :=
  st.modStr .K fun k => { k with lc := st.trap.shLc, loopPc := st.trap.shLoopPc, ps := st.trap.shPs,
                                 repLeft := st.trap.shRep, stages := st.trap.shStages, repStage := st.trap.shRepStage,
                                 comma := st.trap.shComma }

/-- Where a stream stands. -/
def Stream.site (t : Stream) : Site := ⟨t.pc, t.lc, t.loopPc, t.ps, t.repLeft, t.stages, t.repStage⟩

/-- A stream stands again where it stood. -/
def Stream.backTo (t : Stream) (p : Site) : Stream :=
  { t with pc := p.pc, lc := p.lc, loopPc := p.loopPc, ps := p.ps, repLeft := p.repLeft, stages := p.stages, repStage := p.repStage }

/-- The request of a stream that is held on a missing page (R212). -/
def Seat.heldReq (st : Seat) (i : StreamId) : Option LoadReq :=
  st.loads.find? fun l => decide (l.stream = i) && l.missing.isSome

/-- A load is withdrawn and its slot returned to FREE (R212). -/
def Seat.withdraw (st : Seat) (l : LoadReq) : Seat :=
  { st with loads := st.loads.filter fun m => decide (m.seq ≠ l.seq),
            ln := match l.kind with | .slot n => vmod st.ln n fun c => { c with state := 0 } | _ => st.ln }

/-- A load that stream i has issued and that is held on a missing page stays in the load queue when another agent's fault stops the
seat: the stream stops behind it (R189, R212). -/
def Seat.passHeld (st : Seat) (src : Nat) (i : StreamId) : Seat :=
  match (st.getStr i).wait with
  | .held _ _ => if decide (i.idx.val ≠ src) && (st.heldReq i).isSome then st.modStr i fun t => t.advance.1 else st
  | _ => st

/-- A stream that another agent's fault stops at an instruction it has not finished waiting in issues it again later. -/
def Seat.clearWaits (st : Seat) : Seat :=
  { st with str := st.str.map fun t => { t with wait := .none, waiting := none } }

/-- The streams as a fault of source `src` stops them (R189 step 1). -/
def Seat.stopStreams (st : Seat) (src : Nat) : Seat :=
  (((st.passHeld src .K).passHeld src .L).passHeld src .S).clearWaits

/-- C could issue in this cycle and has neither issued nor found itself waiting (R33, R34). -/
def Seat.cDue (st : Seat) : Bool :=
  decide (st.inst.phase = .running) && !st.trap.active && !(st.getStr .C).halted && (st.getStr .C).comma.isNone &&
    !st.c.held && decide (st.c.ready ≤ st.c.clock) && !st.c.done

/-- C holds its pipeline (R189 step 1): when it has had its issue cycle already, that cycle still passes for it. -/
def Seat.holdC (st : Seat) : CSched :=
  { st.c with held := true, release := false, lead := if st.c.held then st.c.lead else !st.cDue }

/-- The seat after a fault of source `src`, whose stopped streams resume at `pcs` (R189). -/
def Seat.takeFault (st : Seat) (f : Flt) (src : Nat) (pcs : Vector Word 4) : Seat :=
  if st.trap.active then
    { st with
      trap := { st.trap with info := st.trap.info ||| 2, addr := f.addr, nestInfo := mkInfo f.detail src f.cause.code 1,
                             nestPc := (st.getStr .K).pc },
      c := st.holdC,
      inst := { st.inst with phase := .faulted } }
  else
    let handled := !f.sys && decide (st.trap.vec ≠ 0)
    let st := { st with
      trap := { st.trap with info := mkInfo f.detail src f.cause.code (if handled then 5 else 1), addr := f.addr, pc := pcs },
      c := st.holdC }
    if handled then
      (st.shadowIn).modStr .K fun k => { k with pc := st.trap.vec, halted := false, comma := none }
    else { st with inst := { st.inst with phase := .faulted } }

/-- The program counters of the four streams. -/
def Seat.pcs (st : Seat) : Vector Word 4 := st.str.map fun t => t.pc

/-- Delivery counts of the life record (R388). -/
def State.lifeFault (s : State) (d : Fin 8) (c : Cause) : State :=
  { s with life := { s.life with faults := vmod s.life.faults d fun v =>
      if h : c.code < 20 then vmod v ⟨c.code, h⟩ (· + 1) else v } }

/-- The latest fault of a seat: the core cycle, plus one, and the source (R189). -/
def Seat.lastFault (st : Seat) (cycle src : Nat) : Seat := { st with trap := { st.trap with last := (cycle + 1, src) } }

/-- Seat `r` takes a fault from source `src` (R188: 0 to 3 a stream, 4 to 6 an engine). -/
def State.takeFault (s : State) (r : SeatRef) (f : Flt) (src : Nat) : State :=
  (s.modSeat r fun st => let t := st.stopStreams src; (t.takeFault f src t.pcs).lastFault s.core[r.core].cycle src).lifeFault (coreDie r.core) f.cause

/-- QUEUE_DEPTH (R392): with the detector on, a write of stream w to a queue of QMASK that it found full is reported when it completes. -/
def State.fullHazard (s : State) (w : Who) (full : Bool) : State :=
  if full && bit (s.getSeat w.ref).sys.dbgCtl 0 then s.takeFault w.ref (Flt.mk' .hazard 85) w.stream.idx.val else s

/-- Seat `r` takes a fault at a cut: FAULT_PC.j := CUT_PC.j (R189). -/
def State.takeCutFault (s : State) (r : SeatRef) (f : Flt) : State :=
  (s.modSeat r fun st => ((st.stopStreams 7).takeFault f 7 st.cut.pc).lastFault s.core[r.core].cycle 7).lifeFault (coreDie r.core) f.cause

/-- The running stream faults at the instruction at its program counter. -/
def State.raise (s : State) (f : Flt) : Res := .next (s.takeFault s.turn.ref f s.turn.stream.idx.val)

/-- The running stream faults after its instruction has completed (TRAP, HAZARD: R189 step 1). -/
def State.raiseAfter (s : State) (f : Flt) : Res := s.retire.raise f

/-- Commands held after a failed start are tried again (R289). -/
def Seat.unstick (st : Seat) : Seat :=
  { st with eng := st.eng.map fun e => { e with queue := e.queue.map fun c => { c with stuck := false } } }

/-- The stream stands at the comma of the latched cut (R47). -/
def Seat.atLatch (st : Seat) (t : Stream) : Bool :=
  match st.cut.latch with
  | some l => decide (t.passes = l.n)
  | none => false

/-- The four streams restart at `pcs`, and C's pipeline is released from the next core cycle on (R191, R194); a stream that has reached
the pass of a cut that is still latched stays stopped there (R189). -/
def Seat.restart (st : Seat) (pcs : Vector Word 4) : Seat :=
  { st with
    str := Vector.ofFn fun j => { st.str[j] with
      pc := pcs[j], halted := false, comma := if st.atLatch st.str[j] then st.str[j].comma else none, wait := .none },
    c := { st.c with held := true, release := true } }

/-- The re-timing handler owed by a cut whose LATENCY_BOUND has been handled starts (R191). -/
def Seat.owedRetime (st : Seat) : Bool :=
  !st.trap.kind && decide (st.trap.src = 7) && bit st.cut.info 3 && decide (st.cut.retimeVec ≠ 0) && !st.cut.atRetire

/-- K starts at RETIME_VEC with ACTIVE and KIND set (R50). -/
def Seat.enterRetime (st : Seat) : Seat :=
  { (st.modStr .K fun k => { k with pc := st.cut.retimeVec, halted := false, comma := none }) with
    trap := { st.trap with info := (st.trap.info ||| 12) &&& ~~~1 }, cut := { st.cut with handlerAge := 0 } }

/-- ERET on a seat (R191), ACTIVE being 1. -/
def Seat.eret (st : Seat) : Seat :=
  let kind := st.trap.kind
  let st1 := if kind then st else st.shadowOut
  if st.owedRetime then
    ({ st1 with cut := { st1.cut with pc := st1.trap.pc } } : Seat).enterRetime
  else
    let pcs := if kind then st1.cut.pc else st1.trap.pc
    let st2 := st1.restart pcs
    ({ st2 with trap := { st2.trap with info := st2.trap.info &&& ~~~5 } } : Seat).unstick

end Sys2Proof.Machine
end

