-- ==== Sys2Proof/Machine/Operands.lean ====
section
/-!
DEFINITION. Scalar operands (R65, R102, R103, R177, R178): classes, readiness, reads in order, and results with their
latencies in K, L, S (at once, under interlock) and in C (through its pipeline, R33).
-/
namespace Sys2Proof.Machine

/-- Only a 64-bit queue can be a scalar operand (R177). -/
def qNarrow (n : Fin 16) : Bool := n.val ≠ 8 && n.val ≠ 9

/-- Stream `i` may read the operand (R177). -/
def srcClass (i : StreamId) : SSpec → Bool
  | .x _ => true
  | .q n => decide (qConsumer n = some i) && qNarrow n

/-- Stream `i` may write the operand (R177). -/
def dstClass (i : StreamId) : SSpec → Bool
  | .x _ => true
  | .q n => decide (qProducer n = some i) && qNarrow n

/-- R177 for an instruction's scalar sources and destinations. -/
def State.classOk (s : State) (srcs dsts : List SSpec) : Bool :=
  srcs.all (srcClass s.turn.stream) && dsts.all (dstClass s.turn.stream)

/-- An answer that stream `i` awaits will write x register n (R208, R219). -/
def Seat.xPending (st : Seat) (i : StreamId) (n : Fin 32) : Bool :=
  st.loads.any fun l => decide (l.stream = i) && match l.kind with
    | .scalar (.x m) => decide (m = n)
    | .amo _ (.x m) _ _ _ => decide (m = n)
    | _ => false

/-- An answer that stream `i` awaits will write predicate n (R219). -/
def Seat.pPending (st : Seat) (i : StreamId) (n : Fin 16) : Bool :=
  st.loads.any fun l => decide (l.stream = i) && match l.kind with
    | .amo _ _ _ _ pe => decide (pe.val = n.val)
    | _ => false

/-- The interlock on an x register (R103): C has none. -/
def State.xFree (s : State) (n : Fin 32) : Bool :=
  s.isC || n = 0 ||
    (!(s.me.busy.any fun b => decide (b.reg = n.val) && decide (s.now < b.ready)) &&
     !s.mySeat.xPending s.turn.stream n &&
     (match s.me.div with | some o => decide (o.dest ≠ .x n) | none => true))

/-- An x register may be written: a divide that is to write it does not hold the writer (R106); a multiply or a load does (DESIGN CHOICE,
log 44). -/
def State.xOpen (s : State) (n : Fin 32) : Bool :=
  s.isC || n = 0 ||
    (!(s.me.busy.any fun b => decide (b.reg = n.val) && decide (s.now < b.ready)) && !s.mySeat.xPending s.turn.stream n)

/-- The interlock on a predicate (R103, R219). -/
def State.pFree (s : State) (n : Fin 16) : Bool := s.isC || n = 0 || !s.mySeat.pPending s.turn.stream n

/-- How often queue n is named. -/
def qCount (n : Fin 16) (l : List SSpec) : Nat := (l.filter fun a => decide (a = .q n)).length

/-- Why the sources cannot be read now: none, an interlock (some none), an empty queue (R102, R178). -/
def State.srcBlocked (s : State) (srcs : List SSpec) : Option (Option Bool) :=
  srcs.foldr (fun a r => match a with
    | .x n => if s.xFree n then r else some none
    | .q n => if qCount n srcs ≤ s.mySeat.q[n].avail s.now then r else some (some false)) none

/-- Why the destinations cannot be written now: none, an interlock, a full queue. -/
def State.dstBlocked (s : State) (dsts : List SSpec) : Option (Option Bool) :=
  dsts.foldr (fun a r => match a with
    | .x n => if s.xOpen n then r else some none
    | .q n => if s.mySeat.qRoom n s.now (qCount n dsts) then r else some (some true)) none

/-- Why an instruction with these operands cannot issue now (R102). -/
def State.blocked (s : State) (srcs dsts : List SSpec) : Option (Option Bool) :=
  match s.srcBlocked srcs with
  | some w => some w
  | none => s.dstBlocked dsts

/-- The value of an x register (x0 reads 0: R101). -/
def Stream.rdX (t : Stream) (n : Fin 32) : Word := if n = 0 then 0 else t.x[n]

/-- The value of a predicate (p0 reads true: R101). -/
def Stream.rdP (t : Stream) (n : Fin 16) : Bool := if n = 0 then true else t.p.getLsbD n.val

/-- Writing an x register (a write to x0 is discarded: R101). -/
def Stream.wrX (t : Stream) (n : Fin 32) (v : Word) : Stream := if n = 0 then t else { t with x := t.x.set n v }

/-- Writing a predicate (a write to p0 is discarded: R101). -/
def Stream.wrP (t : Stream) (n : Fin 16) (v : Bool) : Stream :=
  if n = 0 then t else { t with p := (t.p &&& ~~~((1 : BitVec 16) <<< n.val)) ||| ((if v then (1 : BitVec 16) else 0) <<< n.val) }

/-- The value of a scalar source, without dequeuing it. -/
def State.peek (s : State) : SSpec → Word
  | .x n => s.me.rdX n
  | .q n => (s.mySeat.q[n].head).setWidth 64

/-- A source once read: a queue entry is dequeued (R65). -/
def State.take (s : State) : SSpec → State
  | .x _ => s
  | .q n => s.modMySeat fun st => st.modQ n fun f => f.pop s.now

/-- Reading a source. -/
def State.rd (s : State) (a : SSpec) : Word × State := (s.peek a, s.take a)

/-- A result enters C's pipeline, due `lat` schedule cycles after issue (R33). -/
def State.pipe (s : State) (lat : Nat) (w : CWrite) : State :=
  s.modMySeat fun st => { st with c := { st.c with pipe := st.c.pipe ++ [⟨st.c.clock + lat, w⟩] } }

/-- Writing an x register or queue of the running stream: in C through the pipeline, due after `latC`; else at once, under
an interlock of `lat` live core cycles (R103), a queue entry at the result cycle (R102). -/
def State.wr (s : State) (d : SSpec) (lat latC : Nat) (v : Word) : State :=
  match d with
  | .x n =>
    if n = 0 then s
    else if s.isC then s.pipe latC (.xreg n v)
    else s.modMe fun t =>
      let t := t.wrX n v
      if 1 < lat then { t with busy := ⟨n.val, s.now + lat⟩ :: t.busy.filter fun b => decide (s.now < b.ready) } else t
  | .q n =>
    if s.isC then s.pipe latC (.queue n (v.setWidth 2048))
    else s.modMySeat fun st => st.modQ n fun f => f.push (v.setWidth 2048) (s.now + lat)

/-- Writing a predicate of the running stream (R103). -/
def State.wrPred (s : State) (n : Fin 16) (v : Bool) : State :=
  if n = 0 then s
  else if s.isC then s.pipe 2 (.preg n v)
  else s.modMe fun t => t.wrP n v

/-- Writing a target register (R103). -/
def State.wrTarget (s : State) (n : Fin 8) (v : Word) : State :=
  let v := v &&& ~~~3
  if s.isC then s.pipe 2 (.treg n v) else s.modMe fun t => { t with t := t.t.set n v }

/-- QUEUE_CLASS (R177). -/
def State.raiseClass (s : State) : Res := s.raise (Flt.mk' .queueClass 0)

/-- An instruction with two scalar sources and a scalar result (R102, R103). -/
def State.alu2 (s : State) (d a b : SSpec) (lat latC : Nat) (f : Word → Word → Word) : Res :=
  if !s.classOk [a, b] [d] then s.raiseClass
  else match s.blocked [a, b] [d] with
    | some why => s.stall why
    | none =>
      let s1 := s.take a
      .next ((((s1.take b).wr d lat latC (f (s.peek a) (s1.peek b)))).retire)

/-- An instruction with one scalar source and a scalar result. -/
def State.alu1 (s : State) (d a : SSpec) (lat latC : Nat) (f : Word → Word) : Res :=
  if !s.classOk [a] [d] then s.raiseClass
  else match s.blocked [a] [d] with
    | some why => s.stall why
    | none => .next (((s.take a).wr d lat latC (f (s.peek a))).retire)

/-- An instruction with a scalar result and no queue source: `v` is its result. -/
def State.alu0 (s : State) (d : SSpec) (lat latC : Nat) (v : Word) : Res :=
  if !s.classOk [] [d] then s.raiseClass
  else match s.blocked [] [d] with
    | some why => s.stall why
    | none => .next ((s.wr d lat latC v).retire)

end Sys2Proof.Machine
end

