-- ==== Sys2Proof/Machine/Flags.lean ====
section
/-!
DEFINITION. Flags: the conditions of CMP and CMPI (R110, R111) and the sticky bits of VSTAT (R130).
-/
namespace Sys2Proof.Machine

/-- The conditions of CMP on values read as i64 and n64 (R110). -/
def condHolds (c : Cond) (a b : Word) : Bool :=
  match c with
  | .eq => a = b
  | .ne => a ≠ b
  | .lt => a.slt b
  | .le => a.sle b
  | .gt => b.slt a
  | .ge => b.sle a
  | .ltn => a.ult b
  | .len => a.ule b
  | .gtn => b.ult a
  | .gen => b.ule a

/-- The conditions of CMPI, whose immediate is two's complement but natural for .ltn and .gen (R111). -/
def condIHolds (c : CondI) (a : Word) (i : BitVec 11) : Bool :=
  let m : Word := i.signExtend 64
  let u : Word := i.setWidth 64
  match c with
  | .eq => a = m
  | .ne => a ≠ m
  | .lt => a.slt m
  | .le => a.sle m
  | .gt => m.slt a
  | .ge => m.sle a
  | .ltn => a.ult u
  | .gen => u.ule a

end Sys2Proof.Machine
end

