-- ==== Sys2Proof/Machine/Hear.lean ====
section
/-!
DEFINITION. Scope instances (R249), and what releases hand to the acquires that read them (R253): the writes before a release that are
still on their way when it is performed.
-/
namespace Sys2Proof.Machine

/-! ## Scopes -/

/-- Two cores lie in one cluster (R14, R249): a system core is alone. -/
def sameCluster (a b : Fin 904) : Bool := a = b || (a.val < 896 && b.val < 896 && a.val / 8 = b.val / 8)

/-- Stream b lies in stream a's instance of a scope (R249). -/
def inScope (sc : Scope) (a b : Who) : Bool :=
  match sc with
  | .seat => a.ref = b.ref
  | .core => a.ref.core = b.ref.core
  | .cluster => sameCluster a.ref.core b.ref.core
  | .die => coreDie a.ref.core = coreDie b.ref.core
  | .device => true
  | .domain => true

/-- The seat a source belongs to (R249). -/
def Source.seat : Source → Option SeatRef
  | .stream w => some w.ref
  | .engine c _ k _ => some ⟨c, k⟩
  | .hub _ => none

/-! ## Bytes of an access -/

/-- The keys an access of n bytes touches. -/
def Place.keys (p : Place) (n : Nat) : List Nat := (List.range n).map p.keyOf

/-- Two accesses touch a common byte. -/
def overlap (p : Place) (n : Nat) (q : Place) (m : Nat) : Bool :=
  if !p.skew && !q.skew then p.key < q.key + m && q.key < p.key + n
  else (p.keys n).any fun k => (q.keys m).contains k

/-! ## Releases and what happens before them (R253) -/

/-- The stream a scope instance is asked for, of an agent. -/
def Source.who : Source → Option Who
  | .stream w => some w
  | .engine c _ k _ => some ⟨⟨c, k⟩, .K⟩
  | .hub _ => none

/-- A release of `src` at scope sP synchronises with an acquire of w at scope sA that reads it (R253). -/
def syncs (src : Source) (sP : Scope) (w : Who) (sA : Scope) : Bool :=
  match src.who with
  | some p => inScope sP p w && inScope sA w p
  | none => false

/-- The numbers of a list that are still those of writes on their way. -/
def State.onWay (s : State) (ids : List Nat) : List Nat := ids.filter fun i => s.flights.any fun f => decide (f.id = i)

/-- Releases with some write before them on its way. -/
def State.stillHeard (s : State) (l : List Heard) : List Heard :=
  (l.map fun h => { h with ids := s.onWay h.ids }).filter fun h => !h.ids.isEmpty

/-- What a read of bytes at their home takes from the releases they hold (R253). -/
def State.heardAt (s : State) (p : Place) (n : Nat) : List Heard :=
  s.stillHeard ((s.carried.filter fun c => overlap c.1 c.2.1 p n).map fun c => c.2.2)

/-- The writes that an acquire of stream w at a scope puts before its next release. -/
def acquired (w : Who) (sA : Scope) (l : List Heard) : List Nat := (l.filter fun h => syncs h.src h.scope w sA).flatMap fun h => h.ids

/-- Stream w has read releases: an acquire takes them up at once, a plain read keeps them for a fence (R253). -/
def State.hear (s : State) (w : Who) (acq : Option Scope) (l : List Heard) : State :=
  if l.isEmpty then s
  else s.modStr w fun t =>
    match acq with
    | some sA => { t with fwd := s.onWay t.fwd ++ acquired w sA l, heard := s.stillHeard t.heard ++ l }
    | none => { t with heard := s.stillHeard t.heard ++ l }

end Sys2Proof.Machine
end

