-- ==== Sys2Proof/Machine/Xlat.lean ====
section
/-!
DEFINITION. Translation and the checks of an access: walks (R345), TLBs (R346, R347), window checks (R196, R197),
alignment (R202), the board region (R327), and how an access to a place is answered (R205, R341, R353).
-/
namespace Sys2Proof.Machine

/-- The right an access needs (R346). -/
inductive Right where
  | rd | wr | at' | ex
  deriving DecidableEq, Repr

/-- The bit of a leaf that grants a right (R343). -/
def Right.bit : Right → Nat
  | .rd => 2 | .wr => 3 | .at' => 4 | .ex => 5

/-! ## Dies and stacks -/

/-- The logical dies of a part (R1, R2). -/
def partDies : Part → Nat
  | .mz9a => 8
  | .mz9s => 8
  | .mz5a => 4

/-- The stacks of a part: STK.0 to STK.23, or to STK.11 (R1, R226). -/
def partStacks : Part → Nat
  | .mz9a => 24
  | .mz9s => 24
  | .mz5a => 12

/-- The fabric ports of a part (R1, R400). -/
def partPorts : Part → Nat
  | .mz9a => 64
  | .mz9s => 64
  | .mz5a => 32

/-- The part has bank attention (R1, R234). -/
def partAttention : Part → Bool
  | .mz9a => true
  | .mz9s => false
  | .mz5a => true

/-- The part has the MX block-scale path and the Hadamard unit (R1). -/
def partMx : Part → Bool
  | .mz9a => true
  | .mz9s => true
  | .mz5a => false

/-- The part has stack n (R226). -/
def State.stackHere (s : State) (n : Nat) : Bool := n < partStacks s.fuse.part

/-- The part has the port (R400). -/
def State.portHere (s : State) (port : Fin 64) : Bool := port.val < partPorts s.fuse.part

/-- The part has the port, and its link is not down (R401). -/
def State.portUp (s : State) (port : Fin 64) : Bool := s.portHere port && s.port[port].up

/-- Stack n answers as a shut-down one: it is shut down, or the part lacks it (R228, R341). -/
def State.stackGone (s : State) (n : Nat) : Bool := if h : n < 24 then !s.stackHere n || s.stack[n].down else true

/-- A usable die: present and not quarantined (R197). -/
def State.dieUsable (s : State) (d : Nat) : Bool := s.diePresent d && !s.quar.getLsbD d

/-- A place lies in this package. -/
def Place.isLocal (p : Place) : Bool := p.home.pkg = Config.thisPackage

/-- The answer of another package (log 8). -/
def remoteAns : Option Bool → Ans
  | none => .ok
  | some true => .dieReset
  | some false => .uncorrectable

/-- How a read or write of n bytes at a place is answered (R200, R201, R203, R205, R228, R341, R353), another package answering `far`;
`host` tells that the agent may use host memory (R341: leaves used by an engine or a stream may not). A domain reference to the
own package reaches no port and is lost (log 32). -/
def State.answerWith (s : State) (far : Option Bool) (p : Place) (n : Nat) (host : Bool) : Ans :=
  if !p.isLocal then remoteAns far
  else if !s.dieUsable p.home.die || s.dieInReset p.home.die then .dieReset
  else if isPhys p.key then
    if kindOf p.key = 1 then (if host then .ok else .uncorrectable)
    else if kindOf p.key ≠ 0 then .uncorrectable
    else if s.stackGone (stackOf p.key) then .uncorrectable
    else if (match p.slot with | some k => !s.keyStat.getLsbD k.val | none => true) then .uncorrectable
    else if (p.units n).any fun u => s.badUnits.contains u then .uncorrectable
    else .ok
  else if (p.words n).any fun w => s.poison.contains w then .uncorrectable
  else .ok

/-- How an access in one act is answered. -/
def State.answer (s : State) (p : Place) (n : Nat) (host : Bool) : Ans :=
  s.answerWith (Config.remoteError s.tick p.key) p n host

/-- Data as read at a place: another package answers with data of its own (log 8). -/
def State.dataAt (s : State) (p : Place) (n : Nat) : Nat :=
  if p.isLocal then s.readPlace p n else fld (Config.remoteData s.tick p.key) 0 (8 * n)

/-! ## Errors of stacks and words (R201, R230, R231) -/

/-- Bank id of a stack offset (R226). -/
def bankId (o : Nat) : Nat := o / 2 ^ 21 % 16 * 64 + o / 2 ^ 17 % 16 * 4 + o / 2 ^ 8 % 4

/-- The number of a stack's quad, die × 16 + quad (R226, R234). -/
def quadId (o : Nat) : Nat := o / 2 ^ 21 % 16 * 16 + o / 2 ^ 17 % 16

/-- An entry of the error table for stack offset o (R231). -/
def tableWord (time o : Nat) (scan : Bool) : Word :=
  BitVec.ofNat 64 (time / 1024 % 2 ^ 32 * 2 ^ 32 + bankId o * 2 ^ 22 + o / 2 ^ 10 % 128 * 2 ^ 15 + o / 2 ^ 25 % 2048 * 2 ^ 4 +
    (if scan then 2 else 0) + 1)

/-- 24 hours in ns (R232). -/
def dayNs : Nat := 24 * 3600 * 10 ^ 9

/-- The stack controller logs an uncorrectable error at offset o (R231, R232). -/
def Stack.logError (k : Stack) (time o : Nat) (scan : Bool) : Stack :=
  { k with recent := (k.recent.filter fun e => decide (time < e.2 + dayNs)) ++ [(bankId o, time)], table := k.table.set (k.next % 256) (tableWord time o scan) (Nat.mod_lt _ (by decide)), next := (k.next + 1) % 256,
           ueCount := k.ueCount + 1, bankErr := setAssoc (2 * bankId o + 1) ((assoc (2 * bankId o + 1) k.bankErr).getD 0 + 1) k.bankErr }

/-- A correctable error at offset o counts (R230). -/
def Stack.countCorr (k : Stack) (o : Nat) : Stack :=
  { k with ceCount := k.ceCount + 1, bankErr := setAssoc (2 * bankId o) ((assoc (2 * bankId o) k.bankErr).getD 0 + 1) k.bankErr }

/-- Changing the stack a physical key lies in. -/
def State.modStack (s : State) (k : Nat) (f : Stack → Stack) : State :=
  if h : k < 24 then { s with stack := s.stack.set k (f s.stack[k]) } else s

/-- Uncorrectable units met by an access are logged (R230). -/
def State.noteBad (s : State) (p : Place) (n : Nat) (scan : Bool) : State :=
  if !isPhys p.key then s
  else ((p.units n).filter fun u => s.badUnits.contains u).foldl (fun s u =>
    s.modStack (stackOf (32 * u)) fun k => k.logError s.timebase.toNat (physOf (32 * u) % 2 ^ 36) scan) s

/-- Correctable errors met by a read are counted: of a stack unit at its controller, of a word by the seat (R201, R384). -/
def State.noteCorr (s : State) (src : Option SeatRef) (p : Place) (n : Nat) : State :=
  if isPhys p.key then
    ((p.units n).filter fun u => s.corr.contains (4 * u)).foldl (fun s u =>
      s.modStack (stackOf (32 * u)) fun k => k.countCorr (physOf (32 * u) % 2 ^ 36)) s
  else
    let c := ((p.words n).filter fun w => s.corr.contains w).length
    match src with
    | some r => if c = 0 then s else s.modSeat r fun st => st.count 16 none c
    | none => s

/-- The errors that the reads of a walk meet are logged and counted (R230). -/
def State.noteWalk (s : State) (l : List Place) : State := l.foldl (fun s p => (s.noteBad p 8 false).noteCorr none p 8) s

/-- The reads of a walk for a stream: their errors count (R230), and each is an acquire at device scope (R348, R253). -/
def State.streamWalk (s : State) (w : Who) (l : List Place) : State :=
  (s.noteWalk l).hear w (some .device) (l.flatMap fun p => s.heardAt p 8)

/-! ## Walks -/

/-- The result of a walk (R345): a leaf with its page size, a page request with its detail, or NONCANON. -/
inductive Walk where
  | leaf (e : Word) (z : Nat)
  | request (detail : Nat)
  | noncanon
  deriving DecidableEq, Repr

/-- The place of a table entry. -/
def tablePlace (root : Word) (pa : Nat) : Place :=
  { key := physBase + pa, home := ⟨Config.thisPackage, fld root 45 3, none⟩, slot := some 0, skew := false }

/-- One entry read at the hub of THOME under slot 0 (R345, R353); none on a read error. -/
def State.tableEntry (s : State) (root : Word) (pa : Nat) : Option Word :=
  let p := tablePlace root pa
  match s.answer p 8 true with
  | .ok => some (BitVec.ofNat 64 (s.readPlace p 8))
  | _ => none

/-- The index of a level (R344). -/
def levelIndex (va lvl : Nat) : Nat :=
  match lvl with
  | 0 => va / 2 ^ 48 % 512
  | 1 => va / 2 ^ 39 % 512
  | 2 => va / 2 ^ 30 % 512
  | 3 => va / 2 ^ 21 % 512
  | _ => va / 2 ^ 16 % 32

/-- The page size of a leaf at a level (R344). -/
def levelSize (lvl : Nat) : Nat :=
  match lvl with
  | 2 => 2 ^ 30
  | 3 => 2 ^ 21
  | _ => 2 ^ 16

/-- An entry is malformed at a level (R343, R345). -/
def entryBad (e : Word) (lvl : Nat) : Bool :=
  let leaf := bit e 1
  fld e 52 3 ≠ 0 || fld e 7 5 ≠ 0 || (!leaf && (fld e 52 12 ≠ 0 || fld e 2 5 ≠ 0)) || (leaf && decide (lvl < 2)) ||
    (!leaf && decide (lvl = 4))

/-- The levels of a walk from table `t` on; `n` levels are left. -/
def State.walkFrom (s : State) (root : Word) (va t : Nat) : Nat → Walk
  | 0 => .request 73
  | n + 1 =>
    let lvl := 4 - n
    match s.tableEntry root (t + 8 * levelIndex va lvl) with
    | none => .request 73
    | some e =>
      if !bit e 0 then .request 13
      else if entryBad e lvl then .request 73
      else if bit e 1 then
        let z := levelSize lvl
        if (fld e 12 40 * 2 ^ 12) % z ≠ 0 || fld e 50 2 = 3 then .request 73 else .leaf e z
      else s.walkFrom root va (fld e 12 40 * 2 ^ 12) n

/-- A walk (R345). -/
def State.walk (s : State) (root : Word) (va : Nat) : Walk :=
  if 2 ^ 57 ≤ va then .noncanon
  else if !bit root 44 then .request 13
  else s.walkFrom root va (fld root 0 40 * 2 ^ 12) 5

/-- The places of the table entries a walk reads, from table `t` on. -/
def State.walkReads (s : State) (root : Word) (va t : Nat) : Nat → List Place
  | 0 => []
  | n + 1 =>
    let lvl := 4 - n
    let pa := t + 8 * levelIndex va lvl
    tablePlace root pa :: match s.tableEntry root pa with
      | none => []
      | some e => if !bit e 0 || entryBad e lvl || bit e 1 then [] else s.walkReads root va (fld e 12 40 * 2 ^ 12) n

/-! ## TLBs -/

/-- An entry translates an address under a root (R347). -/
def TlbEntry.hit (e : TlbEntry) (root : Word) (va : Nat) : Bool :=
  decide (e.asid.toNat = fld root 48 16) && decide (e.base ≤ va) && decide (va < e.base + e.size)

/-- The entry is put in front and the least recently used one beyond the capacity is dropped (R347). -/
def Tlb.insert (t : Tlb) (cap : Nat) (e : TlbEntry) : Tlb := (e :: t.filter fun x => decide (x ≠ e)).take cap

/-- A leaf grants a right to an agent (R346). -/
def grants (e : Word) (r : Right) (isY : Bool) : Bool := bit e r.bit && (!bit e 6 || isY)

/-- The result of a translation. -/
inductive XOut where
  | ok (leaf : Word) (base size : Nat)
  | request (detail : Nat)
  | noncanon
  | perm
  deriving DecidableEq, Repr

/-- A fresh walk and its fill of the TLB (R346, R347). -/
def State.xlatFresh (s : State) (root : Word) (t : Tlb) (cap : Nat) (isY : Bool) (va : Nat) (r : Right) : XOut × Tlb :=
  match s.walk root va with
  | .noncanon => (.noncanon, t)
  | .request d => (.request d, t)
  | .leaf e z =>
    let en : TlbEntry := ⟨BitVec.ofNat 16 (fld root 48 16), va / z * z, z, e⟩
    if grants e r isY then (.ok e (va / z * z) z, Tlb.insert t cap en) else (.perm, t)

/-- Translation of an address for a right through a TLB (R346, R347). -/
def State.xlat (s : State) (root : Word) (t : Tlb) (cap : Nat) (isY : Bool) (va : Nat) (r : Right) : XOut × Tlb :=
  if 2 ^ 57 ≤ va then (.noncanon, t)
  else if !bit root 44 then (.request 13, t)
  else match t.find? fun e => e.hit root va with
    | some e =>
      if grants e.leaf r isY then (.ok e.leaf e.base e.size, Tlb.insert t cap e)
      else s.xlatFresh root (t.filter fun x => decide (x ≠ e)) cap isY va r
    | none => s.xlatFresh root t cap isY va r

/-- The table entries that a translation reads (R345): none when a TLB entry grants the right. -/
def State.xlatReads (s : State) (root : Word) (t : Tlb) (isY : Bool) (va : Nat) (r : Right) : List Place :=
  if 2 ^ 57 ≤ va || !bit root 44 || (match t.find? fun e => e.hit root va with | some e => grants e.leaf r isY | none => false) then []
  else s.walkReads root va (fld root 0 40 * 2 ^ 12) 5

/-- The table entries that a prefetch walk reads. -/
def State.prefetchReads (s : State) (root : Word) (t : Tlb) (va : Nat) : List Place :=
  if 2 ^ 57 ≤ va || !bit root 44 || t.any (fun e => e.hit root va) then [] else s.walkReads root va (fld root 0 40 * 2 ^ 12) 5

/-- A prefetch walk: a leaf fills the TLB behind the present one, a page request is dropped (R347). -/
def State.xlatPrefetch (s : State) (root : Word) (t : Tlb) (cap : Nat) (va : Nat) : Tlb :=
  if 2 ^ 57 ≤ va || t.any (fun e => e.hit root va) then t
  else match s.walk root va with
    | .leaf e z =>
      match t with
      | [] => [⟨BitVec.ofNat 16 (fld root 48 16), va / z * z, z, e⟩]
      | h :: rest => h :: Tlb.insert rest (cap - 1) ⟨BitVec.ofNat 16 (fld root 48 16), va / z * z, z, e⟩
    | _ => t

/-- The place of a translated address (R341, R343): kind 2 goes to its package with its virtual address. -/
def leafPlace (leaf : Word) (base size va : Nat) : Place :=
  let pa := fld leaf 12 40 * 2 ^ 12 + (va - base) % size
  let kind := pa / 2 ^ 50
  { key := if kind = 2 then domKey (pa / 2 ^ 41 % 512) va else physBase + pa,
    home := { pkg := if kind = 0 || kind = 2 then pa / 2 ^ 41 % 512 else Config.thisPackage, die := fld leaf 55 3, unit := none },
    slot := if kind = 0 then some ⟨fld leaf 58 6, by simpa [fld] using Nat.mod_lt _ (by decide)⟩ else none,
    skew := false }

/-! ## Checks -/

/-- The result of the checks of an access: its place, a fault, or a missing page (R345). -/
inductive Acc where
  | ok (p : Place)
  | fault (f : Flt)
  | missing (detail : Nat)
  deriving DecidableEq, Repr

/-- Bits [63:41] zero: the SRAM window (R195). -/
def isWindow (va : Word) : Bool := va.toNat < 2 ^ 41

/-- The slice index of a window address (R195). -/
def sliceIndex (a : Nat) : Nat := a / 2 ^ 22 % 2 ^ 19

/-- Some window register grants the right (R196). -/
def Seat.winGrants (st : Seat) (idx : Nat) (r : Right) : Bool :=
  st.sys.win.toList.any fun w =>
    bit w 0 && decide (fld w 45 19 ≤ idx) && decide (idx ≤ fld w 26 19) &&
      (match r with | .rd => bit w 1 | .wr => bit w 2 | .at' => bit w 3 | .ex => false)

/-- The slice index of a core's own slice; a system core has none. -/
def ownSlice (r : SeatRef) : Option Nat :=
  if r.isSys then none
  else some (Config.thisPackage * 2 ^ 10 + r.core.val / 112 * 2 ^ 7 + r.core.val % 112)

/-- The window check of R197: the fault's detail, if it fails. A system core has every right (log 5). -/
def State.windowCheck (s : State) (r : SeatRef) (a : Nat) (rt : Right) : Option Nat :=
  let h := windowHome a
  if Config.domainPackages ≤ h.pkg || (h.pkg = Config.thisPackage && !s.dieUsable h.die) then some 33
  else if ownSlice r = some (sliceIndex a) || r.isSys || (s.getSeat r).winGrants (sliceIndex a) rt then none
  else some 32

/-- Units 112 and 113 of a hub: the board region (R327). -/
def inBoardRegion (a : Nat) : Bool := let u := a / 2 ^ 22 % 128; u = 112 || u = 113

/-- The TLB a stream uses, with its capacity (R347). -/
def Seat.tlbOf (st : Seat) : StreamId → Tlb × Nat
  | .L => (st.tlbL, 8)
  | .S => (st.tlbS, 8)
  | _ => (st.tlbK, 64)

/-- Setting the TLB a stream uses. -/
def Seat.setTlb (st : Seat) (i : StreamId) (t : Tlb) : Seat :=
  match i with
  | .L => { st with tlbL := t }
  | .S => { st with tlbS := t }
  | _ => { st with tlbK := t }

/-- The next page's prefetch by a stream TLB on the first touch of a page (R347). -/
def State.streamPrefetch (s : State) (w : Who) (base size : Nat) : State :=
  let st := s.getSeat w.ref
  let t := st.getStr w.stream
  if w.stream = .K || t.lastPage = some (BitVec.ofNat 64 base) then s
  else
    let down := match t.lastPage with | some l => decide (base < l.toNat) | none => false
    let next := if down then base - size else base + size
    (s.streamWalk w (s.prefetchReads st.sys.xlatRoot (st.tlbOf w.stream).1 next)).modSeat w.ref fun st =>
      ((st.setTlb w.stream (s.xlatPrefetch st.sys.xlatRoot (st.tlbOf w.stream).1 (st.tlbOf w.stream).2 next)).modStr
        w.stream fun t => { t with lastPage := some (BitVec.ofNat 64 base) })

/-- The checks of a stream's access of `size` bytes at `va` for a right, in the order ALIGN, window or translation
(R197, R202, R346), with the TLB as it is afterwards; `write` tells a store, atomic or reduction (R327). -/
def State.check (s : State) (w : Who) (va : Word) (size : Nat) (r : Right) (skew write : Bool) : Acc × State :=
  if va.toNat % size ≠ 0 then (.fault (Flt.at' .align 0 va), s)
  else if isWindow va then
    match s.windowCheck w.ref va.toNat r with
    | some d => (.fault (Flt.at' .perm d va), s)
    | none =>
      if write && inBoardRegion va.toNat && !w.isY then (.fault (Flt.at' .perm 68 va), s)
      else (.ok (windowPlace va.toNat skew), s)
  else
    let st := s.getSeat w.ref
    let tc := st.tlbOf w.stream
    let root := st.sys.xlatRoot
    let out := s.xlat root tc.1 tc.2 w.isY va.toNat r
    let s := s.streamWalk w (s.xlatReads root tc.1 w.isY va.toNat r)
    match out with
    | (.ok leaf base z, t) =>
      let s1 := s.modSeat w.ref fun st => st.setTlb w.stream t
      (.ok (leafPlace leaf base z va.toNat), s1.streamPrefetch w base z)
    | (.request d, t) => (.missing d, s.modSeat w.ref fun st => st.setTlb w.stream t)
    | (.noncanon, _) => (.fault ⟨.page, 72, va, true⟩, s)
    | (.perm, t) => (.fault (Flt.at' .perm 0 va), s.modSeat w.ref fun st => st.setTlb w.stream t)

end Sys2Proof.Machine
end

