-- ==== Sys2Proof/Machine/Fetch.lean ====
section
/-!
DEFINITION. Code fetch (R78, R79, R115, R116, R369): packets, the fetch agent's fills, and the words a stream or an engine
program reads from its packet buffers.
-/
namespace Sys2Proof.Machine

/-- The packet that holds an address (R78). -/
def packetOf (a : Word) : Word := a &&& ~~~63

/-- The packet the fetch agent of a die reads for a root: its bytes, or the fault of check 1 of R73 (cause, detail), and
the fetch TLB afterwards, and the place read (R78, R347). An error answer raises PAGE, DETAIL 0 or 15 by its kind
(DESIGN CHOICE, log 45). -/
def State.readPacket (s : State) (d : Fin 8) (root : Word) (isY : Bool) (a : Word) : Packet × Tlb × Option Place :=
  let t := s.die[d].ftlb
  if isWindow a then (⟨a, 0, some (8, 35)⟩, t, none)
  else match s.xlat root t 64 isY a.toNat .ex with
    | (.ok leaf base z, t) =>
      let p := leafPlace leaf base z a.toNat
      match s.answer p 64 isY with
      | .ok => (⟨a, BitVec.ofNat 512 (s.dataAt p 64), none⟩, t, some p)
      | .uncorrectable => (⟨a, 0, some (7, 0)⟩, t, some p)
      | .dieReset => (⟨a, 0, some (7, 15)⟩, t, some p)
    | (.request k, t) => (⟨a, 0, some (7, k)⟩, t, none)
    | (.noncanon, t) => (⟨a, 0, some (7, 72)⟩, t, none)
    | (.perm, t) => (⟨a, 0, some (8, 0)⟩, t, none)

/-- A fill of the packet at `a` begins for a seat, unless one is on its way (R79). -/
def State.startFill (s : State) (r : SeatRef) (a : Word) : State :=
  let d := coreDie r.core
  let st := s.getSeat r
  let a := packetOf a
  if s.die[d].fills.any fun f => decide (f.pkt.addr = a) && decide (f.q = st.inst.q) && decide (f.task = st.inst.task) &&
      decide (f.root = st.sys.xlatRoot) && decide (f.sys = r.isSys) then s
  else
    let root := st.sys.xlatRoot
    let (p, t, line) := s.readPacket d root r.isSys a
    let s := s.noteWalk (if isWindow a then [] else s.xlatReads root s.die[d].ftlb r.isSys a.toNat .ex)
    let s := match line with | some q => (s.noteBad q 64 false).noteCorr none q 64 | none => s
    let di := s.die[d]
    { s with
      seq := s.seq + 1,
      die := s.die.set d { di with
        ftlb := t, fills := di.fills ++ [⟨s.seq, st.inst.q, st.inst.task, root, r.isSys, p⟩],
        icache := match line, p.bad with | some q, none => insNat (q.key / 64) di.icache | _, _ => di.icache } }

/-- The addresses of the four packets from the one at `here` on: what the buffers hold when they are filled in sequence (R78). -/
def packetsAhead (here : Word) : List Word := [here, here + 64, here + 128, here + 192]

/-- Four packet buffers take a packet: the packet at `here` stays before the prepared targets, these before the packets that follow in
sequence, and these before those passed; in each class the newest comes first (R78, R115). -/
def buffers (here : Word) (prepared : Word → Bool) (p : Packet) (l : List Packet) : List Packet :=
  let rank (a : Word) : Nat := if a = here then 0 else if prepared a then 1 else if (packetsAhead here).contains a then 2 else 3
  ((List.range 4).flatMap fun k => (p :: l).filter fun q => decide (rank q.addr = k)).take 4

/-- A stream has prepared the packet at `a` (R115). -/
def Stream.prepared (t : Stream) (a : Word) : Bool := t.t.toList.any fun x => decide (packetOf x = a)

/-- C has prepared the packet at `a` by a target that is still in its pipeline (R33, R115). -/
def CSched.preparing (c : CSched) (a : Word) : Bool := c.pipe.any fun p => match p.w with | .treg _ v => decide (packetOf v = a) | _ => false

/-- A stream takes a delivered packet it is waiting for, that follows in sequence, or that it has prepared or (`more`) is preparing (R78,
R79, R115). -/
def Stream.accept (t : Stream) (more : Word → Bool) (p : Packet) : Stream :=
  let prepared (a : Word) : Bool := t.prepared a || more a
  if ((packetsAhead (packetOf t.pc)).contains p.addr || prepared p.addr) && !(t.packets.any fun q => decide (q.addr = p.addr)) then
    { t with packets := buffers (packetOf t.pc) prepared p t.packets }
  else t

/-- The address of an engine program's word (R287). -/
def Seat.wordAddr (st : Seat) (e : EngineId) (pc : Nat) : Word := st.inst.ebase[e.idx] + BitVec.ofNat 64 (2 * pc)

/-- An engine program takes a delivered packet it needs. -/
def Seat.acceptEngine (st : Seat) (e : EngineId) (p : Packet) : EngineCtx :=
  let c := st.eng[e.idx]
  let here := packetOf (st.wordAddr e c.pc)
  if (packetsAhead here).contains p.addr && !(c.packets.any fun q => decide (q.addr = p.addr)) then
    { c with packets := buffers here (fun _ => false) p c.packets }
  else c

/-- A seat takes a delivered packet. -/
def Seat.accept (st : Seat) (p : Packet) : Seat :=
  { st with
    str := Vector.ofFn fun i => st.str[i].accept (fun a => decide (i.val = StreamId.C.idx.val) && st.c.preparing a) p,
    eng := #v[st.acceptEngine .matrix p, st.acceptEngine .copy p, st.acceptEngine .query p] }

/-- The first packet ahead of `here` that the buffers lack. -/
def missingAhead (here : Word) (l : List Packet) : Option Word :=
  (packetsAhead here).find? fun a => !(l.any fun q => decide (q.addr = a))

/-- The act `ahead`: a stream that stands in code begins the fill of the first packet its buffers lack (R78). -/
def State.ahead (s : State) (w : Who) : State :=
  let st := s.getSeat w.ref
  let t := st.getStr w.stream
  if s.dieInReset (coreDie w.ref.core).val || t.halted || (!w.isY && decide (st.inst.phase ≠ .running)) ||
      (w.isY && (decide (w.stream ≠ .K) || decide (w.ref.seat ≠ 0))) then s
  else match missingAhead (packetOf t.pc) t.packets with
    | some a => s.startFill w.ref a
    | none => s

/-- The act `aheadWord`: the same for an engine program. -/
def State.aheadWord (s : State) (core : Fin 904) (e : EngineId) (seat : Fin 2) : State :=
  let r : SeatRef := ⟨core, seat⟩
  let st := s.getSeat r
  let c := st.eng[e.idx]
  if s.dieInReset (coreDie core).val || r.isSys || !c.running || decide (st.inst.phase = .free) then s
  else match missingAhead (packetOf (st.wordAddr e c.pc)) c.packets with
    | some a => s.startFill r a
    | none => s

/-- A stream holds the packet of its program counter. -/
def Stream.hasPacket (t : Stream) : Bool := t.packets.any fun q => decide (q.addr = packetOf t.pc)

/-- The seat subscribes to a fill (R79). -/
def Seat.subscribes (st : Seat) (f : Fill) (sys : Bool) : Bool :=
  decide (f.sys = sys) && decide (st.inst.q = f.q) && decide (st.inst.task = f.task) && decide (st.sys.xlatRoot = f.root) && (sys || decide (st.inst.phase ≠ .free))

/-- A core takes a delivered packet for its subscribed seats; a fetch freeze that waits for it ends (R116). -/
def Core.deliver (c : Core) (f : Fill) (sys : Bool) : Core :=
  let c := { c with seat := c.seat.map fun (st : Seat) => if st.subscribes f sys then st.accept f.pkt else st }
  match c.freeze with
  | some (.fetch k) => if (c.seat[k].getStr .C).hasPacket then { c with freeze := none } else c
  | _ => c

/-- The cycles of a freeze of `len` frozen core cycles enter the life record, in the bucket of its length (R388): 16 log2 buckets. -/
def State.lifeFreeze (s : State) (d : Fin 8) (len : Nat) : State :=
  let v := vmod s.life.freezes d fun v => vmod v (Fin.ofNat 16 (min (bitLen 64 len - 1) 15)) (· + len)
  { s with life := { s.life with freezes := v } }

/-- The fetch freeze of core c that has just ended enters the life record, when it held a cycle (R116, R388). -/
def State.noteThaw (s : State) (frozen : Bool) (c : Fin 904) : State :=
  let len := s.core[c].cycle - s.core[c].frozeAt
  if frozen && s.core[c].freeze.isNone && decide (0 < len) then s.lifeFreeze (coreDie c) len else s

/-- FETCH_FILL (R79): fill number i of a die completes and is delivered to every subscriber. -/
def execFetchFill (die : Fin 8) (i : Nat) (s : State) : Res :=
  match s.die[die].fills[i]? with
  | none => .next s
  | some f =>
    let s1 := { s with die := s.die.set die { s.die[die] with fills := dropAt i s.die[die].fills } }
    let cores : Vector Core 904 := Vector.ofFn fun c =>
      if decide (coreDie c = die) && decide (f.sys = decide (896 ≤ c.val)) then s1.core[c].deliver f f.sys else s1.core[c]
    .next ((List.finRange 904).foldl (fun t c => t.noteThaw s.core[c].freeze.isSome c) { s1 with core := cores })

/-- What a fetch finds (R73 check 1). -/
inductive Fetched where
  | word (w : IWord)
  | fault (f : Flt)
  | missing
  deriving DecidableEq, Repr

/-- The fault that a packet's fetch met, at an address (R78: class S). -/
def fetchFlt (c : Nat × Nat) (a : Word) : Flt := ⟨if c.1 = 8 then .perm else .page, c.2, a, true⟩

/-- The word at the program counter of a stream (R78). DESIGN CHOICE (log 45): a packet read ahead whose fetch failed raises its fault when the
stream reaches it, whatever has been mapped since. -/
def Stream.fetch (t : Stream) : Fetched :=
  if isWindow t.pc then .fault ⟨.perm, 35, t.pc, true⟩
  else match t.packets.find? fun q => decide (q.addr = packetOf t.pc) with
    | none => .missing
    | some p =>
      match p.bad with
      | some c => .fault (fetchFlt c t.pc)
      | none => .word (p.data.extractLsb' (8 * (t.pc.toNat % 64)) 32)

/-- A word of the stream's code at another address, as the fetch path would read it: for the stage table of a LOOP (R74)
and the instruction after a REP (R122). DESIGN CHOICE (log 45): a packet that the buffers lack is read at once, with no wait and no
freeze. -/
def State.codeWord (s : State) (a : Word) : Fetched :=
  match s.me.packets.find? fun q => decide (q.addr = packetOf a) with
  | some p =>
    match p.bad with
    | some c => .fault (fetchFlt c a)
    | none => .word (p.data.extractLsb' (8 * (a.toNat % 64)) 32)
  | none =>
    if isWindow a then .fault ⟨.perm, 35, a, true⟩
    else
      let p := (s.readPacket (coreDie s.turn.ref.core) s.mySeat.sys.xlatRoot s.turn.isY (packetOf a)).1
      match p.bad with
      | some c => .fault (fetchFlt c a)
      | none => .word (p.data.extractLsb' (8 * (a.toNat % 64)) 32)

/-- The packets whose fetch failed are dropped, so that a stream that resumes fetches them again. -/
def Stream.dropBad (t : Stream) : Stream := { t with packets := t.packets.filter fun p => p.bad.isNone }

end Sys2Proof.Machine
end

