-- ==== Sys2Proof/Machine/Arb.lean ====
section
/-!
DEFINITION. The shared pipes of a core (R29, R31, R133, R199, R318) and the passing of a core cycle (R18, R32, R33, R36).
-/
namespace Sys2Proof.Machine

/-- The running stream has been granted the pipe in this cycle. -/
def Pipe.isGranted (p : Pipe) (k : Fin 2) (i : StreamId) : Bool := decide (p.granted = some (k, i))

/-- A requester joins a pipe's requesters (R318). -/
def Pipe.ask (p : Pipe) (k : Fin 2) (i : StreamId) (now : Nat) : Pipe :=
  if p.reqs.any fun q => decide (q.1 = k) && decide (q.2.1 = i) then p else { p with reqs := p.reqs ++ [(k, i, now)] }

/-- The order in which the streams of a core are taken at a tie (R318). -/
def portPos (k : Fin 2) (i : StreamId) : Nat :=
  3 * k.val + match i with | .K => 0 | .L => 1 | _ => 2

/-- The role of a stream (R29, R30). -/
def Core.role (c : Core) (k : Fin 2) (i : StreamId) : Nat := fld c.seat[k].sys.roles (2 * i.idx.val) 2

/-- Whether requester a is taken before requester b among promoted requesters: the larger wait, then the order after the
last grant (R318). -/
def Core.promotedBefore (c : Core) (p : Pipe) (vector : Bool) (a b : Fin 2 × StreamId × Nat) : Bool :=
  let n := if vector then 2 else 6
  let pos (k : Fin 2) (i : StreamId) : Nat := if vector then k.val else portPos k i
  let rot (x : Nat) : Nat := (x + n - pos p.last.1 p.last.2 - 1) % n
  let wa := c.live - a.2.2
  let wb := c.live - b.2.2
  decide (wb < wa) || (decide (wa = wb) && decide (rot (pos a.1 a.2.1) < rot (pos b.1 b.2.1)))

/-- Whether requester a is taken before requester b otherwise: the higher role; across seats the seat not granted last;
within a seat the rotation K, L, S after the seat's last grant (R318). -/
def Core.roleBefore (c : Core) (p : Pipe) (a b : Fin 2 × StreamId × Nat) : Bool :=
  let ra := c.role a.1 a.2.1
  let rb := c.role b.1 b.2.1
  if ra ≠ rb then decide (rb < ra)
  else if a.1 ≠ b.1 then decide (a.1 ≠ p.last.1)
  else
    let rot (i : StreamId) : Nat := (portPos 0 i + 3 - portPos 0 p.lastOf[a.1] - 1) % 3
    decide (rot a.2.1 < rot b.2.1)

/-- The first of a list by an order. -/
def firstBy {α : Type} (before : α → α → Bool) : List α → Option α
  | [] => none
  | a :: r =>
    match firstBy before r with
    | none => some a
    | some b => some (if before b a then b else a)

/-- The requester a pipe grants (R318). -/
def Core.pick (c : Core) (p : Pipe) (vector : Bool) : Option (Fin 2 × StreamId × Nat) :=
  let old := p.reqs.filter fun q => decide (c.ageLimit.toNat ≤ c.live - q.2.2)
  match old with
  | [] => firstBy (c.roleBefore p) p.reqs
  | _ => firstBy (c.promotedBefore p vector) old

/-- Stream `i` of the seat stands where it can issue: its instance runs, it has not halted or stopped at a comma, and no fault handler but
its own runs (R25, R47, R189). A stream Y runs on a seat that no instance holds (log 5). -/
def Seat.mayRun (st : Seat) (sys : Bool) (i : StreamId) : Bool :=
  (if sys then decide (i = .K) && decide (st.inst.phase ≠ .faulted) else decide (st.inst.phase = .running)) &&
    (!st.trap.active || decide (i = .K)) && !(st.getStr i).halted && (st.getStr i).comma.isNone

/-- The requesters of a pipe that still stand ready (R318). -/
def Core.ready (c : Core) (p : Pipe) : Pipe :=
  { p with reqs := p.reqs.filter fun q => c.seat[q.1].mayRun false q.2.1 }

/-- PIPE_GRANT (R318): a pipe of a core grants one ready requester of this cycle; losers count a pipe loss, promoted
requesters a promotion (R384). -/
def execPipeGrant (core : Fin 904) (vector : Bool) (s : State) : Res :=
  let c := s.core[core]
  let p := c.ready (if vector then c.vpipe else c.port)
  if p.decided || c.freeze.isSome then .next s
  else match c.pick p vector with
    | none => .next (s.setCore core (if vector then { c with vpipe := p } else { c with port := p }))
    | some g =>
      let p' : Pipe := { reqs := p.reqs.filter fun q => decide (q ≠ g), last := (g.1, g.2.1), lastOf := vmod p.lastOf g.1 fun _ => g.2.1,
                         granted := some (g.1, g.2.1), decided := true }
      let seats := c.seat.mapFinIdx fun k st h =>
        let lost := p.reqs.filter fun q => decide (q.1.val = k) && decide (q.1 ≠ g.1)
        let st := lost.foldr (fun q st => st.count 7 (some q.2.1) 1) st
        let st := if g.1.val = k && decide (c.ageLimit.toNat ≤ c.live - g.2.2) then st.count 8 none 1 else st
        if vector && g.1.val = k then { st with c := { st.c with done := false } } else st
      .next (s.setCore core { (if vector then { c with vpipe := p' } else { c with port := p' }) with seat := seats })

/-! ## A core cycle -/

/-- One result of C reaches its result cycle (R33, R126). -/
def Seat.land (st : Seat) (live : Nat) (w : CWrite) : Seat :=
  match w with
  | .vreg n data mask tag =>
    { st with vec := { st.vec with
        v := vmod st.vec.v n fun old => (old &&& ~~~mask) ||| (data &&& mask),
        tag := match tag with | some t => st.vec.tag.set n t | none => st.vec.tag } }
  | .kreg n data mask => { st with vec := { st.vec with k := vmod st.vec.k n fun old => (old &&& ~~~mask) ||| (data &&& mask) } }
  | .xreg n v => st.modStr .C fun t => t.wrX n v
  | .preg n v => st.modStr .C fun t => t.wrP n v
  | .treg n v => st.modStr .C fun t => { t with t := t.t.set n v }
  | .queue n v => st.modQ n fun f => f.push v live
  | .vlen v => { st with vec := { st.vec with vlen := v } }
  | .vstat b => { st with vec := { st.vec with vstat := st.vec.vstat ||| (b.setWidth 64 &&& 127) } }
  | .sysreg num v =>
    if num = 0x0300 then { st with vec := { st.vec with vlen := if v.toNat ≤ 256 then v else 256 } }
    else if num = 0x0301 then { st with vec := { st.vec with vstat := v &&& 127 } }
    else if num = 0x0403 then { st with trap := { st.trap with lstat := v &&& 0x3F03 } }
    else st

/-- Results due at C's clock reach their registers in issue order (R126). -/
def Seat.commit (st : Seat) (live : Nat) : Seat :=
  let due := st.c.pipe.filter fun p => decide (p.due ≤ st.c.clock)
  let rest := st.c.pipe.filter fun p => !decide (p.due ≤ st.c.clock)
  { (due.foldl (fun st p => st.land live p.w) st) with c := { st.c with pipe := rest, landed := due.map fun p => p.w } }

/-- A pipe has requesters and no decision yet in this cycle (R318). -/
def Pipe.undecided (p : Pipe) : Bool := !p.decided && !p.reqs.isEmpty

/-- Every C of a core has issued in this core cycle or waits, so that no freeze begins in it any more (R18, R189; log 51). -/
def Core.settled (c : Core) : Bool := !(c.seat.toList.any Seat.cDue) && !c.vpipe.undecided

/-- The next cycle of a pipe. -/
def Pipe.turn (p : Pipe) : Pipe := { p with granted := none, decided := false }

/-- The counters of waiting streams (R384 events 5 and 6). -/
def Seat.countWaits (st : Seat) (live : Nat) : Seat :=
  [StreamId.K, .L, .C, .S].foldr (fun i st =>
    let t := st.getStr i
    if t.issued = live + 1 then st
    else match t.waiting with
      | some false => st.count 5 (some i) 1
      | some true => st.count 6 (some i) 1
      | none => st) st

/-- Every stream stands at its N-th comma or is halted (R47 step 2). -/
def Seat.allReached (st : Seat) : Bool := st.str.toList.all fun t => t.halted || t.comma.isSome

/-- One unfrozen core cycle of a seat: schedule time (R32), C's clock and results (R33), COMMA_LIMIT counts (R47, R50). -/
def Seat.pass (st : Seat) (live : Nat) : Seat :=
  let st := st.countWaits live
  let placed := decide (st.inst.phase ≠ .free) && decide (st.inst.phase ≠ .preempted)
  let st := if placed then ({ st with sys := { st.sys with schedTime := st.sys.schedTime + 1 } } : Seat).count 1 none 1 else st
  let st := { st with cut := { st.cut with
    latch := match st.cut.latch with
      | some l =>
        if st.trap.active || decide (st.inst.phase = Phase.faulted) || st.allReached then some l else some { l with age := l.age + 1 }
      | none => none,
    handlerAge := if st.trap.active && st.trap.kind then st.cut.handlerAge + 1 else st.cut.handlerAge } }
  let go := !st.c.held || st.c.lead
  let c := { st.c with landed := [], done := false, held := st.c.held && !st.c.release, lead := false, release := false }
  if go then (({ st with c := { c with clock := st.c.clock + 1 } } : Seat).newCount).commit (live + 1) else ({ st with c := c } : Seat).newCount

/-- Frozen cycles of a symbol, saturating (R38, R321). -/
def LexEntry.freeze (e : LexEntry) : LexEntry :=
  { e with frozen := if e.frozen = BitVec.allOnes 32 then e.frozen else e.frozen + 1, frozenTotal := e.frozenTotal + 1 }

/-- One frozen core cycle of a core: counted by both seats (R384), and attributed to the symbol of the first source whose
data is still absent (R38). -/
def Core.frozenCycle (c : Core) (f : Freeze) : Core :=
  let c := { c with cycle := c.cycle + 1, seat := c.seat.map fun (st : Seat) => st.count 2 none 1 }
  let counted (c : Core) : Core := { c with seat := c.seat.map Seat.newCount }
  match f with
  | .fetch _ => counted { c with seat := c.seat.map fun (st : Seat) => st.count 3 none 1 }
  | .slot k a b =>
    let st : Seat := c.seat[k]
    let n := if st.ln[a].state = 1 then a else b.getD a
    counted { c with seat := c.seat.set k { st with lex := vmod st.lex st.ln[n].sym LexEntry.freeze } }

/-- A core cycle may pass: every C that is due has issued or waits, and every pipe with requesters has granted one. -/
def Core.mayPass (c : Core) : Bool :=
  !(c.seat.toList.any Seat.cDue) && !c.vpipe.undecided && !c.port.undecided

/-- A core cycle passes. -/
def Core.pass (c : Core) : Core :=
  match c.freeze with
  | some f => c.frozenCycle f
  | none =>
    if c.mayPass then
      { c with cycle := c.cycle + 1, live := c.live + 1, seat := c.seat.map fun st => st.pass c.live, vpipe := c.vpipe.turn,
               port := c.port.turn }
    else c

/-- The act `cycle`: the core's clock runs unless its die is in reset (R403) or stopped by a clock-plan step (R406). -/
def State.cycleAct (s : State) (c : Fin 904) : State :=
  if s.dieStopped (coreDie c) then s else s.setCore c s.core[c].pass

end Sys2Proof.Machine
end

