-- ==== Sys2Proof/Machine/Float.lean ====
section
/-!
DEFINITION. Number formats and arithmetic to the bit (R81 to R97, R135, R138, R148): exact values, RoundFmt, conversions,
Exp2_S, Crt36, group alignment, T5. Flags are returned as VSTAT bits (R130).
-/
namespace Sys2Proof.Machine

/-- VSTAT bits (R130). -/
abbrev FFlags := BitVec 8
def fNV : FFlags := 1
def fDZ : FFlags := 2
def fOF : FFlags := 4
def fUF : FFlags := 8
def fNX : FFlags := 16
def fSAT : FFlags := 32
def fTERN : FFlags := 64

/-- How a format spends its largest exponent (R82). -/
inductive FSpecial where
  | ieee | e4m3 | finite
  deriving DecidableEq, Repr

/-- A floating format (R82). -/
structure Fmt where
  width : Nat
  ebits : Nat
  frac  : Nat
  bias  : Nat
  spec  : FSpecial
  deriving DecidableEq, Repr

def fp32 : Fmt := ⟨32, 8, 23, 127, .ieee⟩
def fp16 : Fmt := ⟨16, 5, 10, 15, .ieee⟩
def bf16 : Fmt := ⟨16, 8, 7, 127, .ieee⟩
def e4m3 : Fmt := ⟨8, 4, 3, 7, .e4m3⟩
def e5m2 : Fmt := ⟨8, 5, 2, 15, .ieee⟩
def e2m3 : Fmt := ⟨6, 2, 3, 1, .finite⟩
def e3m2 : Fmt := ⟨6, 3, 2, 3, .finite⟩
def e2m1 : Fmt := ⟨4, 2, 1, 1, .finite⟩
def fp36 : Fmt := ⟨36, 8, 27, 127, .ieee⟩

/-- An exact value: ±m × 2^e (m = 0 is a signed zero), with `sticky` when the value lies strictly between m and m + 1
units; an infinity; a NaN; the outcome of an invalid operation (R135). -/
inductive FVal where
  | nan
  | invalid
  | inf (neg : Bool)
  | fin (neg : Bool) (m : Nat) (e : Int) (sticky : Bool)
  deriving DecidableEq, Repr

/-- The largest unbiased exponent of a format. -/
def Fmt.emax (f : Fmt) : Int :=
  match f.spec with
  | .ieee => (2 ^ f.ebits : Nat) - 2 - (f.bias : Int)
  | _ => (2 ^ f.ebits : Nat) - 1 - (f.bias : Int)

/-- The largest significand, in units of the last place. -/
def Fmt.maxSig (f : Fmt) : Nat :=
  match f.spec with
  | .e4m3 => 2 ^ (f.frac + 1) - 2
  | _ => 2 ^ (f.frac + 1) - 1

/-- The sign bit of a format. -/
def Fmt.sign (f : Fmt) (neg : Bool) : Nat := if neg then 2 ^ (f.width - 1) else 0

/-- The largest finite magnitude with a sign. -/
def Fmt.maxFinite (f : Fmt) (neg : Bool) : Nat :=
  f.sign neg + (f.emax + f.bias - 1).toNat * 2 ^ f.frac + f.maxSig

/-- The infinity of a format, or its largest magnitude when it has none (R85). -/
def Fmt.infinity (f : Fmt) (neg : Bool) : Nat :=
  match f.spec with
  | .ieee => f.sign neg + (2 ^ f.ebits - 1) * 2 ^ f.frac
  | _ => f.maxFinite neg

/-- The canonical NaN (R82, R83), or +0 in a format without one (R85). -/
def Fmt.qnan (f : Fmt) : Nat :=
  match f.spec with
  | .ieee => (2 ^ f.ebits - 1) * 2 ^ f.frac + 2 ^ (f.frac - 1)
  | .e4m3 => 0x7F
  | .finite => 0

/-- The value of a bit pattern (R82); with `ftz` a subnormal reads as zero of its sign (R84). -/
def Fmt.dec (f : Fmt) (ftz : Bool) (b : Nat) : FVal :=
  let neg := decide (b / 2 ^ (f.width - 1) % 2 = 1)
  let e := b / 2 ^ f.frac % 2 ^ f.ebits
  let fr := b % 2 ^ f.frac
  if f.spec = .ieee && e = 2 ^ f.ebits - 1 then (if fr = 0 then .inf neg else .nan)
  else if f.spec = .e4m3 && e = 15 && fr = 7 then .nan
  else if e = 0 then
    if ftz then .fin neg 0 0 false else .fin neg fr (1 - f.bias - f.frac) false
  else .fin neg (fr + 2 ^ f.frac) ((e : Int) - f.bias - f.frac) false

/-- The natural m / 2^sh rounded by a mode, and whether it is inexact. -/
def roundShift (mode : Rnd) (neg : Bool) (m sh : Nat) : Nat × Bool :=
  let sh := min sh (Nat.log2 m + 3)
  let q := m / 2 ^ sh
  let r := m % 2 ^ sh
  if r = 0 then (q, false)
  else
    let up := match mode with
      | .rn => decide (2 ^ sh < 2 * r) || (decide (2 ^ sh = 2 * r) && decide (q % 2 = 1))
      | .rz => false
      | .rd => neg
      | .ru => !neg
    (if up then q + 1 else q, true)

/-- ±m × 2^e, m > 0, rounded to an integral multiple of 2^q. -/
def roundAt (mode : Rnd) (neg : Bool) (m : Nat) (e q : Int) : Nat × Bool :=
  if q ≤ e then (m * 2 ^ (e - q).toNat, false) else roundShift mode neg m (q - e).toNat

/-- RoundFmt of ±m × 2^e, m > 0 (R84, R85), with the flags of R130; `ftz` as R84. -/
def Fmt.roundFin (f : Fmt) (mode : Rnd) (ftz neg : Bool) (m : Nat) (e : Int) : Nat × FFlags :=
  let lg : Int := (Nat.log2 m : Int) + e
  let emin : Int := 1 - f.bias
  let eb := max lg emin
  let r := roundAt mode neg m e (eb - f.frac)
  if f.emax < eb || (eb = f.emax && f.maxSig < r.1) then
    let toInf := match mode with
      | .rn => true
      | .rz => false
      | .rd => neg
      | .ru => !neg
    (if toInf then f.infinity neg else f.maxFinite neg, fOF ||| fNX)
  else
    let tiny := decide (lg < emin) && r.2 &&
      decide ((roundAt mode neg m e (lg - f.frac)).1 < 2 ^ ((f.frac : Int) + emin - lg).toNat)
    let fl := (if r.2 then fNX else 0) ||| (if tiny then fUF else 0)
    if ftz && r.1 ≠ 0 && r.1 < 2 ^ f.frac then (f.sign neg, fUF ||| fNX)
    else (f.sign neg + (eb + f.bias - 1).toNat * 2 ^ f.frac + r.1, fl)

/-- RoundFmt of an exact value (R84, R85). -/
def Fmt.round (f : Fmt) (mode : Rnd) (ftz : Bool) (v : FVal) : Nat × FFlags :=
  match v with
  | .nan => (f.qnan, if f.spec = .finite then fNV else 0)
  | .invalid => (f.qnan, fNV)
  | .inf neg => (f.infinity neg, 0)
  | .fin neg m e st =>
    if m = 0 && !st then (f.sign neg, 0)
    else if st then f.roundFin mode ftz neg (2 * m + 1) (e - 1)
    else f.roundFin mode ftz neg m e

/-- RoundFmt for an operation of a format: BF16 rounds to FP32 by the mode and then by RoundNE; .ftz flushes only the
result (R84, R135). -/
def opRound (f : Fmt) (mode : Rnd) (ftz : Bool) (v : FVal) : Nat × FFlags :=
  if f = bf16 then
    let a := fp32.round mode false v
    let b := bf16.round .rn ftz (fp32.dec false a.1)
    (b.1, a.2 ||| b.2)
  else f.round mode ftz v

/-- The negated value. -/
def FVal.neg : FVal → FVal
  | .fin n m e st => .fin (!n) m e st
  | .inf n => .inf (!n)
  | v => v

/-- The exact sum (R135): opposite infinities are invalid; an exact zero of opposite signs is +0, under .rd −0. -/
def FVal.add (rd : Bool) (a b : FVal) : FVal :=
  match a, b with
  | .invalid, _ => .invalid
  | _, .invalid => .invalid
  | .nan, _ => .nan
  | _, .nan => .nan
  | .inf x, .inf y => if x = y then .inf x else .invalid
  | .inf x, _ => .inf x
  | _, .inf y => .inf y
  | .fin sa ma ea _, .fin sb mb eb _ =>
    if ma = 0 && mb = 0 then .fin (if sa = sb then sa else rd) 0 0 false
    else if ma = 0 then .fin sb mb eb false
    else if mb = 0 then .fin sa ma ea false
    else
      let e := min ea eb
      let x : Int := (if sa then -1 else 1) * (ma * 2 ^ (ea - e).toNat : Nat)
      let y : Int := (if sb then -1 else 1) * (mb * 2 ^ (eb - e).toNat : Nat)
      let t := x + y
      if t = 0 then .fin rd 0 0 false else .fin (decide (t < 0)) t.natAbs e false

/-- The exact product (R135): 0 × ∞ is invalid. -/
def FVal.mul (a b : FVal) : FVal :=
  match a, b with
  | .invalid, _ => .invalid
  | _, .invalid => .invalid
  | .nan, _ => .nan
  | _, .nan => .nan
  | .inf x, .inf y => .inf (x != y)
  | .inf x, .fin sb mb _ _ => if mb = 0 then .invalid else .inf (x != sb)
  | .fin sa ma _ _, .inf y => if ma = 0 then .invalid else .inf (sa != y)
  | .fin sa ma ea _, .fin sb mb eb _ => if ma = 0 || mb = 0 then .fin (sa != sb) 0 0 false else .fin (sa != sb) (ma * mb) (ea + eb) false

/-- The value times 2^n (R144). -/
def FVal.scale (n : Int) : FVal → FVal
  | .fin s m e st => if m = 0 then .fin s m e st else .fin s m (e + n) st
  | v => v

/-- An integer as an exact value. -/
def FVal.ofInt (i : Int) : FVal := .fin (decide (i < 0)) i.natAbs 0 false

/-- A value as an integer of a range, rounded by a mode and saturated (R85). -/
def FVal.toIntRange (mode : Rnd) (lo hi : Int) (v : FVal) : Int × FFlags :=
  match v with
  | .nan => (0, fNV)
  | .invalid => (0, fNV)
  | .inf neg => (if neg then lo else hi, fNV)
  | .fin neg m e _ =>
    if m = 0 then (0, 0)
    else
      let r := if 64 < e then (2 ^ 64, false) else roundAt mode neg m e 0
      let i : Int := if neg then -(r.1 : Int) else r.1
      if i < lo then (lo, fNV) else if hi < i then (hi, fNV) else (i, if r.2 then fNX else 0)

/-! ## Order (R138) -/

/-- A non-NaN value placed in the order −∞ < negatives < zeros < positives < +∞: a < b as numbers. -/
def FVal.lt (a b : FVal) : Bool :=
  match a, b with
  | .inf x, .inf y => x && !y
  | .inf x, .fin _ _ _ _ => x
  | .fin _ _ _ _, .inf y => !y
  | .fin sa ma ea _, .fin sb mb eb _ =>
    let e := min ea eb
    let x : Int := (if sa then -1 else 1) * (ma * 2 ^ (ea - e).toNat : Nat)
    let y : Int := (if sb then -1 else 1) * (mb * 2 ^ (eb - e).toNat : Nat)
    decide (x < y)
  | _, _ => false

/-- A negative zero. -/
def FVal.negZero : FVal → Bool
  | .fin n m _ _ => n && decide (m = 0)
  | _ => false

/-- A zero. -/
def FVal.isZero : FVal → Bool
  | .fin _ m _ _ => decide (m = 0)
  | _ => false

/-- The total order of R138: −0 lies below +0. -/
def FVal.totalLt (a b : FVal) : Bool := a.lt b || (a.isZero && b.isZero && a.negZero && !b.negZero)

/-- The lesser (`mx` false) or greater operand by R138, on bit patterns of a format. -/
def fMinMax (f : Fmt) (mx : Bool) (a b : Nat) : Nat :=
  let va := f.dec false a
  let vb := f.dec false b
  if va = .nan then (if vb = .nan then f.qnan else b)
  else if vb = .nan then a
  else if mx then (if va.totalLt vb then b else a) else (if vb.totalLt va then b else a)

/-- The comparisons of R138 (IEEE 754): with a NaN only .ne holds. -/
def fCompare (f : Fmt) (c : CondF) (a b : Nat) : Bool :=
  let va := f.dec false a
  let vb := f.dec false b
  if va = .nan || vb = .nan then decide (c = .ne)
  else
    let lt := va.lt vb
    let gt := vb.lt va
    match c with
    | .eq => !lt && !gt
    | .ne => lt || gt
    | .lt => lt
    | .le => !gt
    | .gt => gt
    | .ge => !lt

/-! ## Elementary functions (R95, R148) -/

/-- T[i] = RoundNE(2^(i/64)) in FP32 (R95, log 17). -/
def exp2Table : List Nat :=
  [0x3F800000, 0x3F8164D2, 0x3F82CD87, 0x3F843A29, 0x3F85AAC3, 0x3F871F62, 0x3F88980F, 0x3F8A14D5]
   ++ [0x3F8B95C2, 0x3F8D1ADF, 0x3F8EA43A, 0x3F9031DC, 0x3F91C3D3, 0x3F935A2B, 0x3F94F4F0, 0x3F96942D]
   ++ [0x3F9837F0, 0x3F99E046, 0x3F9B8D3A, 0x3F9D3EDA, 0x3F9EF532, 0x3FA0B051, 0x3FA27043, 0x3FA43516]
   ++ [0x3FA5FED7, 0x3FA7CD94, 0x3FA9A15B, 0x3FAB7A3A, 0x3FAD583F, 0x3FAF3B79, 0x3FB123F6, 0x3FB311C4]
   ++ [0x3FB504F3, 0x3FB6FD92, 0x3FB8FBAF, 0x3FBAFF5B, 0x3FBD08A4, 0x3FBF179A, 0x3FC12C4D, 0x3FC346CD]
   ++ [0x3FC5672A, 0x3FC78D75, 0x3FC9B9BE, 0x3FCBEC15, 0x3FCE248C, 0x3FD06334, 0x3FD2A81E, 0x3FD4F35B]
   ++ [0x3FD744FD, 0x3FD99D16, 0x3FDBFBB8, 0x3FDE60F5, 0x3FE0CCDF, 0x3FE33F89, 0x3FE5B907, 0x3FE8396A]
   ++ [0x3FEAC0C7, 0x3FED4F30, 0x3FEFE4BA, 0x3FF28177, 0x3FF5257D, 0x3FF7D0DF, 0x3FFA83B3, 0x3FFD3E0C]

/-- Exp2_S on an FP32 bit pattern (R95): every step rounds by RoundNE in FP32. -/
def exp2S (b : Nat) : Nat :=
  let rn (v : FVal) : FVal := fp32.dec false (fp32.round .rn false v).1
  let go (n : Int) (m sh : Nat) : Nat :=      -- x = n + m / 2^sh, 0 ≤ m / 2^sh < 1
    let i := m * 64 / 2 ^ sh
    let r : FVal := .fin false (m * 64 - i * 2 ^ sh) (-(sh : Int) - 6) false
    let u := rn ((fp32.dec false 0x3F317218).add false (r.mul (fp32.dec false 0x3E75FDF0)))
    let p := rn ((FVal.ofInt 1).add false (r.mul u))
    let t := rn ((fp32.dec false (exp2Table.getD i 0)).mul p)
    (fp32.round .rn false (t.scale n)).1
  match fp32.dec false b with
  | .nan => fp32.qnan
  | .invalid => fp32.qnan
  | .inf neg => if neg then go (-150) 0 0 else go 128 0 0
  | .fin neg m e _ =>
    if 0 ≤ e then
      let v : Int := (if neg then -1 else 1) * (m * 2 ^ (min e.toNat 16) : Nat)
      go (max (-150) (min 128 v)) 0 0
    else
      let sh := (-e).toNat
      let v : Int := if neg then -(m : Int) else m
      let fl := Int.fdiv v (2 ^ sh : Nat)
      if fl < -150 then go (-150) 0 0
      else if 128 ≤ fl then go 128 0 0
      else go fl (Int.fmod v (2 ^ sh : Nat)).toNat sh

/-- The exact reciprocal, as floor and sticky (R148). -/
def FVal.recip (m : Nat) (e : Int) (neg : Bool) : FVal :=
  let p := 96 + Nat.log2 m
  .fin neg (2 ^ p / m) (-(p : Int) - e) (decide (2 ^ p % m ≠ 0))

/-- The exact reciprocal square root of m × 2^e, as floor and sticky (R148). -/
def FVal.rsqrt (m : Nat) (e : Int) : FVal :=
  let odd := decide (e % 2 ≠ 0)
  let m := if odd then 2 * m else m
  let e := if odd then e - 1 else e
  let p := 96 + Nat.log2 m
  let q := 2 ^ (2 * p) / m
  let r := isqrt 128 q
  .fin false r (-(p : Int) - e / 2) (decide (r * r * m ≠ 2 ^ (2 * p)))

/-- Bits of a binary logarithm by repeated squaring: y in [1, 2) with 320 fraction bits; n bits appended to acc. -/
def log2Bits : Nat → Nat → Nat → Nat
  | 0, _, acc => acc
  | n + 1, y, acc =>
    let z := y * y / 2 ^ 320
    if 2 ^ 321 ≤ z then log2Bits n (z / 2) (2 * acc + 1) else log2Bits n z (2 * acc)

/-- log2 of m × 2^e, m > 0, to 160 fraction bits and a sticky bit; exact for a power of two (R148, log 9). -/
def FVal.log2 (m : Nat) (e : Int) : FVal :=
  let k := Nat.log2 m
  if m = 2 ^ k then FVal.ofInt ((k : Int) + e)
  else
    let y := m * 2 ^ 320 / 2 ^ k
    let n : Int := ((k : Int) + e) * (2 ^ 160 : Nat) + (log2Bits 160 y 0 : Nat)
    if 0 ≤ n then .fin false n.toNat (-160) true else .fin true (-n - 1).toNat (-160) true

/-! ## RNS36 (R87, R88) -/

/-- ToRns (R87). -/
def toRns (v : Int) : Nat :=
  (v % 4093).toNat * 2 ^ 24 + (v % 4095).toNat * 2 ^ 12 + (v % 4096).toNat

/-- Crt36 (R88). -/
def crt36 (c : Nat) : Int :=
  let a0 : Int := (c % 4096 : Nat)
  let a1 : Int := (c / 2 ^ 12 % 4096 % 4095 : Nat)
  let a2 : Int := (c / 2 ^ 24 % 4096 % 4093 : Nat)
  let d0 := a0
  let d1 := (a1 - d0) % 4095
  let t := (d0 + 3 * d1) % 4093
  let d2 := ((a2 - t) * 3411) % 4093
  let u := d0 + 4096 * (d1 + 4095 * d2)
  if 34326190080 ≤ u then u - 68652380160 else u

/-- Channel-wise sum of two cells (R87). -/
def rnsAdd (a b : Nat) : Nat :=
  (a / 2 ^ 24 % 4096 + b / 2 ^ 24 % 4096) % 4093 * 2 ^ 24 + (a / 2 ^ 12 % 4096 + b / 2 ^ 12 % 4096) % 4095 * 2 ^ 12 +
    (a % 4096 + b % 4096) % 4096

/-! ## T5 (R97) -/

/-- The i-th weight of a T5 byte and whether the byte is legal (R97). -/
def t5Weight (b i : Nat) : Int :=
  if 243 ≤ b then 0
  else
    let q := (256 * b + 242) / 243
    ((q * 3 ^ i % 256) * 3 / 256 : Nat) - 1

end Sys2Proof.Machine
end

