-- ==== Sys2Proof/Machine/Control.lean ====
section
/-!
DEFINITION. The control, loop, repeat and gap instructions (R113 to R123), the comma (R45, R192), TRAP and ERET (R191), and
a word that no encoding defines (R72, R73).
-/
namespace Sys2Proof.Machine

/-- NOP (R113). -/
def execNop (s : State) : Res := .next s.retire

/-- PBR: tn := address of PBR + 4 × imm16, and a fill of the target's packet starts (R113). -/
def execPbr (t : Fin 8) (i : BitVec 16) (s : State) : Res :=
  let a := s.me.pc + 4 * i.signExtend 64
  .next ((s.wrTarget t a).startFill s.turn.ref a).retire

/-- BR (R113, R115). -/
def execBr (t : Fin 8) (p : Fin 16) (s : State) : Res :=
  if !s.pFree p then s.stall none
  else if s.me.rdP p then .next (s.jumpTo s.me.t[t]) else .next s.retire

/-- CALL: reads tn before it writes t7 (R113); in C x31 and t7 are written 2 schedule cycles later, as by a simple instruction
(DESIGN CHOICE, log 44: R103 points to R115 for the latency, which gives none). -/
def execCall (t : Fin 8) (p : Fin 16) (s : State) : Res :=
  if !(s.pFree p && s.xOpen 31) then s.stall none
  else if s.me.rdP p then
    let back := s.me.pc + 4
    .next ((((s.wr (.x 31) 1 2 back).wrTarget 7 back).startFill s.turn.ref back).jumpTo s.me.t[t])
  else .next s.retire

/-- RET (R113). -/
def execRet (p : Fin 16) (s : State) : Res :=
  if !s.pFree p then s.stall none
  else if s.me.rdP p then .next (s.jumpTo s.me.t[(7 : Fin 8)]) else .next s.retire

/-- HALT: the stream stops at its HALT (R25, R47, R113). -/
def execHalt (s : State) : Res :=
  .next (s.modMySeat fun st => st.goOn s.turn.stream s.now ({ st.getStr s.turn.stream with halted := true }, false))

/-- PBRI: a target with bits [1:0] nonzero raises ALIGN precisely (R114). -/
def execPbri (t : Fin 8) (a : SSpec) (i : BitVec 11) (s : State) : Res :=
  if !s.classOk [a] [] then s.raiseClass
  else match s.blocked [a] [] with
    | some why => s.stall why
    | none =>
      let v := s.peek a + 4 * i.signExtend 64
      if v &&& 3 ≠ 0 then s.raise (Flt.at' .align 0 v)
      else .next ((((s.take a).wrTarget t v).startFill s.turn.ref v).retire)

/-! ## LOOP and REP -/

/-- The stages of body instructions from number i on, from the table words read at `a` (R74): none when the table is
malformed; a fetch fault of a table word is raised as such. -/
def State.stageTable (s : State) (a : Word) (stg len : Nat) : Nat → Nat → List (Fin 8) → Except Flt (List (Fin 8))
  | 0, _, acc => .ok acc
  | n + 1, j, acc =>
    match s.codeWord (a + BitVec.ofNat 64 (4 * j)) with
    | .fault f => .error f
    | .missing => .error (Flt.mk' .undefOp 0)
    | .word w =>
      let es := (List.range 10).map fun i => (fld w (3 * i) 3, 10 * j + i)
      if bit w 30 || bit w 31 || es.any fun e => if e.2 < len then decide (stg < e.1) else decide (e.1 ≠ 0) then
        .error (Flt.mk' .undefOp 0)
      else
        s.stageTable a stg len n (j + 1) (acc ++ (es.filter fun e => decide (e.2 < len)).map fun e => Fin.ofNat 8 e.1)

/-- LOOP with its count known (R118, R119): `stg` is S − 1, `len` the body length. -/
def State.loopWith (s : State) (stg : Fin 8) (len : Nat) (stages : List (Fin 8)) (count : Int) : Res :=
  let nt := if stg = 0 then 0 else (len + 9) / 10
  let body := s.me.pc + BitVec.ofNat 64 (4 + 4 * nt)
  if count ≤ 0 then .next (s.retireTo (body + BitVec.ofNat 64 (4 * len)))
  else
    let c := min count.toNat (2 ^ 32 - 1)
    .next (s.modMySeat fun st => st.goOn s.turn.stream s.now
      ({ st.getStr s.turn.stream with lc := mkLc stg.val len (c - 1) true, loopPc := body, ps := 1, pc := body,
                                      stages := stages, repStage := none }, false))

/-- The checks of a LOOP before its count is read: NEST, then the stage table (R119, R121). -/
def State.loopChecked (s : State) (stg : Fin 8) (len : Nat) : Except Flt (List (Fin 8)) :=
  if s.me.act then .error (Flt.mk' .undefOp 1)
  else if stg = 0 then .ok []
  else s.stageTable (s.me.pc + 4) stg.val len ((len + 9) / 10) 0 []

/-- LOOP s1, label, #S (R118). -/
def execLoopReg (sv : Fin 8) (a : SSpec) (b : BitVec 11) (s : State) : Res :=
  if !s.classOk [a] [] then s.raiseClass
  else match s.loopChecked sv b.toNat with
    | .error f => s.raise f
    | .ok stages =>
      match s.blocked [a] [] with
      | some why => s.stall why
      | none => (s.take a).loopWith sv b.toNat stages (s.peek a).toInt

/-- LOOP #c, label, #S (R118). -/
def execLoopImm (b : BitVec 6) (c : BitVec 16) (sv : Fin 8) (s : State) : Res :=
  match s.loopChecked sv b.toNat with
  | .error f => s.raise f
  | .ok stages => s.loopWith sv b.toNat stages c.toNat

/-- The instruction after a REP may be repeated (R122): not of major 12 to 15 or 50. -/
def State.repChecked (s : State) : Except Flt Unit :=
  match s.codeWord (s.me.pc + 4) with
  | .fault f => .error f
  | .missing => .error (Flt.mk' .undefOp 1)
  | .word w =>
    let m := fld w 26 6
    if (12 ≤ m && m ≤ 15) || m = 50 then .error (Flt.mk' .undefOp 1) else .ok ()

/-- REP with its count (R122): REP #0 skips the instruction. -/
def State.repWith (s : State) (n : Nat) : Res :=
  if n = 0 then .next (s.retireTo (s.me.pc + 8))
  else
    .next (s.modMySeat fun st => st.goOn s.turn.stream s.now
      (let t := st.getStr s.turn.stream
       ({ t with pc := t.pc + 4, repLeft := BitVec.ofNat 32 n, repStage := if t.act then some t.stageNow else none }, false)))

/-- REP s1 (R122). -/
def execRepReg (a : SSpec) (s : State) : Res :=
  if !s.classOk [a] [] then s.raiseClass
  else match s.repChecked with
    | .error f => s.raise f
    | .ok _ =>
      match s.blocked [a] [] with
      | some why => s.stall why
      | none => (s.take a).repWith (min (s.peek a).toInt.toNat (2 ^ 32 - 1))

/-- REP #n (R122). -/
def execRepImm (n : BitVec 16) (s : State) : Res :=
  match s.repChecked with
  | .error f => s.raise f
  | .ok _ => s.repWith n.toNat

/-- A slot whose stage predicate is off (R119): it issues and does nothing; after an off REP its instruction takes REP's
stage (R122). -/
def State.skipSlot (s : State) (isRep : Bool) : Res :=
  if isRep && (s.me.repStage.isNone) then
    .next (s.modMySeat fun st => st.goOn s.turn.stream s.now
      (let t := st.getStr s.turn.stream; ({ t with pc := t.pc + 4, repStage := some t.stageNow }, false)))
  else .next s.retire

/-- GAP: the next C instruction issues Max(b + k, 1) schedule cycles later (R123). -/
def execGap (y : Fin 32) (k : BitVec 16) (s : State) : Res :=
  let n := (((s.mySeat.lex[y].b.toNat : Int) + k.toInt)).toNat
  .next (s.retire.modMySeat fun st => { st with c := { st.c with ready := st.c.clock + max n 1 } })

/-! ## Commas and cuts to come -/

/-- The highest pass count of the four streams (R47). -/
def Seat.topPass (st : Seat) : Nat := st.str.toList.foldr (fun t m => max t.passes.toNat m) 0

/-- Some event that requests a cut is pending (R47). -/
def Seat.cutPending (st : Seat) : Bool :=
  st.cut.preempt || st.cut.bookmark ||
    st.lex.toList.any fun e => decide (e.state = 2) || decide (e.state = 3) || e.setb || e.setp || e.setc

/-- The latch of R47 step 1: N is the highest pass count plus one; events of a running re-timing handler wait (R50). PREEMPT and BOOKMARK
join a latched cut until its step 4, which begins when all streams have stopped. -/
def Seat.latchCut (st : Seat) : Seat :=
  match st.cut.latch with
  | none =>
    if st.cutPending && !(st.trap.active && st.trap.kind) then
      { st with cut := { st.cut with latch := some ⟨BitVec.ofNat 32 (st.topPass + 1), 0, st.cut.preempt, st.cut.bookmark⟩ } }
    else st
  | some l =>
    if st.allReached then st
    else { st with cut := { st.cut with latch := some { l with preempt := st.cut.preempt, bookmark := st.cut.bookmark } } }

/-- A bookmark becomes pending when the highest pass count reaches PASS − 1 (R390). -/
def Seat.bookmarkDue (st : Seat) : Seat :=
  if bit st.sys.bmark 0 && !st.cut.bookmark && decide (fld st.sys.bmark 32 32 ≤ st.topPass + 1) then
    ({ st with cut := { st.cut with bookmark := true } } : Seat).latchCut
  else st

/-- COMMA: counts a pass; at pass N of a latched cut the stream stops after it (R45, R47, R192). -/
def execComma (n : BitVec 10) (m : BitVec 6) (s : State) : Res :=
  if s.me.act then s.raise (Flt.mk' .undefOp 1)
  else
    .next (s.retire.modMySeat fun st =>
      (st.modStr s.turn.stream fun t =>
        let t := { t with passes := t.passes + 1 }
        match st.cut.latch with
        | some l => if t.passes = l.n then { t with comma := some (n, m) } else t
        | none => t).bookmarkDue)

/-! ## TRAP, ERET and undefined words -/

/-- TRAP #code: FAULT_PC at the next instruction (R186, R191). -/
def execTrap (i : BitVec 16) (s : State) : Res := s.raiseAfter (Flt.mk' .trap i.toNat)

/-- ERET (R191). -/
def execEret (s : State) : Res :=
  if !s.mySeat.trap.active then s.raise (Flt.mk' .undefOp 17)
  else
    .next (s.modMySeat fun st =>
      (({ st with str := st.str.map fun t => { t with issued := s.now + 1, wait := .none, waiting := none } } : Seat).eret).latchCut)

/-- UNDEFINED_ENCODING: a reserved major raises UNDEF_MAJOR, an unlisted minor or variant UNDEF_OP (R72, R73). -/
def execUndefinedEncoding (w : IWord) (s : State) : Res :=
  if majorReserved (fld w 26 6) then s.raise (Flt.mk' .undefMajor 0) else s.raise (Flt.mk' .undefOp 0)

end Sys2Proof.Machine
end

