-- ==== Sys2Proof/Machine/Lexicon.lean ====
section
/-!
DEFINITION. The lexicon and the measurement unit: samples, windows and proposals (R38, R42, R43), LEX_PARAM (R322), clock-plan
proposals (R49, R323), the settlement of a cut (R324), SYMRD and SYMSET (R325, R326).
-/
namespace Sys2Proof.Machine

/-- LEX_PARAM fields (R322). -/
def parSlack (w : Word) : Nat := fld w 32 16
def parMargin (w : Word) : Nat := fld w 16 8
def parShift (w : Word) : Nat := fld w 8 4
def parEarly (w : Word) : Nat := fld w 0 8

/-- A count that saturates at 2^n − 1. -/
def satInc {n : Nat} (v : BitVec n) (k : Nat) : BitVec n := BitVec.ofNat n (min (v.toNat + k) (2 ^ n - 1))

/-- The smallest multiple of 8 that is at least n. -/
def up8 (n : Nat) : Nat := (n + 7) / 8 * 8

namespace Measure

/-- The bucket width (R42). -/
def width (e : LexEntry) : Nat := (e.hi.toNat - e.lo.toNat + 1 + 111) / 112 * 8

/-- The bucket of a sample (R42). -/
def bucket (e : LexEntry) (m : Nat) : Nat :=
  if m < e.lo.toNat then 0 else min 15 (1 + (m - e.lo.toNat) / width e)

/-- The lowest bucket at or above i whose cumulative count reaches 254 (R42). -/
def percentile (e : LexEntry) : Nat → Nat → Nat → Nat
  | 0, _, _ => 15
  | n + 1, i, cum =>
    let c := cum + (e.bkt[i]?.getD 0).toNat
    if 254 ≤ c then i else percentile e n (i + 1) c

/-- The percentile edge Q (R42). -/
def edge (e : LexEntry) : Nat :=
  let k := percentile e 16 0 0
  up8 (if k = 15 then e.maxs.toNat else e.lo.toNat + k * width e)

/-- The window restarts at schedule time `now` (R42). -/
def restart (e : LexEntry) (now : Nat) : LexEntry :=
  { e with samples := 0, span0 := BitVec.ofNat 32 now, frozen := 0, maxs := 0, bkt := Vector.replicate 16 0 }

/-- A proposal becomes P: below lo it is stored as lo, above hi the symbol goes to FAULT_PENDING (R43). -/
def propose (e : LexEntry) (v : Nat) : LexEntry :=
  let v := max v e.lo.toNat
  let w := BitVec.ofNat 24 (min v (2 ^ 24 - 1))
  if e.hi.toNat < v then { e with p1 := 0, state := 3, p := w, fvalue := w } else { e with p1 := 0, state := 2, p := w }

/-- The end of a window at schedule time `now` with LEX_PARAM `par` (R43, R322). -/
def windowEnd (e : LexEntry) (par : Word) (now : Nat) : LexEntry :=
  let e := { e with par := par }
  let span := ((BitVec.ofNat 32 now) - e.span0).toNat
  let q := edge e
  let stretch := decide (span < e.frozen.toNat * 2 ^ parShift par)
  let low := decide (q + parMargin par ≤ e.b.toNat)
  let e' :=
    if e.state = 3 then e
    else if stretch && decide (e.policy ≠ 2) then propose e (max q (e.b.toNat + 8))
    else if e.state = 0 && low && decide (e.policy = 0) then { e with p1 := BitVec.ofNat 24 q, state := 1 }
    else if e.state = 1 && low && decide (e.policy = 0) then propose e (max e.p1.toNat q)
    else if e.state = 1 then { e with p1 := 0, state := 0 }
    else e
  restart e' now

/-- A sample of latency `m` whose request used binding `b` (R38, R42, R43, R323 step 1). DESIGN CHOICE (log 27): of a window's 256th sample
that is late itself, the window end is taken first. A proposal that a late sample drops leaves a free value in P. -/
def sample (e : LexEntry) (par : Word) (now m b : Nat) : LexEntry :=
  let e := if b < m then { e with late := satInc e.late 1 }
           else if m + parEarly e.par < b then { e with early := satInc e.early 1 } else e
  let k := bucket e m
  let e := { e with bkt := e.bkt.mapFinIdx fun i c _ => if i = k then satInc c 1 else c,
                    maxs := BitVec.ofNat 24 (max e.maxs.toNat (min m (2 ^ 24 - 1))), samples := e.samples + 1 }
  let e := if e.samples = 0 then windowEnd e par now else e
  if e.hi.toNat + parSlack e.par < m && decide (e.state ≠ 3) then
    { e with p := if e.state = 2 then Config.droppedP now else e.p, p1 := 0, state := 3, fvalue := BitVec.ofNat 24 (min m (2 ^ 24 - 1)) }
  else e

/-- The clock-plan step from `old` to `new` MHz (R49, R323 step 2). -/
def clockStep (e : LexEntry) (now old new : Nat) : LexEntry :=
  let e :=
    if e.policy ≠ 2 && decide (e.state ≠ 3) then
      let v := (e.b.toNat * new + 8 * old - 1) / (8 * old) * 8
      { e with p := BitVec.ofNat 24 (min (max v e.lo.toNat) e.hi.toNat), p1 := 0, state := 2 }
    else e
  restart e now

/-- Steps 1 to 3 and 5 of R324 for one entry at a cut; `dlv` tells that its LATENCY_BOUND is delivered. -/
def settle (e : LexEntry) (now : Nat) (dlv : Bool) : LexEntry :=
  let b := if e.setb then e.sb else if e.state = 2 then e.p else e.b
  let clear := e.state = 2 || dlv || ((e.state = 0 || e.state = 1) && e.setb)
  let e := { e with b := b, setb := false, policy := if e.setp then e.npol else e.policy, setp := false,
                    late := if e.setc then 0 else e.late, early := if e.setc then 0 else e.early,
                    frozenTotal := if e.setc then 0 else e.frozenTotal, setc := false }
  if clear then { restart e now with p1 := 0, state := 0 }
  else if e.state = 3 then restart e now
  else e

/-- Doubleword w of an entry (R321). -/
def dword (e : LexEntry) (w : Nat) : Word :=
  let bit' (b : Bool) (i : Nat) : Nat := if b then 2 ^ i else 0
  BitVec.ofNat 64 (match w with
    | 0 => e.hi.toNat * 2 ^ 40 + e.lo.toNat * 2 ^ 16 + e.npol.toNat * 2 ^ 14 + bit' e.setc 10 + bit' e.setp 9 +
           bit' e.setb 8 + e.policy.toNat * 2 ^ 6 + e.state.toNat * 2 ^ 3
    | 1 => e.b.toNat * 2 ^ 40 + e.p.toNat * 2 ^ 16
    | 2 => e.p1.toNat * 2 ^ 40 + e.sb.toNat * 2 ^ 16 + e.samples.toNat
    | 3 => e.span0.toNat * 2 ^ 32 + e.frozen.toNat
    | 4 => e.late.toNat * 2 ^ 32 + e.early.toNat
    | 5 => e.fvalue.toNat * 2 ^ 40 + e.maxs.toNat
    | 6 => packLanes 8 ((e.bkt.toList.take 8).map fun c => c.toNat)
    | _ => packLanes 8 ((e.bkt.toList.drop 8).map fun c => c.toNat))

/-- An entry read back from its eight doublewords (R193, R194); the counts that no doubleword holds are kept. -/
def ofDwords (old : LexEntry) (d : Nat → Word) : LexEntry :=
  { old with
    hi := BitVec.ofNat 24 (fld (d 0) 40 24), lo := BitVec.ofNat 24 (fld (d 0) 16 24), npol := BitVec.ofNat 2 (fld (d 0) 14 2),
    setc := bit (d 0) 10, setp := bit (d 0) 9, setb := bit (d 0) 8, policy := BitVec.ofNat 2 (fld (d 0) 6 2),
    state := BitVec.ofNat 3 (fld (d 0) 3 3), b := BitVec.ofNat 24 (fld (d 1) 40 24), p := BitVec.ofNat 24 (fld (d 1) 16 24),
    p1 := BitVec.ofNat 24 (fld (d 2) 40 24), sb := BitVec.ofNat 24 (fld (d 2) 16 24), samples := BitVec.ofNat 8 (fld (d 2) 0 8),
    span0 := BitVec.ofNat 32 (fld (d 3) 32 32), frozen := BitVec.ofNat 32 (fld (d 3) 0 32),
    late := BitVec.ofNat 32 (fld (d 4) 32 32), early := BitVec.ofNat 32 (fld (d 4) 0 32),
    fvalue := BitVec.ofNat 24 (fld (d 5) 40 24), maxs := BitVec.ofNat 24 (fld (d 5) 0 24),
    bkt := Vector.ofFn fun k => BitVec.ofNat 8 (fld (d (6 + k.val / 8)) (8 * (k.val % 8)) 8) }

end Measure

/-- A sample of a symbol of a seat in core cycle `cycle`, and the latch it may cause (R42, R47). -/
def Seat.sample (st : Seat) (par : Word) (cycle : Nat) (y : Fin 32) (m b : Nat) : Seat :=
  let e := st.lex[y]
  let e' := Measure.sample e par st.sched m b
  ({ st with lex := st.lex.set y e', lexAt := (cycle + 1, st.lexAt.2) } : Seat).latchCut

/-- A sample may be counted in core cycle `cycle`: no clock-plan step has been applied in it, which comes after its samples (R323). -/
def Seat.mayCount (st : Seat) (cycle : Nat) : Bool := decide (st.lexAt.2 ≠ cycle + 1)

/-- The cut's settlement of the lexicon (R324): the seat, the REBOUND mask, the symbol whose LATENCY_BOUND is delivered. -/
def Seat.settleLexicon (st : Seat) : Seat × Nat × Option (Fin 32) :=
  let dlv := (List.finRange 32).find? fun i => decide (st.lex[i].state = 3)
  let lex' := st.lex.mapFinIdx fun i e h => Measure.settle e st.sched (decide (dlv = some ⟨i, h⟩))
  let mask := packLanes 1 ((List.finRange 32).map fun i => if st.lex[i].b = lex'[i].b then 0 else 1)
  ({ st with lex := lex' }, mask, dlv)

/-- SYMRD (R325): doubleword w of an entry. -/
def execSymrd (d : SSpec) (y : Fin 32) (w : Fin 8) (s : State) : Res :=
  s.alu0 d 2 2 (Measure.dword s.mySeat.lex[y] w.val)

/-- A SYMSET with its effect on the entry: it makes RETIME pending (R47, R325). -/
def State.symset (s : State) (y : Fin 32) (f : LexEntry → LexEntry) : State :=
  (s.modMySeat fun st => ({ st with lex := vmod st.lex y f } : Seat).latchCut).retire

/-- SYMSET.b: SB := s clamped to [LO, HI] (R325). -/
def execSymsetB (sv : SSpec) (y : Fin 32) (s : State) : Res :=
  if !s.classOk [sv] [] then s.raiseClass
  else match s.blocked [sv] [] with
    | some why => s.stall why
    | none =>
      let v := (s.peek sv).toNat
      .next ((s.take sv).symset y fun e =>
        { e with sb := BitVec.ofNat 24 (min (max v e.lo.toNat) e.hi.toNat), setb := true })

/-- SYMSET.pol: a value above 2 raises UNDEF_OP, detail POLICY (60), and sets nothing (R325). -/
def execSymsetPol (sv : SSpec) (y : Fin 32) (s : State) : Res :=
  if !s.classOk [sv] [] then s.raiseClass
  else match s.blocked [sv] [] with
    | some why => s.stall why
    | none =>
      let v := (s.peek sv).toNat
      if 2 < v then s.raise (Flt.mk' .undefOp 60)
      else .next ((s.take sv).symset y fun e => { e with npol := BitVec.ofNat 2 v, setp := true })

/-- SYMSET.clr (R325). -/
def execSymsetClr (y : Fin 32) (s : State) : Res := .next (s.symset y fun e => { e with setc := true })

end Sys2Proof.Machine
end

