-- ==== Sys2Proof/Machine/Path.lean ====
section
/-!
DEFINITION. Between a source and a home: distances and unloaded latencies (R14, R204, R356), exit
queues, forwarding and performance (R250, R251), the error tables (R231), and what performing a write does at its home
(R201, R205, R218, R223, R369).
-/
namespace Sys2Proof.Machine

/-! ## Distances -/

/-- Where an agent stands: a core (none for a hub) and its die. -/
structure Stand where
  core : Option (Fin 904)
  die  : Nat
  deriving DecidableEq, Repr, Inhabited

/-- Where a core stands. -/
def standOf (c : Fin 904) : Stand := ⟨some c, (coreDie c).val⟩

/-- Where the source of a write stands. -/
def Source.stand : Source → Stand
  | .stream w => standOf w.ref.core
  | .engine c _ _ _ => standOf c
  | .hub d => ⟨none, d.val⟩

/-- Distance of two numbers. -/
def dist (a b : Nat) : Nat := (a - b) + (b - a)

/-- Package-mesh hops between two logical dies: the Manhattan distance of their sites on a 3 × 3 grid (R356). -/
def State.dieHops (s : State) (a b : Nat) : Nat :=
  let x := fld s.fuse.concDie (4 * a) 4
  let y := fld s.fuse.concDie (4 * b) 4
  dist (x / 3) (y / 3) + dist (x % 3) (y % 3)

/-- Die-mesh hops from an agent to a core's slice of its die (R14, R204): a hub stands one hop from core 0, and a system
core at its hub. -/
def sliceHops (a : Stand) (unit : Nat) : Nat :=
  match a.core with
  | some c => if c.val < 896 then dist (c.val % 112 / 8) (unit / 8) + dist (c.val % 8) (unit % 8) else unit / 8 + unit % 8 + 1
  | none => unit / 8 + unit % 8 + 1

/-- The agent stands at a hub. -/
def Stand.atHub (a : Stand) : Bool := match a.core with | some c => 896 ≤ c.val | none => true

/-- The unloaded latency to a window home (R204). -/
def State.windowLatency (s : State) (a : Stand) (h : Home) (vec : Bool) : Nat :=
  let v := if vec then 2 else 0
  v + (if h.pkg ≠ Config.thisPackage || h.die ≠ a.die then 40 + 6 * s.dieHops a.die h.die
       else match h.unit with
         | none => if a.atHub then 10 else 24
         | some u =>
           match a.core with
           | some c => if c.val = h.die * 112 + u then 10 else 14 + 2 * sliceHops a u
           | none => 14 + 2 * sliceHops a u)

/-- The unloaded latency of an access (R204). -/
def State.latency (s : State) (a : Stand) (p : Place) (vec : Bool) : Nat :=
  if isPhys p.key then s.windowLatency a { p.home with unit := none } false + 16 + (if vec then 2 else 0)
  else s.windowLatency a p.home vec

/-- The number of exit queues on the path of a write from an agent to a home (R251). -/
def pathLen (a : Stand) (h : Home) : Nat :=
  if h.pkg ≠ Config.thisPackage then 4
  else if h.die ≠ a.die then 3
  else match h.unit, a.core with
    | none, some c => if 896 ≤ c.val then 1 else 2
    | none, none => 0
    | some u, some c => if c.val = h.die * 112 + u then 0 else if c.val < 896 && c.val % 112 / 8 = u / 8 then 1 else 2
    | some _, none => 1

/-! ## Bytes of an access -/

/-- The 8-byte words that an access covers whole (R201). -/
def Place.wholeWords (p : Place) (n : Nat) : List Nat :=
  (p.words n).filter fun w => decide ((p.keys n).countP (fun k => k / 8 = w) = 8)

/-- The 32-byte data units that an access covers whole (R230). -/
def Place.wholeUnits (p : Place) (n : Nat) : List Nat :=
  (p.units n).filter fun u => decide ((p.keys n).countP (fun k => k / 32 = u) = 32)

/-- The first access touches every byte of the second. -/
def covers (p : Place) (n : Nat) (q : Place) (m : Nat) : Bool :=
  if p.skew = q.skew then p.key ≤ q.key && q.key + m ≤ p.key + n
  else (q.keys m).all fun k => (p.keys n).contains k

/-- The bytes of access (q, m) out of the data of a covering access (p, n) of the same layout. -/
def covered (p : Place) (data : VData) (q : Place) (m : Nat) : VData :=
  BitVec.ofNat 2048 (fld data (8 * (q.key - p.key)) (8 * m))

/-! ## Exit queues (R251) -/

/-- Two agents' requests pass the same exit queue k: 0 a network interface, 1 a cluster's, 2 a die's, 3 the package's; beyond it, a core's
writes to one package take one port pair (R259). -/
def sameQueue (k : Nat) (a b : Stand) : Bool :=
  match k with
  | 0 => decide (a = b)
  | 1 => match a.core, b.core with
    | some x, some y => sameCluster x y
    | none, none => decide (a.die = b.die)
    | _, _ => false
  | 2 => decide (a.die = b.die)
  | 3 => true
  | _ => decide (a = b)

/-- A request on its way: its number in the exit queue `stage` it stands in, `last` the queues of its path, the bytes it is for. -/
structure Transit where
  ent   : Nat
  stage : Nat
  last  : Nat
  stand : Stand
  eng   : Bool
  place : Place
  size  : Nat
  deriving DecidableEq, Repr, Inhabited

/-- A write on its way. -/
def Flight.transit (f : Flight) : Transit :=
  ⟨f.ent, f.stage, f.last, f.src.stand, match f.src with | .engine _ _ _ _ => true | _ => false, f.place, f.size⟩

/-- A read or atomic of core c on its way, until its answer is fixed. -/
def LoadReq.transit (l : LoadReq) (c : Fin 904) : Option Transit :=
  match l.way, l.got with
  | some (k, e), none => some ⟨e, k, pathLen (standOf c) l.place.home, standOf c, false, l.place, l.size⟩
  | _, _ => none

/-- Request x stands in front of request y: in the same FIFO of an exit queue (R251); on the way to the own slice, which has no exit
queue, when both are of the core's streams, or both of its engines, and touch a common byte (R209, R252). -/
def Transit.before (x y : Transit) : Bool :=
  decide (x.ent < y.ent) && decide (x.place.home = y.place.home) && decide (x.stage = y.stage) &&
    (if y.last = 0 then decide (x.stand = y.stand) && decide (x.eng = y.eng) && overlap x.place x.size y.place y.size
     else sameQueue y.stage x.stand y.stand)

/-- The cores whose requests may stand in the exit queue k that an agent's requests pass. -/
def queueCores (a : Stand) (k : Nat) : List (Fin 904) :=
  match k with
  | 0 => a.core.toList
  | 1 => match a.core with
    | some c => if c.val < 896 then (List.range 8).map fun j => Fin.ofNat 904 (c.val / 8 * 8 + j) else [c]
    | none => []
  | 2 => (List.finRange 904).filter fun c => decide ((coreDie c).val = a.die)
  | 3 => List.finRange 904
  | _ => []

/-- The reads and atomics of a core that are on their way inside the package. -/
def Core.transits (x : Core) (c : Fin 904) : List Transit :=
  x.seat.toList.flatMap fun st => (st.loads.filterMap fun l => l.transit c).filter fun t => decide (t.last = 0) || decide (t.stage < t.last)

/-- A request stands behind another one (R251). -/
def State.behind (s : State) (y : Transit) : Bool :=
  s.flights.any (fun f => f.transit.before y) ||
    (queueCores y.stand y.stage).any fun c => (s.core[c].transits c).any fun x => x.before y

/-- A write is performed at a scope: it has reached the exit queue of the scope's first boundary on its path. -/
def Flight.performedAt (f : Flight) (sc : Scope) : Bool :=
  match sc with
  | .seat => 1 ≤ f.last
  | .core => 1 ≤ f.last
  | .cluster => 2 ≤ f.last && 1 ≤ f.stage
  | .die => 3 ≤ f.last && 2 ≤ f.stage
  | .device => 4 ≤ f.last && 3 ≤ f.stage
  | .domain => false

/-- What a read finds in an exit queue: nothing of its bytes, a held write that answers it, or one it waits behind (R251). -/
inductive Meet where
  | clear
  | forward (f : Flight)
  | wait
  deriving DecidableEq, Repr

/-- The write of a queue that entered it last. -/
def latest : List Flight → Option Flight
  | [] => none
  | f :: r =>
    match latest r with
    | none => some f
    | some g => some (if g.ent < f.ent then f else g)

/-- The write of a list that stands last before the bytes of a read: it answers the read when it wholly covers them (R251). -/
def meetIn (l : List Flight) (p : Place) (n : Nat) : Meet :=
  match latest (l.filter fun f => overlap f.place f.size p n) with
  | none => .clear
  | some f => if f.kind = .store && covers f.place f.size p n && f.place.skew = p.skew && !f.bad then .forward f else .wait

/-- The writes held in exit queue k of an agent's path to a home. -/
def State.queueWrites (s : State) (a : Stand) (k : Nat) (h : Home) : List Flight :=
  s.flights.filter fun f => decide (f.stage = k) && decide (f.place.home = h) && sameQueue k f.src.stand a

/-- An access at its home now, that left its agent as request `ent`, comes behind every earlier request of the queues of its path, and
behind those of its core's streams for the same bytes of the own slice (R209, R251, R252). -/
def State.atHome (s : State) (a : Stand) (ent : Nat) (p : Place) (n : Nat) : Bool :=
  let last := pathLen a p.home
  (List.range (max last 1)).all fun k => !s.behind ⟨ent, k, last, a, false, p, n⟩

/-- What a read meets in exit queues of its path, one after the other: it leaves each only behind the requests before it (R251). -/
def State.meetOn (s : State) (a : Stand) (ent : Nat) (p : Place) (n last : Nat) : List Nat → Meet
  | [] => .clear
  | k :: r =>
    match meetIn (s.queueWrites a k p.home) p n with
    | .clear => if s.behind ⟨ent, k, last, a, false, p, n⟩ then .wait else s.meetOn a ent p n last r
    | m => m

/-- What a read that an agent makes in one act meets on its way, its request having left as number `ent` (R251). -/
def State.meet (s : State) (a : Stand) (ent : Nat) (p : Place) (n : Nat) : Meet :=
  s.meetOn a ent p n (pathLen a p.home) (List.range (pathLen a p.home))

/-! ## Releases and what happens before them (R253) -/

/-- What a read answered by a held write takes from the releases it stands for. -/
def State.heardFrom (s : State) (f : Flight) : List Heard := s.stillHeard (f.rels.map fun r => ⟨f.src, r.1, r.2⟩)

/-- What is left of a release on the bytes of an access once n bytes at p are written again: the bytes beside them (R253). -/
def besides (p : Place) (n : Nat) (c : Place × Nat × Heard) : List (Place × Nat × Heard) :=
  if overlap c.1 c.2.1 p n then
    ((c.1.keys c.2.1).filter fun k => !(p.keys n).contains k).map fun k => ({ c.1 with key := k, skew := false }, 1, c.2.2)
  else [c]

/-- A store ends the releases that its bytes hold (R253); those with nothing before them on its way are forgotten. -/
def State.endReleases (s : State) (p : Place) (n : Nat) : State :=
  { s with carried := (s.carried.flatMap (besides p n)).filter fun c => !(s.onWay c.2.2.ids).isEmpty }

/-- The n bytes at p that a write performs hold the releases it stands for (R253). -/
def State.carry (s : State) (f : Flight) (p : Place) (n : Nat) : State :=
  { s with carried := s.carried ++ (s.heardFrom f).map fun h => (p, n, h) }

/-! ## Upsets (R201, R230) -/

/-- The act `upset`: an error comes to a word of a slice or hub, or to a data unit of a stack. -/
def State.upset (s : State) (key : Nat) (hard : Bool) : State :=
  if isPhys key then
    if hard then { s with badUnits := insNat (key / 32) s.badUnits } else { s with corr := insNat (key / 32 * 4) s.corr }
  else if hard then { s with poison := insNat (key / 8) s.poison }
  else { s with corr := insNat (key / 8) s.corr }

/-! ## Performing at the home -/

/-- Arithmetic of R218 on `z` bits; `e` is the compared value of .cas. -/
def atomApply (op : AtomOp) (z m v e : Nat) : Nat :=
  let v := v % 2 ^ z
  match op with
  | .add => (m + v) % 2 ^ z
  | .and => m &&& v
  | .or => m ||| v
  | .xor => m ^^^ v
  | .min => if toSigned z v < toSigned z m then v else m
  | .max => if toSigned z m < toSigned z v then v else m
  | .minn => min m v
  | .maxn => max m v
  | .swap => v
  | .cas => if m = e % 2 ^ z then v else m
  | .fadd => (opRound fp32 .rn false (FVal.add false (fp32.dec false m) (fp32.dec false v))).1

/-- The element operation of a CACC on one element (R290, R293). -/
def accElem (op : Fin 4) (m v : Nat) : Nat :=
  match op with
  | 0 => (m + v) % 2 ^ 32
  | 1 => (opRound fp32 .rn false (FVal.add false (fp32.dec false m) (fp32.dec false v))).1
  | 2 => (opRound bf16 .rn false (FVal.add false (bf16.dec false m) (bf16.dec false v))).1
  | _ => fMinMax fp32 true m v

/-- Element width of a CACC operation in bits. -/
def accWidth (op : Fin 4) : Nat := if op = 2 then 16 else 32

/-- The bytes a write leaves at its home, from the n bytes that stand there. -/
def WKind.result (k : WKind) (n old data : Nat) : Nat :=
  match k with
  | .store => data
  | .red op => atomApply op (8 * n) old data 0
  | .acc op =>
    let z := accWidth op
    tabulate z (fun i => accElem op (old / 2 ^ (z * i) % 2 ^ z) (data / 2 ^ (z * i) % 2 ^ z)) (8 * n / z) 0

/-- How a write is answered (R201, R205, R230): a poisoned word takes a store; a store that does not write a whole
uncorrectable unit, and a reduction on one, meets an error. -/
def State.writeAnswer (s : State) (k : WKind) (p : Place) (n : Nat) (host : Bool) : Ans :=
  match k with
  | .store => State.answer { s with poison := [], badUnits := s.badUnits.filter fun u => !(p.wholeUnits n).contains u } p n host
  | _ => s.answer p n host

/-- Live monitors on a word (R223, R301). -/
def State.armed' (s : State) (m : Monitor) : Bool :=
  match (s.getStr m.who).wait with
  | .mwait k _ _ _ _ => k = m.place.key
  | .swait k _ _ _ _ => k = m.place.key
  | _ => false

/-- Stream w has no monitor and no request for one any longer. -/
def State.disarm (s : State) (w : Who) : State :=
  State.modSeat { s with monitors := s.monitors.filter fun m => decide (m.who ≠ w) } w.ref fun st =>
    { st with loads := st.loads.filter fun l =>
        !(decide (l.stream = w.stream) && match l.kind with | .mwait _ => true | .swait _ => true | _ => false) }

/-- Running a part of a step on behalf of another stream. -/
def State.as (s : State) (w : Who) (f : State → State) : State := { f { s with turn := w } with turn := s.turn }

/-- An MWAIT writes its predicate and ends (R223). -/
def State.closeMwait (s : State) (w : Who) (p : Fin 16) (srcs : List SSpec) (v : Bool) : State :=
  s.as w fun s => ((srcs.foldl State.take s).wrPred p v).retire

/-- The wait of an MWAIT ends with its predicate, and its monitor is released (R223); in a freeze the instruction ends when the stream next
runs (R18; log 53). -/
def State.endMwait (s : State) (w : Who) (p : Fin 16) (srcs : List SSpec) (v : Bool) : State :=
  if s.coreHeld w.ref.core then (s.disarm w).modStr w fun t => { t with wait := .woken p srcs v }
  else (s.disarm w).closeMwait w p srcs v

/-- The generation of a sync word (R298). -/
def syncGen (w : Nat) : Nat := w / 2 ^ 64 % 2 ^ 32

/-- The generation has passed g (R301). -/
def genPassed (gen g : Nat) : Bool := let d := (gen + 2 ^ 32 - g % 2 ^ 32) % 2 ^ 32; decide (1 ≤ d) && decide (d < 2 ^ 31)

/-- A performed write re-compares the monitors of its words (R223): of an MWAIT's word, and of a SWAIT's generation (R301). -/
def State.wakeMonitors (s : State) (ws : List Nat) : State :=
  s.monitors.foldl (fun s m =>
    match (s.getStr m.who).wait with
    | .mwait k e p _ srcs =>
      if k = m.place.key && ws.contains (k / 8) && decide (BitVec.ofNat 64 (s.readPlace m.place 8) ≠ e) then
        (s.hear m.who none (s.heardAt m.place 8)).endMwait m.who p srcs true
      else s
    | .swait k e d srcs since =>
      let gen := syncGen (s.readPlace m.place 16)
      if k = m.place.key && ws.contains (k / 8 + 1) && genPassed gen e.toNat then
        (s.disarm m.who).modStr m.who fun t => { t with wait := .passed gen d srcs since }
      else s
    | _ => s) s

/-- Marks and caches after the bytes of words `ws` were written: poison, correctable marks, code lines (R201, R369). -/
def State.afterWrite (s : State) (p : Place) (n : Nat) (store bad : Bool) : State :=
  let ws := p.words n
  let full := if store then p.wholeWords n else []
  let unit := if store then p.wholeUnits n else []
  let s := if isPhys p.key then
      { s with badUnits := if bad then (p.units n).foldl (fun l u => insNat u l) s.badUnits
                           else s.badUnits.filter fun u => !unit.contains u,
               corr := s.corr.filter fun w => !unit.contains (w / 4) }
    else
      { s with poison := if bad then ws.foldl (fun l w => insNat w l) s.poison
                         else s.poison.filter fun w => !full.contains w,
               corr := s.corr.filter fun w => !full.contains w }
  let lines := ws.map (· / 8)
  let s := if isPhys p.key && s.die.toList.any fun d => d.icache.any fun l => lines.contains l then
      { s with die := s.die.map fun (d : Die) => { d with icache := d.icache.filter fun l => !lines.contains l } }
    else s
  s.wakeMonitors ws

/-- The seat of a source counts a dropped write (R205, R384). -/
def State.dropWrite (s : State) (src : Source) : State :=
  match src.seat with
  | some r => s.modSeat r fun st => st.count 12 none 1
  | none => s

/-- A write of n bytes is performed at its home (R201, R205, R218, R220, R223, R292). Another package keeps its own memory
(log 8). -/
def State.performOne (s : State) (src : Source) (k : WKind) (p : Place) (n data : Nat) (bad host : Bool) : State :=
  if !p.isLocal then s
  else match s.writeAnswer k p n host with
    | .ok =>
      if bad then s.afterWrite p n false true
      else
        let s := if k = .store then s else s.noteCorr src.seat p n
        (s.writePlace p n (k.result n (if k = .store then 0 else s.readPlace p n) data)).afterWrite p n (decide (k = .store)) bad
    | _ => (s.noteBad p n false).dropWrite src

/-- The indivisible parts of a write: CACC acts element by element, everything else is one part (R218, R293). -/
def writeParts (k : WKind) (p : Place) (n data : Nat) : List (Place × Nat × Nat) :=
  match k with
  | .acc op =>
    let z := accWidth op / 8
    (List.range (n / z)).map fun i => ({ p with key := p.key + z * i }, z, data / 2 ^ (8 * z * i) % 2 ^ (8 * z))
  | _ => [(p, n, data)]

/-- The parts of a write are performed in order. -/
def State.performParts (s : State) (src : Source) (k : WKind) (p : Place) (n data : Nat) (bad host : Bool) : State :=
  (writeParts k p n data).foldl (fun s x => s.performOne src k x.1 x.2.1 x.2.2 bad host) s

/-- A store that meets no error ends the releases of its bytes (R253). -/
def State.overwrite (s : State) (k : WKind) (p : Place) (n : Nat) (host : Bool) : State :=
  if k = .store && p.isLocal && s.writeAnswer k p n host = .ok then s.endReleases p n else s

/-- A write is performed at its home, part by part. -/
def State.performWrite (s : State) (src : Source) (k : WKind) (p : Place) (n data : Nat) (bad host : Bool) : State :=
  (s.overwrite k p n host).performParts src k p n data bad host

/-- The bytes of a write whose parts meet no error answer: those that a sync word counts (R299). -/
def State.goodBytes (s : State) (k : WKind) (p : Place) (n : Nat) (host : Bool) : Nat :=
  (writeParts k p n 0).foldl (fun m x => if s.writeAnswer k x.1 x.2.1 host = .ok then m + x.2.1 else m) 0

end Sys2Proof.Machine
end

