-- ==== Sys2Proof/Machine/Memory.lean ====
section
/-!
DEFINITION. Issuing loads and stores (R206 to R211): the order at the issuing stream (R210, R252, R254), the load and store
queues (R209), missing pages (R212) and the side log (R213).
-/
namespace Sys2Proof.Machine

/-! ## Order at the issuing stream (R210, R254) -/

/-- Writes that a stream's next release stands for and that are not performed at a scope (R253, R254). S releases what L has acquired
too, since a conjunction may put L's loads before S's stores (R216). -/
def State.fwdHeld (s : State) (w : Who) (sc : Scope) : Bool :=
  s.flights.any fun f =>
    ((s.getStr w).fwd.contains f.id || (decide (w.stream = .S) && (s.getStr ⟨w.ref, .L⟩).fwd.contains f.id)) && !f.performedAt sc

/-- A load-queue entry is an access that orderings count: a prefetch has no value (R211), a monitor wait orders nothing (R223). -/
def LoadReq.counts (l : LoadReq) : Bool :=
  match l.kind with | .pref => false | .mwait _ => false | .swait _ => false | _ => true

/-- The values of the stream's loads and atomics issued before `seq` are fixed (R215 acq). -/
def State.acqMet (s : State) (w : Who) (seq : Nat) : Bool :=
  !((s.getSeat w.ref).loads.any fun l => l.counts && decide (l.stream = w.stream) && decide (l.seq < seq))

/-- The seat holds a store or reduction of stream i issued before `seq`: in its store queue, waiting for room there, or in its side
log. -/
def Seat.holdsStore (st : Seat) (i : StreamId) (seq : Nat) : Bool :=
  st.stores.any (fun r => decide (r.stream = i) && decide (r.seq < seq)) ||
    st.elems.any (fun x => decide (x.1.stream = i) && decide (x.1.seq < seq)) ||
    st.sideLog.any fun e => decide (e.src = i) && decide (e.seq < seq)

/-- Every access of the stream issued before `seq` is performed at the scope and none of its side-log entries remain
(R210, R215 rel, R253, R254). -/
def State.relMet (s : State) (w : Who) (sc : Scope) (seq : Nat) : Bool :=
  s.acqMet w seq && !s.fwdHeld w sc && !(s.getSeat w.ref).holdsStore w.stream seq &&
    !(s.flights.any fun f => decide (f.src = .stream w) && decide (f.id < seq) && !f.performedAt sc)

/-- A release's condition, for an entry that has one (R210). -/
def State.releaseMet (s : State) (r : SeatRef) (i : StreamId) (rel : Option Scope) (seq : Nat) : Bool :=
  match rel with
  | some sc => s.relMet ⟨r, i⟩ sc seq
  | none => true

/-- The running stream's next access waits: for an LDA's value, for an STL's condition (R210), or for the page of a load (R212). -/
def State.gated (s : State) : Bool :=
  s.mySeat.loads.any (fun l => (l.acq.isSome || l.missing.isSome) && decide (l.stream = s.turn.stream)) ||
    s.mySeat.stores.any (fun r => decide (r.stream = s.turn.stream) && !s.releaseMet s.turn.ref r.stream r.rel r.seq) ||
    s.mySeat.sideLog.any fun e => decide (e.src = s.turn.stream) && !s.releaseMet s.turn.ref e.src e.rel e.seq

/-! ## Issuing a load -/

/-- The CONJ count an access of the running stream is issued under (R216). -/
def State.myConj (s : State) : Nat := match s.turn.stream with | .L => s.mySeat.conjL | .S => s.mySeat.conjS | _ => 0

/-- The access waits on a missing page (R212). -/
def State.holdPage (s : State) (va : Word) (d : Nat) : Res :=
  .next (s.modMe fun t => { t with wait := .held va d })

/-- A new request of the load queue. -/
def State.newReq (s : State) (k : LoadKind) (p : Place) (va : Word) (n : Nat) (y : Fin 32) (acq : Option Scope) : LoadReq :=
  { seq := s.seq, stream := s.turn.stream, kind := k, place := p, va := va, size := n, sym := y, b := s.mySeat.lex[y].b.toNat,
    issued := s.myCore.cycle, site := s.me.site, inHandler := s.mySeat.trap.active, conj := s.myConj, acq := acq, way := none,
    beats := 0, part := ⟨.ok, 0, false⟩, got := none, missing := none, hint := none, full := false }

/-- A request enters the load queue. -/
def State.pushLoad (s : State) (l : LoadReq) : State :=
  (s.modMySeat fun st => { st with loads := st.loads ++ [l] }).bump

/-- A landing load takes its slot (R35, R207). -/
def State.takeSlot (s : State) (n : Fin 64) (y : Fin 32) (vec : Bool) : State :=
  s.modMySeat fun st =>
    ({ st with ln := st.ln.set n { st.ln[n] with
        state := 1, named := BitVec.ofNat 40 (st.sched + st.lex[y].b.toNat), sym := y, scalar := !vec, err := false,
        drst := false, data := 0 } } : Seat).count 9 none 1

/-- A hint that names another die than the home of a translated address is redirected and counted (R24, R203). -/
def State.noteHint (s : State) (va : Word) (h : Option (Fin 8)) (p : Place) : State :=
  match h with
  | some d => if !isWindow va && (p.home.die ≠ d.val || !p.isLocal) then s.modMySeat fun st => st.count 11 none 1 else s
  | none => s

/-- A landing load (R207). -/
def State.landingLoad (s : State) (n : Fin 64) (va : Word) (size : Nat) (y : Fin 32) (vec skew : Bool)
    (acq : Option Scope) (hint : Option (Fin 8)) : Res :=
  match s.check s.turn va size .rd skew false with
  | (.fault f, s1) => s1.raise f
  | (.missing d, s1) =>
    if s.mySeat.ln[n].state ≠ 0 then s.stall none
    else ((s1.takeSlot n y vec).pushLoad { s.newReq (.slot n) default va size y acq with missing := some d, hint := hint }).holdPage va d
  | (.ok p, s1) =>
    if s.mySeat.ln[n].state ≠ 0 then s.stall none
    else .next ((((s1.noteHint va hint p).takeSlot n y vec).pushLoad (s.newReq (.slot n) p va size y acq)).retire)

/-- The youngest entry of stream i in the store queue that overlaps the bytes of an access (R209, R252). -/
def Seat.youngest (st : Seat) (i : StreamId) (p : Place) (n : Nat) : Option StoreReq :=
  (st.stores.filter fun r => decide (r.stream = i) && overlap r.place r.size p n).getLast?

/-- An atomic: an AMO or an element of a VAMO. -/
def LoadReq.isAtomic (l : LoadReq) : Bool := match l.kind with | .amo _ _ _ _ _ => true | .elem _ _ => true | _ => false

/-- An atomic of stream i, numbered from `a` up to below `b`, on bytes of an access is not yet applied (R218). -/
def Seat.atomicBetween (st : Seat) (i : StreamId) (a b : Nat) (p : Place) (n : Nat) : Bool :=
  st.loads.any fun m => m.isAtomic && decide (m.stream = i) && decide (a ≤ m.seq) && decide (m.seq < b) && m.got.isNone &&
    overlap m.place m.size p n

/-- The bytes a K load takes from the store queue: the youngest overlapping entry of K, a store that wholly covers them
(R209, R252), unless an atomic of K stands between (R218). -/
def Seat.forwarded (st : Seat) (i : StreamId) (seq : Nat) (p : Place) (n : Nat) : Option VData :=
  if i ≠ .K then none
  else match st.youngest .K p n with
    | some r =>
      if r.kind = .store && covers r.place r.size p n && r.place.skew = p.skew && !st.atomicBetween .K r.seq seq p n then
        some (covered r.place r.data p n)
      else none
    | none => none

/-- Scalar loads in flight (R209). -/
def Seat.scalarLoads (st : Seat) : Nat := (st.loads.filter fun l => match l.kind with | .scalar _ => true | _ => false).length

/-- A scalar load (R208). -/
def State.scalarLoad (s : State) (d : SSpec) (va : Word) (size : Nat) (skew : Bool) (acq : Option Scope)
    (hint : Option (Fin 8)) : Res :=
  match s.check s.turn va size .rd skew false with
  | (.fault f, s1) => s1.raise f
  | (.missing k, s1) =>
    if 16 ≤ s.mySeat.scalarLoads then s.stall none
    else (s1.pushLoad { s.newReq (.scalar d) default va size 0 acq with missing := some k, hint := hint }).holdPage va k
  | (.ok p, s1) =>
    if 16 ≤ s.mySeat.scalarLoads then s.stall none
    else .next (((s1.noteHint va hint p).pushLoad
      { s.newReq (.scalar d) p va size 0 acq with got := (s.mySeat.forwarded s.turn.stream s.seq p size).map fun v => ⟨.ok, v, true⟩ }).retire)

/-- The address of Form D: base register plus the signed offset times the size (R67, R207). -/
def State.address (s : State) (b : Fin 32) (o : BitVec 8) (size : Nat) : Word := s.me.rdX b + BitVec.ofInt 64 (o.toInt * size)

/-- Common waits of an access: the interlock on its base, its data operands, and the stream's order (R102, R210). -/
def State.memWait (s : State) (srcs dsts : List SSpec) : Option (Option Bool) :=
  match s.blocked srcs dsts with
  | some why => some why
  | none => if s.gated then some none else none

/-- LD: a scalar landing load (R206, R207). -/
def execLd (d : Fin 64) (b y : Fin 32) (z : Fin 4) (o : BitVec 8) (s : State) : Res :=
  match s.memWait [.x b] [] with
  | some why => s.stall why
  | none => s.landingLoad d (s.address b o (2 ^ z.val)) (2 ^ z.val) y false false none none

/-- LD.v: a vector landing load; size code z is 32 × 2^z bytes (R67, R206, R207). -/
def execLdV (d : Fin 64) (b y : Fin 32) (z : Fin 4) (o : BitVec 8) (s : State) : Res :=
  match s.memWait [.x b] [] with
  | some why => s.stall why
  | none => s.landingLoad d (s.address b o (32 * 2 ^ z.val)) (32 * 2 ^ z.val) y true false none none

/-- Size in bytes of a size code under V (R67). -/
def sizeOf (z : Fin 4) (vec : Bool) : Nat := if vec then 32 * 2 ^ z.val else 2 ^ z.val

/-- LDX and LDA: into a slot (R = 0) or a scalar (R = 1) (R206 to R208, R210). -/
def State.attributedLoad (s : State) (dest : LdDest) (b y : Fin 32) (z : Fin 4) (vec skew : Bool) (acq : Option Scope)
    (hint : Option (Fin 8)) : Res :=
  let va := s.me.rdX b
  match dest with
  | .slot n =>
    match s.memWait [.x b] [] with
    | some why => s.stall why
    | none => s.landingLoad n va (sizeOf z vec) y vec skew acq hint
  | .scalar d =>
    if !s.classOk [] [d] then s.raiseClass
    else match s.memWait [.x b] [d] with
      | some why => s.stall why
      | none => s.scalarLoad d va (2 ^ z.val) skew acq hint

/-- LDX (R206). -/
def execLdx (g : LdxArgs) (s : State) : Res := s.attributedLoad g.dest g.base g.sym g.size g.vec g.skew none g.hint

/-- LDA: an acquire (R210). -/
def execLda (g : LdaArgs) (s : State) : Res := s.attributedLoad g.dest g.base g.sym g.size g.vec g.skew (some g.scope) none

/-- PREF: never faults after decode; a dropped one makes no sample (R211). -/
def execPref (b y : Fin 32) (z : Fin 4) (o : BitVec 8) (s : State) : Res :=
  match s.memWait [.x b] [] with
  | some why => s.stall why
  | none =>
    let size := 32 * 2 ^ z.val
    let va := s.address b o size
    match s.check s.turn va size .rd false false with
    | (.ok p, s1) => if isWindow va then .next s1.retire else .next ((s1.pushLoad (s.newReq .pref p va size y none)).retire)
    | (_, s1) => .next s1.retire

/-! ## Issuing a store -/

/-- The data operand of a store may be read by the stream: q8 and q9 are vector queues (R177, R206). -/
def State.storeClass (s : State) (d : SSpec) : Bool :=
  match d with
  | .x _ => true
  | .q n => qConsumer n = some s.turn.stream

/-- The data a store reads: the low bytes of its operand or of the head entry (R209). -/
def State.storeData (s : State) (d : SSpec) (size : Nat) : VData :=
  let v : VData := match d with
    | .x n => (s.me.rdX n).setWidth 2048
    | .q n => s.mySeat.q[n].head
  v &&& BitVec.ofNat 2048 (ones (8 * size))

/-- The log holds an entry of the page [base, base + z) (R213). -/
def Seat.logged (st : Seat) (base z : Nat) : Bool :=
  st.sideLog.any fun e => decide (base ≤ e.va.toNat) && decide (e.va.toNat < base + z)

/-- The page of a translated address, as the stream's TLB gives it, or else its leaf (R347). -/
def State.pageOf (s : State) (w : Who) (va : Nat) : Option (Nat × Nat) :=
  let st := s.getSeat w.ref
  match (st.tlbOf w.stream).1.find? fun e => e.hit st.sys.xlatRoot va with
  | some e => some (e.base, e.size)
  | none =>
    match s.walk st.sys.xlatRoot va with
    | .leaf _ z => some (va / z * z, z)
    | _ => none

/-- An access of a translated page must join the side log behind an entry of the page (R213). -/
def State.joinsLog (s : State) (va : Word) : Bool :=
  if isWindow va || s.mySeat.sideLog.isEmpty then false
  else match s.pageOf s.turn va.toNat with
    | some (b, z) => s.mySeat.logged b z
    | none => false

/-- A store or reduction as the queue or the side log takes it. -/
def State.newStore (s : State) (k : WKind) (p : Place) (va : Word) (n : Nat) (data : VData) (rel : Option Scope) : StoreReq :=
  { seq := s.seq, stream := s.turn.stream, kind := k, place := p, va := va, size := n, data := data,
    issued := s.myCore.cycle, conj := s.myConj, rel := rel, hint := none }

/-- An access enters the store queue (R209). -/
def State.pushStore (s : State) (r : StoreReq) : State :=
  (s.modMySeat fun st => { st with stores := st.stores ++ [r] }).bump

/-- An access retires into a side log (R213): KIND 0 a store, 1 RED, 2 a VMRED element. -/
def Seat.toLog (st : Seat) (r : StoreReq) (kind : Fin 8) (elem : Nat) : Seat :=
  ({ st with sideLog := st.sideLog ++
      [{ kind := kind, src := r.stream, size := r.size, op := (match r.kind with | .red o => o | _ => .add), rel := r.rel, hint := r.hint,
         elem := elem, trans := decide (r.place ≠ default), va := r.va, data := r.data, seq := r.seq, conj := r.conj, issued := r.issued }] } : Seat).count 13 none 1

/-- An access of the running stream retires into the side log. -/
def State.pushLog (s : State) (r : StoreReq) (kind : Fin 8) (elem : Nat) : State := (s.modMySeat fun st => st.toLog r kind elem).bump

/-- The store queue has room in core cycle `now`: an entry that left in this cycle still holds its place (R209). -/
def Seat.storeRoom (st : Seat) (now : Nat) : Bool :=
  decide (st.stores.length + (if st.left.1 = now then st.left.2 else 0) < 32)

/-- A checked store or RED is issued: into the queue, or into the side log; none when it must wait for room (R209, R213). -/
def State.placeStore (s : State) (acc : Acc) (va : Word) (n : Nat) (k : WKind) (data : VData) (rel : Option Scope)
    (hint : Option (Fin 8)) (kind : Fin 8) : Option State :=
  let entry (p : Place) : StoreReq := { s.newStore k p va n data rel with hint := hint }
  match acc with
  | .ok p =>
    if s.joinsLog va then
      if 64 ≤ s.mySeat.sideLog.length then none else some (s.pushLog (entry p) kind 0)
    else if !s.mySeat.storeRoom s.myCore.cycle then none
    else some ((s.noteHint va hint p).pushStore (entry p))
  | _ => if 64 ≤ s.mySeat.sideLog.length then none else some (s.pushLog (entry default) kind 0)

/-- A store of `size` bytes (R206, R209, R213). -/
def State.storeAt (s : State) (d : SSpec) (b : Fin 32) (va : Word) (size : Nat) (skew : Bool) (rel : Option Scope)
    (hint : Option (Fin 8)) : Res :=
  if !s.storeClass d then s.raiseClass
  else match s.memWait [.x b, d] [] with
    | some why => s.stall why
    | none =>
      match s.check s.turn va size .wr skew true with
      | (.fault f, s1) => s1.raise f
      | (acc, s1) =>
        match s1.placeStore acc va size .store (s.storeData d size) rel hint 0 with
        | none => s.stall none
        | some s2 => .next ((s2.take d).retire)

/-- A store's operand is a vector queue (R206). -/
def isVecQ : SSpec → Bool
  | .x _ => false
  | .q n => !qNarrow n

/-- ST (R206, R209). -/
def execSt (d : SSpec) (b : Fin 32) (z : Fin 4) (o : BitVec 8) (s : State) : Res :=
  let size := sizeOf z (isVecQ d)
  s.storeAt d b (s.address b o size) size false none none

/-- STX (R206). -/
def execStx (g : StxArgs) (s : State) : Res :=
  s.storeAt g.data g.base (s.me.rdX g.base) (sizeOf g.size (isVecQ g.data)) g.skew none g.hint

/-- STL: a release (R210). -/
def execStl (g : StlArgs) (s : State) : Res :=
  s.storeAt g.data g.base (s.me.rdX g.base) (sizeOf g.size (isVecQ g.data)) g.skew (some g.scope) none

end Sys2Proof.Machine
end

