-- ==== Sys2Proof/Machine/Answers.lean ====
section
/-!
DEFINITION. Requests on their way (R204, R251, R252) and what they do at their homes (R202, R205, R219, R221, R223, R301); answers
(R180, R181, R208), departures and performance (R209, R203 to R205), missing pages and the side log (R212, R213); the events LANDING,
SCALAR_ANSWER, STORE_DEPART, STORE_PERFORM, LOAD_REPLAY, SIDE_LOG_REPLAY.
-/
namespace Sys2Proof.Machine

/-! ## Leaving the load queue (R209, R216, R218) -/

/-- S has executed the matching CONJ and its earlier stores are performed at seat scope (R216, first effect). -/
def State.conjLMet (s : State) (r : SeatRef) (conj : Nat) : Bool :=
  let st := s.getSeat r
  decide (conj ≤ st.conjS) &&
    !(st.stores.any fun e => decide (e.stream = .S) && decide (e.conj < conj)) &&
    !(st.elems.any fun e => decide (e.1.conj < conj)) &&
    !(st.sideLog.any fun e => decide (e.src = .S) && decide (e.conj < conj)) &&
    !(s.flights.any fun f => decide (f.src = .stream ⟨r, .S⟩) && decide (f.conj < conj) && !f.performedAt .seat)

/-- The bytes of two virtual ranges meet. -/
def vaOverlap (a : Word) (n : Nat) (b : Word) (m : Nat) : Bool := a.toNat < b.toNat + m && b.toNat < a.toNat + n

/-- An access of stream i to the bytes, issued before `seq`, has not left the seat: a store or reduction in the store queue, waiting for
room or in the side log, or a request in the load queue (R209, R218). -/
def Seat.ownBefore (st : Seat) (i : StreamId) (seq : Nat) (p : Place) (va : Word) (n : Nat) : Bool :=
  st.stores.any (fun e => decide (e.stream = i) && decide (e.seq < seq) && overlap e.place e.size p n) ||
    st.elems.any (fun e => decide (e.1.stream = i) && decide (e.1.seq < seq) && vaOverlap e.1.va e.1.size va n) ||
    st.sideLog.any (fun e => decide (e.src = i) && decide (e.seq < seq) && vaOverlap e.va e.size va n) ||
    st.loads.any fun m => decide (m.stream = i) && decide (m.seq < seq) && m.way.isNone && m.got.isNone && m.missing.isNone &&
      overlap m.place m.size p n

/-- A request may leave the load queue: its page is there (R212), its conjunction holds (R216), and no earlier access of its stream to
its bytes is still in the seat (R209, R218). -/
def State.sent (s : State) (r : SeatRef) (l : LoadReq) : Bool :=
  l.missing.isNone && (decide (l.stream ≠ .L) || s.conjLMet r l.conj) &&
    !(s.getSeat r).ownBefore l.stream l.seq l.place l.va l.size

/-! ## On the way (R251) -/

/-- Request `l.seq` of a seat now stands as `l`. -/
def State.setReq (s : State) (r : SeatRef) (l : LoadReq) : State :=
  s.modSeat r fun st => { st with loads := st.loads.map fun m => if m.seq = l.seq then l else m }

/-- A request that only reads: a held write may answer it (R251). -/
def LoadReq.isRead (l : LoadReq) : Bool :=
  match l.kind with | .slot _ => true | .scalar _ => true | .pref => true | _ => false

/-- A forward record: the stream has taken the value of write f from an exit queue (R251, R254), and with it what f releases (R253). -/
def State.noteForward (s : State) (w : Who) (acq : Option Scope) (f : Flight) : State :=
  (s.modStr w fun t => { t with fwd := s.onWay t.fwd ++ [f.id] }).hear w acq (s.heardFrom f)

/-- A request of L leaves its seat: the stores of S that a conjunction puts before it, as far as they are on their way, are among those that
L's next release stands for (R216, R253). -/
def State.conjHeard (s : State) (r : SeatRef) (l : LoadReq) : State :=
  let ids := (s.flights.filter fun f => decide (f.src = .stream ⟨r, .S⟩) && decide (f.conj < l.conj)).map fun f => f.id
  if l.stream ≠ .L || ids.isEmpty then s else s.modStr ⟨r, .L⟩ fun t => { t with fwd := s.onWay t.fwd ++ ids }

/-- A request enters exit queue k of its path: a write held there answers a read whose bytes it wholly covers (R251), unless an atomic of
the read's stream stands between (R218). -/
def State.enter (s : State) (r : SeatRef) (l : LoadReq) (k : Nat) : State :=
  let l1 := { l with way := some (k, s.seq) }
  let a := standOf r.core
  if k < pathLen a l.place.home && l.isRead && !(s.getSeat r).atomicBetween l.stream 0 l.seq l.place l.size then
    match meetIn (s.queueWrites a k l.place.home) l.place l.size with
    | .forward f =>
      ((s.setReq r { l1 with got := some ⟨.ok, covered f.place f.data l.place l.size, true⟩ }).noteForward ⟨r, l.stream⟩ l.acq f).bump
    | _ => (s.setReq r l1).bump
  else (s.setReq r l1).bump

/-! ## At the home -/

/-- The byte of an access at which 32-byte beat k begins (R202). -/
def beatStart (key k : Nat) : Nat := if k = 0 then 0 else 32 * k - key % 32

/-- The port by which an agent sends to a package: the routing table's, or, when that is down, another one (R259, R401). -/
def State.route (s : State) (a : Stand) (pkg : Nat) : Option (Fin 64) :=
  let n := Config.routePort ((a.core.map fun c => c.val).getD (1024 + a.die)) pkg
  if s.portUp n then some n else (List.finRange 64).find? s.portUp

/-- A flit with one request, into the queue of its channel at the port by which an agent sends to a package (R319); none when every port is
down. -/
def State.toPort (s : State) (a : Stand) (x : OutFlit) : Option State :=
  (s.route a x.pkg).map fun n => { s with port := vmod s.port n fun p => { p with queue := vmod p.queue x.ch fun q => q ++ [x] } }

/-- A flit of a request, or of a notice. -/
def OutFlit.of (pkg : Nat) (ch : Fin 4) (id : Option Nat) : OutFlit := ⟨pkg, ch, id, false, false, 0, false, 0, 0⟩

/-- The flits of a request still stand in a port's queue. -/
def State.inPort (s : State) (id : Nat) : Bool := s.port.any fun p => p.queue.any fun q => q.any fun x => decide (x.id = some id)

/-- A flit of the request was lost on a port that is down (R401). -/
def State.flitLost (s : State) (id : Nat) : Bool := s.port.any fun p => !p.up && p.replay.any fun x => decide (x.id = some id)

/-- A request for another package is handed to a port (R319). -/
def State.askRemote (s : State) (r : SeatRef) (l : LoadReq) (t : Transit) : State :=
  if s.behind t then s
  else match s.toPort t.stand (OutFlit.of l.place.home.pkg 3 (some l.seq)) with
    | some s1 => (s1.setReq r { l with way := some (t.last, s.seq) }).bump
    | none => s

/-- The request has reached its home: it stands behind no other, and its value may be taken there (R204, R251); one for another package has
left its port (R319). -/
def State.atTarget (s : State) (r : SeatRef) (l : LoadReq) : Bool :=
  match l.transit r.core with
  | some t => decide (t.last ≤ t.stage + 1) &&
      (if l.place.isLocal then !s.behind t else decide (t.last ≤ t.stage) && !s.inPort l.seq && !s.flitLost l.seq) &&
      decide (l.issued + s.latency (standOf r.core) l.place (8 < l.size) ≤ s.core[r.core].cycle + 4)
  | none => false

/-- How a request is answered at its home, for n bytes at a place of it. -/
def State.answerReq (s : State) (r : SeatRef) (l : LoadReq) (p : Place) (n : Nat) : Ans :=
  s.answerWith (Config.remoteLoadError l.seq p.key) p n r.isSys

/-- A read takes its bytes at the home up to byte `stop` (R202, R205), and what they stand for (R253). -/
def State.readTo (s : State) (r : SeatRef) (l : LoadReq) (stop beats : Nat) : State × LoadReq :=
  let o := beatStart l.place.key l.beats
  let p := { l.place with key := l.place.key + o }
  let n := stop - o
  let a := s.answerReq r l p n
  let s1 := ((s.noteBad p n false).noteCorr (some r) p n).hear ⟨r, l.stream⟩ l.acq (s.heardAt p n)
  let d := if a = .ok then s.dataAt p n else 0
  (s1, { l with beats := beats, part := ⟨if l.part.ans = .ok then a else l.part.ans, l.part.data ||| BitVec.ofNat 2048 (d * 2 ^ (8 * o)), false⟩ })

/-- The answer of a read whose bytes are all taken: an error answer brings no data. -/
def LoadReq.whole (l : LoadReq) : LoadReq :=
  { l with got := some (if l.part.ans = .ok then l.part else { l.part with data := 0 }) }

/-- What an atomic that meets an uncorrectable error does at its home (R201, R219, R230). -/
def State.badAmo (s : State) (p : Place) (n : Nat) : State :=
  if isPhys p.key then s.noteBad p n false
  else if p.isLocal then { s with poison := (p.words n).foldl (fun l w => insNat w l) s.poison }
  else s

/-- The new bytes of an atomic at its home (R218). -/
def State.putAmo (s : State) (p : Place) (n : Nat) (op : AtomOp) (v e : Word) : State :=
  if p.isLocal then (s.writePlace p n (atomApply op (8 * n) (s.dataAt p n) v.toNat e.toNat)).afterWrite p n false false else s

/-- An atomic accepted before the reset of its home die may have been applied before the reset's answer (R403): to a page homed there, whose
bytes the reset leaves. -/
def State.resetApplies (s : State) (l : LoadReq) : Bool :=
  l.place.isLocal && isPhys l.place.key && (if h : l.place.home.die < 8 then s.die[l.place.home.die].inReset && decide (l.seq < s.die[l.place.home.die].resetAt) else false) &&
    Config.resetApplied l.seq

/-- An atomic applied at its home (R219, R221): how it is answered, the value for d, the state after. -/
def State.applyAmo (s : State) (r : SeatRef) (l : LoadReq) (op : AtomOp) (v e : Word) : Ans × Word × State :=
  let p := l.place
  let n := l.size
  match s.answerReq r l p n with
  | .ok =>
    (.ok, BitVec.ofNat 64 (s.dataAt p n), ((s.noteCorr (some r) p n).hear ⟨r, l.stream⟩ l.acq (s.heardAt p n)).putAmo p n op v e)
  | .dieReset => (.dieReset, 0, if s.resetApplies l then s.putAmo p n op v e else s)
  | .uncorrectable => (.uncorrectable, BitVec.ofNat 64 (s.dataAt p n), s.badAmo p n)

/-- The home has a free monitor: 16 per slice, 256 per hub (R223); another package's may have one (log 8). -/
def State.monitorFree (s : State) (l : LoadReq) : Bool :=
  if l.place.isLocal then
    decide ((s.monitors.filter fun m => s.armed' m && decide (m.place.home = l.place.home)).length <
      (if l.place.home.unit.isSome then 16 else 256))
  else Config.remoteMonitor l.seq

/-- A monitor is armed; monitors whose wait has ended are forgotten. -/
def State.arm (s : State) (w : Who) (p : Place) : State :=
  { s with monitors := (s.monitors.filter fun m => s.armed' m && decide (m.who ≠ w)) ++ [⟨w, p⟩] }

/-- The arm and compare of a monitor wait, in one step at the home: `done` tells from the word that the wait has nothing to wait for
(R223, R301). -/
def State.armAt (s : State) (r : SeatRef) (l : LoadReq) (done : Nat → Bool) : State :=
  let p := l.place
  let n := l.size
  let a := s.answerReq r l p n
  let m := s.dataAt p n
  let l1 := { l with got := some ⟨a, BitVec.ofNat 2048 m, false⟩ }
  match a with
  | .ok =>
    let s1 := ((s.setReq r l1).noteCorr (some r) p n).hear ⟨r, l.stream⟩ none (s.heardAt p n)
    if !done m && s.monitorFree l then s1.arm ⟨r, l.stream⟩ p else s1
  | _ => (s.setReq r l1).noteBad p n false

/-- What a request does at its home. -/
def State.homeAct (s : State) (r : SeatRef) (l : LoadReq) : State :=
  let apply (op : AtomOp) (v e : Word) : State :=
    let x := s.applyAmo r l op v e
    x.2.2.setReq r { l with got := some ⟨x.1, x.2.1.setWidth 2048, false⟩ }
  match l.kind with
  | .amo op _ v e _ => apply op v e
  | .elem op v => apply op v 0
  | .mwait e => s.armAt r l fun m => decide (BitVec.ofNat 64 m ≠ e)
  | .swait e => s.armAt r l fun m => genPassed (syncGen m) e.toNat
  | _ => let x := s.readTo r l l.size l.beats; x.1.setReq r x.2.whole

/-- The act `pass` (R251): entry i of a seat's load queue leaves it, moves to the next exit queue of its path, or acts at its home. -/
def State.passReq (s : State) (r : SeatRef) (i : Nat) : State :=
  match (s.getSeat r).loads[i]? with
  | none => s
  | some l =>
    if l.got.isSome then s
    else match l.transit r.core with
      | none => if s.sent r l then (s.conjHeard r l).enter r l 0 else s
      | some t =>
        if t.stage + 1 < t.last then (if s.behind t then s else s.enter r l (t.stage + 1))
        else if !l.place.isLocal && decide (t.stage < t.last) then s.askRemote r l t
        else if s.atTarget r l then s.homeAct r l else s

/-- The act `readBeat` (R202): one beat of a read is taken at its home, and the rest later. -/
def State.readBeat (s : State) (r : SeatRef) (i : Nat) : State :=
  match (s.getSeat r).loads[i]? with
  | none => s
  | some l =>
    let stop := beatStart l.place.key (l.beats + 1)
    if l.isRead && s.atTarget r l && decide (stop < l.size) then
      let x := s.readTo r l stop (l.beats + 1)
      x.1.setReq r x.2
    else s

/-- The act `remoteWake` (R223, R301): a write at another package's home ends the wait of a monitor armed there. -/
def State.remoteWake (s : State) (w : Who) : State :=
  if s.monitors.any fun m => decide (m.who = w) && !m.place.isLocal then
    match (s.getStr w).wait with
    | .mwait _ _ p _ srcs => s.endMwait w p srcs true
    | .swait k e d srcs since =>
      let gen := syncGen (Config.remoteData s.tick k).toNat
      if genPassed gen e.toNat then (s.disarm w).modStr w fun t => { t with wait := .passed gen d srcs since } else s
    | _ => s
  else s

/-! ## Answers -/

/-- A request whose answer is a sample of its symbol (R38). -/
def LoadReq.counted (l : LoadReq) : Bool :=
  match l.kind with | .slot _ => true | .pref => true | _ => false

/-- The answer of a request can reach its stream: its latency has passed (R204), or 2 core cycles for one that a queue of the own core or
of the path gave (R209, R251), and its sample may be counted in this core cycle (R323). -/
def State.ripe (s : State) (r : SeatRef) (l : LoadReq) (a : Answer) : Bool :=
  decide (l.issued + (if a.near then 2 else s.latency (standOf r.core) l.place (8 < l.size)) ≤ s.core[r.core].cycle) &&
    (!l.counted || (s.getSeat r).mayCount s.core[r.core].cycle)

/-- The answer that a request brings now. -/
def State.answerNow (s : State) (r : SeatRef) (l : LoadReq) : Option Answer :=
  match l.got with
  | some a => if s.ripe r l a then some a else none
  | none => none

/-- A request leaves the load queue. -/
def State.dropLoad (s : State) (r : SeatRef) (l : LoadReq) : State :=
  s.modSeat r fun st => { st with loads := st.loads.filter fun m => decide (m.seq ≠ l.seq) }

/-- A freeze on landing slots ends when the data of every slot it waits for is present (R36). -/
def State.thaw (s : State) (c : Fin 904) : State :=
  match s.core[c].freeze with
  | some (.slot k a b) =>
    let st : Seat := s.core[c].seat[k]
    if st.ln[a].state = 1 || (match b with | some n => st.ln[n].state = 1 | none => false) then s
    else
      let len := s.core[c].cycle - s.core[c].frozeAt
      let d := coreDie c
      let s1 := s.setCore c { s.core[c] with freeze := none }
      if len = 0 then s1 else s1.lifeFreeze d len
  | _ => s

/-- The data of an answer fills its slot (R180); its latency m is a sample of its symbol (R38, R42). -/
def Seat.fill (st : Seat) (slot : Fin 64) (l : LoadReq) (a : Answer) (param : Word) (now : Nat) : Seat :=
  let m := now - l.issued
  let st := { st with ln := st.ln.set slot { st.ln[slot] with
    data := a.data, err := decide (a.ans ≠ Ans.ok), drst := decide (a.ans = Ans.dieReset), state := 2 } }
  let st := if l.b < m then st.count 10 none 1 else st
  st.sample param now l.sym m l.b

/-- LANDING (R180): the data of a pending slot lands. -/
def execLanding (r : SeatRef) (slot : Fin 64) (s : State) : Res :=
  match (s.getSeat r).loads.find? fun l => decide (l.kind = .slot slot) with
  | none => .next s
  | some l =>
    match s.answerNow r l with
    | none => .next s
    | some a =>
      .next (((s.dropLoad r l).modSeat r fun st =>
        st.fill slot l a s.core[r.core].lexParam s.core[r.core].cycle).thaw r.core)

/-- The i-th outstanding answer of a stream that is no landing. -/
def State.nthAnswer (s : State) (w : Who) (i : Nat) : Option LoadReq :=
  ((s.getSeat w.ref).loads.filter fun l => decide (l.stream = w.stream) && match l.kind with | .slot _ => false | .elem _ _ => false | _ => true)[i]?

/-- A value reaches a destination of stream w at its answer (R208). -/
def State.deliver (s : State) (w : Who) (d : SSpec) (v : Word) : State :=
  s.modSeat w.ref fun st =>
    match d with
    | .x n => st.modStr w.stream fun t => t.wrX n v
    | .q n => st.modQ n fun f => f.push (v.setWidth 2048) (s.core[w.ref.core].live)

/-- An answer may reach its destination: a queue takes it behind the stream's earlier answers for the queue (R208). -/
def State.queueTurn (s : State) (r : SeatRef) (l : LoadReq) (d : SSpec) : Bool :=
  match d with
  | .x _ => true
  | .q n => !((s.getSeat r).loads.any fun m =>
      decide (m.stream = l.stream) && decide (m.seq < l.seq) && match m.kind with
        | .scalar (.q k) => decide (k = n)
        | .amo _ (.q k) _ _ _ => decide (k = n)
        | _ => false)

/-- A fault of stream w, precisely at the instruction that made request `l` (R181, R189, R190, R212); when a handler has started since,
the fault is nested and every resume point stays as recorded (R189). -/
def State.faultAt (s : State) (w : Who) (l : LoadReq) (f : Flt) : State :=
  let s1 := if (s.getSeat w.ref).trap.active && !l.inHandler then s
    else s.modStr w fun t => { t.backTo l.site with wait := .none }
  s1.takeFault w.ref f w.stream.idx.val

/-- The DETAIL of POISON for an error answer to a stream (R181, R205). -/
def Ans.detail (a : Ans) : Nat := if a = .dieReset then 15 else 0

/-- An error answer to request `l` of stream w. Where another stream of the seat has faulted in this core cycle, the lower SRC is recorded
(R189): behind one of lower SRC the stream stops before its instruction; before one of higher SRC the answer comes a cycle later
(DESIGN CHOICE, log 51). -/
def State.errorAnswer (s : State) (w : Who) (l : LoadReq) (a : Ans) : State :=
  let t := (s.getSeat w.ref).trap
  if t.last.1 = s.core[w.ref.core].cycle + 1 && decide (t.last.2 ≤ 3) then
    if decide (t.last.2 < w.stream.idx.val) && !t.nested then
      ((s.dropLoad w.ref l).modSeat w.ref fun st => { st with trap := { st.trap with pc := st.trap.pc.set w.stream.idx l.site.pc } }).modStr w
        fun x => { x.backTo l.site with wait := .none }
    else s
  else (s.dropLoad w.ref l).faultAt w l (Flt.at' .poison a.detail l.va)

/-- The arm and compare of a monitor wait has answered (R223, R301): an error answer raises POISON, with the monitor's wait over; without
a monitor, or with nothing to wait for, the wait ends. -/
def State.armAnswer (s : State) (w : Who) (l : LoadReq) (a : Answer) : State :=
  let s1 := s.dropLoad w.ref l
  let armed := s.monitors.any fun m => decide (m.who = w) && decide (m.place.key = l.place.key)
  match (s.getStr w).wait, a.ans with
  | .mwait _ e p _ srcs, .ok =>
    let c := decide (a.data.setWidth 64 ≠ e)
    if c || !armed then s1.endMwait w p srcs c else s1
  | .swait _ _ d srcs since, .ok =>
    if armed then s1 else s1.modStr w fun t => { t with wait := .passed (syncGen a.data.toNat) d srcs since }
  | .mwait _ _ _ _ _, _ => s.errorAnswer w l a.ans
  | .swait _ _ _ _ _, _ => s.errorAnswer w l a.ans
  | _, _ => s1

/-- SCALAR_ANSWER: the i-th outstanding answer of a stream reaches it: a scalar load's value (R208) or POISON (R181), an AMO's old value
and error predicate (R219), a prefetch's sample (R211), the first answer of a monitor wait (R223, R301); in a freeze none but the sample
(R18; log 53). -/
def execScalarAnswer (w : Who) (i : Nat) (s : State) : Res :=
  match s.nthAnswer w i with
  | none => .next s
  | some l =>
    match s.answerNow w.ref l with
    | none => .next s
    | some a =>
      if s.coreHeld w.ref.core && l.kind ≠ .pref then .next s
      else match l.kind with
      | .pref =>
        .next ((s.dropLoad w.ref l).modSeat w.ref fun st =>
          st.sample s.core[w.ref.core].lexParam s.core[w.ref.core].cycle l.sym (s.core[w.ref.core].cycle - l.issued) l.b)
      | .scalar d =>
        if !s.queueTurn w.ref l d then .next s
        else if a.ans = .ok then .next (((s.dropLoad w.ref l).deliver w d (a.data.setWidth 64)).fullHazard w l.full)
        else .next (s.errorAnswer w l a.ans)
      | .amo _ d _ _ pe =>
        if !s.queueTurn w.ref l d then .next s
        else
          .next ((((s.dropLoad w.ref l).deliver w d (a.data.setWidth 64)).modStr w fun t =>
            t.wrP ⟨pe.val, by omega⟩ (decide (a.ans ≠ .ok))).fullHazard w l.full)
      | .mwait _ => .next (s.armAnswer w l a)
      | .swait _ => .next (s.armAnswer w l a)
      | _ => .next s

/-! ## Departure and performance -/

/-- L has executed the matching CONJ and the values of its loads before it are fixed (R216, second effect). -/
def State.conjSMet (s : State) (r : SeatRef) (i : StreamId) (conj : Nat) : Bool :=
  let st := s.getSeat r
  decide (i ≠ .S) || (decide (conj ≤ st.conjL) &&
    !(st.loads.any fun l => decide (l.stream = .L) && l.counts && decide (l.conj < conj)))

/-- The writes that a release of stream i at a scope, sent now, stands for: its own before it, and those it has taken up, as far as they
are still on their way (R253). -/
def State.relIds (s : State) (r : SeatRef) (i : StreamId) (seq : Nat) : List Nat :=
  ((s.flights.filter fun f => decide (f.src = .stream ⟨r, i⟩) && decide (f.id < seq)).map fun f => f.id) ++
    s.onWay (s.getStr ⟨r, i⟩).fwd ++ (if i = .S then s.onWay (s.getStr ⟨r, .L⟩).fwd else [])

/-- The releases that a store of stream i stands for: its own as an STL, and the fences before it (R253). -/
def State.relsOf (s : State) (r : SeatRef) (i : StreamId) (rel : Option Scope) (seq : Nat) : List (Scope × List Nat) :=
  (s.getStr ⟨r, i⟩).fenced ++ match rel with | some sc => [(sc, s.relIds r i seq)] | none => []

/-- The write that an entry sends (R251). -/
def State.flightOf (s : State) (r : SeatRef) (i : StreamId) (k : WKind) (p : Place) (n : Nat) (data : VData) (seq conj issued : Nat)
    (rel : Option Scope) : Flight :=
  { id := seq, ent := s.seq, src := .stream ⟨r, i⟩, kind := k, place := p, size := n, data := data, stage := 0,
    last := pathLen (standOf r.core) p.home, conj := conj, sync := none, bad := false, issued := issued,
    born := s.core[r.core].cycle, beats := 0, rels := s.relsOf r i rel seq }

/-- Entry e of a store queue may leave it: 8 core cycles have passed (R204), its conjunction and its release hold (R210, R216), and its
stream's requests for its bytes have left before it (R209, R218). -/
def State.departs (s : State) (r : SeatRef) (e : StoreReq) : Bool :=
  decide (e.issued + 8 ≤ s.core[r.core].cycle) && s.conjSMet r e.stream e.conj && s.releaseMet r e.stream e.rel e.seq &&
    !((s.getSeat r).loads.any fun l => decide (l.stream = e.stream) && decide (l.seq < e.seq) && l.way.isNone && l.got.isNone &&
      l.missing.isNone && overlap l.place l.size e.place e.size)

/-- The waiting elements of a VMRED go on in element order as far as there is room: to the store queue, or to the side log when their page
is not present or already logged (R209, R213, R222). -/
def Seat.feed (st : Seat) (now : Nat) : List (StoreReq × Nat × Bool) → Seat
  | [] => { st with elems := [] }
  | (r, e, logged) :: l =>
    if logged then
      if st.sideLog.length < 64 then (st.toLog r 2 e).feed now l else { st with elems := (r, e, logged) :: l }
    else if st.storeRoom now then ({ st with stores := st.stores ++ [r] } : Seat).feed now l
    else { st with elems := (r, e, logged) :: l }

/-- The waiting elements of a seat's VMRED go on, but not in a freeze (R18). -/
def State.feedElems (s : State) (r : SeatRef) : State :=
  if s.coreHeld r.core then s else s.modSeat r fun st => st.feed s.core[r.core].cycle st.elems

/-- STORE_DEPART (R209): the oldest entry of a store queue leaves it; its room is free from the next core cycle. DESIGN CHOICE (log 53): in a
freeze too, for R18 names the store queue neither among what stops nor among what goes on. -/
def execStoreDepart (r : SeatRef) (s : State) : Res :=
  match (s.getSeat r).stores with
  | [] => .next s
  | e :: rest =>
    if s.departs r e then
      let now := s.core[r.core].cycle
      let s1 := (s.modSeat r fun st =>
        { st with stores := rest, left := (now, (if st.left.1 = now then st.left.2 else 0) + 1) }).bump
      .next (State.feedElems
        { s1 with flights := s1.flights ++ [s.flightOf r e.stream e.kind e.place e.size e.data e.seq e.conj e.issued e.rel] } r)
    else .next s

/-- The write of a flight is handed to a port: one flit, or two for more than 192 bytes (R400). -/
def State.postFlight (s : State) (f : Flight) : Option State :=
  let x := OutFlit.of f.place.home.pkg 2 (some f.id)
  match if 192 < f.size then s.toPort f.src.stand x else some s with
  | some s1 => s1.toPort f.src.stand { x with write := true, data := f.data.toNat }
  | none => none

/-- A flight's arrivals at its sync word follow it (R299). -/
def State.countArrival (s : State) (f : Flight) (bytes : Nat) : State :=
  match f.sync with
  | some k => if bytes = 0 then s else { s with arrivals := s.arrivals ++ [⟨k, bytes, f.src, none⟩] }
  | none => s

/-- A source that may use host memory: a system core's stream or a hub (R341, log 5). -/
def Source.mayHost : Source → Bool
  | .stream w => w.isY
  | .engine _ _ _ _ => false
  | .hub _ => true

/-- The least time a write takes to its home (R204); a copy's write to the own slice takes 2 (R296). -/
def State.leastTime (s : State) (f : Flight) : Nat :=
  match f.src with
  | .engine c _ _ _ => if f.last = 0 then 2 else s.latency (standOf c) f.place true
  | _ => s.latency f.src.stand f.place (8 < f.size)

/-- Write f may be performed at its home: its time has passed and it stands behind no other request (R204, R251); one for another package
has been sent by its port (R319, R401). -/
def State.performable (s : State) (f : Flight) : Bool :=
  decide (f.last ≤ f.stage + 1) && !s.behind f.transit &&
    (f.place.isLocal || (decide (f.last ≤ f.stage) && !s.inPort f.id && !s.flitLost f.id)) && match f.src.stand.core with
    | some c => decide (f.born + s.leastTime f ≤ s.core[c].cycle)
    | none => true

/-- The bytes of write f from beat `f.beats` up to byte `stop` are performed at their home, and its releases with them
(R202, R253, R299). -/
def State.performTo (s : State) (f : Flight) (stop : Nat) : State :=
  let o := beatStart f.place.key f.beats
  let p := { f.place with key := f.place.key + o }
  let n := stop - o
  let good := s.goodBytes f.kind p n f.src.mayHost
  let s1 := s.overwrite f.kind p n f.src.mayHost
  let s2 := if good = 0 then s1 else s1.carry f p n
  (s2.performParts f.src f.kind p n (f.data.toNat / 2 ^ (8 * o) % 2 ^ (8 * n)) f.bad f.src.mayHost).countArrival f good

/-- STORE_PERFORM (R203, R204, R205): write number i in flight is performed at its home; what it does at another package's is outside the
model. -/
def execStorePerform (i : Nat) (s : State) : Res :=
  match s.flights[i]? with
  | none => .next s
  | some f =>
    if !s.performable f then .next s
    else
      let s1 := { s with flights := dropAt i s.flights }
      .next (if f.place.isLocal then s1.performTo f f.size else s1)

/-- The writes in flight with some numbers, oldest first. -/
def State.flightsOf (s : State) (l : List Nat) : List Flight := s.flights.filter fun f => l.contains f.id

/-- Routers may merge two reductions: of one integer operation, size and address, that cross a router (R220). -/
def Flight.merges (f g : Flight) : Bool :=
  decide (f.kind = g.kind) && decide (f.place = g.place) && decide (f.size = g.size) && 1 ≤ f.last && 1 ≤ g.last && f.place.isLocal &&
    (match f.kind with | .red op => decide (op ≠ .fadd) | _ => false)

/-- The act `merged` (R220): reductions that the routers have merged are performed at their home at one moment, as one whose operand combines
theirs; none of them stands behind a request that is not among them. -/
def State.mergedAct (s : State) (l : List Nat) : State :=
  let s1 := { s with flights := s.flights.filter fun f => !l.contains f.id }
  match s.flightsOf l with
  | f :: g :: rest =>
    match f.kind with
    | .red op =>
      let more := g :: rest
      if more.all f.merges && (f :: more).all s1.performable then
        let v := more.foldl (fun v h => atomApply op (8 * f.size) v h.data.toNat 0) (f.data.toNat % 2 ^ (8 * f.size))
        let ok := decide (s1.goodBytes f.kind f.place f.size f.src.mayHost ≠ 0)
        let s2 := if ok then (f :: more).foldl (fun t h => t.carry h f.place f.size) s1 else more.foldl (fun t h => t.dropWrite h.src) s1
        s2.performParts f.src f.kind f.place f.size v f.bad f.src.mayHost
      else s
    | _ => s
  | _ => s

/-- The act `beat` (R202): one beat of write number i is performed, and the rest later. -/
def State.beatFlight (s : State) (i : Nat) : State :=
  match s.flights[i]? with
  | none => s
  | some f =>
    let stop := beatStart f.place.key (f.beats + 1)
    if f.place.isLocal && s.performable f && decide (stop < f.size) then
      let s1 := s.performTo f stop
      { s1 with flights := s1.flights.modify i fun g => { g with beats := g.beats + 1 } }
    else s

/-- The act `move`: write number i moves on to the next exit queue of its path (R251), or from the last one into a fabric port (R319). -/
def State.moveFlight (s : State) (i : Nat) : State :=
  match s.flights[i]? with
  | none => s
  | some f =>
    let on (s : State) : State := State.bump { s with flights := s.flights.modify i fun g => { g with stage := g.stage + 1, ent := s.seq } }
    if s.behind f.transit then s
    else if f.stage + 1 < f.last then on s
    else if !f.place.isLocal && decide (f.stage < f.last) then (match s.postFlight f with | some s1 => on s1 | none => s)
    else s

/-! ## Missing pages -/

/-- A fault of a held load: it is withdrawn, its slot returned to FREE, and a freeze on the slot ends (R36, R212). -/
def State.failHeld (s : State) (w : Who) (l : LoadReq) (f : Flt) : State :=
  ((s.modSeat w.ref fun st => st.withdraw l).faultAt w l f).thaw w.ref.core

/-- The page of a held load is mapped: the load is replayed, and its stream goes on behind it (R212). -/
def State.replayLoad (s : State) (w : Who) (l : LoadReq) (p : Place) : State :=
  let fw := match l.kind with | .scalar _ => (s.getSeat w.ref).forwarded w.stream l.seq p l.size | _ => none
  let s1 := (s.setReq w.ref { l with place := p, missing := none, got := fw.map fun v => ⟨.ok, v, true⟩ }).as w fun t =>
    t.noteHint l.va l.hint p
  match (s.getStr w).wait with
  | .held _ _ => s1.as w State.retire
  | _ => s1

/-- LOAD_REPLAY (R212): the system core has acted on the page a load is held on: it maps it, and the load is replayed, or it gives it
up, and PAGE is raised precisely at that load. An atomic or a monitor wait held on a page issues again once the page is mapped. -/
def execLoadReplay (w : Who) (giveUp : Bool) (s : State) : Res :=
  match (s.getSeat w.ref).heldReq w.stream with
  | some l =>
    if giveUp then .next (s.failHeld w l ⟨.page, l.missing.getD 0, l.va, true⟩)
    else match s.check w l.va l.size .rd false false with
      | (.ok p, s1) => .next (s1.replayLoad w l p)
      | (.fault f, s1) => .next (s1.failHeld w l f)
      | (.missing _, s1) => .next s1
  | none =>
    match (s.getStr w).wait with
    | .held va d =>
      if giveUp then .next ((s.modStr w fun t => { t with wait := .none }).takeFault w.ref ⟨.page, d, va, true⟩ w.stream.idx.val)
      else match s.walk (s.getSeat w.ref).sys.xlatRoot va.toNat with
        | .leaf _ _ => .next (s.modStr w fun t => { t with wait := .none })
        | _ => .next s
    | _ => .next s

/-- A store or reduction of any stream to the bytes, issued before `seq`, has not left the seat's store queue (R209). -/
def Seat.storeBefore (st : Seat) (seq : Nat) (p : Place) (va : Word) (n : Nat) : Bool :=
  st.stores.any (fun e => decide (e.seq < seq) && overlap e.place e.size p n) ||
    st.elems.any fun e => decide (e.1.seq < seq) && vaOverlap e.1.va e.1.size va n

/-- Entry i of a side log is the oldest of its page, and no access of its stream, nor store of its seat, to its bytes stands before it in
the seat (R209, R213, R218). -/
def State.logFirst (s : State) (r : SeatRef) (i : Nat) (e : LogEntry) (p : Place) : Bool :=
  let st := s.getSeat r
  (match s.pageOf ⟨r, e.src⟩ e.va.toNat with
    | some (b, z) => !((st.sideLog.take i).any fun x => decide (b ≤ x.va.toNat) && decide (x.va.toNat < b + z))
    | none => false) &&
    !({ st with sideLog := [] } : Seat).ownBefore e.src e.seq p e.va e.size && !st.storeBefore e.seq p e.va e.size

/-- SIDE_LOG_REPLAY (R213): entry i of a side log is replayed once its page is mapped, after the entries of its page before it. -/
def execSideLogReplay (r : SeatRef) (i : Nat) (s : State) : Res :=
  match (s.getSeat r).sideLog[i]? with
  | none => .next s
  | some e =>
    match s.check ⟨r, e.src⟩ e.va e.size (if e.kind = 0 then .wr else .at') false true with
    | (.ok p, s1) =>
      let s2 := s1.modSeat r fun st => { st with sideLog := dropAt i st.sideLog }
      if s1.logFirst r i e p && s.conjSMet r e.src e.conj && s2.releaseMet r e.src e.rel e.seq then
        let s3 := (s2.as ⟨r, e.src⟩ fun t => t.noteHint e.va e.hint p).bump
        .next (State.feedElems { s3 with flights := s3.flights ++
          [s.flightOf r e.src (if e.kind = 0 then .store else .red e.op) p e.size e.data e.seq e.conj 0 e.rel] } r)
      else .next s
    | (_, s1) => .next s1

end Sys2Proof.Machine
end

