-- ==== Sys2Proof/Machine/Order.lean ====
section
/-!
DEFINITION. Atomics and reductions (R218 to R222), fences and the sc order (R214, R215, R255, R256), the conjunction (R216),
XFENCE (R217) and the monitor wait (R223).
-/
namespace Sys2Proof.Machine

/-- Values of operands in reading order, nothing dequeued (R102). -/
def State.peeks (s : State) : List SSpec → List Word
  | [] => []
  | a :: r => s.peek a :: (s.take a).peeks r

/-- Operands dequeued in reading order. -/
def State.takes (s : State) (l : List SSpec) : State := l.foldl State.take s

/-- Size in bytes of an atomic (R218). -/
def atomSize (dbl : Bool) : Nat := if dbl then 8 else 4

/-! ## AMO and RED -/

/-- The sources of an AMO: .cas reads the old d too (R218, R219). -/
def amoSources (g : AmoArgs) : List SSpec := [g.a, g.b] ++ match g.op, g.d with | .cas, .x k => [.x k] | _, _ => []

/-- AMO (R219): the request goes to the home; d and pe are written at the answer. -/
def execAmo (g : AmoArgs) (s : State) : Res :=
  if !s.classOk [g.a, g.b] [g.d] then s.raiseClass
  else match s.memWait (amoSources g) [g.d] with
    | some why => s.stall why
    | none =>
      if !s.pFree ⟨g.pe.val, by omega⟩ then s.stall none
      else
        let n := atomSize g.dbl
        let va := s.peek g.a
        match s.check s.turn va n .at' false true with
        | (.fault f, s1) => s1.raise f
        | (.missing d, s1) => s1.holdPage va d
        | (.ok p, s1) =>
          let v := (s.peeks [g.a, g.b]).getD 1 0
          let e := match g.d with | .x k => s.me.rdX k | .q _ => 0
          let s2 := s1.pushLoad (s.newReq (.amo g.op g.d v e g.pe) p va n 0 none)
          .next ((s2.takes [g.a, g.b]).retire)

/-- RED (R220): nothing comes back; a missing page sends it to the side log. -/
def execRed (g : RedArgs) (s : State) : Res :=
  if !s.classOk [g.a, g.b] [] then s.raiseClass
  else match s.memWait [g.a, g.b] [] with
    | some why => s.stall why
    | none =>
      let n := atomSize g.dbl
      let va := s.peek g.a
      match s.check s.turn va n .at' false true with
      | (.fault f, s1) => s1.raise f
      | (acc, s1) =>
        let v : VData := BitVec.ofNat 2048 (((s.peeks [g.a, g.b]).getD 1 0).toNat % 2 ^ (8 * n))
        match s1.placeStore acc va n (.red g.op) v none none 1 with
        | none => s.stall none
        | some s2 => .next ((s2.takes [g.a, g.b]).retire)

/-! ## VAMO and VMRED -/

/-- The element count of s2, clamped (R221). -/
def elemCount (dbl : Bool) (v : Word) : Nat := min v.toInt.toNat (if dbl then 32 else 64)

/-- The target of element e: s1 + SignExt(idx_e) × size (R221). -/
def elemAddr (base : Word) (idx : VData) (n e : Nat) : Word := base + BitVec.ofInt 64 (toSigned 32 (lane idx 32 e) * n)

/-- Where VAMO returns old values: the place of d + e × size in the own slice, or the fault; the operand x0 returns nothing (R221). -/
def State.returnPlace (s : State) (o : SSpec) (d : Word) (e n : Nat) : Except Flt (Option Place) :=
  if o = .x 0 then .ok none
  else
    let a := d + BitVec.ofNat 64 (e * n)
    if a.toNat % n ≠ 0 then .error (Flt.at' .align 0 a)
    else if isWindow a && decide (ownSlice s.turn.ref = some (sliceIndex a.toNat)) then .ok (some (windowPlace a.toNat false))
    else .error (Flt.at' .perm 14 a)

/-- The restart index in force at the VAMO at the program counter (R222). -/
def State.vamoIndex (s : State) : Nat :=
  match s.mySeat.vamo with
  | some (pc, e) => if pc = s.me.pc then e else 0
  | none => 0

/-- The element of a VAMO that is on its way to its home (R221). -/
def Seat.elemReq (st : Seat) : Option LoadReq := st.loads.find? fun l => match l.kind with | .elem _ _ => true | _ => false

/-- Where a VAMO returns the value of an element: an earlier access of S to the bytes is still on its way. -/
def State.returnBusy (s : State) (ret : Option Place) (n : Nat) : Bool :=
  match ret with
  | some q => s.mySeat.ownBefore .S s.seq q (BitVec.ofNat 64 q.key) n || !s.atHome (standOf s.turn.ref.core) s.seq q n
  | none => false

/-- VAMO (R221, R222): applies its elements in element order, one at a time, under its restart index: each goes to its home as an atomic
does and its old value is returned at the answer; the last one completes the instruction. -/
def execVamo (g : AmoArgs) (s : State) : Res :=
  if !s.classOk [g.a, g.b, g.d] [] then s.raiseClass
  else match s.memWait [g.a, g.b, g.d, .q 8, .q 9] [] with
    | some why => s.stall why
    | none =>
      let n := atomSize g.dbl
      let pe : Fin 16 := ⟨g.pe.val, by omega⟩
      let ops := s.peeks [g.a, g.b, g.d]
      let count := elemCount g.dbl (ops.getD 1 0)
      let d := ops.getD 2 0
      let e := s.vamoIndex
      let start (t : State) : State := if e = 0 then t.wrPred pe false else t
      let keep (t : State) (k : Nat) : State := t.modMySeat fun st => { st with vamo := some (s.me.pc, k) }
      let finish (t : State) : Res :=
        .next (((t.takes [g.a, g.b, g.d, .q 8, .q 9]).modMySeat fun st => { st with vamo := none }).retire)
      match s.mySeat.elemReq with
      | some l =>
        match s.answerNow s.turn.ref l with
        | none => s.stall none
        | some a =>
          let s1 := start (s.dropLoad s.turn.ref l)
          let s2 := match s.returnPlace g.d d e n with
            | .ok (some q) => s1.performWrite (.stream s.turn) .store q n (a.data.toNat % 2 ^ (8 * n)) false false
            | _ => s1
          let s3 := if a.ans = .ok then s2 else s2.wrPred pe true
          if count ≤ e + 1 then finish s3 else .next (keep s3 (e + 1))
      | none =>
        if !s.pFree pe then s.stall none
        else if count ≤ e then finish (start s)
        else
          let va := elemAddr (ops.getD 0 0) s.mySeat.q[(9 : Fin 16)].head n e
          match s.check s.turn va n .at' false true with
          | (.fault f, s1) => (keep s1 e).raise f
          | (.missing k, s1) => (keep s1 e).holdPage va k
          | (.ok p, s1) =>
            match s.returnPlace g.d d e n with
            | .error f => (keep s1 e).raise f
            | .ok ret =>
              if s.returnBusy ret n then s.stall none
              else
                let v := BitVec.ofNat 64 (lane s.mySeat.q[(8 : Fin 16)].head (8 * n) e)
                .next (keep (s1.pushLoad (s.newReq (.elem g.op v) p va n 0 none)) e)

/-- The checks of every element of a VMRED, in element order (R222): the accesses, or the fault, and the state with its TLB (R346). -/
def State.checkElems (s : State) (base : Word) (idx : VData) (n : Nat) : Nat → Nat → Except (Flt × State) (List (Acc × Word) × State)
  | 0, _ => .ok ([], s)
  | k + 1, e =>
    let va := elemAddr base idx n e
    match s.check s.turn va n .at' false true with
    | (.fault f, s1) => .error (f, s1)
    | (acc, s1) =>
      match s1.checkElems base idx n k (e + 1) with
      | .error f => .error f
      | .ok (l, s2) => .ok ((acc, va) :: l, s2)

/-- Element e of a VMRED as the store queue or the side log takes it; its page is not present or already logged (R213). -/
def State.elemStore (s : State) (op : AtomOp) (n : Nat) (vals : VData) (x : (Acc × Word) × Nat) : StoreReq × Nat × Bool :=
  let p : Place := match x.1.1 with | .ok p => p | _ => default
  let logged := match x.1.1 with | .ok _ => s.joinsLog x.1.2 | _ => true
  ({ s.newStore (.red op) p x.1.2 n (BitVec.ofNat 2048 (lane vals (8 * n) x.2)) none with seq := s.seq + x.2 }, x.2, logged)

/-- VMRED (R221, R222): checks every element first; then the elements issue in element order, as far as there is room, and S stays behind
those that wait (R209, R213). -/
def execVmred (g : RedArgs) (s : State) : Res :=
  if !s.classOk [g.a, g.b] [] then s.raiseClass
  else match s.memWait [g.a, g.b, .q 8, .q 9] [] with
    | some why => s.stall why
    | none =>
      let n := atomSize g.dbl
      let ops := s.peeks [g.a, g.b]
      match s.checkElems (ops.getD 0 0) s.mySeat.q[(9 : Fin 16)].head n (elemCount g.dbl (ops.getD 1 0)) 0 with
      | .error (f, s1) => s1.raise f
      | .ok (l, s1) =>
        let els := l.zipIdx.map fun x => s1.elemStore g.op n s.mySeat.q[(8 : Fin 16)].head x
        let s2 := State.modMySeat { s1 with seq := s1.seq + els.length } fun st => { st with elems := els }
        .next (((s2.feedElems s.turn.ref).takes [g.a, g.b, .q 8, .q 9]).retire)

/-! ## Fences -/

/-- Writes that an acquire fence of the running stream takes up are not performed at its scope (R253). -/
def State.heardHeld (s : State) (c : Scope) : Bool :=
  s.flights.any fun f => (acquired s.turn c s.me.heard).contains f.id && !f.performedAt c

/-- The condition of a fence (R215, R253, R254). -/
def State.fenceMet (s : State) (c : Scope) (k : FenceKind) : Bool :=
  match k with
  | .acq => s.acqMet s.turn s.seq
  | .rel => s.relMet s.turn c s.seq
  | _ => s.acqMet s.turn s.seq && s.relMet s.turn c s.seq && !s.heardHeld c

/-- A fence whose condition holds takes up what earlier reads have met, as an acquire, and stands for what is before it, as a release
(R253). -/
def State.passFence (s : State) (c : Scope) (k : FenceKind) : State :=
  let up := if k = .rel then [] else s.onWay (acquired s.turn c s.me.heard)
  let s1 := s.modMe fun t => { t with fwd := s.onWay t.fwd ++ up, heard := s.stillHeard t.heard }
  if k = .acq then s1
  else s1.modMe fun t =>
    { t with fenced := (t.fenced.filter fun x => !(s.onWay x.2).isEmpty) ++ [(c, s1.relIds s.turn.ref s.turn.stream s.seq)] }

/-- FENCE (R215): the stream waits until its condition holds; an sc fence then waits for its order event. -/
def execFence (c : Scope) (k : FenceKind) (s : State) : Res :=
  match s.me.wait with
  | .scEvent _ => s.stall none
  | .scTaken _ => s.stall none
  | .scDone => .next s.retire
  | _ =>
    if !s.fenceMet c k then s.stall none
    else if k = .sc then .next ((s.passFence c k).modMe fun t => { t with wait := .scEvent c })
    else .next (s.passFence c k).retire

/-- The streams of a core in the order of R255. -/
def wheelStream (core : Fin 904) (i : Fin 6) : Who :=
  ⟨⟨core, if i.val < 3 then 0 else 1⟩, match i.val % 3 with | 0 => .K | 1 => .L | _ => .S⟩

/-- Stream w waits for its order event, and may take it (R389: a domain fence waits for the timebase). -/
def State.atWheel (s : State) (w : Who) : Bool :=
  match (s.getStr w).wait with
  | .scEvent c => decide (c ≠ .domain) || s.synced
  | _ => false

/-- Stream w takes the order event of an sc fence at scope c: what is before an earlier fence comes before its later accesses, when each
lies in the other's instance (R256). -/
def State.takeEvent (s : State) (w : Who) (c : Scope) : State :=
  let past := s.stillHeard s.scPast
  let s1 := s.modStr w fun t => { t with fwd := s.onWay t.fwd ++ acquired w c past }
  { s1 with scPast := s1.stillHeard (past ++ [⟨.stream w, c, s1.relIds w.ref w.stream s.seq⟩]) }

/-- SC_ORDER_EVENT (R215, R255, R256): in its core's position of the slot wheel, one waiting sc fence per turn takes its
event, in rotation; a domain fence then settles for 64 timebase ns. In a freeze the stream itself goes on later (R18). -/
def execScOrderEvent (core : Fin 904) (s : State) : Res :=
  let c := s.core[core]
  let tb := s.timebase.toNat
  if tb % 1024 ≠ core.val || c.wheelTurn = tb / 1024 + 1 then .next s
  else
    let order := (List.range 6).map fun k => (Fin.ofNat 6 (c.wheel.val + 1 + k) : Fin 6)
    match order.find? fun i => s.atWheel (wheelStream core i) with
    | none => .next s
    | some i =>
      let w := wheelStream core i
      let s1 := s.setCore core { c with wheel := i, wheelTurn := tb / 1024 + 1 }
      match (s.getStr w).wait with
      | .scEvent .domain => .next ((s1.takeEvent w .domain).modStr w fun t => { t with wait := .scTaken (tb + 64) })
      | .scEvent x =>
        .next (if s.coreHeld core then (s1.takeEvent w x).modStr w fun t => { t with wait := .scDone } else (s1.takeEvent w x).as w State.retire)
      | _ => .next s1

/-- DOMAIN_FENCE_SETTLE (R256): 64 timebase ns after its event a domain fence lets its stream issue past it, while the timebase is
synchronised to the domain (R389, R402); in no freeze of its core (R18). -/
def execDomainFenceSettle (w : Who) (s : State) : Res :=
  match (s.getStr w).wait with
  | .scTaken t => if decide (t ≤ s.timebase.toNat) && s.synced && !s.coreHeld w.ref.core then .next (s.as w State.retire) else .next s
  | _ => .next s

/-- CONJ (R216): counted; its effects are conditions of later accesses. -/
def execConj (t : Fin 64) (s : State) : Res :=
  .next ((s.modMySeat fun st =>
    match s.turn.stream with
    | .L => { st with conjL := st.conjL + 1, tagsL := st.tagsL ++ [t] }
    | .S => { st with conjS := st.conjS + 1, tagsS := st.tagsS ++ [t] }
    | _ => st).retire)

/-- The store is one of K or S of a seat. -/
def fromKS (r : SeatRef) (x : Source) : Bool := x = .stream ⟨r, .K⟩ || x = .stream ⟨r, .S⟩

/-- Every store and reduction that K or S issued before core cycle `c` is performed at its home, and the side log is empty
(R217). -/
def State.xfenceMet (s : State) (c : Nat) : Bool :=
  let r := s.turn.ref
  !(s.mySeat.stores.any fun e => decide (e.issued < c)) && !(s.mySeat.elems.any fun e => decide (e.1.issued < c)) &&
    s.mySeat.sideLog.isEmpty &&
    !(s.flights.any fun f => fromKS r f.src && decide (f.issued < c))

/-- What S and L have acquired comes before what K does behind an XFENCE, through the stores of S that it waits for and the conjunctions
before them (R216, R217, R253): K's next release stands for it. -/
def State.xfenceHeard (s : State) : State :=
  let r := s.turn.ref
  let ids := s.onWay ((s.getStr ⟨r, .S⟩).fwd ++ (s.getStr ⟨r, .L⟩).fwd)
  if ids.isEmpty then s else s.modMe fun t => { t with fwd := s.onWay t.fwd ++ ids }

/-- XFENCE (R217). -/
def execXfence (s : State) : Res :=
  let since := match s.me.wait with | .xfence c => c | _ => s.myCore.cycle
  if s.xfenceMet since then .next s.xfenceHeard.retire
  else .next (s.modMe fun t => { t with wait := .xfence since })

/-! ## MWAIT -/

/-- The arm and compare of a stream's monitor wait is still on its way. -/
def Seat.arming (st : Seat) (i : StreamId) : Bool :=
  st.loads.any fun l => decide (l.stream = i) && match l.kind with | .mwait _ => true | .swait _ => true | _ => false

/-- MWAIT (R223): a request arms and compares in one step at the home, and K waits; a latched cut ends the wait with pn = 0. -/
def execMwait (g : MwaitArgs) (s : State) : Res :=
  if !s.classOk [g.a, g.b] [] then s.raiseClass
  else match s.me.wait with
  | .mwait _ _ _ _ _ =>
    if s.mySeat.cut.latch.isSome && !s.mySeat.arming s.turn.stream then .next (s.endMwait s.turn g.p [g.a, g.b] false) else s.stall none
  | .woken p srcs v => .next (s.closeMwait s.turn p srcs v)
  | _ =>
    match s.memWait [g.a, g.b] [] with
    | some why => s.stall why
    | none =>
      if !s.pFree g.p then s.stall none
      else
        let va := s.peek g.a
        match s.check s.turn va 8 .rd false false with
        | (.fault f, s1) => s1.raise f
        | (.missing d, s1) => s1.holdPage va d
        | (.ok p, s1) =>
          let e := (s.peeks [g.a, g.b]).getD 1 0
          let due := s.mySeat.sched + s.mySeat.lex[g.sym].hi.toNat
          .next (((s1.disarm s.turn).pushLoad (s.newReq (.mwait e) p va 8 0 none)).modMe fun t =>
            { t with wait := .mwait p.key e g.p due [g.a, g.b] })

/-- MWAIT_TIMEOUT (R223): at issue + hi(SYM) schedule cycles the wait ends with pn = 0. -/
def execMwaitTimeout (w : Who) (s : State) : Res :=
  match (s.getStr w).wait with
  | .mwait _ _ p due srcs => if due ≤ (s.getSeat w.ref).sched then .next (s.endMwait w p srcs false) else .next s
  | _ => .next s

end Sys2Proof.Machine
end

