-- ==== Sys2Proof/Machine/Engine.lean ====
section
/-!
DEFINITION. Engine programs and command queues: the common words (R75, R76, R157 to R161), attributes (R280), placement of
launch words (R277 to R279, R284), flags and their waits (R282 to R286), the wait record (R385, R386), FORK and JOIN (R287,
R288).
-/
namespace Sys2Proof.Machine

/-! ## Reaching an engine program -/

/-- A seat's program and queue on an engine. -/
def Seat.getEng (st : Seat) (e : EngineId) : EngineCtx := st.eng[e.idx]

/-- Changing a seat's program and queue on an engine. -/
def Seat.modEng (st : Seat) (e : EngineId) (f : EngineCtx → EngineCtx) : Seat := { st with eng := vmod st.eng e.idx f }

/-- The engine program of the running word. -/
def State.myEng (s : State) : EngineCtx := s.mySeat.getEng s.turnE

/-- Changing the engine program of the running word. -/
def State.modMyEng (s : State) (f : EngineCtx → EngineCtx) : State := s.modMySeat fun st => st.modEng s.turnE f

/-- A fault of a seat's engine reaches the seat with SRC 4, 5 or 6 (R289). -/
def State.engineFault (s : State) (r : SeatRef) (e : EngineId) (f : Flt) : State := s.takeFault r f (4 + e.idx.val)

/-- A fault stops the running word's program (R158, R289); a seat that already stands Faulted takes the fault when it is resumed
(log 21). -/
def State.stopProgram (s : State) (f : Flt) : Res :=
  if s.mySeat.inst.phase = .faulted then .next s
  else .next ((s.modMyEng fun c => { c with running := false, faulted := true }).engineFault s.turn.ref s.turnE f)

/-- The running word faults: it is left unexecuted, and FAULT_ADDR holds the word's address (R158, R289). -/
def State.wordFault (s : State) (f : Flt) : Res := s.stopProgram { f with addr := s.mySeat.wordAddr s.turnE s.myEng.pc }

/-- The running word has executed: the program goes to word index `pc`. -/
def State.wordTo (s : State) (pc : Nat) : State := s.modMyEng fun c => { c with pc := pc, stepped := s.now + 1 }

/-- The running word has executed in sequence (R158). -/
def State.wordDone (s : State) : State := s.wordTo (s.myEng.pc + 1)

/-- ENGINE_STACK with a detail (R159: UNDER 6, OVER 5; R76: PREFIX 7; R160: LOOP 8). -/
def stackFlt (d : Nat) : Flt := Flt.mk' .engineStack d

/-- A word that needs `n` entries and leaves the stack `f` of the present one, top first (R159). -/
def State.stackWord (s : State) (n : Nat) (f : List Word → List Word) : Res :=
  if s.myEng.stack.length < n then s.wordFault (stackFlt 6)
  else if 8 < (f s.myEng.stack).length then s.wordFault (stackFlt 5)
  else .next ((s.modMyEng fun c => { c with stack := f c.stack }).wordDone)

/-! ## Common words (R75, R76, R159) -/

/-- A literal word (R75). -/
def execLit (v : BitVec 15) (s : State) : Res := s.stackWord 0 fun l => v.setWidth 64 :: l

/-- LITX (R76): the pair is one step; with an empty stack it raises UNDER, whatever the next word is (DESIGN
CHOICE, log 45). -/
def execLitx (next : EWord) (s : State) : Res :=
  match s.myEng.stack with
  | [] => s.wordFault (stackFlt 6)
  | t :: l =>
    if !bit next 15 then s.wordFault (stackFlt 7)
    else
      .next ((s.modMyEng fun c => { c with stack := ((t <<< 15) + (next &&& 0x7FFF).setWidth 64) :: l }).wordTo (s.myEng.pc + 2))

/-- DUP (R159). -/
def execDup (s : State) : Res := s.stackWord 1 fun l => l.headD 0 :: l

/-- DROP (R159). -/
def execDrop (s : State) : Res := s.stackWord 1 fun l => l.tail

/-- SWAP (R159). -/
def execSwap (s : State) : Res := s.stackWord 2 fun l => match l with | t :: u :: r => u :: t :: r | l => l

/-- OVER (R159). -/
def execOver (s : State) : Res := s.stackWord 2 fun l => l.getD 1 0 :: l

/-- A word of two operands, second and top (R159). -/
def State.stackWord2 (s : State) (f : Word → Word → Word) : Res :=
  s.stackWord 2 fun l => match l with | t :: u :: r => f u t :: r | l => l

/-- ADDW (R159). -/
def execAddw (s : State) : Res := s.stackWord2 fun u t => u + t

/-- SUBW: second minus top (R159). -/
def execSubw (s : State) : Res := s.stackWord2 fun u t => u - t

/-- MULW (R159). -/
def execMulw (s : State) : Res := s.stackWord2 fun u t => u * t

/-- SHLW (R159). -/
def execShlw (n : Fin 64) (s : State) : Res :=
  s.stackWord 1 fun l => match l with | t :: r => (t <<< n.val) :: r | l => l

/-- The queue register an engine program pops (R159). -/
def popQueue (e : EngineId) : Fin 16 :=
  match e with | .matrix => 10 | .copy => 11 | .query => 12

/-- The return queue of an engine (R279). -/
def returnQueue (e : EngineId) : Fin 16 :=
  match e with | .matrix => 13 | .copy => 14 | .query => 15

/-- QPOP waits while its queue is empty (R158, R159). DESIGN CHOICE (log 54): with a full stack it raises OVER at once, its queue empty or
not. -/
def execQpop (s : State) : Res :=
  if 8 ≤ s.myEng.stack.length then s.wordFault (stackFlt 5)
  else
    let n := popQueue s.turnE
    if s.mySeat.q[n].avail s.now = 0 then .next s
    else
      let v : Word := s.mySeat.q[n].head.setWidth 64
      .next (((s.modMySeat fun st => st.modQ n fun f => f.pop s.now).modMyEng fun c => { c with stack := v :: c.stack }).wordDone)

/-! ## Loops (R160) -/

/-- The word at a natural index of an engine program of a seat (R161, R287): the pad words after a section stand in memory. DESIGN CHOICE
(log 45): LOOPW counts its steps through words that stand in no packet buffer too, at once and without a fault. -/
def State.engineWord (s : State) (r : SeatRef) (e : EngineId) (i : Nat) : EWord :=
  let st := s.getSeat r
  let a := st.wordAddr e i
  let p : Packet := match (st.getEng e).packets.find? fun q => decide (q.addr = packetOf a) with
    | some p => p
    | none => (s.readPacket (coreDie r.core) st.sys.xlatRoot r.isSys (packetOf a)).1
  p.data.extractLsb' (8 * (a.toNat % 64)) 16

/-- The word index `d` steps on: a LITX pair is one step (R76, R160). -/
def State.stepsOn (s : State) (r : SeatRef) (e : EngineId) : Nat → Nat → Nat
  | 0, pc => pc
  | d + 1, pc => s.stepsOn r e d (pc + if (s.engineWord r e pc).toNat / 1024 = 1 then 2 else 1)

/-- LOOPW (R160). -/
def execLoopw (d : BitVec 10) (s : State) : Res :=
  match s.myEng.stack with
  | [] => s.wordFault (stackFlt 6)
  | t :: l =>
    let c := t.toInt
    let stop := s.stepsOn s.turn.ref s.turnE d.toNat s.myEng.pc
    if c ≤ 0 then
      .next ((s.modMyEng fun x => { x with stack := l }).wordTo (s.stepsOn s.turn.ref s.turnE 1 stop))
    else if 2 ≤ s.myEng.loops.length then s.wordFault (stackFlt 8)
    else
      .next ((s.modMyEng fun x =>
        { x with stack := l, loops := ⟨s.myEng.pc + 1, min c.toNat (2 ^ 32 - 1), stop⟩ :: x.loops }).wordDone)

/-- ENDW (R160). -/
def execEndw (s : State) : Res :=
  match s.myEng.loops with
  | [] => s.wordFault (Flt.mk' .undefOp 8)
  | f :: r =>
    if f.stop ≠ s.myEng.pc then s.wordFault (Flt.mk' .undefOp 8)
    else if 1 < f.left then .next ((s.modMyEng fun x => { x with loops := { f with left := f.left - 1 } :: r }).wordTo f.start)
    else .next ((s.modMyEng fun x => { x with loops := r }).wordDone)

/-- STOPW ends the program; pending attributes raise UNDEF_OP, detail ATTR (48) (R161, R280). -/
def execStopw (s : State) : Res :=
  if s.myEng.attrs.hasW || s.myEng.attrs.hasS then s.wordFault (Flt.mk' .undefOp 48)
  else .next ((s.modMyEng fun c => { c with running := false }).wordDone)

/-- UNDEFINED_ENGINE_WORD (R75). -/
def execUndefinedEngineWord (_w : EWord) (s : State) : Res := s.wordFault (Flt.mk' .undefOp 0)

/-! ## Attributes (R280) -/

/-- WAITF (R280). -/
def execWaitf (acq : Option Scope) (n : Fin 64) (s : State) : Res :=
  if s.myEng.attrs.hasW then s.wordFault (Flt.mk' .undefOp 48)
  else match s.myEng.stack with
  | [] => s.wordFault (stackFlt 6)
  | a :: l =>
    .next ((s.modMyEng fun c =>
      { c with stack := l, attrs := { c.attrs with hasW := true, w := true, wflag := n, wacc := a.setWidth 32, acq := acq } }).wordDone)

/-- SIGF (R280). -/
def execSigf (note : Bool) (t : SigTarget) (s : State) : Res :=
  if s.myEng.attrs.hasS then s.wordFault (Flt.mk' .undefOp 48)
  else
    .next ((s.modMyEng fun c =>
      { c with attrs := match t with
          | .flag f rel => { c.attrs with hasS := true, note := note, s := true, sflag := f, rel := rel }
          | .none rel => { c.attrs with hasS := true, note := note, s := false, rel := rel } }).wordDone)

/-! ## Accession numbers and flags (R278, R282, R283) -/

/-- Number b follows number a (R278). -/
def accFollows (a b : BitVec 32) : Bool := let d := (b - a).toNat; decide (1 ≤ d) && decide (d < 2 ^ 31)

/-- Taking an accession number (R278): visible number 0 is never given. -/
def Core.takeAcc (c : Core) : BitVec 32 × Core :=
  let v := if fld c.accNext 0 32 = 0 then c.accNext + 1 else c.accNext
  (v.setWidth 32, { c with accNext := v + 1 })

/-- A setter of flag f is pushed (R282). -/
def Core.pushFlag (c : Core) (f : Fin 64) (kind : Fin 4) (acc : BitVec 32) : Core :=
  { c with flags := vmod c.flags f fun x => { x with kind := kind, pushed := acc } }

/-- A signal of flag f with number `acc` (R283). -/
def Core.signalFlag (c : Core) (f : Fin 64) (acc : BitVec 32) : Core :=
  { c with flags := vmod c.flags f fun x => if accFollows x.done acc then { x with done := acc } else x }

/-- Changing a core. -/
def State.modCore (s : State) (c : Fin 904) (f : Core → Core) : State := s.setCore c (f s.core[c])

/-! ## The wait record (R286, R385, R386) -/

/-- The place of a waiter among the waits met in one core cycle: matrix, copy, query, launch packet, K (R386). -/
def waiterPlace (waiter : Nat) : Nat := if waiter < 4 then 5 else waiter - 3

/-- A wait of a core may be met in this core cycle: none that comes after it in the order of R386 has been met in it. -/
def Core.mayMeet (c : Core) (waiter : Nat) : Bool := c.metAt.1 ≠ c.cycle + 1 || c.metAt.2 ≤ waiterPlace waiter

/-- One entry of a core's wait record, if its ring is valid; a full ring drops it and counts event 17 of `seat`. -/
def State.waitRecord (s : State) (core : Fin 904) (seat : Option (Fin 2)) (waiter flag setter acc cycles : Nat) : State :=
  let c := s.core[core]
  let z := fld c.wrecBase 0 4
  let s := s.modCore core fun c => { c with metAt := (c.cycle + 1, waiterPlace waiter) }
  if z < 4 then s
  else
    let tail := fld c.wrecPtr 0 32
    let head := fld c.wrecPtr 32 32
    if 2 ^ z ≤ (tail + 2 ^ 32 - head) % 2 ^ 32 then
      match seat with
      | some k => s.modSeat ⟨core, k⟩ fun st => st.count 17 none 1
      | none => s
    else
      let d0 := acc % 2 ^ 32 * 2 ^ 32 + min cycles (2 ^ 32 - 1)
      let d1 := setter % 4 * 2 ^ 12 + flag % 64 * 2 ^ 6 + waiter % 8 * 2 ^ 3 + (match seat with | some k => k.val * 4 | none => 0)
      let p := windowPlace (fld c.wrecBase 12 52 * 4096 + 16 * (tail % 2 ^ z)) false
      (s.performWrite (.hub (coreDie core)) .store p 16 (d0 + d1 * 2 ^ 64) false true).modCore core fun c =>
        { c with wrecPtr := putFld c.wrecPtr 0 32 (tail + 1) }

/-! ## Placement of a launch word (R279) -/

/-- The fault of a pending wait, FORWARD_WAIT with the flag's number (R284). -/
def Core.forwardWait (c : Core) (a : Attrs) : Option Flt :=
  let p := c.flags[a.wflag].pushed
  if a.w && decide (a.wacc ≠ 0) && decide (a.wacc ≠ p) && !accFollows a.wacc p then some (Flt.mk' .forwardWait a.wflag.val)
  else none

/-- The command a launch word places (R277). -/
def newCmd (i : Instr) (acc : BitVec 32) (attrs : Attrs) (args : List Word) (cycle bind : Nat) (head : Bool) (fwd : List Nat) : Cmd :=
  { acc := acc, opc := Fin.ofNat 32 (encode i / 2 ^ 10), opnd := BitVec.ofNat 10 (encode i), attr := attrs, args := args,
    met := false, started := false, stuck := false, headAt := if head then cycle else 0, placedAt := cycle, bind := bind, sent := 0, fwd := fwd, touched := [],
    due := 0, data := [], todo := [], dest := [], i2 := 0, i1 := 0, k := 0, moved := false }

/-- A launch word that pops `n` arguments (R158, R279): it waits for room in its queue and, with NOTE, in the return queue, and, as an
access of K, for what K's accesses wait for (R210, R252); `bind` is the binding in force for its symbol. -/
def State.place (s : State) (i : Instr) (n bind : Nat) : Res :=
  let c := s.myEng
  if 16 ≤ c.queue.length || s.gated then .next s
  else if c.stack.length < n then s.wordFault (stackFlt 6)
  else match s.myCore.forwardWait c.attrs with
    | some f => s.wordFault f
    | none =>
      let q := returnQueue s.turnE
      if c.attrs.note && !s.mySeat.qRoom q s.now 1 then .next (s.modMyEng fun x => { x with full := true })
      else
        let r := s.myCore.takeAcc
        let cmd := newCmd i r.1 c.attrs (c.stack.take n) s.myCore.cycle bind (c.queue.all fun x => x.started) (s.onWay s.me.fwd)
        let core := if c.attrs.s then r.2.pushFlag c.attrs.sflag s.turnE.idx.castSucc r.1 else r.2
        let s1 := (s.setCore s.turn.ref.core core).modMyEng fun x =>
          { x with stack := x.stack.drop n, attrs := Attrs.reset, queue := x.queue ++ [cmd], lastAcc := r.1, full := false }
        let s2 := if c.attrs.note then s1.modMySeat fun st => st.modQ q fun f => f.push (r.1.setWidth 2048) s.now else s1
        .next s2.wordDone

/-- A launch word of an optional unit (R168, R170, R237): UNDEF_OP, detail ABSENT, when it is placed on a part without the unit. -/
def State.placeIf (s : State) (here : Bool) (i : Instr) (n bind : Nat) : Res :=
  if decide (s.myEng.queue.length < 16) && !s.gated && !here then s.wordFault (Flt.mk' .undefOp 13) else s.place i n bind

/-! ## FORK and JOIN -/

/-- FORK (R287): detail NEST while the seat's program on that engine runs. -/
def execFork (e : EngineId) (i : BitVec 16) (s : State) : Res :=
  if (s.mySeat.getEng e).running then s.raise (Flt.mk' .undefOp 1)
  else
    .next ((s.modMySeat fun st => st.modEng e fun c =>
      { c with stack := [], loops := [], attrs := Attrs.reset, pc := i.toNat, running := true, faulted := false, forked := true,
               packets := [], stepped := s.now + 1, full := false }).retire)

/-- JOIN (R288, R385): holds K until the latest program has ended and every command of the seat on the engine is complete; as an acquire
it takes up what the commands marked .rel stand for (R257). -/
def execJoin (e : EngineId) (s : State) : Res :=
  let c := s.mySeat.getEng e
  let since := match s.me.wait with | .join t => t | _ => s.myCore.cycle
  if c.forked && c.faulted then s.raise (Flt.mk' .undefOp 18)
  else if c.forked && (c.running || !c.queue.isEmpty) then .next (s.modMe fun t => { t with wait := .join since })
  else if !s.myCore.mayMeet 0 then s.stall none
  else
    let s := s.modMe fun t => { t with fwd := s.onWay t.fwd ++ s.onWay c.heard }
    .next ((s.waitRecord s.turn.ref.core (some s.turn.ref.seat) 0 e.idx.val e.idx.val
      (if c.forked then c.lastAcc.toNat else 0) (s.myCore.cycle - since)).retire)

/-! ## Flag waits at the head of a queue (R285) -/

/-- The command of a seat's queue that is next to start, with its index. DESIGN CHOICE (log 54): a queue starts its commands strictly in
order (R17), where R162 and R285 can be read to let a later one start first. -/
def EngineCtx.head (c : EngineCtx) : Option (Nat × Cmd) :=
  (c.queue.zipIdx.find? fun x => !x.1.started).map fun x => (x.2, x.1)

/-- The seat's moving copy command, with its index. -/
def EngineCtx.moving (c : EngineCtx) : Option (Nat × Cmd) :=
  (c.queue.zipIdx.find? fun x => x.1.started && !x.1.moved).map fun x => (x.2, x.1)

/-- The command whose accesses an engine makes now: a moving copy, or the one next to start. -/
def EngineCtx.current (c : EngineCtx) (e : EngineId) : Option (Nat × Cmd) :=
  match e with
  | .copy => c.moving.or c.head
  | _ => c.head

/-- Changing command i of a queue. -/
def EngineCtx.modCmd (c : EngineCtx) (i : Nat) (f : Cmd → Cmd) : EngineCtx := { c with queue := c.queue.modify i f }

/-- The engines of a core do not run: its clock stands still (R18, R403, R406), or a freeze may still begin in this core cycle (R36). -/
def State.engineHeld (s : State) (core : Fin 904) : Bool := s.coreHeld core || !s.core[core].settled

/-- FLAG_WAIT_MET (R285, R286): the head command's wait is met: DONE equals the awaited number or follows it, or the number is
0. It performs its acquire and may start. -/
def execFlagWaitMet (core : Fin 904) (e : EngineId) (seat : Fin 2) (s : State) : Res :=
  let r : SeatRef := ⟨core, seat⟩
  let c := (s.getSeat r).getEng e
  match c.head with
  | none => .next s
  | some (i, x) =>
    let f := s.core[core].flags[x.attr.wflag]
    let up := match x.attr.acq with | some sA => s.onWay (acquired ⟨r, .K⟩ sA f.heard) | none => []
    if !x.attr.w || x.met || c.frozen || s.engineHeld core || !s.core[core].mayMeet (4 + e.idx.val) then .next s
    else if x.attr.wacc = 0 || f.done = x.attr.wacc || accFollows x.attr.wacc f.done then
      .next ((s.modSeat r fun st => st.modEng e fun c => c.modCmd i fun x => { x with met := true, fwd := s.onWay x.fwd ++ up }).waitRecord core (some seat)
        (4 + e.idx.val) x.attr.wflag.val f.kind.val f.done.toNat (s.core[core].cycle - x.headAt))
    else .next s

end Sys2Proof.Machine
end

