-- ==== Sys2Proof/Machine/EngineMem.lean ====
section
/-!
DEFINITION. Memory as an engine command sees it: the checks at its start (R163, R197, R291, R327), its reads and their error
answers (R163, R205, R289), and its writes (R251, R296).
-/
namespace Sys2Proof.Machine

/-- Why a command does not start, or stops: a fault or a missing page (with the state after its walks and error logs), or a request in
front of its read. -/
inductive EngStop where
  | fault (f : Flt) (s : State)
  | missing (va : Word) (detail : Nat) (s : State)
  | wait
  deriving DecidableEq, Repr

/-- The blocks of n bytes at an address, at most `fuel`. -/
def blocksGo : Nat → Word → Nat → List (Word × Nat)
  | 0, _, _ => []
  | f + 1, a, n =>
    if n = 0 then []
    else
      let m := min n (256 - a.toNat % 256)
      (a, m) :: blocksGo f (a + BitVec.ofNat 64 m) (n - m)

/-- The blocks of n bytes at an address. -/
def blocksOf (a : Word) (n : Nat) : List (Word × Nat) := blocksGo (n / 256 + 2) a n

/-- A window address lies in the core's own slice. -/
def inOwn (r : SeatRef) (va : Word) : Bool := isWindow va && decide (ownSlice r = some (sliceIndex va.toNat))

/-- Changing the engine's present command. -/
def Seat.modCurrent (st : Seat) (e : EngineId) (f : Cmd → Cmd) : Seat :=
  match (st.getEng e).current e with
  | some (i, _) => st.modEng e fun c => c.modCmd i f
  | none => st

/-- The reads of a walk for the engine's present command: their errors count (R230), and each is an acquire at device scope (R348, R253). -/
def State.engWalk (s : State) (r : SeatRef) (e : EngineId) (l : List Place) : State :=
  let ids := s.onWay (acquired ⟨r, .K⟩ .device (l.flatMap fun p => s.heardAt p 8))
  let s1 := s.noteWalk l
  if ids.isEmpty then s1 else s1.modSeat r fun st => st.modCurrent e fun c => { c with fwd := s.onWay c.fwd ++ ids }

/-- The check of one address of an engine command (R163, R197, R327, R346). -/
def State.engCheck (s : State) (r : SeatRef) (e : EngineId) (va : Word) (rt : Right) (skew write : Bool) :
    Except EngStop (Place × State) :=
  let stop (d : Nat) : Except EngStop (Place × State) := .error (.fault ⟨.perm, d, va, false⟩ s)
  if isWindow va then
    match s.windowCheck r va.toNat rt with
    | some d => stop d
    | none => if write && inBoardRegion va.toNat then stop 68 else .ok (windowPlace va.toNat skew, s)
  else
    let c := s.core[r.core]
    let root := (s.getSeat r).sys.xlatRoot
    let out := s.xlat root c.etlb[e.idx] 8 false va.toNat rt
    let s1 := (s.setCore r.core { c with etlb := c.etlb.set e.idx out.2 }).engWalk r e (s.xlatReads root c.etlb[e.idx] false va.toNat rt)
    match out.1 with
    | .ok leaf base z => .ok (leafPlace leaf base z va.toNat, s1)
    | .request d => .error (.missing va d s1)
    | .noncanon => .error (.fault ⟨.page, 72, va, true⟩ s1)
    | .perm => .error (.fault ⟨.perm, 0, va, false⟩ s1)

/-- The checks of a list of blocks; with `own` each must lie in the core's own slice (PERM, detail REMOTE 14). -/
def State.spanCheck (s : State) (r : SeatRef) (e : EngineId) (rt : Right) (skew write own : Bool) :
    List (Word × Nat) → Except EngStop (List Blk × State)
  | [] => .ok ([], s)
  | (a, n) :: l =>
    if own && !inOwn r a then .error (.fault (Flt.at' .perm 14 a) s)
    else match s.engCheck r e a rt skew write with
      | .error x => .error x
      | .ok (p, s1) =>
        match s1.spanCheck r e rt skew write own l with
        | .error x => .error x
        | .ok (bs, s2) => .ok (⟨p, n, a⟩ :: bs, s2)

/-- The checks of rows of n bytes at the given addresses. -/
def State.rowsCheck (s : State) (r : SeatRef) (e : EngineId) (rt : Right) (skew write own : Bool) (n : Nat) :
    List Word → Except EngStop (List (List Blk) × State)
  | [] => .ok ([], s)
  | a :: l =>
    match s.spanCheck r e rt skew write own (blocksOf a n) with
    | .error x => .error x
    | .ok (b, s1) =>
      match s1.rowsCheck r e rt skew write own n l with
      | .error x => .error x
      | .ok (bs, s2) => .ok (b :: bs, s2)

/-- The number under which the read requests of command i have left (R251): that of their first try, or the next one. -/
def State.engEnt (s : State) (r : SeatRef) (e : EngineId) (i : Nat) : Nat :=
  match ((s.getSeat r).getEng e).queue[i]? with
  | some c => if c.sent = 0 then s.seq else c.sent
  | none => s.seq

/-- What a read of command i meets on its way (R251). -/
def State.engMeet (s : State) (r : SeatRef) (e : EngineId) (i : Nat) (p : Place) (n : Nat) : Meet :=
  s.meet (standOf r.core) (s.engEnt r e i) p n

/-- The place of the engine's present command in its queue. -/
def State.curIndex (s : State) (r : SeatRef) (e : EngineId) : Nat := ((((s.getSeat r).getEng e).current e).map fun x => x.1).getD 0

/-- A forward record of command i (R251, R254). -/
def State.engForward (s : State) (r : SeatRef) (e : EngineId) (i : Nat) (f : Flight) : State :=
  s.modSeat r fun st => st.modEng e fun c => c.modCmd i fun x => { x with fwd := s.onWay x.fwd ++ [f.id] }

/-- The read of a block by command i: its value, or POISON with DETAIL 0 or 15 at its address (R163, R289). -/
def State.readBlk (s : State) (r : SeatRef) (e : EngineId) (i : Nat) (b : Blk) : Except EngStop (Nat × State) :=
  match s.engMeet r e i b.place b.size with
  | .wait => .error .wait
  | .forward f => .ok ((covered f.place f.data b.place b.size).toNat, s.engForward r e i f)
  | .clear =>
    match s.answer b.place b.size false with
    | .ok => .ok (s.dataAt b.place b.size, s.noteCorr (some r) b.place b.size)
    | .uncorrectable => .error (.fault (Flt.at' .poison 0 b.va) (s.noteBad b.place b.size false))
    | .dieReset => .error (.fault (Flt.at' .poison 15 b.va) s)

/-- The bytes of consecutive blocks, little-endian. -/
def State.readSpan (s : State) (r : SeatRef) (e : EngineId) (i : Nat) : List Blk → Except EngStop (Nat × State)
  | [] => .ok (0, s)
  | b :: l =>
    match s.readBlk r e i b with
    | .error x => .error x
    | .ok (v, s1) =>
      match s1.readSpan r e i l with
      | .error x => .error x
      | .ok (w, s2) => .ok (v + 2 ^ (8 * b.size) * w, s2)

/-- The values of rows, read by the present command in one act. -/
def State.readRows (s : State) (r : SeatRef) (e : EngineId) : List (List Blk) → Except EngStop (List Nat × State)
  | [] => .ok ([], s)
  | b :: l =>
    match s.readSpan r e (s.curIndex r e) b with
    | .error x => .error x
    | .ok (v, s1) =>
      match s1.readRows r e l with
      | .error x => .error x
      | .ok (vs, s2) => .ok (v :: vs, s2)

/-- Rows checked for a right and read. -/
def State.loadRows (s : State) (r : SeatRef) (e : EngineId) (skew own : Bool) (n : Nat) (addrs : List Word) :
    Except EngStop (List Nat × State) :=
  match s.rowsCheck r e .rd skew false own n addrs with
  | .error x => .error x
  | .ok (rows, s1) => s1.readRows r e rows

/-- Rows checked for a right, to be read one by one (R163, R260). -/
def State.rowsToRead (s : State) (r : SeatRef) (e : EngineId) (skew own : Bool) (n : Nat) (addrs : List Word) :
    Except EngStop (List RowSrc × State) :=
  match s.rowsCheck r e .rd skew false own n addrs with
  | .error x => .error x
  | .ok (rows, s1) => .ok (rows.map .row, s1)

/-- The values that stand before the first row to be read, and the rest. -/
def splitRows : List RowSrc → List Nat × List RowSrc
  | .value v :: l => let x := splitRows l; (v :: x.1, x.2)
  | l => ([], l)

/-- Row addresses: base + i × pitch. -/
def rowAddrs (base : Word) (pitch n : Nat) : List Word := (List.range n).map fun i => base + BitVec.ofNat 64 (i * pitch)

/-- The path latency a command's blocks add (R166, R204): none in the own slice. -/
def State.pathLatency (s : State) (core : Fin 904) (bs : List Blk) : Nat :=
  bs.foldr (fun b m => if pathLen (standOf core) b.place.home = 0 then m else max m (s.latency (standOf core) b.place true)) 0

/-- A write of an engine leaves its core (R251). -/
def State.engSend (s : State) (core : Fin 904) (src : Source) (k : WKind) (p : Place) (n : Nat) (data : VData) (sync : Option Nat)
    (bad : Bool) : State :=
  State.bump { s with flights := s.flights ++
    [{ id := s.seq, ent := s.seq, src := src, kind := k, place := p, size := n, data := data, stage := 0,
       last := pathLen (standOf core) p.home, conj := 0, sync := sync, bad := bad, issued := s.core[core].cycle,
       born := s.core[core].cycle, beats := 0, rels := [] }] }

/-- A store of a matrix command: performed at once in the own slice, else sent. -/
def State.engStore (s : State) (core : Fin 904) (src : Source) (p : Place) (n data : Nat) : State :=
  if pathLen (standOf core) p.home = 0 then s.performWrite src .store p n data false false
  else s.engSend core src .store p n (BitVec.ofNat 2048 data) none false

/-- The successive n-byte pieces of a value stored to the places of `l`, in order. -/
def State.engStores (s : State) (core : Fin 904) (src : Source) : Nat → List (Place × Nat) → State
  | _, [] => s
  | v, (p, n) :: l => (s.engStore core src p n (v % 2 ^ (8 * n))).engStores core src (v / 2 ^ (8 * n)) l

/-- The source that the writes of a command carry. -/
def Cmd.source (c : Cmd) (r : SeatRef) (e : EngineId) : Source := .engine r.core e r.seat c.acc

/-- The command on a queue entry: its launch word decoded (R277). -/
def Cmd.instr (c : Cmd) (e : EngineId) : Option Instr := decodeEngine e (c.opc.val * 2 ^ 10 + c.opnd.toNat) 0

/-- Whether the system core maps a missing page (then the command waits), or cannot (then PAGE is raised): FREE (R212,
R289; log 14). -/
def State.pageGivenUp (s : State) : Bool := Config.osChoice s.tick 0 ≠ 0

/-- A command that did not start, or stopped: it holds the head of its queue (R289); a missing page is awaited or raises
PAGE; a seat that already stands Faulted takes the fault when it is resumed (log 21). -/
def State.engHold (s : State) (r : SeatRef) (e : EngineId) (i : Nat) (x : EngStop) : State :=
  let hold (s : State) (f : Flt) : State :=
    if (s.getSeat r).inst.phase = .faulted then s
    else (s.modSeat r fun st => st.modEng e fun c => c.modCmd i fun x => { x with started := false, stuck := true }).engineFault r e f
  match x with
  | .wait => s.modSeat r fun st => st.modEng e fun c => c.modCmd i fun x => { x with sent := if x.sent = 0 then s.seq else x.sent }
  | .fault f s1 => hold s1 f
  | .missing va d s1 => if s.pageGivenUp then hold s1 ⟨.page, d, va, true⟩ else s1

end Sys2Proof.Machine
end

