-- ==== Sys2Proof/Machine/Matrix.lean ====
section
/-!
DEFINITION. The matrix engine (R153 to R156, R162 to R175): its launch words, what a command reads and writes, the checks and
reads of its start, and its effect; the arithmetic of MMA (R86 to R94, R172) and of the drain (R174).
-/
namespace Sys2Proof.Machine

/-! ## Launch words (R165 to R173) -/

/-- MLDT (R166). -/
def execMldt (b : Fin 8) (sideB half : Bool) (s : State) : Res := s.place (.mldt b sideB half) 1 0
/-- MSTT (R166). -/
def execMstt (b : Fin 8) (sideB half : Bool) (s : State) : Res := s.place (.mstt b sideB half) 1 0
/-- MMA pops B (top), then A (R171). -/
def execMma (a : Fin 4) (raw : Bool) (s : State) : Res := s.place (.mma a raw) 2 0
/-- MHAD (R170): the part has the Hadamard unit. -/
def execMhad (b : Fin 8) (z : Fin 4) (s : State) : Res := s.placeIf (decide (z = 0) || partMx s.fuse.part) (.mhad b z) 0 0
/-- MZERO (R169). -/
def execMzero (a : Fin 4) (fp36 : Bool) (s : State) : Res := s.place (.mzero a fp36) 0 0
/-- MDRAIN pops the destination, then the column scale, then the row scale (R173). -/
def execMdrain (g : DrainArgs) (s : State) : Res := s.place (.mdrain g) (1 + g.cs.toNat + g.rs.toNat) 0
/-- MSREC (R168): with on it pops an address; the part has the MX block-scale path. -/
def execMsrec (sideB en : Bool) (s : State) : Res :=
  s.placeIf (!en || partMx s.fuse.part) (.msrec sideB en) en.toNat 0
/-- MGEOM (R165). -/
def execMgeom (a b : Fin 16) (askew bskew : Bool) (s : State) : Res := s.place (.mgeom a b askew bskew) 1 0

/-! ## Geometry (R154, R164) -/

/-- Fields of MATGEOM. -/
def geoFmt (g : Word) (sideB : Bool) : Nat := if sideB then fld g 2 4 else fld g 6 4
def geoPitch (g : Word) (sideB : Bool) : Nat := if sideB then fld g 32 16 else fld g 16 16
def geoSkew (g : Word) (sideB : Bool) : Bool := if sideB then bit g 0 else bit g 1
def geoCPitch (g : Word) : Nat := fld g 48 16

/-- Element width in bits of a geometry format (R82, R154). -/
def elemBits (t : Nat) : Nat := if t = 2 || t = 3 then 16 else if t = 6 || t = 7 then 6 else if t = 8 || t = 9 then 4 else 8

/-- K_step (R171). -/
def kStep (ta tb : Nat) : Nat := if ta = 9 || ta = 14 || tb = 9 || tb = 14 then 64 else 32

/-- Bytes of a row that an MMA reads (R154). -/
def rowBytes (t ks : Nat) : Nat := if t = 14 then 13 else ks * elemBits t / 8

/-- The points of a transform field (R153, R170). -/
def hadSize (z : Fin 4) : Nat := match z with | 0 => 0 | 1 => 16 | 2 => 32 | _ => 64

/-- log2 of a transform's size, 0 for none. -/
def hadLog (z : Fin 4) : Nat := match z with | 0 => 0 | 1 => 4 | 2 => 5 | _ => 6

/-! ## What a command reads and writes (R162) -/

/-- Resources: 0 to 7 operand tiles, 8 to 11 accumulators with their RANGE_RISK bits, 12 MATGEOM, 13 and 14 the scale records,
15 MSTAT's array-side bit, 16 its drain bits, 17 the vector registers. -/
def matReads (i : Instr) (args : List Word) : List Nat :=
  match i with
  | .mldt _ _ _ => [12]
  | .mstt b _ _ => [b.val, 12]
  | .mma a _ => [8 + a.val, 12, 13, 14] ++ (args.filter fun v => decide (v.toNat < 8)).map fun v => v.toNat
  | .mhad b _ => [b.val]
  | .mdrain g => [8 + g.a.val, 12]
  | _ => []

/-- Resources a command writes. -/
def matWrites (i : Instr) : List Nat :=
  match i with
  | .mldt b _ _ => [b.val]
  | .mma a _ => [8 + a.val, 13, 14, 15]
  | .mhad b _ => [b.val]
  | .mzero a _ => [8 + a.val]
  | .mdrain g => [16] ++ (if g.clr then [8 + g.a.val] else []) ++ (if g.vec then [17] else [])
  | .msrec sideB _ => [if sideB then 14 else 13]
  | .mgeom _ _ _ _ => [12]
  | _ => []

/-- Rows of memory as byte ranges in whole 64-byte lines; skewed rows in whole 256-byte rows (R198). -/
def lineRows (base : Word) (pitch rows n : Nat) (skew : Bool) : List (Nat × Nat) :=
  (List.range rows).map fun i =>
    let a := (base + BitVec.ofNat 64 (i * pitch)).toNat
    let z := if skew then 256 else 64
    (a / z * z, (a + n + z - 1) / z * z)

/-- Bytes of an output type (R173). -/
def drainBytes : DrainTy → Nat
  | .fp32 => 4 | .i32 => 4 | .fp16 => 2 | .bf16 => 2 | _ => 1

/-- Memory a command reads, in ranges. -/
def matMemReads (st : Seat) (i : Instr) (args : List Word) : List (Nat × Nat) :=
  let g := st.tile.matgeom
  let ks := kStep (geoFmt g false) (geoFmt g true)
  let op (v : Word) (sideB : Bool) : List (Nat × Nat) :=
    if v.toNat < 8 then [] else lineRows v (geoPitch g sideB) (if sideB then 128 else 64) (rowBytes (geoFmt g sideB) ks) (geoSkew g sideB)
  let sc (w : Word) (rows : Nat) : List (Nat × Nat) := if bit w 7 then [(fld w 8 56 * 256, fld w 8 56 * 256 + 64 * rows)] else []
  match i with
  | .mldt _ b h => lineRows (args.headD 0) (geoPitch g b) (if h then 64 else 128) 64 (geoSkew g b)
  | .mma _ _ => op (args.getD 1 0) false ++ op (args.headD 0) true ++ sc st.tile.srec[0] 64 ++ sc st.tile.srec[1] 128
  | .mdrain d => (if d.cs then lineRows (args.getD 1 0) 0 1 512 false else []) ++
      (if d.rs then lineRows (args.getD (1 + d.cs.toNat) 0) 0 1 256 false else [])
  | _ => []

/-- Memory a command writes, in ranges. -/
def matMemWrites (st : Seat) (i : Instr) (args : List Word) : List (Nat × Nat) :=
  let g := st.tile.matgeom
  match i with
  | .mstt _ b h => lineRows (args.headD 0) (geoPitch g b) (if h then 64 else 128) 64 (geoSkew g b)
  | .mdrain d => if d.vec then [] else lineRows (args.headD 0) (geoCPitch g) 64 (128 * drainBytes d.ty) false
  | _ => []

/-- Two lists of ranges meet. -/
def rangesMeet (a b : List (Nat × Nat)) : Bool := a.any fun x => b.any fun y => decide (x.1 < y.2) && decide (y.1 < x.2)

/-- Two lists share a number. -/
def listsMeet (a b : List Nat) : Bool := a.any fun x => b.contains x

/-- The later command `b` must wait for the unfinished earlier command `a` of its seat (R162). -/
def matConflict (st : Seat) (a b : Cmd) : Bool :=
  match a.instr .matrix, b.instr .matrix with
  | some i, some j =>
    listsMeet (matWrites i) (matReads j b.args ++ matWrites j) || listsMeet (matReads i a.args) (matWrites j) ||
      rangesMeet (matMemWrites st i a.args) (matMemReads st j b.args ++ matMemWrites st j b.args) ||
      rangesMeet (matMemReads st i a.args) (matMemWrites st j b.args)
  | _, _ => true

/-- The load side runs MLDT, MSTT and MDRAIN; the array side the rest (R162). -/
def loadSide (i : Instr) : Bool :=
  match i with
  | .mldt _ _ _ => true
  | .mstt _ _ _ => true
  | .mdrain _ => true
  | _ => false

/-! ## Starts (R163, R165 to R173) -/

/-- What a started command carries to its completion: values it has, rows it has still to read, places to write, core cycles. -/
structure Start where
  data : List Nat
  todo : List RowSrc
  dest : List (Place × Nat)
  cost : Nat
  st   : State
  deriving DecidableEq, Repr

/-- A started command that takes rows `l`. -/
def Start.of (l : List RowSrc) (dest : List (Place × Nat)) (cost : Nat) (s : State) : Start :=
  ⟨(splitRows l).1, (splitRows l).2, dest, cost, s⟩

/-- A fault at a command's start. -/
def startFault (s : State) (f : Flt) : Except EngStop Start := .error (.fault f s)

/-- MMA's checks that concern no memory (R163, R171), in the table's order. -/
def Seat.mmaFault (st : Seat) (a : Fin 4) (raw : Bool) (va vb : Word) : Option Flt :=
  let g := st.tile.matgeom
  let ta := geoFmt g false
  let tb := geoFmt g true
  let tile (v : Word) : BTile := st.tile.b[(Fin.ofNat 8 v.toNat : Fin 8)]
  let isTile (v : Word) : Bool := decide (v.toNat < 8)
  let tagBad (v : Word) (t : Nat) : Bool := isTile v && !raw && (tile v).tag ≠ 0 && decide ((tile v).tag.val ≠ t)
  let had (v : Word) : Fin 4 := if isTile v then (tile v).had else 0
  let acc := st.tile.a[a]
  let fam := geomFamily ta
  let h := hadLog (had va) + hadLog (had vb)
  let ks := kStep ta tb
  if ta = 0 || tb = 0 then some (Flt.mk' .undefOp 9)
  else if tagBad va ta || tagBad vb tb then some (Flt.mk' .tag 0)
  else if (acc.tag ≠ 15 && acc.tag ≠ 0) || (decide (fam = 3) == acc.fp36) then some (Flt.mk' .tag 10)
  else if ks < hadSize (had va) || ks < hadSize (had vb) || (fam ≠ 3 && had va ≠ 0 && had vb ≠ 0) then some (Flt.mk' .undefOp 11)
  else if (acc.hnorm ≠ 0 || acc.budget ≠ 0) && decide (h ≠ acc.hnorm.val) then some (Flt.mk' .tag 12)
  else none

/-- The rows of an MMA operand: a tile's, or memory's at an aligned address of the own slice (R163, R171). -/
def State.mmaRows (s : State) (r : SeatRef) (v : Word) (sideB : Bool) (n rows : Nat) : Except EngStop (List RowSrc × State) :=
  let g := (s.getSeat r).tile.matgeom
  if h : v.toNat < 8 then .ok ((List.range rows).map fun i => .value (lane (s.getSeat r).tile.b[v.toNat].data 512 i), s)
  else if v.toNat % 16 ≠ 0 then .error (.fault (Flt.at' .align 0 v) s)
  else s.rowsToRead r .matrix (geoSkew g sideB) true n (rowAddrs v (geoPitch g sideB) rows)

/-- The block scales of a side: the bytes of column INDEX of its scale tile, or unit scales, also on a part without the block-scale path
(R167, R168, R172). -/
def State.mmaScales (s : State) (r : SeatRef) (rec : Word) (rows : Nat) : Except EngStop (List RowSrc × State) :=
  if bit rec 7 && partMx s.fuse.part then
    s.rowsToRead r .matrix false true 1 ((List.range rows).map fun i => BitVec.ofNat 64 (fld rec 8 56 * 256 + 64 * i + fld rec 0 6))
  else .ok (List.replicate rows (.value 127), s)

/-- The start of an MMA (R171, R172). -/
def State.startMma (s : State) (r : SeatRef) (a : Fin 4) (raw : Bool) (args : List Word) : Except EngStop Start :=
  let st := s.getSeat r
  let g := st.tile.matgeom
  let vb := args.headD 0
  let va := args.getD 1 0
  match st.mmaFault a raw va vb with
  | some f => startFault s f
  | none =>
    let ks := kStep (geoFmt g false) (geoFmt g true)
    match s.mmaRows r va false (rowBytes (geoFmt g false) ks) 64 with
    | .error x => .error x
    | .ok (ra, s1) =>
      match s1.mmaRows r vb true (rowBytes (geoFmt g true) ks) 128 with
      | .error x => .error x
      | .ok (rb, s2) =>
        if geomFamily (geoFmt g false) ≠ 2 then .ok (.of (ra ++ rb) [] 32 s2)
        else match s2.mmaScales r st.tile.srec[0] 64 with
          | .error x => .error x
          | .ok (sa, s3) =>
            match s3.mmaScales r st.tile.srec[1] 128 with
            | .error x => .error x
            | .ok (sb, s4) => .ok (.of (ra ++ rb ++ sa ++ sb) [] 32 s4)

/-- The FP32 scales of a drain at an aligned address, or ones (R173). -/
def State.drainScales (s : State) (r : SeatRef) (on : Bool) (a : Word) (n : Nat) : Except EngStop (List RowSrc × State) :=
  if !on then .ok (List.replicate n (.value 0x3F800000), s)
  else if a.toNat % 4 ≠ 0 then .error (.fault (Flt.at' .align 0 a) s)
  else s.rowsToRead r .matrix false false 4 (rowAddrs a 4 n)

/-- The start of an MDRAIN (R173): data are the 64 row scales, then the 128 column scales. DESIGN CHOICE (log 54): the bits of a vec
destination are checked here, at the start (R163), not at placement (R279). -/
def State.startDrain (s : State) (r : SeatRef) (g : DrainArgs) (args : List Word) : Except EngStop Start :=
  let d := args.headD 0
  let scaled := if g.rs || g.cs then 4 else 0
  match s.drainScales r g.cs (args.getD 1 0) 128 with
  | .error x => .error x
  | .ok (cs, s1) =>
    match s1.drainScales r g.rs (args.getD (1 + g.cs.toNat) 0) 64 with
    | .error x => .error x
    | .ok (rs, s2) =>
      if g.vec then
        if d &&& ~~~0x3F0F ≠ 0 then startFault s (Flt.mk' .undefOp 0) else .ok (.of (rs ++ cs) [] 2 s2)
      else if d.toNat % 16 ≠ 0 then startFault s (Flt.at' .align 0 d)
      else match s2.rowsCheck r .matrix .wr false true false (128 * drainBytes g.ty)
          (rowAddrs d (geoCPitch (s.getSeat r).tile.matgeom) 64) with
        | .error x => .error x
        | .ok (rows, s3) => .ok (.of (rs ++ cs) (rows.flatten.map fun b => (b.place, b.size)) (64 + scaled) s3)

/-- The start of a matrix command: its checks and the rows it reads (R163), and its core cycles (R175). -/
def State.matrixStart (s : State) (r : SeatRef) (i : Instr) (args : List Word) : Except EngStop Start :=
  let g := (s.getSeat r).tile.matgeom
  let x := args.headD 0
  match i with
  | .mgeom _ _ _ _ =>
    if fld x 0 16 % 16 ≠ 0 || fld x 16 16 % 16 ≠ 0 || fld x 32 16 % 16 ≠ 0 then startFault s (Flt.mk' .align 0) else .ok ⟨[], [], [], 1, s⟩
  | .msrec b on =>
    if !on then .ok ⟨[], [], [], 1, s⟩
    else if x.toNat % 256 ≠ 0 then startFault s (Flt.at' .align 0 x)
    else match s.rowsCheck r .matrix .rd false false true 64 (rowAddrs x 64 (if b then 128 else 64)) with
      | .error e => .error e
      | .ok (_, s1) => .ok ⟨[], [], [], 1, s1⟩
  | .mhad _ _ => .ok ⟨[], [], [], 1, s⟩
  | .mzero _ _ => .ok ⟨[], [], [], 4, s⟩
  | .mldt _ b h =>
    if x.toNat % 16 ≠ 0 then startFault s (Flt.at' .align 0 x)
    else match s.rowsCheck r .matrix .rd (geoSkew g b) false false 64 (rowAddrs x (geoPitch g b) (if h then 64 else 128)) with
      | .error e => .error e
      | .ok (rows, s1) =>
        .ok (.of (rows.map .row) [] ((if h then 16 else 32) + s.pathLatency r.core rows.flatten) s1)
  | .mstt _ b h =>
    if x.toNat % 16 ≠ 0 then startFault s (Flt.at' .align 0 x)
    else match s.rowsCheck r .matrix .wr (geoSkew g b) true false 64 (rowAddrs x (geoPitch g b) (if h then 64 else 128)) with
      | .error e => .error e
      | .ok (rows, s1) =>
        .ok ⟨[], [], rows.flatten.map fun b => (b.place, b.size), (if h then 16 else 32) + s.pathLatency r.core rows.flatten, s1⟩
  | .mma a raw => s.startMma r a raw args
  | .mdrain d => s.startDrain r d args
  | _ => .ok ⟨[], [], [], 0, s⟩

/-! ## The arithmetic of MMA (R86 to R94, R172) -/

/-- The element format of a geometry code. -/
def geoElem (t : Nat) : Fmt := match t with | 2 => fp16 | 3 => bf16 | 4 => e4m3 | 5 => e5m2 | 6 => e2m3 | 7 => e3m2 | _ => e2m1

/-- The entry shift of an MX format (R90). -/
def entryShift (t : Nat) : Nat := match t with | 6 => 3 | 7 => 4 | 8 => 1 | _ => 0

/-- The entry maximum of a format (R90). -/
def entryMax (t : Nat) : Nat := match t with | 10 => 128 | 9 => 8 | 14 => 1 | 6 => 60 | 7 => 448 | 8 => 12 | _ => 0

/-- The cell integers of the first `ks` elements of a row, integer and MX families (R90, R96). -/
def rowEntries (t ks row : Nat) : List Int :=
  (List.range ks).map fun k =>
    if t = 14 then t5Weight (row / 2 ^ (8 * (k / 5)) % 256) (k % 5)
    else
      let v := row / 2 ^ (elemBits t * k) % 2 ^ elemBits t
      if t = 9 || t = 10 then toSigned (elemBits t) v
      else match (geoElem t).dec false v with
        | .fin neg m e _ => (if neg then -1 else 1) * (m * 2 ^ (e + entryShift t).toNat : Nat)
        | _ => 0

/-- A T5 row holds an illegal byte (R97, R172). -/
def t5Bad (t row : Nat) : Bool := t = 14 && (List.range 13).any fun j => decide (243 ≤ row / 2 ^ (8 * j) % 256)

/-- Transform (R172): aligned blocks of n elements along K. -/
def transform (n : Nat) (x : List Int) : List Int :=
  if n = 0 then x
  else
    (List.range x.length).map fun k =>
      (List.range n).foldl (fun s l =>
        let v := x.getD (k / n * n + l) 0
        if popCount 6 ((k % n) &&& l) % 2 = 0 then s + v else s - v) 0

/-- An aligned group of floating elements (R91): exponent, mantissas, and the values for R93. -/
structure Group where
  exp  : Int
  mant : List Int
  vals : List FVal
  deriving DecidableEq, Repr, Inhabited

/-- The exponent ex[j] of a finite nonzero element (R91). -/
def elemExp (t : Nat) (v : FVal) : Option Int :=
  match v with
  | .fin _ m e _ => if m = 0 then none else some (e + (geoElem t).frac)
  | _ => none

/-- Align (R91) on the first 32 elements of a row. -/
def alignRow (t row : Nat) : Group :=
  let f := geoElem t
  let vals := (List.range 32).map fun k => f.dec false (row / 2 ^ (elemBits t * k) % 2 ^ elemBits t)
  let exps := vals.filterMap (elemExp t)
  let e : Int := match exps with | [] => 0 | x :: r => r.foldl max x
  { exp := e, vals := vals,
    mant := vals.map fun v => match v with
      | .fin neg m _ _ =>
        match elemExp t v with
        | none => 0
        | some ex =>
          if 11 < e - ex then 0
          else
            let q : Int := ((roundShift .rn false (m * 2 ^ (10 - f.frac)) (e - ex).toNat).1 : Nat)
            if neg then -q else q
      | _ => 0 }

/-- Sum of products. -/
def dotInt (a b : List Int) : Int := (a.zip b).foldl (fun s p => s + p.1 * p.2) 0

/-- The special result of a group, if R93 gives one: NaN, or an infinity. -/
def groupSpecial (a b : List FVal) : Option FVal :=
  let nan := a.contains .nan || b.contains .nan
  let ps := (a.zip b).map fun p => p.1.mul p.2
  if nan || ps.contains .invalid || (ps.contains (.inf true) && ps.contains (.inf false)) then some .nan
  else if ps.contains (.inf true) then some (.inf true)
  else if ps.contains (.inf false) then some (.inf false)
  else none

/-- An FP36 pattern without −0 (R94). -/
def noNegZero (v : Nat) : Nat := if v = 2 ^ 35 then 0 else v

/-- term := RoundNE(P × 2^X, fp36) (R92, R94). -/
def fpTerm (p x : Int) : Nat :=
  if p = 0 then 0 else noNegZero (fp36.round .rn false (.fin (decide (p < 0)) p.natAbs x false)).1

/-- acc := RoundNE(acc + term, fp36) (R92, R94). -/
def fpAdd36 (acc term : Nat) : Nat := noNegZero (fp36.round .rn false ((fp36.dec false acc).add false (fp36.dec false term))).1

/-- The cells after an MMA of the float family (R172). -/
def mmaFloat (ta tb : Nat) (za zb : Nat) (ra rb : List Nat) (cells : BitVec 294912) : BitVec 294912 :=
  let ga := (ra.map fun r => let g := alignRow ta r; { g with mant := transform za g.mant }).toArray
  let gb := (rb.map fun r => let g := alignRow tb r; { g with mant := transform zb g.mant }).toArray
  BitVec.ofNat _ (tabulate 36 (fun i =>
    let a := ga[i / 128]!
    let b := gb[i % 128]!
    let term := match groupSpecial a.vals b.vals with
      | some v => (fp36.round .rn false v).1
      | none => fpTerm (dotInt a.mant b.mant) (a.exp + b.exp - 20)
    fpAdd36 (lane cells 36 i) term) 8192 0)

/-- The cells after an MMA of the MX family (R92, R93, R172). -/
def mmaMx (ta tb : Nat) (za zb : Nat) (ra rb sa sb : List Nat) (cells : BitVec 294912) : BitVec 294912 :=
  let ga := (ra.map fun r => transform za (rowEntries ta 32 r)).toArray
  let gb := (rb.map fun r => transform zb (rowEntries tb 32 r)).toArray
  let ea := sa.toArray
  let eb := sb.toArray
  BitVec.ofNat _ (tabulate 36 (fun i =>
    let x := ea[i / 128]!
    let y := eb[i % 128]!
    let term :=
      if x = 255 || y = 255 then fp36.qnan
      else fpTerm (dotInt ga[i / 128]! gb[i % 128]!) ((x : Int) + y - 254 - entryShift ta - entryShift tb)
    fpAdd36 (lane cells 36 i) term) 8192 0)

/-- The cells after an MMA of the integer family (R172). -/
def mmaInt (ta tb ks : Nat) (za zb : Nat) (ra rb : List Nat) (cells : BitVec 294912) : BitVec 294912 :=
  let ga := (ra.map fun r => transform za (rowEntries ta ks r)).toArray
  let gb := (rb.map fun r => transform zb (rowEntries tb ks r)).toArray
  BitVec.ofNat _ (tabulate 36 (fun i => rnsAdd (lane cells 36 i) (toRns (dotInt ga[i / 128]! gb[i % 128]!))) 8192 0)

/-- The transform field of an operand: an address carries none (R171). -/
def Seat.operandHad (st : Seat) (v : Word) : Fin 4 := if h : v.toNat < 8 then st.tile.b[v.toNat].had else 0

/-- INDEX of a scale record with EN set moves on (R172). -/
def nextIndex (w : Word) : Word := if bit w 7 then putFld w 0 6 (fld w 0 6 + 1) else w

/-- The effect of an MMA (R172) on the rows and scales read at its start. -/
def Seat.doMma (st : Seat) (a : Fin 4) (args : List Word) (data : List Nat) : Seat :=
  let g := st.tile.matgeom
  let ta := geoFmt g false
  let tb := geoFmt g true
  let ks := kStep ta tb
  let ha := st.operandHad (args.getD 1 0)
  let hb := st.operandHad (args.headD 0)
  let ra := data.take 64
  let rb := (data.drop 64).take 128
  let acc := st.tile.a[a]
  let fam := geomFamily ta
  let cells :=
    if fam = 1 then mmaFloat ta tb (hadSize ha) (hadSize hb) ra rb acc.data
    else if fam = 2 then mmaMx ta tb (hadSize ha) (hadSize hb) ra rb ((data.drop 192).take 64) (data.drop 256) acc.data
    else mmaInt ta tb ks (hadSize ha) (hadSize hb) ra rb acc.data
  let grow := ks * entryMax ta * max 1 (hadSize ha) * (entryMax tb * max 1 (hadSize hb))
  let budget := if fam = 3 then min (acc.budget.toNat + grow) (2 ^ 64 - 1) else acc.budget.toNat
  let risk : Word := if fam = 3 && 34326190079 < budget then (1 : Word) <<< a.val else 0
  let bad : Word := if ra.any (t5Bad ta) || rb.any (t5Bad tb) then 128 else 0
  let srec := if fam = 2 then st.tile.srec.map nextIndex else st.tile.srec
  { st with tile := { st.tile with
      a := st.tile.a.set a { acc with data := cells, tag := 15, hnorm := Fin.ofNat 16 (hadLog ha + hadLog hb), budget := BitVec.ofNat 64 budget },
      mstat := st.tile.mstat ||| risk ||| bad,
      srec := srec } }

/-! ## The drain (R174) -/

/-- 2^(−HNORM/2), rounded to FP32 when HNORM is odd. -/
def hnormFactor (h : Nat) : FVal :=
  if h % 2 = 0 then .fin false 1 (-((h / 2 : Nat) : Int)) false
  else fp32.dec false (fp32.round .rn false (FVal.rsqrt 1 h)).1

/-- Flags of a drained value, as bits of MSTAT: NX 64, OF 32, NV 16. -/
def drainFloat (f : Fmt) (y : FVal) : Nat × Word :=
  let r := f.round .rn false y
  let sat := match y with | .inf _ => f.spec ≠ .ieee | _ => false
  let fl : Word := (if r.2 &&& fNX ≠ 0 || sat then 64 else 0) ||| (if r.2 &&& fOF ≠ 0 || sat then 32 else 0)
  (if r.1 % 2 ^ (f.width - 1) = 0 then 0 else r.1, fl)

/-- A drained value as an integer of w bits. -/
def drainInt (w : Nat) (y : FVal) : Nat × Word :=
  let lo : Int := -((2 ^ (w - 1) : Nat) : Int)
  let hi : Int := ((2 ^ (w - 1) : Nat) : Int) - 1
  match y with
  | .nan => (0, 80)
  | .invalid => (0, 80)
  | .inf neg => (ofSigned w (if neg then lo else hi), 112)
  | .fin _ _ _ _ =>
    let r := FVal.toIntRange .rn lo hi y
    (ofSigned w r.1, (if r.2 &&& fNV ≠ 0 then 96 else if r.2 &&& fNX ≠ 0 then 64 else 0))

/-- One output of a drain and its flags. -/
def drainOut (ty : DrainTy) (y : FVal) : Nat × Word :=
  match ty with
  | .fp32 => drainFloat fp32 y
  | .fp16 => drainFloat fp16 y
  | .bf16 => drainFloat bf16 y
  | .e4m3 => drainFloat e4m3 y
  | .e5m2 => drainFloat e5m2 y
  | .i8 => drainInt 8 y
  | .i32 => drainInt 32 y

/-- The value of a cell (R174). -/
def ATile.cell (t : ATile) (i : Nat) : FVal :=
  if t.fp36 then Sys2Proof.Machine.fp36.dec false (lane t.data 36 i) else FVal.ofInt (crt36 (lane t.data 36 i))

/-- Row i of a drain: its bytes and flags. -/
def drainRow (t : ATile) (ty : DrainTy) (rs : List Nat) (cs : List Nat) (i : Nat) : Nat × Word :=
  let hn := hnormFactor t.hnorm.val
  let r := fp32.dec false (rs.getD i 0)
  let outs := cs.zipIdx.map fun c => drainOut ty ((((t.cell (128 * i + c.2)).mul r).mul (fp32.dec false c.1)).mul hn)
  (packLanes (8 * drainBytes ty) (outs.map fun o => o.1), outs.foldl (fun f o => f ||| o.2) 0)

/-- Tag of an output type (R98). -/
def drainTag : DrainTy → Fin 16
  | .fp32 => 1 | .fp16 => 2 | .bf16 => 3 | .e4m3 => 4 | .e5m2 => 5 | .i8 => 10 | .i32 => 12

/-- An accumulator zeroed in a mode (R169). -/
def Seat.zeroAcc (st : Seat) (a : Fin 4) (fp36 : Bool) : Seat :=
  { st with tile := { st.tile with a := st.tile.a.set a ⟨0, 15, fp36, 0, 0⟩, mstat := st.tile.mstat &&& ~~~((1 : Word) <<< a.val) } }

/-- A row drained to vector register n, with its tag; a result of C that reaches the register in the same core cycle is written last
(R126, R173). -/
def Seat.drainTo (st : Seat) (n : Fin 32) (v : VData) (tag : Fin 16) : Seat :=
  let st1 := { st with vec := { st.vec with v := st.vec.v.set n v, tag := st.vec.tag.set n tag } }
  st.c.landed.foldl (fun t w => match w with | .vreg m _ _ _ => if m = n then t.land 0 w else t | _ => t) st1

/-- The effect of an MDRAIN (R173, R174). -/
def State.doDrain (s : State) (r : SeatRef) (g : DrainArgs) (c : Cmd) : State :=
  let st := s.getSeat r
  let t := st.tile.a[g.a]
  let rs := c.data.take 64
  let cs := c.data.drop 64
  let d := c.args.headD 0
  let rows := if g.vec then [drainRow t g.ty rs cs (fld d 8 6)] else (List.range 64).map (drainRow t g.ty rs cs)
  let flags : Word := rows.foldl (fun f o => f ||| o.2) 0
  let s1 :=
    if g.vec then s.modSeat r fun st => st.drainTo (Fin.ofNat 32 (fld d 0 5)) (BitVec.ofNat 2048 (rows.headD (0, 0)).1) (drainTag g.ty)
    else s.engStores r.core (c.source r .matrix) (packLanes (1024 * drainBytes g.ty) (rows.map fun o => o.1)) c.dest
  s1.modSeat r fun st =>
    let st := { st with tile := { st.tile with mstat := st.tile.mstat ||| flags } }
    if g.clr then st.zeroAcc g.a t.fp36 else st

/-! ## Effects -/

/-- Rows put into a tile from row 0 on; the other rows stay (R166). -/
def setRows (d : BitVec 65536) (rows : List Nat) : BitVec 65536 :=
  let n := 512 * rows.length
  BitVec.ofNat _ (d.toNat / 2 ^ n * 2 ^ n + packLanes 512 rows)

/-- The effect of a matrix command at its completion. -/
def State.matrixDo (s : State) (r : SeatRef) (i : Instr) (c : Cmd) : State :=
  let g := (s.getSeat r).tile.matgeom
  let x := c.args.headD 0
  match i with
  | .mgeom ta tb sa sb =>
    s.modSeat r fun st => { st with tile := { st.tile with
      matgeom := BitVec.ofNat 64 (fld x 0 48 * 2 ^ 16 + ta.val * 2 ^ 6 + tb.val * 2 ^ 2 + sa.toNat * 2 + sb.toNat) } }
  | .msrec b on =>
    s.modSeat r fun st => { st with tile := { st.tile with
      srec := vmod st.tile.srec (if b then 1 else 0) fun w => if on then (x &&& ~~~0xFF) ||| 0x80 else w &&& ~~~0xFF } }
  | .mhad b z => s.modSeat r fun st => { st with tile := { st.tile with b := vmod st.tile.b b fun t => { t with had := z } } }
  | .mzero a m => s.modSeat r fun st => st.zeroAcc a m
  | .mldt b side _ =>
    s.modSeat r fun st => { st with tile := { st.tile with
      b := vmod st.tile.b b fun t => ⟨setRows t.data c.data, Fin.ofNat 16 (geoFmt g side), 0⟩ } }
  | .mstt b _ _ => s.engStores r.core (c.source r .matrix) (s.getSeat r).tile.b[b].data.toNat c.dest
  | .mma a _ => s.modSeat r fun st => st.doMma a c.args c.data
  | .mdrain d => s.doDrain r d c
  | _ => s

end Sys2Proof.Machine
end

