-- ==== Sys2Proof/Machine/Copy.lean ====
section
/-!
DEFINITION. The copy engine (R290 to R297, R411): its launch words, the checks of a command's start, and the moving of its
pieces.
-/
namespace Sys2Proof.Machine

/-! ## Launch words (R291) -/

/-- COPY (R291). -/
def execCopy (g : CopyArgs) (s : State) : Res := s.place (.copy g) (3 + g.sync.toNat + g.dims.val) 0
/-- CGATH (R291). -/
def execCgath (g : CopyArgs) (s : State) : Res := s.place (.cgath g) (4 + g.sync.toNat) 0
/-- CSCAT (R291). -/
def execCscat (g : CopyArgs) (s : State) : Res := s.place (.cscat g) (4 + g.sync.toNat) 0
/-- CFILL (R291). -/
def execCfill (g : CopyArgs) (s : State) : Res := s.place (.cfill g) (3 + g.sync.toNat) 0
/-- CBCAST (R291). -/
def execCbcast (g : CopyArgs) (s : State) : Res := s.place (.cbcast g) (4 + g.sync.toNat) 0
/-- CREMOTE (R291). -/
def execCremote (g : CopyArgs) (s : State) : Res := s.place (.cremote g) (3 + g.sync.toNat + g.dims.val) 0
/-- CACC (R291). -/
def execCacc (g : CopyArgs) (s : State) : Res := s.place (.cacc g) (3 + g.sync.toNat + g.dims.val) 0

/-! ## The shape of a copy command (R291, R292) -/

/-- Which of the copy words a command is. -/
inductive CopyKind where
  | copy | gather | scatter | fill | bcast | remote | acc
  deriving DecidableEq, Repr

/-- Kind and operand fields of a copy command. -/
def copyKind : Instr → Option (CopyKind × CopyArgs)
  | .copy g => some (.copy, g)
  | .cgath g => some (.gather, g)
  | .cscat g => some (.scatter, g)
  | .cfill g => some (.fill, g)
  | .cbcast g => some (.bcast, g)
  | .cremote g => some (.remote, g)
  | .cacc g => some (.acc, g)
  | _ => none

/-- A dimension word: repeats, source stride, destination stride (R291). -/
structure Dim where
  n  : Nat
  ss : Int
  ds : Int
  deriving DecidableEq, Repr, Inhabited

/-- A copy command laid out: `src` is the source, base or pattern, `dst` the destination or base, `len` the bytes of a run,
`list` the index or target list and `n` its length, `d1` and `d2` the dimensions. -/
structure CopyPlan where
  kind : CopyKind
  sync : Option Word
  src  : Word
  dst  : Word
  len  : Nat
  list : Word
  n    : Nat
  d1   : Dim
  d2   : Dim
  dims : List Word
  op   : Fin 4
  hint : Option (Fin 8)
  deriving DecidableEq, Repr

/-- The fields of a dimension word. -/
def dimOf (w : Option Word) : Dim :=
  match w with
  | none => ⟨1, 0, 0⟩
  | some w => ⟨fld w 48 16, toSigned 24 (fld w 24 24), toSigned 24 (fld w 0 24)⟩

/-- Element size of CGATH and CSCAT (R290). -/
def gatherSize (sub : Fin 4) : Nat := 64 * 4 ^ sub.val

/-- The plan of a command from its popped values, top first (R291). -/
def copyPlan (k : CopyKind) (g : CopyArgs) (args : List Word) : CopyPlan :=
  let sync := if g.sync then args.head? else none
  let a := if g.sync then args.tail else args
  let w (i : Nat) : Word := a.getD i 0
  let base : CopyPlan :=
    { kind := k, sync := sync, src := w 0, dst := w 2, len := (w 1).toNat, list := 0, n := 1, d1 := ⟨1, 0, 0⟩, d2 := ⟨1, 0, 0⟩,
      dims := [], op := g.sub, hint := g.hint }
  match k with
  | .gather => { base with len := gatherSize g.sub, list := w 1, n := (w 2).toNat, dst := w 3 }
  | .scatter => { base with len := gatherSize g.sub, list := w 1, n := (w 2).toNat, dst := w 3 }
  | .fill => base
  | .bcast => { base with list := w 2, n := (w 3).toNat }
  | _ =>
    let dims := (a.drop 3).take g.dims.val
    { base with dims := dims, d1 := dimOf dims[0]?, d2 := dimOf dims[1]? }

/-- The runs of a plan: outer count and inner count. -/
def CopyPlan.runs (p : CopyPlan) : Nat × Nat :=
  match p.kind with
  | .gather => (1, p.n)
  | .scatter => (1, p.n)
  | .bcast => (1, p.n)
  | .fill => (1, 1)
  | _ => (p.d2.n, p.d1.n)

/-- Source and destination of run (i2, i1), from the list read at the start (R292). -/
def CopyPlan.run (p : CopyPlan) (list : List Nat) (i2 i1 : Nat) : Word × Word :=
  let idx : Int := toSigned 64 (list.getD i1 0)
  let at' (w : Word) (d : Int) : Word := w + BitVec.ofInt 64 d
  match p.kind with
  | .gather => (at' p.src (idx * p.len), at' p.dst ((i1 * p.len : Nat) : Int))
  | .scatter => (at' p.src ((i1 * p.len : Nat) : Int), at' p.dst (idx * p.len))
  | .bcast => (p.src, BitVec.ofNat 64 (list.getD i1 0))
  | .fill => (p.src, p.dst)
  | _ => (at' p.src (i1 * p.d1.ss + i2 * p.d2.ss), at' p.dst (i1 * p.d1.ds + i2 * p.d2.ds))

/-- The sync word that run i1's writes count into (R291, R294). -/
def CopyPlan.syncOf (p : CopyPlan) (list : List Nat) (i1 : Nat) : Option Word :=
  match p.kind with
  | .bcast => p.sync.map fun o => BitVec.ofNat 64 (list.getD i1 0) + o
  | _ => p.sync

/-- Element size of a CACC (R290); 1 for the other words. -/
def CopyPlan.elem (p : CopyPlan) : Nat := if p.kind = .acc then (if p.op = 2 then 2 else 4) else 1

/-- Limits (R291): UNDEF_OP, detail COUNT (50). -/
def CopyPlan.countBad (p : CopyPlan) : Bool :=
  match p.kind with
  | .gather => p.n = 0 || 65536 < p.n
  | .scatter => p.n = 0 || 65536 < p.n
  | .bcast => p.n = 0 || 64 < p.n || 2 ^ 32 ≤ p.len
  | _ => 2 ^ 32 ≤ p.len || p.dims.any fun w => fld w 48 16 = 0

/-- The plan reads a list. -/
def CopyPlan.hasList (p : CopyPlan) : Bool :=
  match p.kind with | .gather => true | .scatter => true | .bcast => true | _ => false

/-! ## Start (R291) -/

/-- The addresses of n bytes at `a` at which a new page or slice can begin. -/
def probes (a : Word) (n : Nat) : List Word :=
  if n = 0 then []
  else (List.range ((a.toNat % 65536 + n - 1) / 65536 + 1)).map fun j =>
    if j = 0 then a else BitVec.ofNat 64 ((a.toNat / 65536 + j) * 65536)

/-- The package an address names, as far as its page is known (R195, R341). -/
def placePkg (p : Place) : Nat := p.home.pkg

/-- A window address lies in the wrong package: with `here` it must lie in the issuing one, else in another (R291). -/
def wrongPkg (here : Bool) (a : Word) : Bool := isWindow a && (windowPlace a.toNat false).isLocal ≠ here

/-- The checks of rights at a list of addresses; a missing page is left to the move (R296). With `pkg` the place must lie in
the issuing package (true) or in another (false), else PERM, detail PACKAGE (49), which R291 names before the rights. -/
def State.probeCheck (s : State) (r : SeatRef) (rt : Right) (write : Bool) (pkg : Option Bool) : List Word → Except EngStop State
  | [] => .ok s
  | a :: l =>
    if pkg.any fun b => wrongPkg b a then .error (.fault (Flt.at' .perm 49 a) s)
    else match s.engCheck r .copy a rt false write with
    | .error (.missing _ _ s1) => s1.probeCheck r rt write pkg l
    | .error x => .error x
    | .ok (p, s1) =>
      if pkg.any fun b => p.isLocal ≠ b then .error (.fault (Flt.at' .perm 49 a) s) else s1.probeCheck r rt write pkg l

/-- The check of a sync word: the package, 16-byte alignment, a window address, the W right (R291, R298). -/
def State.syncCheck (s : State) (r : SeatRef) (e : EngineId) (here : Bool) (a : Word) : Except EngStop State :=
  if wrongPkg here a then .error (.fault (Flt.at' .perm 49 a) s)
  else if a.toNat % 16 ≠ 0 then .error (.fault (Flt.at' .align 0 a) s)
  else if !isWindow a then .error (.fault (Flt.at' .perm 34 a) s)
  else match s.engCheck r e a .wr false true with
    | .error x => .error x
    | .ok (_, s1) => .ok s1

/-- The checks of the sync words of runs i1 on (only CBCAST has several). -/
def State.syncChecks (s : State) (r : SeatRef) (here : Bool) : List (Option Word) → Except EngStop State
  | [] => .ok s
  | none :: l => s.syncChecks r here l
  | some a :: l =>
    match s.syncCheck r .copy here a with
    | .error x => .error x
    | .ok s1 => s1.syncChecks r here l

/-- The checks of the runs of a plan, in order. -/
def State.runChecks (s : State) (r : SeatRef) (p : CopyPlan) : List (Word × Word) → Except EngStop State
  | [] => .ok s
  | (a, d) :: l =>
    if p.kind = .acc && (a.toNat % p.elem ≠ 0 || d.toNat % p.elem ≠ 0) then
      .error (.fault (Flt.at' .align 0 (if d.toNat % p.elem ≠ 0 then d else a)) s)
    else match s.probeCheck r (if p.kind = .acc then .at' else .wr) true (some (decide (p.kind ≠ .remote))) (probes d p.len) with
      | .error x => .error x
      | .ok s1 =>
        match s1.probeCheck r .rd false none (if p.kind = .fill then [] else probes a p.len) with
        | .error x => .error x
        | .ok s2 => s2.runChecks r p l

/-- All runs of a plan. -/
def CopyPlan.allRuns (p : CopyPlan) (list : List Nat) : List (Word × Word) :=
  (List.range p.runs.1).flatMap fun i2 => (List.range p.runs.2).map fun i1 => p.run list i2 i1

/-- The index or target list of a plan, read at the start (R289, R291): in the own slice, 8-byte aligned. -/
def State.readList (s : State) (r : SeatRef) (p : CopyPlan) : Except EngStop (List Nat × State) :=
  if !p.hasList then .ok ([], s)
  else if !inOwn r p.list then .error (.fault (Flt.at' .perm 14 p.list) s)
  else if p.list.toNat % 8 ≠ 0 then .error (.fault (Flt.at' .align 0 p.list) s)
  else s.loadRows r .copy false true 8 (rowAddrs p.list 8 p.n)

/-- The checks and reads of a copy command's start: the list it reads. -/
def State.copyStart (s : State) (r : SeatRef) (p : CopyPlan) : Except EngStop (List Nat × State) :=
  if p.countBad then .error (.fault (Flt.mk' .undefOp 50) s)
  else if p.len % p.elem ≠ 0 then .error (.fault (Flt.mk' .align 0) s)
  else match s.readList r p with
    | .error x => .error x
    | .ok (list, s1) =>
      let syncs := if p.kind = .bcast then (List.range p.n).map (p.syncOf list) else [p.sync]
      match s1.runChecks r p (p.allRuns list) with
      | .error x => .error x
      | .ok s2 =>
        match s2.syncChecks r (decide (p.kind ≠ .remote)) syncs with
        | .error x => .error x
        | .ok s3 => .ok (list, s3)

/-! ## Moving (R292, R293, R296) -/

/-- The command that moves touches a translated page for the first time: the next page is prefetched (R296). -/
def State.copyPrefetch (s : State) (r : SeatRef) (va : Word) : State :=
  if isWindow va then s
  else
    let c := s.core[r.core]
    match c.etlb[(1 : Fin 3)], ((s.getSeat r).getEng .copy).moving with
    | h :: t, some (_, x) =>
      if x.touched.contains h.base then s
      else
        ((s.engWalk r .copy (s.prefetchReads (s.getSeat r).sys.xlatRoot (h :: t) (h.base + h.size))).modCore r.core fun c => { c with
          etlb := c.etlb.set 1 (s.xlatPrefetch (s.getSeat r).sys.xlatRoot (h :: t) 8 (h.base + h.size)) }).modSeat r fun st =>
          st.modCurrent .copy fun y => { y with touched := h.base :: y.touched }
    | _, _ => s

/-- The first m bytes of n that are answered as the first is. -/
def State.evenPrefix (s : State) (p : Place) (n : Nat) : Nat :=
  let one (i : Nat) : Ans := s.answer { p with key := p.key + i } 1 false
  ((List.range n).takeWhile fun i => decide (one i = one 0)).length

/-- The redirects of a hinted command's translated accesses are counted (R24, R203). -/
def State.copyHint (s : State) (r : SeatRef) (h : Option (Fin 8)) (va : Word) (p : Place) : State :=
  match h with
  | some d => if !isWindow va && (p.home.die ≠ d.val || !p.isLocal) then s.modSeat r fun st => st.count 11 none 1 else s
  | none => s

/-- What is read for a piece: bytes, how many, and whether the answer was an error (R292). -/
structure PieceRead where
  data : Nat
  size : Nat
  bad  : Bool
  st   : State
  deriving DecidableEq, Repr

/-- The read of a piece of at most n bytes at `a`. -/
def State.readPiece (s : State) (r : SeatRef) (hint : Option (Fin 8)) (a : Word) (n elem : Nat) : Except EngStop PieceRead :=
  let n := min n (65536 - a.toNat % 65536)
  match s.engCheck r .copy a .rd false false with
  | .error x => .error x
  | .ok (p, s1) =>
    let s2 := (s1.copyPrefetch r a).copyHint r hint a p
    match s.engMeet r .copy (s.curIndex r .copy) p n with
    | .wait => .error .wait
    | .forward f => .ok ⟨(covered f.place f.data p n).toNat, n, false, s2.engForward r .copy (s.curIndex r .copy) f⟩
    | .clear =>
      let m := max elem (s.evenPrefix p n / elem * elem)
      match s.answer p m false with
      | .ok => .ok ⟨s.dataAt p m, m, false, s2.noteCorr (some r) p m⟩
      | _ => .ok ⟨0, m, true, s2.noteBad p m false⟩

/-- The bytes of a fill pattern from byte k on (R292). -/
def fillBytes (pattern : Word) (k n : Nat) : Nat := tabulate 8 (fun j => fld pattern (8 * ((k + j) % 8)) 8) n 0

/-- The seat has a moving command whose start has passed (R296). -/
def State.pieceReady (s : State) (r : SeatRef) : Bool :=
  match ((s.getSeat r).getEng .copy).moving with
  | some (_, c) => decide (c.due ≤ s.core[r.core].live)
  | none => false

/-- The position after m more bytes (R292). -/
def Cmd.forward (c : Cmd) (p : CopyPlan) (m : Nat) : Cmd :=
  if c.k + m < p.len then { c with k := c.k + m }
  else if c.i1 + 1 < p.runs.2 then { c with k := 0, i1 := c.i1 + 1 }
  else if c.i2 + 1 < p.runs.1 then { c with k := 0, i1 := 0, i2 := c.i2 + 1 }
  else { c with k := p.len, moved := true }

/-- CREMOTE's notice for the whole command, after its last write has left (R295). -/
def State.remoteNotice (s : State) (r : SeatRef) (p : CopyPlan) (c : Cmd) : State :=
  match p.kind, p.sync with
  | .remote, some a =>
    { s with arrivals := s.arrivals ++
        [⟨a.toNat, p.len * p.d1.n * p.d2.n, c.source r .copy, if c.attr.rel.isSome then some c.acc else none⟩] }
  | _, _ => s

/-- A command that stops during its move records its progress (R289, R297). -/
def State.copyStop (s : State) (r : SeatRef) (i : Nat) (c : Cmd) (x : EngStop) : State :=
  let note (s : State) : State := s.modSeat r fun st => st.modEng .copy fun e => { e with progress := ⟨true, c.acc, c.i2, c.i1, c.k⟩ }
  match x with
  | .wait => s.engHold r .copy i .wait
  | .fault f s1 => if (s.getSeat r).inst.phase = .faulted then s else s1.engHold r .copy i (.fault f (note s1))
  | .missing va d s1 => if s.pageGivenUp then s.engHold r .copy i (.missing va d (note s1)) else s1

/-- A cut that PREEMPT alone has joined waits for the seat's moving copy to stand at a 256-byte boundary of K (R47, R297): behind a bookmark
of the same cut a started command runs to its end (R390). -/
def State.copyStopping (s : State) (r : SeatRef) : Bool :=
  (match (s.getSeat r).cut.latch with | some l => l.preempt && !l.bookmark | none => false) && ((s.getSeat r).getEng .copy).frozen

/-- One piece of a plan moves (R292, R293, R296). -/
def State.movePiece (s : State) (r : SeatRef) (i : Nat) (c : Cmd) (p : CopyPlan) : State :=
  let a := p.run c.data c.i2 c.i1
  let src := a.1 + BitVec.ofNat 64 c.k
  let dst := a.2 + BitVec.ofNat 64 c.k
  let n := min (p.len - c.k) (min (256 - dst.toNat % 256) (if s.copyStopping r then 256 - c.k % 256 else 256))
  let got : Except EngStop PieceRead :=
    if p.kind = .fill then .ok ⟨fillBytes p.src c.k n, n, false, s⟩ else s.readPiece r p.hint src n p.elem
  match got with
  | .error x => s.copyStop r i c x
  | .ok g =>
    match g.st.engCheck r .copy dst (if p.kind = .acc then .at' else .wr) false true with
    | .error x => s.copyStop r i c x
    | .ok (pl, s1) =>
      if pl.isLocal ≠ decide (p.kind ≠ .remote) then s.copyStop r i c (.fault (Flt.at' .perm 49 dst) s1)
      else
      let k : WKind := if p.kind = .acc then .acc p.op else .store
      let sync := if p.kind = .remote then none else (p.syncOf c.data c.i1).map fun w => w.toNat
      let s2 := ((s1.copyPrefetch r dst).copyHint r p.hint dst pl).engSend r.core (c.source r .copy) k pl g.size
        (BitVec.ofNat 2048 g.data) sync g.bad
      let c' := c.forward p g.size
      let s3 := (s2.modSeat r fun st => st.modEng .copy fun e => e.modCmd i fun y =>
        { c' with sent := 0, fwd := y.fwd, touched := y.touched }).modCore r.core fun x =>
        { x with pieceAt := x.live + 1, served := x.served.set 2 r.seat }
      if c'.moved then s3.remoteNotice r p c else s3

/-- The other seat of a core. -/
def otherSeat (r : SeatRef) : SeatRef := ⟨r.core, if r.seat = 0 then 1 else 0⟩

/-- The seat's moving command moves its next piece now, as far as it can. -/
def State.pieceHere (s : State) (r : SeatRef) : State :=
  match ((s.getSeat r).getEng .copy).moving with
  | none => s
  | some (i, x) =>
    if s.copyStopping r && decide (x.k % 256 = 0) then s
    else match (x.instr .copy).bind copyKind with
      | none => s
      | some (k, g) => s.movePiece r i x (copyPlan k g x.args)

/-- A piece of the seat's moving command can move in this core cycle: nothing holds it (R411). -/
def State.pieceMoves (s : State) (r : SeatRef) : Bool :=
  let c := s.core[r.core]
  s.pieceReady r && decide (c.pieceAt ≠ c.live + 1) && decide ((s.pieceHere r).core[r.core].pieceAt = c.live + 1)

/-- The act `piece`: the copy engine moves the next piece of a seat's moving command; with both seats moving it alternates
(R411). -/
def State.pieceAct (s : State) (core : Fin 904) (seat : Fin 2) : State :=
  let r : SeatRef := ⟨core, seat⟩
  let c := s.core[core]
  if s.engineHeld core || c.pieceAt = c.live + 1 || !s.pieceReady r || (s.pieceMoves (otherSeat r) && c.served[(2 : Fin 4)] = seat) then s
  else s.pieceHere r

end Sys2Proof.Machine
end

