-- ==== Sys2Proof/Machine/Query.lean ====
section
/-!
DEFINITION. Stacks as the query engine reaches them: folios (R235, R236), the query words (R237 to R241), slices and their
records (R242 to R245), appends (R239, R247), status records (R233), and a query's sample (R246).
-/
namespace Sys2Proof.Machine

/-! ## Launch words (R237) -/

/-- AFOLIO. -/
def execAfolio (e4m3 : Bool) (hd : Fin 3) (s : State) : Res := s.placeIf (partAttention s.fuse.part) (.afolio e4m3 hd) 1 0
/-- AAPPEND. -/
def execAappend (s : State) : Res := s.placeIf (partAttention s.fuse.part) .aappend 4 0
/-- AQUERY: the binding of its symbol at placement is kept for the sample (R246). -/
def execAquery (e4m3 : Bool) (hd : Fin 3) (y : Fin 32) (s : State) : Res :=
  s.placeIf (partAttention s.fuse.part) (.aquery e4m3 hd y) 6 s.mySeat.lex[y].b.toNat
/-- ASTAT. -/
def execAstat (s : State) : Res := s.place .astat 2 0

/-! ## Stacks and folios -/

/-- Head dimension of an HD code (R235, R236). -/
def headDim (hd : Nat) : Nat := 64 * 2 ^ hd

/-- Bytes of an element (R235). -/
def elemSize (e4m3 : Bool) : Nat := if e4m3 then 1 else 2

/-- The stack of a place is shut down, or the part lacks it (R228). -/
def State.stackDown (s : State) (p : Place) : Bool :=
  if !p.isLocal then false else s.stackGone (stackOf p.key)

/-- Band of the stack of a place of this package. -/
def State.stackBand (s : State) (p : Place) : Nat :=
  if h : p.isLocal = true ∧ stackOf p.key < 24 then (s.stack[stackOf p.key]'h.2).band.val else 0

/-- The quad of a place of this package is retired (R232). -/
def State.quadRetired (s : State) (p : Place) : Bool :=
  if h : p.isLocal = true ∧ stackOf p.key < 24 then (s.stack[stackOf p.key]'h.2).retired.getLsbD (quadId (physOf p.key % 2 ^ 36)) else false

/-- The size of the page a TLB used last. -/
def pageSize (t : Tlb) : Nat := match t with | [] => 0 | h :: _ => h.size

/-- A folio's check at a command's start (R235): QUERY_FORMAT, detail FOLIO (41). -/
def State.folioCheck (s : State) (r : SeatRef) (va : Word) (rt : Right) : Except EngStop (Place × State) :=
  let bad (s : State) : Except EngStop (Place × State) := .error (.fault (Flt.at' .queryFormat 41 va) s)
  if isWindow va || va.toNat % 2 ^ 17 ≠ 0 then bad s
  else match s.engCheck r .query va rt false (decide (rt ≠ .rd)) with
    | .error x => .error x
    | .ok (p, s1) =>
      if pageSize s1.core[r.core].etlb[(2 : Fin 3)] < 2 ^ 21 || kindOf p.key % 2 ≠ 0 then bad s1 else .ok (p, s1)

/-- A required window address that the seat may write, aligned to `al` (R197, R239 to R241). -/
def State.windowCheck' (s : State) (r : SeatRef) (al : Nat) (a : Word) : Except EngStop State :=
  if a.toNat % al ≠ 0 then .error (.fault (Flt.at' .align 0 a) s)
  else if !isWindow a then .error (.fault (Flt.at' .perm 34 a) s)
  else match s.engCheck r .query a .wr false true with
    | .error x => .error x
    | .ok (_, s1) => .ok s1

/-- The checks of window addresses of a list. -/
def State.windowChecks (s : State) (r : SeatRef) (al : Nat) : List Word → Except EngStop State
  | [] => .ok s
  | a :: l =>
    match s.windowCheck' r al a with
    | .error x => .error x
    | .ok s1 => s1.windowChecks r al l

/-- A source of n bytes in the own slice, 64-byte aligned (R239, R241). -/
def ownFault (r : SeatRef) (a : Word) (n : Nat) : Option Flt :=
  if !inOwn r a then some (Flt.at' .perm 14 a)
  else if a.toNat % 64 ≠ 0 then some (Flt.at' .align 0 a)
  else if !inOwn r (a + BitVec.ofNat 64 (n - 1)) then some (Flt.at' .perm 14 (a + BitVec.ofNat 64 (n - 1)))
  else none

/-! ## Starts -/

/-- A header is valid (R236). -/
def headerValid (h : Nat) : Bool :=
  h % 16 = 10 && h / 2 ^ 7 % 4 < 3 && h / 2 ^ 9 % 128 ≤ 64 && h / 2 ^ 16 = 0 && h / 2 ^ 5 % 4 = 0

/-- The header that AFOLIO writes (R236, R238). -/
def newHeader (e4m3 : Bool) (hd : Nat) : Nat := 10 + e4m3.toNat * 2 ^ 4 + hd * 2 ^ 7

/-- The bytes of a row by a header as it was read (log 46); 64 while no valid header says. -/
def headBytes (h : Nat) : Nat := if headerValid h then headDim (h / 2 ^ 7 % 4) * elemSize (decide (h / 16 % 2 = 1)) else 64

/-- What a started query command carries: values read and the jobs sent to stack controllers. -/
structure QStart where
  data : List Nat
  dest : List (Place × Nat)
  jobs : List CtlJob
  cost : Nat
  st   : State
  deriving DecidableEq, Repr

/-- Core cycles until a command reaches the controller of a folio: L − 4 (R242). -/
def State.pathToFolio (s : State) (core : Fin 904) (p : Place) : Nat := s.latency (standOf core) p false - 4

/-- The slices of the tokens [lo, hi) of a folio: aligned groups of 16 (R242). -/
def slicesOf (lo hi : Nat) : List (Nat × Nat) :=
  (List.range 4).filterMap fun g =>
    let a := max lo (16 * g)
    let b := min hi (16 * g + 16)
    if a < b then some (a, b - a) else none

/-- The folios of a query from list entry i on, `n` of them: their places and slices (R241). -/
def State.queryFolios (s : State) (r : SeatRef) (list : Word) (t0 cnt : Nat) : Nat → Nat →
    Except EngStop (List (Place × Nat × Nat) × State)
  | 0, _ => .ok ([], s)
  | n + 1, i =>
    match s.loadRows r .query false false 8 [list + BitVec.ofNat 64 (8 * i)] with
    | .error x => .error x
    | .ok (v, s1) =>
      match s1.folioCheck r (BitVec.ofNat 64 (v.headD 0)) .rd with
      | .error x => .error x
      | .ok (p, s2) =>
        let lo := max t0 (64 * i) - 64 * i
        let hi := min (t0 + cnt) (64 * i + 64) - 64 * i
        match s2.queryFolios r list t0 cnt n (i + 1) with
        | .error x => .error x
        | .ok (l, s3) => .ok ((slicesOf lo hi).map (fun g => (p, g.1, g.2)) ++ l, s3)

/-- The start of an AQUERY (R241). Arguments, top first: sync word, destination, scale, query, range, list. -/
def State.startQuery (s : State) (r : SeatRef) (hd : Nat) (c : Cmd) : Except EngStop QStart :=
  let a (i : Nat) : Word := c.args.getD i 0
  let t0 := fld (a 4) 0 32
  let n := fld (a 4) 32 32
  let rec' := 64 + 4 * headDim hd
  if 65536 < n || 2 ^ 32 < t0 + n then .error (.fault (Flt.mk' .queryFormat 40) s)
  else match ownFault r (a 3) (4 * headDim hd) with
    | some f => .error (.fault f s)
    | none =>
      match s.windowChecks r 64 [a 1] with
      | .error x => .error x
      | .ok s0 =>
        match s0.windowChecks r 16 (if a 0 = 0 then [] else [a 0]) with
        | .error x => .error x
        | .ok s1 =>
          if (a 5).toNat % 8 ≠ 0 then .error (.fault (Flt.at' .align 0 (a 5)) s)
          else if n = 0 then .ok ⟨[], [], [], 0, s1⟩
          else match s1.loadRows r .query false true 4 (rowAddrs (a 3) 4 (headDim hd)) with
            | .error x => .error x
            | .ok (q, s2) =>
              match s2.queryFolios r (a 5) t0 n ((t0 + n - 1) / 64 - t0 / 64 + 1) (t0 / 64) with
              | .error x => .error x
              | .ok (fs, s3) =>
                let dests := (List.range fs.length).map fun k => a 1 + BitVec.ofNat 64 (k * rec')
                match s3.windowChecks r 64 dests with
                | .error x => .error x
                | .ok s3' =>
                match s3'.windowChecks r 1 (dests.map fun d => d + BitVec.ofNat 64 (rec' - 1)) with
                | .error x => .error x
                | .ok s4 =>
                  .ok { data := q, dest := [], cost := 0, st := s4,
                        jobs := (fs.zip dests).map fun x =>
                          { core := r.core, seat := r.seat, acc := c.acc, append := false, head := none, folio := x.1.1, first := x.1.2.1,
                            len := x.1.2.2, dest := some (windowPlace x.2.toNat false),
                            at' := s.core[r.core].cycle + s.pathToFolio r.core x.1.1, out := none } }

/-- The start of a query command (R237 to R241). -/
def State.queryStart (s : State) (r : SeatRef) (i : Instr) (c : Cmd) : Except EngStop QStart :=
  let a (i : Nat) : Word := c.args.getD i 0
  match i with
  | .afolio e4m3 hd =>
    match s.folioCheck r (a 0) .wr with
    | .error x => .error x
    | .ok (p, s1) =>
      .ok { data := [], dest := [], cost := 0, st := s1,
            jobs := [{ core := r.core, seat := r.seat, acc := c.acc, append := false, head := some (newHeader e4m3 hd.val), folio := p,
                       first := 0, len := 0, dest := none, at' := s.core[r.core].cycle + s.pathToFolio r.core p, out := none }] }
  | .aappend =>
    match (ownFault r (a 2) 64).or (ownFault r (a 1) 64) with
    | some f => .error (.fault f s)
    | none =>
      match s.windowChecks r 8 (if a 0 = 0 then [] else [a 0]) with
      | .error x => .error x
      | .ok s1 =>
        match s1.folioCheck r (a 3) .wr with
        | .error x => .error x
        | .ok (p, s2) =>
          let nb := headBytes (s.dataAt p 8)
          match (ownFault r (a 2) nb).or (ownFault r (a 1) nb) with
          | some f => .error (.fault f s2)
          | none =>
          .ok { data := [], dest := [], cost := 0, st := s2,
                jobs := [{ core := r.core, seat := r.seat, acc := c.acc, append := true, head := none, folio := p, first := 0, len := 0,
                           dest := if a 0 = 0 then none else some (windowPlace (a 0).toNat false),
                           at' := s.core[r.core].cycle + s.pathToFolio r.core p, out := none }] }
  | .astat =>
    if 23 < (a 1).toNat then .error (.fault (Flt.mk' .queryFormat 40) s)
    else match s.windowChecks r 64 [a 0] with
      | .error x => .error x
      | .ok s1 => .ok ⟨[], [(windowPlace (a 0).toNat false, 64)], [], s.latency (standOf r.core)
          { key := physBase, home := ⟨Config.thisPackage, (coreDie r.core).val, none⟩, slot := none, skew := false } false, s1⟩
  | .aquery _ hd _ => s.startQuery r hd.val c
  | _ => .ok ⟨[], [], [], 0, s⟩

/-! ## Slices (R243, R244) -/

/-- FP32 steps of a slice. -/
def f32 (b : Nat) : FVal := fp32.dec false b
def rn32 (v : FVal) : Nat := (fp32.round .rn false v).1
def fma32 (a b c : Nat) : Nat := rn32 (((f32 a).mul (f32 b)).add false (f32 c))
def sub32 (a b : Nat) : Nat := rn32 ((f32 a).add false (f32 b).neg)
def mul32 (a b : Nat) : Nat := rn32 ((f32 a).mul (f32 b))
/-- The greater, NaN if either is (R243). -/
def max32 (a b : Nat) : Nat := if f32 a = .nan || f32 b = .nan then fp32.qnan else fMinMax fp32 true a b

/-- −∞ in FP32. -/
def negInf32 : Nat := 0xFF800000

/-- An element of a row as an FP32 pattern, exact (R243). -/
def rowElem (e4m3' : Bool) (row i : Nat) : Nat :=
  let f := if e4m3' then e4m3 else bf16
  rn32 (f.dec false (row / 2 ^ (f.width * i) % 2 ^ f.width))

/-- One scanned token (R243): query values `q` already scaled, its K and V rows. -/
def SliceAcc.token (x : SliceAcc) (e4m3 : Bool) (q : List Nat) (k v : Nat) : SliceAcc :=
  let sc := q.zipIdx.foldl (fun sc d => fma32 d.1 (rowElem e4m3 k d.2) sc) 0
  let mn := max32 x.m sc
  let a := if x.m = negInf32 then 0 else exp2S (sub32 x.m mn)
  let p := exp2S (sub32 sc mn)
  { m := mn, s := fma32 x.s a p,
    acc := x.acc.zipIdx.map fun d => fma32 p (rowElem e4m3 v d.2) (mul32 d.1 a) }

/-- A place inside a folio. -/
def folioAt (p : Place) (o : Nat) : Place := { p with key := p.key + o }

/-- K and V rows of token t (R235). -/
def kRow (p : Place) (t : Nat) : Place := folioAt p (0x400 + 0x400 * t)
def vRow (p : Place) (t : Nat) : Place := folioAt p (0x600 + 0x400 * t)

/-- An error found by a scan is logged (R230, R231). -/
def State.scanError (s : State) (p : Place) (o : Nat) : State :=
  if p.isLocal then s.modStack (stackOf p.key) fun k => k.logError s.timebase.toNat o true else s

/-- The number that 32-byte data units make, the first at the bottom. -/
def joinUnits : List Nat → Nat
  | [] => 0
  | u :: l => u + 2 ^ 256 * joinUnits l

/-- Data unit k of the K and V rows of a token, each of `u` units. -/
def tokenUnit (p : Place) (t u k : Nat) : Place := if k < u then folioAt (kRow p t) (32 * k) else folioAt (vRow p t) (32 * (k - u))

/-- One data unit as an attention unit reads it: its bytes, or its stack offset when it is in error (R230). -/
def State.readUnit (s : State) (q : Place) : Nat ⊕ Nat :=
  match s.answer q 32 true with
  | .ok => .inl (s.dataAt q 32)
  | _ => .inr (physOf q.key % 2 ^ 36)

/-- The first data unit of a token that is in error: its K row's before its V row's. -/
def unitError : List (Nat ⊕ Nat) → Option Nat
  | [] => none
  | .inr o :: _ => some o
  | .inl _ :: l => unitError l

/-- The data units of a token, those in error as 0. -/
def unitData (l : List (Nat ⊕ Nat)) : List Nat := l.map fun x => x.elim id fun _ => 0

/-- Token t of a slice, its 2·u data units read: it is excluded for a unit in error, or scanned (R243). -/
def SliceScan.token (x : SliceScan) (e4m3 : Bool) (q : List Nat) (u t : Nat) (l : List (Nat ⊕ Nat)) : SliceScan :=
  match unitError l with
  | some o =>
    { x with excl := x.excl + 1, first := if x.first = 255 then t else x.first, bank := if x.first = 255 then bankId o else x.bank }
  | none =>
    { x with acc := x.acc.token e4m3 q (joinUnits ((unitData l).take u)) (joinUnits ((unitData l).drop u)), scanned := x.scanned + 1 }

/-- A slice that has scanned nothing (R243, R244). -/
def SliceScan.empty (hd : Nat) : SliceScan := ⟨⟨negInf32, 0, List.replicate (headDim hd) 0⟩, 0, 0, 255, 0⟩

/-- How a slice begins (R243): its code, and its fill mark when it scans. -/
def State.sliceCode (s : State) (p : Place) (e4m3 : Bool) (hd : Nat) : Nat × Nat :=
  if s.stackDown p then (5, 0)
  else if s.stackBand p = 3 then (1, 0)
  else if s.quadRetired p then (2, 0)
  else match s.answer p 8 true with
    | .ok =>
      let h := s.dataAt p 8
      if !headerValid h || decide (h / 16 % 2 = 1) ≠ e4m3 || h / 2 ^ 7 % 4 ≠ hd then (4, 0) else (0, h / 2 ^ 9 % 128)
    | _ => (3, 0)

/-- The bytes of a record (R244). -/
def recordBytes (x : SliceScan) (code start : Nat) : Nat :=
  let word := code * 2 ^ 56 + x.bank * 2 ^ 46 + x.first * 2 ^ 32 + x.excl * 2 ^ 16 + x.scanned * 2 ^ 8 + start
  x.acc.m + x.acc.s * 2 ^ 32 + word * 2 ^ 64 + packLanes 32 x.acc.acc * 2 ^ 512

/-- The command a job serves. -/
def State.jobCmd (s : State) (j : CtlJob) : Option Cmd :=
  ((s.getSeat ⟨j.core, j.seat⟩).getEng .query).queue.find? fun c => decide (c.acc = j.acc)

/-- Job i may begin: it has reached its controller, and no earlier job of its seat at the same folio is still to begin or at work
there (R237, R239, R242). -/
def State.jobReady (s : State) (i : Nat) (j : CtlJob) : Bool :=
  decide (j.at' ≤ s.core[j.core].cycle) &&
    !((s.jobs.take i).any fun x => decide (x.core = j.core) && decide (x.seat = j.seat) && decide (x.folio.key = j.folio.key) &&
      match x.out with | some (.leaving _ _) => false | _ => true)

/-- What the controller does with job i. -/
def State.setOut (s : State) (i : Nat) (o : JobOut) : State := { s with jobs := s.jobs.modify i fun j => { j with out := some o } }

/-- The attention unit of a folio (R234). -/
def unitOf (p : Place) : Nat := stackOf p.key * 256 + quadId (physOf p.key % 2 ^ 36)

/-- The job's result stands at the controller and goes back from now on (R242). -/
def State.leave (s : State) (i : Nat) (j : CtlJob) (x : Nat) : State := s.setOut i (.leaving s.core[j.core].cycle x)

/-- A write of a query command is performed at its home, and counted into a sync word when one is named (R245, R299). -/
def State.queryWrite (s : State) (j : CtlJob) (p : Place) (n data : Nat) (sync : Option Nat) : State :=
  let src : Source := .engine j.core .query j.seat j.acc
  let ok := s.writeAnswer .store p n false = .ok
  let s1 := s.performWrite src .store p n data false false
  match sync with
  | some k => if ok then { s1 with arrivals := s1.arrivals ++ [⟨k, n, src, none⟩] } else s1
  | none => s1

/-- The ns a slice takes on its unit, none when it occupies no unit (R242). -/
def sliceNs (code : Nat) (x : SliceScan) (rowBytes : Nat) : Option Nat :=
  if code = 0 then some (64 + (x.scanned + x.excl) * (rowBytes / 16 + 8) + 12 * x.excl)
  else if code = 3 || code = 4 then some 64
  else none

/-- An attention unit can begin a slice (R228, R242): no slice runs on it, and its idle time has passed. -/
def State.unitReady (s : State) (u : Nat) : Bool :=
  decide ((assoc u s.unitFree).getD 0 ≤ s.timebase.toNat) &&
    !(s.jobs.any fun j => decide (unitOf j.folio = u) && match j.out with | some (.scanning _ _ _ _ _) => true | _ => false)

/-- Slice i has found all: its record stands when its time has passed since it began; in band 2 the unit then stays idle as long (R228,
R242). -/
def State.endScan (s : State) (i : Nat) (j : CtlJob) (since d rec' : Nat) : State :=
  let idle := if s.stackBand j.folio = 2 then d else 0
  State.setOut { s with unitFree := setAssoc (unitOf j.folio) (since + d + idle) s.unitFree } i (.running (since + d) rec')

/-- The header read of a query job is an acquire at device scope of what the fill advance or another release of the header stands for
(R247, R253). -/
def State.headAcquire (s : State) (j : CtlJob) : State :=
  let r : SeatRef := ⟨j.core, j.seat⟩
  let ids := s.onWay (acquired ⟨r, .K⟩ .device (s.heardAt j.folio 8))
  if ids.isEmpty then s
  else s.modSeat r fun st => st.modEng .query fun c =>
    { c with queue := c.queue.map fun x => if x.acc = j.acc then { x with fwd := s.onWay x.fwd ++ ids } else x }

/-- A slice begins (R228, R242, R243): one that occupies no unit is answered at once; another one has its turn and its unit, and reads its
header. Its tokens in the range below the fill mark are then to be scanned. -/
def State.beginSlice (s : State) (i : Nat) (j : CtlJob) (e4m3 : Bool) (hd : Nat) : State :=
  let now := s.timebase.toNat
  let c := s.sliceCode j.folio e4m3 hd
  let x0 := SliceScan.empty hd
  match sliceNs c.1 x0 (headDim hd * elemSize e4m3) with
  | none => if j.at' ≤ s.core[j.core].cycle then s.leave i j (recordBytes x0 c.1 j.first) else s
  | some d =>
    if !s.jobReady i j || !s.unitReady (unitOf j.folio) then s
    else if c.1 = 3 then (s.noteBad j.folio 8 true).endScan i j now d (recordBytes x0 3 j.first)
    else
      let s1 := (s.noteCorr none j.folio 8).headAcquire j
      if c.1 = 4 then s1.endScan i j now d (recordBytes x0 4 j.first)
      else s1.setOut i (.scanning now j.first (min (j.first + j.len) c.2) [] x0)

/-- A scanning slice reads its next data unit; with the last one of a token it excludes or scans that token, and after the last token its
record is fixed (R230, R243). A stack that shuts down meanwhile answers in place of its unit (R228). -/
def State.scanRow (s : State) (i : Nat) (j : CtlJob) (c : Cmd) (e4m3 : Bool) (hd since next stop : Nat) (units : List (Nat ⊕ Nat))
    (x : SliceScan) : State :=
  let nb := headDim hd * elemSize e4m3
  if s.stackDown j.folio then s.leave i j (recordBytes (.empty hd) 5 j.first)
  else if stop ≤ next then s.endScan i j since ((sliceNs 0 x nb).getD 0) (recordBytes x 0 j.first)
  else
    let q := tokenUnit j.folio next (nb / 32) units.length
    let l := units ++ [s.readUnit q]
    let s1 := s.noteCorr none q 32
    if l.length < 2 * (nb / 32) then s1.setOut i (.scanning since next stop l x)
    else
      let s2 := match unitError l with | some o => s1.scanError j.folio o | none => s1
      let y := x.token e4m3 (c.data.map fun v => mul32 v (fld (c.args.getD 2 0) 0 32)) (nb / 32) next l
      s2.setOut i (.scanning since (next + 1) stop [] y)

/-- ATTENTION_SLICE (R242 to R245): job i, a slice, begins on its unit; once its rows are read and its time has passed its record goes
back, and it is performed at its home. -/
def execAttentionSlice (i : Nat) (s : State) : Res :=
  match s.jobs[i]? with
  | none => .next s
  | some j =>
    if j.append || j.head.isSome then .next s
    else match s.jobCmd j with
      | none => .next { s with jobs := dropAt i s.jobs }
      | some c =>
        match c.instr .query, j.dest with
        | some (.aquery e4m3 hd _), some d =>
          match j.out with
          | none => .next (s.beginSlice i j e4m3 hd.val)
          | some (.running t x) => if t ≤ s.timebase.toNat then .next (s.leave i j x) else .next s
          | some (.leaving t x) =>
            if t + 4 ≤ s.core[j.core].cycle then
              let sync := if c.args.headD 0 = 0 then none else some (c.args.headD 0).toNat
              .next (State.queryWrite { s with jobs := dropAt i s.jobs } j d (64 + 4 * headDim hd.val) x sync)
            else .next s
          | some _ => .next s
        | _, _ => .next { s with jobs := dropAt i s.jobs }

/-! ## Appends (R239) -/

/-- An append at work. -/
def JobOut.isAppend : JobOut → Bool
  | .running _ _ => true
  | .moving _ _ _ _ => true
  | _ => false

/-- No append to the folio of job j is at work at its controller (R238, R239). -/
def State.appendFree (s : State) (j : CtlJob) : Bool :=
  !(s.jobs.any fun x => x.append && decide (x.folio.key = j.folio.key) && match x.out with | some o => o.isAppend | none => false)

/-- A slice reads rows of the folio of job j. -/
def State.folioScanned (s : State) (j : CtlJob) : Bool :=
  s.jobs.any fun x => decide (x.folio.key = j.folio.key) && match x.out with | some (.scanning _ _ _ _ _) => true | _ => false

/-- The result of an append: its status, and the token it wrote. -/
def appendResult (st t : Nat) : Nat := st * 2 ^ 32 + t

/-- An append begins (R230, R239): a stack shut down and a header in error are answered without a source read; otherwise its sources are
read and its rows written, in the 40 ns it takes. -/
def State.beginAppend (s : State) (i : Nat) (j : CtlJob) : State :=
  let u := s.timebase.toNat + 40
  let p := j.folio
  if s.stackDown p then s.setOut i (.running u (appendResult 3 0))
  else match s.answer p 8 true with
    | .ok => (s.noteCorr none p 8).setOut i (.moving u (s.dataAt p 8) [] 0)
    | _ => (s.noteBad p 8 false).setOut i (.running u (appendResult 4 0))

/-- The address of unit i of the sources of an append: of K, then of V, each of u units. -/
def appendSource (k v : Word) (u i : Nat) : Word := if i < u then k + BitVec.ofNat 64 (32 * i) else v + BitVec.ofNat 64 (32 * (i - u))

/-- Every row unit of an append is written; the header it read is valid and not full. -/
def appendWritten (h : Nat) (read : List Nat) (written : Nat) : Bool :=
  headerValid h && decide (h / 2 ^ 9 % 128 < 64) && decide (2 * (headBytes h / 32) ≤ min read.length written)

/-- An append reads its next source unit, or writes its next row unit (R239): a source read in error, or outside the own slice, writes
nothing and gives 4; an invalid header then gives 2, and a full folio 1. Rows are written while no slice reads the folio's rows (R247). -/
def State.appendRow (s : State) (i : Nat) (j : CtlJob) (k v : Word) (u h : Nat) (read : List Nat) (written : Nat) : State :=
  let n := headBytes h / 32
  let t := h / 2 ^ 9 % 128
  if s.stackDown j.folio then s.setOut i (.running u (appendResult 3 0))
  else if read.length < 2 * n then
    let va := appendSource k v n read.length
    let q := windowPlace va.toNat false
    if !inOwn ⟨j.core, j.seat⟩ va then s.setOut i (.running u (appendResult 4 0))
    else match s.answer q 32 false with
      | .ok => (s.noteCorr (some ⟨j.core, j.seat⟩) q 32).setOut i (.moving u h (read ++ [s.dataAt q 32]) written)
      | _ => s.setOut i (.running u (appendResult 4 0))
  else if !headerValid h then s.setOut i (.running u (appendResult 2 0))
  else if t = 64 then s.setOut i (.running u (appendResult 1 0))
  else if 2 * n ≤ written || s.folioScanned j then s
  else (s.performWrite (.engine j.core .query j.seat j.acc) .store (tokenUnit j.folio t n written) 32 (read.getD written 0) false true).setOut i
    (.moving u h read (written + 1))

/-- The fill advance of an append that has written token t (R239, R247): a release at device scope of its rows and of what its command has
acquired. -/
def State.fillAdvance (s : State) (j : CtlJob) (c : Cmd) (t : Nat) : State :=
  let src : Source := .engine j.core .query j.seat j.acc
  let h := s.dataAt j.folio 8
  let s1 := s.performWrite src .store j.folio 8 (h - h / 2 ^ 9 % 128 * 2 ^ 9 + (t + 1) * 2 ^ 9) false true
  let ids := s1.onWay c.fwd
  if ids.isEmpty then s1 else { s1 with carried := s1.carried ++ [(j.folio, 8, ⟨src, .device, ids⟩)] }

/-- What a command has acquired is performed at device scope. -/
def State.fwdDone (s : State) (c : Cmd) : Bool := !(s.flights.any fun f => c.fwd.contains f.id && !f.performedAt .device)

/-- APPEND_AT_CONTROLLER (R239, R247): job i, an append, begins at its folio's controller; after 40 ns, its rows written, it advances the
fill mark; its status goes back and is written. -/
def execAppendAtController (i : Nat) (s : State) : Res :=
  match s.jobs[i]? with
  | none => .next s
  | some j =>
    if !j.append then .next s
    else match s.jobCmd j with
      | none => .next { s with jobs := dropAt i s.jobs }
      | some c =>
        match j.out with
        | none => if s.jobReady i j && s.appendFree j then .next (s.beginAppend i j) else .next s
        | some (.moving t h rd wr) =>
          if t ≤ s.timebase.toNat && appendWritten h rd wr && !s.stackDown j.folio && s.fwdDone c then
            .next ((s.fillAdvance j c (h / 2 ^ 9 % 128)).leave i j (appendResult 0 (h / 2 ^ 9 % 128)))
          else .next s
        | some (.running t x) => if t ≤ s.timebase.toNat then .next (s.leave i j x) else .next s
        | some (.leaving t x) =>
          if t + 4 ≤ s.core[j.core].cycle then
            let s1 := { s with jobs := dropAt i s.jobs }
            match j.dest with
            | none => .next s1
            | some d => .next (s1.queryWrite j d 8 x none)
          else .next s
        | some _ => .next s

/-! ## AFOLIO (R238) and the rows of the jobs -/

/-- An AFOLIO at its controller: it writes the header behind every append already begun there; 4 core cycles later it is answered (R228,
R238, R242). -/
def State.folioJob (s : State) (i : Nat) (j : CtlJob) (h : Nat) : State :=
  match j.out with
  | none =>
    if !s.jobReady i j || !s.appendFree j then s
    else (if s.stackDown j.folio then s
          else s.performWrite (.engine j.core .query j.seat j.acc) .store j.folio 64 h false true).leave i j 0
  | some (.leaving t _) => if t + 4 ≤ s.core[j.core].cycle then { s with jobs := dropAt i s.jobs } else s
  | some _ => s

/-- The act `jobRow` (R238, R239, R243, R260): the controller of job i reads or writes the next data unit of the job's rows, or does its
AFOLIO. -/
def State.jobRowAct (s : State) (i : Nat) : State :=
  match s.jobs[i]? with
  | none => s
  | some j =>
    match s.jobCmd j with
    | none => { s with jobs := dropAt i s.jobs }
    | some c =>
      match j.head, j.out, c.instr .query with
      | some h, _, _ => s.folioJob i j h
      | none, some (.moving u h rd wr), _ => s.appendRow i j (c.args.getD 2 0) (c.args.getD 1 0) u h rd wr
      | none, some (.scanning t n e us x), some (.aquery e4m3 hd _) => s.scanRow i j c e4m3 hd.val t n e us x
      | none, _, _ => s

/-! ## Completions -/

/-- The refresh interval of a band in timebase ns (R228). -/
def refreshNs (band : Nat) : Nat := if band = 0 then 3900 else if band = 1 then 1950 else if band ≤ 3 then 975 else 0

/-- The status record of stack n, doublewords 0 and 1 (R233, R240). -/
def State.stackStatus (s : State) (n : Nat) : Nat :=
  if h : n < 24 ∧ s.stackHere n = true then
    let k := s.stack[n]'h.1
    (ofSigned 8 k.reading * 2 ^ 40 + k.band.val * 2 ^ 36 + (if k.down then 1 else 0) * 2 ^ 32 +
      popCount 256 k.retired.toNat * 2 ^ 16 + k.refi) + (k.ceCount % 2 ^ 32 * 2 ^ 32 + k.ueCount % 2 ^ 32) * 2 ^ 64
  else 2 * 2 ^ 32

/-- A query's sample (R246): its latency from placement, and the cycles past placement + b attributed to its symbol. -/
def State.querySample (s : State) (r : SeatRef) (y : Fin 32) (c : Cmd) : State :=
  let m := s.core[r.core].cycle - c.placedAt
  s.modSeat r fun st =>
    let st := { st with lex := vmod st.lex y fun e => { e with
      frozen := satInc e.frozen (m - c.bind), frozenTotal := e.frozenTotal + (m - c.bind) } }
    st.sample s.core[r.core].lexParam s.core[r.core].cycle y m c.bind

/-- The effect of a query command at its completion (R240, R246). -/
def State.queryDo (s : State) (r : SeatRef) (i : Instr) (c : Cmd) : State :=
  let src := c.source r .query
  match i, c.dest with
  | .astat, (p, n) :: _ => s.performWrite src .store p n (s.stackStatus (c.args.getD 1 0).toNat) false false
  | .aquery _ _ y, _ => s.querySample r y c
  | _, _ => s

/-- A query command may complete: its jobs have ended (R238, R239, R245). -/
def State.queryEnded (s : State) (r : SeatRef) (c : Cmd) : Bool :=
  !(s.jobs.any fun j => decide (j.core = r.core) && decide (j.seat = r.seat) && decide (j.acc = c.acc))

/-- A query command waits while an earlier AFOLIO of its seat is not complete (R237). -/
def EngineCtx.folioAhead (c : EngineCtx) (i : Nat) : Bool :=
  (c.queue.take i).any fun x => match x.instr .query with | some (.afolio _ _) => true | _ => false

end Sys2Proof.Machine
end

