-- ==== Sys2Proof/Machine/Engines.lean ====
section
/-!
DEFINITION. The back ends of the engines: ENGINE_COMMAND_START and ENGINE_COMMAND_COMPLETE (R162, R163, R175, R257, R283, R285,
R289, R411).
-/
namespace Sys2Proof.Machine

/-! ## Which command may start -/

/-- A command occupies its side of the matrix engine (R162). -/
def EngineCtx.onSide (c : EngineCtx) (load : Bool) : Bool :=
  c.queue.any fun x => x.started && !x.moved && match x.instr .matrix with | some i => loadSide i == load | none => false

/-- Writes of the seat's completed matrix commands to the given ranges are still on their way (R162). -/
def State.matrixInFlight (s : State) (r : SeatRef) (l : List (Nat × Nat)) : Bool :=
  ((s.getSeat r).getEng .matrix).drains.any fun x =>
    (s.flights.any fun f => decide (f.src = .engine r.core .matrix r.seat x.1)) && rangesMeet x.2 l

/-- A matrix command waits behind what its seat's earlier commands still read and write, and behind its side (R162). -/
def State.matrixMay (s : State) (r : SeatRef) (i : Nat) (x : Cmd) : Bool :=
  let st := s.getSeat r
  let c := st.getEng .matrix
  let o := (s.getSeat (otherSeat r)).getEng .matrix
  match x.instr .matrix with
  | none => false
  | some j =>
    !((c.queue.take i).any fun a => !a.moved && matConflict st a x) && !c.onSide (loadSide j) && !o.onSide (loadSide j) &&
      !s.matrixInFlight r (matMemReads st j x.args ++ matMemWrites st j x.args)

/-- The head command has moved bytes already: its progress record is kept (R289, R297). -/
def EngineCtx.halfMoved (c : EngineCtx) : Bool :=
  match c.head with
  | some (_, x) => c.progress.valid && decide (c.progress.acc = x.acc)
  | none => false

/-- The queue stands at its first unstarted command (R390); one that has moved bytes is started for a bookmark, and goes on. -/
def Seat.queueStands (st : Seat) (e : EngineId) : Bool :=
  (st.getEng e).frozen &&
    !((st.getEng e).halfMoved && match st.cut.latch with | some l => l.bookmark | none => false)

/-- The next command of a seat is able to start (R162, R285, R289, R390, R411). -/
def State.startable (s : State) (r : SeatRef) (e : EngineId) : Option (Nat × Cmd) :=
  let c := (s.getSeat r).getEng e
  match c.head with
  | none => none
  | some (i, x) =>
    if (s.getSeat r).queueStands e || x.stuck || (x.attr.w && !x.met) then none
    else if (match e with
      | .matrix => s.matrixMay r i x
      | .copy => c.moving.isNone
      | .query => !c.folioAhead i) then some (i, x) else none

/-- The place of an engine's alternation in a core (R162, R411): load side, array side, copy, query. -/
def servedIndex (e : EngineId) (x : Cmd) : Fin 4 :=
  match e with
  | .matrix => match x.instr .matrix with | some i => if loadSide i then 0 else 1 | none => 1
  | .copy => 2
  | .query => 3

/-! ## Starting -/

/-- Command i is started with what its start read; the next command reaches the head of the queue. -/
def State.startCmd (s : State) (r : SeatRef) (e : EngineId) (i : Nat) (f : Cmd → Cmd) : State :=
  let cyc := s.core[r.core].cycle
  s.modSeat r fun st => st.modEng e fun c =>
    { c with queue := ((c.queue.modify i fun x => { f x with started := true, sent := 0 }).modify (i + 1) fun x => { x with headAt := cyc }) }

/-- The start of a matrix command. -/
def State.beginMatrix (s : State) (r : SeatRef) (i : Nat) (x : Cmd) (j : Instr) : State :=
  match s.matrixStart r j x.args with
  | .error e => s.engHold r .matrix i e
  | .ok p => p.st.startCmd r .matrix i fun c => { c with data := p.data, todo := p.todo, dest := p.dest, due := s.core[r.core].live + p.cost }

/-- The act `row` (R163, R260): started command i of a seat reads the next row it takes from memory; an error answer raises POISON, and the
command holds its queue as one that failed at its start. -/
def State.rowAct (s : State) (core : Fin 904) (seat : Fin 2) (i : Nat) : State :=
  let r : SeatRef := ⟨core, seat⟩
  match ((s.getSeat r).getEng .matrix).queue[i]? with
  | none => s
  | some x =>
    if !x.started || x.moved || s.engineHeld core then s
    else match x.todo with
      | .row b :: l =>
        match s.readSpan r .matrix i b with
        | .error e => s.engHold r .matrix i e
        | .ok (v, s1) => s1.modSeat r fun st => st.modEng .matrix fun c => c.modCmd i fun y =>
            { y with data := y.data ++ v :: (splitRows l).1, todo := (splitRows l).2, sent := 0 }
      | _ => s

/-- The start of a copy command, from its progress record when that is its own (R297); a command that has nothing to move has
moved. -/
def State.beginCopy (s : State) (r : SeatRef) (i : Nat) (x : Cmd) (j : Instr) : State :=
  match copyKind j with
  | none => s
  | some (k, g) =>
    let p := copyPlan k g x.args
    match s.copyStart r p with
    | .error e => s.engHold r .copy i e
    | .ok (list, s1) =>
      let pr := ((s.getSeat r).getEng .copy).progress
      let from' := pr.valid && decide (pr.acc = x.acc)
      let s2 := s1.startCmd r .copy i fun c =>
        { c with data := list, due := s.core[r.core].live + 4, moved := decide (p.len = 0),
                 i2 := if from' then pr.i2 else 0, i1 := if from' then pr.i1 else 0, k := if from' then pr.k else 0 }
      if p.len = 0 then s2.remoteNotice r p x else s2

/-- The start of a query command: at most one per core cycle (R411). -/
def State.beginQuery (s : State) (r : SeatRef) (i : Nat) (x : Cmd) (j : Instr) : State :=
  if s.core[r.core].queryAt = s.core[r.core].live + 1 then s
  else match s.queryStart r j x with
    | .error e => s.engHold r .query i e
    | .ok p =>
      let s1 := p.st.startCmd r .query i fun c => { c with data := p.data, dest := p.dest, due := s.core[r.core].live + p.cost }
      State.modCore { s1 with jobs := s1.jobs ++ p.jobs } r.core fun c => { c with queryAt := c.live + 1 }

/-- The start of the command next in a seat's queue. -/
def State.beginCmd (s : State) (r : SeatRef) (e : EngineId) (i : Nat) (x : Cmd) : State :=
  match x.instr e with
  | none => s
  | some j =>
    match e with
    | .matrix => s.beginMatrix r i x j
    | .copy => s.beginCopy r i x j
    | .query => s.beginQuery r i x j

/-- Command i of a seat's queue has started. -/
def State.hasBegun (s : State) (r : SeatRef) (e : EngineId) (i : Nat) : Bool :=
  match ((s.getSeat r).getEng e).queue[i]? with | some c => c.started | none => false

/-- Both seats can start on the same side, nothing holding the other one, and this one was served last (R162, R411). -/
def State.otherFirst (s : State) (r : SeatRef) (e : EngineId) (x : Cmd) : Bool :=
  decide (s.core[r.core].served[servedIndex e x] = r.seat) &&
    match s.startable (otherSeat r) e with
    | some (i, y) => decide (servedIndex e y = servedIndex e x) && (s.beginCmd (otherSeat r) e i y).hasBegun (otherSeat r) e i
    | none => false

/-- ENGINE_COMMAND_START: the head command of a seat's queue is checked and started (R162, R163, R237, R289, R291, R411). -/
def execEngineCommandStart (core : Fin 904) (e : EngineId) (seat : Fin 2) (s : State) : Res :=
  let r : SeatRef := ⟨core, seat⟩
  if s.engineHeld core then .next s
  else match s.startable r e with
    | none => .next s
    | some (i, x) =>
      if s.otherFirst r e x then .next s
      else
        let s1 := s.beginCmd r e i x
        .next (if s1.hasBegun r e i then s1.modCore core fun c => { c with served := c.served.set (servedIndex e x) seat } else s1)

/-! ## Completion -/

/-- Every write of a command, and every write that its release stands for besides, is performed at its scope (R254, R257). -/
def State.engReleased (s : State) (r : SeatRef) (e : EngineId) (x : Cmd) : Bool :=
  match x.attr.rel with
  | none => true
  | some sc => !(s.flights.any fun f => (decide (f.src = x.source r e) || x.fwd.contains f.id) && !f.performedAt sc)

/-- The writes that a command's release stands for and that are still on their way (R253). -/
def State.engRelIds (s : State) (r : SeatRef) (e : EngineId) (x : Cmd) : List Nat :=
  ((s.flights.filter fun f => decide (f.src = x.source r e)).map fun f => f.id) ++ s.onWay x.fwd

/-- A command leaves its queue; a copy's own progress record becomes invalid (R297), and JOIN will take up its release (R257). -/
def EngineCtx.finish (c : EngineCtx) (i : Nat) (x : Cmd) (ids : List Nat) : EngineCtx :=
  { c with queue := dropAt i c.queue, heard := c.heard ++ ids,
           progress := if c.progress.acc = x.acc then { c.progress with valid := false } else c.progress }

/-- A command leaves its queue and signals its flag, with its release (R253, R283). -/
def State.finishCmd (s : State) (r : SeatRef) (e : EngineId) (i : Nat) (x : Cmd) : State :=
  let ids := if x.attr.rel.isSome then s.engRelIds r e x else []
  let s1 := s.modSeat r fun st => st.modEng e fun c => { c with heard := s.onWay c.heard }.finish i x ids
  if x.attr.s then
    s1.modCore r.core fun c =>
      let c1 := c.signalFlag x.attr.sflag x.acc
      match x.attr.rel with
      | some sc => { c1 with flags := vmod c1.flags x.attr.sflag fun f => { f with heard := s.stillHeard f.heard ++ [⟨x.source r e, sc, ids⟩] } }
      | none => c1
  else s1

/-- The work of a started command is done now: its effect takes place (R162, R238, R240, R246). -/
def State.workCmd (s : State) (r : SeatRef) (e : EngineId) (i : Nat) (x : Cmd) : State :=
  let mark (s : State) : State := s.modSeat r fun st => st.modEng e fun c => c.modCmd i fun y => { y with moved := true }
  match e, x.instr e with
  | .matrix, some j =>
    let ranges := matMemWrites (s.getSeat r) j x.args
    mark ((s.matrixDo r j x).modSeat r fun st => st.modEng .matrix fun c =>
      { c with drains := (if ranges.isEmpty then [] else [(x.acc, ranges)]) ++ c.drains.filter fun d =>
          s.flights.any fun f => decide (f.src = .engine r.core .matrix r.seat d.1) })
  | .query, some j => mark (s.queryDo r j x)
  | _, _ => s

/-- The work of a started command can be done: its cycles have passed (R175, R242), its jobs have ended (R245), and its sample
may be counted now (R323); a copy's is
done by its pieces. -/
def State.workDue (s : State) (r : SeatRef) (e : EngineId) (x : Cmd) : Bool :=
  decide (x.due ≤ s.core[r.core].live) && match e with
    | .matrix => x.todo.isEmpty
    | .copy => false
    | .query => s.queryEnded r x && (s.getSeat r).mayCount s.core[r.core].cycle

/-- ENGINE_COMMAND_COMPLETE: command i of a seat's queue does its work, and completes once its release holds (R257, R283). -/
def execEngineCommandComplete (core : Fin 904) (e : EngineId) (seat : Fin 2) (i : Nat) (s : State) : Res :=
  let r : SeatRef := ⟨core, seat⟩
  match ((s.getSeat r).getEng e).queue[i]? with
  | none => .next s
  | some x =>
    if !x.started || s.engineHeld core then .next s
    else
      let s1 := if !x.moved && s.workDue r e x then s.workCmd r e i x else s
      let done := match ((s1.getSeat r).getEng e).queue[i]? with | some y => y.moved | none => false
      .next (if done && s1.engReleased r e x then s1.finishCmd r e i x else s1)

end Sys2Proof.Machine
end

