-- ==== Sys2Proof/Machine/Sync.lean ====
section
/-!
DEFINITION. Sync words (R298): arrival counting (R299), SARM and SWAIT (R300, R301).
-/
namespace Sys2Proof.Machine

/-- A sync word's fields (R298). -/
def syncTarget (w : Nat) : Nat := w % 2 ^ 32
def syncCount (w : Nat) : Nat := w / 2 ^ 32 % 2 ^ 32

/-- R299: `bytes` more bytes, then the generations they complete; the word and how often the generation advanced. -/
def syncAdvance (w bytes : Nat) : Nat × Nat :=
  let target := syncTarget w
  let count := (syncCount w + bytes) % 2 ^ 32
  let adv := if target = 0 then 0 else count / target
  let count' := if target = 0 then count else count % target
  (w / 2 ^ 96 * 2 ^ 96 + (syncGen w + adv) % 2 ^ 32 * 2 ^ 64 + count' * 2 ^ 32 + target, adv)

/-- A SWAIT of stream w ends with generation `gen` observed: d is written, and K writes a wait record (R301, R385). -/
def State.endSwait (s : State) (w : Who) (d : SSpec) (srcs : List SSpec) (since gen : Nat) : State :=
  let s1 := s.as w fun s => ((srcs.foldl State.take s).wr d 1 2 (BitVec.ofNat 64 gen)).retire
  if w.isY then s1
  else s1.waitRecord w.ref.core (some w.ref.seat) 1 0 3 gen (s.core[w.ref.core].cycle - since)

/-- The sync word at a place takes the value `w`, and its generation has advanced `adv` times: with FE its flag is signalled
with the armed accession (R283, R298, R299). -/
def State.setSync (s : State) (p : Place) (w adv : Nat) : State :=
  let s1 := (s.writePlace p 16 w).afterWrite p 16 true false
  match p.home.unit with
  | some u =>
    if h : p.home.die * 112 + u < 904 then
      if 0 < adv && w / 2 ^ 103 % 2 = 1 then
        s1.modCore ⟨p.home.die * 112 + u, h⟩ fun c => c.signalFlag (Fin.ofNat 64 (w / 2 ^ 96)) ((assoc p.key s.armed).getD 0)
      else s1
    else s1
  | none => s1

/-- An arrival is applied at its sync word's home, or dropped when it meets an error answer (R299). -/
def State.applyArrival (s : State) (a : Arrival) : State :=
  let p := windowPlace a.key false
  match s.answer p 16 true with
  | .ok =>
    let r := syncAdvance (s.dataAt p 16) a.bytes
    (s.noteCorr a.src.seat p 16).setSync p r.1 r.2
  | _ => s.dropWrite a.src

/-- Writes of the notice's command are still on their way (R295). -/
def State.noticeHeld (s : State) (a : Arrival) : Bool :=
  match a.after with
  | none => false
  | some _ => s.flights.any fun f => decide (f.src = a.src)

/-- SYNC_ARRIVAL (R299): arrival number i is applied; a notice to another package goes to its port, on the notice channel, or with its
release mark among the posted writes (R295, R319). -/
def execSyncArrival (i : Nat) (s : State) : Res :=
  match s.arrivals[i]? with
  | none => .next s
  | some a =>
    let s1 := { s with arrivals := dropAt i s.arrivals }
    let h := windowHome a.key
    if h.pkg = Config.thisPackage then .next (s1.applyArrival a)
    else if s.noticeHeld a then .next s
    else
      let x := OutFlit.of h.pkg (if a.after.isSome then 2 else 1) none
      match s1.toPort a.src.stand { x with flag := a.after.isSome } with
      | some t => .next t
      | none => .next s

/-! ## SARM -/

/-- The own stream's accesses to the bytes have left the seat, and its core's to the home are performed (R218, R251). -/
def State.drained (s : State) (p : Place) (va : Word) (n : Nat) : Bool :=
  s.atHome (standOf s.turn.ref.core) s.seq p n && !s.mySeat.ownBefore s.turn.stream s.seq p va n

/-- The checks of a sync-word operand (R300): ALIGN, a window address, its right. -/
def State.syncOperand (s : State) (va : Word) (rt : Right) (write : Bool) : Except Flt Place :=
  if va.toNat % 16 ≠ 0 then .error (Flt.at' .align 0 va)
  else if !isWindow va then .error (Flt.at' .perm 34 va)
  else match (s.check s.turn va 16 rt false write).1 with
    | .ok p => .ok p
    | .fault f => .error f
    | .missing k => .error ⟨.page, k, va, true⟩

/-- SARM with its operands ready: `flag` is the flag it names. One step at the home writes TARGET, FE and FLAG and applies the
loop of R299. -/
def State.sarm (s : State) (d a b : SSpec) (flag : Option (Fin 64)) : Res :=
  if !s.classOk [a, b] [d] then s.raiseClass
  else match s.memWait [a, b] [d] with
    | some why => s.stall why
    | none =>
      let va := s.peek a
      match s.syncOperand va .wr true with
      | .error f => s.raise f
      | .ok p =>
        if flag.isSome && !inOwn s.turn.ref va then s.raise (Flt.at' .perm 14 va)
        else if !s.drained p va 16 then s.stall none
        else match s.answer p 16 true with
          | .uncorrectable => s.raise (Flt.at' .poison 0 va)
          | .dieReset => s.raise (Flt.at' .poison 15 va)
          | .ok =>
            let target := ((s.peeks [a, b]).getD 1 0).toNat % 2 ^ 32
            let old := s.dataAt p 16
            let hi := old / 2 ^ 104 * 2 ^ 104 + old / 2 ^ 102 % 2 * 2 ^ 102 +
              (match flag with | some f => 2 ^ 103 + f.val * 2 ^ 96 | none => 0)
            let w := hi + old / 2 ^ 32 % 2 ^ 64 * 2 ^ 32 + target
            let acc := s.myCore.takeAcc
            let s1 := match flag with
              | some f =>
                State.setCore { s with armed := setAssoc p.key acc.1 s.armed } s.turn.ref.core (acc.2.pushFlag f 3 acc.1)
              | none => s
            let s1 := s1.noteCorr (some s.turn.ref) p 16
            let r := syncAdvance w 0
            let s2 := if p.isLocal then s1.setSync p r.1 r.2 else s1
            let s3 := s2.takes [a, b]
            .next ((match flag with | some _ => s3.wr d 1 2 (acc.1.setWidth 64) | none => s3).retire)

/-- SARM [s1], s2 (R300). -/
def execSarm (a b : SSpec) (s : State) : Res := s.sarm (.x 0) a b none

/-- SARM d, [s1], s2, fn (R300): takes an accession number, which d receives. -/
def execSarmFlag (d a b : SSpec) (f : Fin 64) (s : State) : Res := s.sarm d a b (some f)

/-! ## SWAIT -/

/-- SWAIT (R301): a request arms a monitor at the home and compares in one step; the wait ends when the generation has passed, when a cut
is latched for the seat, or when the home has no free monitor. -/
def execSwait (d a b : SSpec) (s : State) : Res :=
  if !s.classOk [a, b] [d] then s.raiseClass
  else match s.me.wait with
  | .swait k _ _ srcs since =>
    if s.mySeat.cut.latch.isSome && !s.mySeat.arming s.turn.stream && (s.turn.isY || s.myCore.mayMeet 1) then
      .next ((s.disarm s.turn).endSwait s.turn d srcs since (syncGen (s.dataAt (windowPlace k false) 16)))
    else s.stall none
  | .passed gen _ srcs since =>
    if s.turn.isY || s.myCore.mayMeet 1 then .next (s.endSwait s.turn d srcs since gen) else s.stall none
  | _ =>
    match s.memWait [a, b] [d] with
    | some why => s.stall why
    | none =>
      let va := s.peek a
      match s.syncOperand va .rd false with
      | .error f => s.raise f
      | .ok p =>
        let e := (s.peeks [a, b]).getD 1 0
        .next (((s.disarm s.turn).pushLoad (s.newReq (.swait e) p va 16 0 none)).modMe fun t =>
          { t with wait := .swait p.key e d [a, b] s.myCore.cycle })

end Sys2Proof.Machine
end

