-- ==== Sys2Proof/Machine/Hub.lean ====
section
/-!
DEFINITION. Memory as a die's hub reaches it for its front end, its agents and the device operating system: addresses outside the
SRAM window are walked under the root of the die's stream Y (R306, R342; log 22).
-/
namespace Sys2Proof.Machine

/-- The root of a die's stream Y (R342). -/
def State.sysRoot (s : State) (d : Fin 8) : Word := (s.getSeat (sysRef d)).sys.xlatRoot

/-- The place of an address as the hub of a die reaches it, when it has the right. -/
def State.hubPlace (s : State) (d : Fin 8) (va : Nat) (rt : Right) : Option Place :=
  if va < 2 ^ 41 then (if (windowHome va).pkg < Config.domainPackages then some (windowPlace va false) else none)
  else match s.walk (s.sysRoot d) va with
    | .leaf e z => if grants e rt true then some (leafPlace e (va / z * z) z va) else none
    | _ => none

/-- The errors that the hub's walk for an address meets are logged and counted (R230). -/
def State.hubWalk (s : State) (d : Fin 8) (va : Nat) : State :=
  if va < 2 ^ 41 ∨ 2 ^ 57 ≤ va ∨ bit (s.sysRoot d) 44 = false then s
  else s.noteWalk (s.walkReads (s.sysRoot d) va (fld (s.sysRoot d) 0 40 * 2 ^ 12) 5)

/-- A read of n bytes by the hub, at most up to the end of an aligned 256-byte block; none on a missing page, right or an error
answer. -/
def State.hubRead (s : State) (d : Fin 8) (va n : Nat) : Option Nat :=
  match s.hubPlace d va .rd with
  | none => none
  | some p => if s.answer p n true = .ok then some (s.dataAt p n) else none

/-- What the hub's reads of n blocks of 256 bytes, and the walks for them, find in error is counted and logged (R230). -/
def State.hubNote (s : State) (d : Fin 8) (va : Nat) : Nat → State
  | 0 => s
  | n + 1 =>
    let s := s.hubWalk d va
    match s.hubPlace d va .rd with
    | none => s.hubNote d (va + 256) n
    | some p => ((s.noteBad p 256 false).noteCorr none p 256).hubNote d (va + 256) n

/-- One doubleword read by the hub. -/
def State.hubWord (s : State) (d : Fin 8) (va : Nat) : Option Word := (s.hubRead d va 8).map fun v => BitVec.ofNat 64 v

/-- n doublewords read by the hub from an address on; none when one of them cannot be read. -/
def State.hubWords (s : State) (d : Fin 8) (va : Nat) : Nat → Option (List Word)
  | 0 => some []
  | n + 1 =>
    match s.hubWord d va, s.hubWords d (va + 8) n with
    | some w, some l => some (w :: l)
    | _, _ => none

/-- A write of n bytes by the hub; an access that meets no page, no right or an error answer writes nothing (R205). -/
def State.hubWrite (s : State) (d : Fin 8) (va n v : Nat) : State :=
  let s := s.hubWalk d va
  match s.hubPlace d va .wr with
  | none => s
  | some p => s.performWrite (.hub d) .store p n v false true

/-- Doublewords written by the hub from an address on. -/
def State.hubWriteWords (s : State) (d : Fin 8) (va : Nat) : List Word → State
  | [] => s
  | w :: r => (s.hubWrite d va 8 w.toNat).hubWriteWords d (va + 8) r

end Sys2Proof.Machine
end

