-- ==== Sys2Proof/Machine/Lanes.lean ====
section
/-!
DEFINITION. What every vector instruction shares: sources and the rotating names (R120, R124, R132), landing slots (R36,
R180, R181), tags (R99), active lanes (R128), and the write of results through C's pipeline (R126, R133).
-/
namespace Sys2Proof.Machine

/-! ## Registers -/

/-- The physical register a name denotes (R120). -/
def physV (rrb : BitVec 4) (n : Fin 32) : Fin 32 :=
  if n.val < 16 then n else Fin.ofNat 32 (16 + (n.val + 32 - 16 - rrb.toNat) % 16)

/-- The data of a vector source: a FREE slot delivers zeros (R180). -/
def State.vread (s : State) : VSrc → VData
  | .v n => s.mySeat.vec.v[physV s.mySeat.vec.rrb n]
  | .ln n => if s.mySeat.ln[n].state = 0 then 0 else s.mySeat.ln[n].data

/-- The tag of a vector source: a landing slot has none and copies as 0 (R99, R146). -/
def State.vtag (s : State) : VSrc → Fin 16
  | .v n => s.mySeat.vec.tag[physV s.mySeat.vec.rrb n]
  | .ln _ => 0

/-- A typed source is accepted: its tag equals the type's or is 0; a landing slot is accepted (R99). -/
def State.tagOk (s : State) (a : VSrc) (t : Fin 16) : Bool := s.vtag a = 0 || s.vtag a = t

/-! ## Types -/

/-- Format, tag and width of a floating type (R98, R136). -/
def fpFmt : FpType → Fmt
  | .fp32 => fp32 | .fp16 => fp16 | .bf16 => bf16
def fpTag : FpType → Fin 16
  | .fp32 => 1 | .fp16 => 2 | .bf16 => 3
def fpW : FpType → Nat
  | .fp32 => 32 | _ => 16

/-- Width in bits, INT tag and signedness of integer types and width codes (R98, R136). -/
def laneW : LaneW → Nat
  | .w8 => 8 | .w16 => 16 | .w32 => 32 | .w64 => 64
def laneTag : LaneW → Fin 16
  | .w8 => 10 | .w16 => 11 | .w32 => 12 | .w64 => 13
def intLane : IntType → LaneW
  | .i8 => .w8 | .n8 => .w8 | .i16 => .w16 | .n16 => .w16 | .i32 => .w32 | .n32 => .w32 | .i64 => .w64 | .n64 => .w64
def intSigned : IntType → Bool
  | .i8 => true | .i16 => true | .i32 => true | .i64 => true | _ => false

/-- A lane as an integer of a type. -/
def laneInt (w : Nat) (sgn : Bool) (v : Nat) : Int := if sgn then toSigned w v else ((v % 2 ^ w : Nat) : Int)

/-- The range of an integer type (R81). -/
def intMin (w : Nat) (sgn : Bool) : Int := if sgn then -((2 ^ (w - 1) : Nat) : Int) else 0
def intMax (w : Nat) (sgn : Bool) : Int := if sgn then ((2 ^ (w - 1) : Nat) : Int) - 1 else ((2 ^ w : Nat) : Int) - 1

/-- An exact integer result, wrapped or clamped (R81, R139). -/
def intResult (w : Nat) (sgn sat : Bool) (x : Int) : Nat × FFlags :=
  if sat && decide (x < intMin w sgn) then (ofSigned w (intMin w sgn), fSAT)
  else if sat && decide (intMax w sgn < x) then (ofSigned w (intMax w sgn), fSAT)
  else (ofSigned w x, 0)

/-! ## Active lanes (R128) -/

/-- The lane count at a width (R125). -/
def State.lanes (s : State) (w : Nat) : Nat := 8 * s.mySeat.vec.vlen.toNat / w

/-- The mask field lets lane i be active (R128). DESIGN CHOICE (log 52): an element of VCVT beyond the 256 bits of a named mask is inactive. -/
def State.masked (s : State) (k : Fin 8) (i : Nat) : Bool := k = 0 || s.mySeat.vec.k[k].getLsbD i

/-- Results of the active lanes: data, mask of the written bits, flags met. -/
structure LaneOut where
  data  : VData
  mask  : VData
  flags : FFlags
  deriving DecidableEq, Repr

/-- The results of a lane function on lanes i < n of width w for which `act` holds. -/
def runLanes (w n : Nat) (act : Nat → Bool) (f : Nat → Nat × FFlags) : LaneOut :=
  let rs : List (Option (Nat × FFlags)) := (List.range n).map fun i => if act i then some (f i) else none
  { data := BitVec.ofNat 2048 (packLanes w (rs.map fun r => match r with | some x => x.1 | none => 0)),
    mask := BitVec.ofNat 2048 (packLanes w (rs.map fun r => match r with | some _ => ones w | none => 0)),
    flags := rs.foldl (fun a r => match r with | some x => a ||| x.2 | none => a) 0 }

/-- The lane function on the active lanes of the running instruction. -/
def State.runActive (s : State) (w : Nat) (k : Fin 8) (f : Nat → Nat × FFlags) : LaneOut :=
  runLanes w (s.lanes w) (s.masked k) f

/-! ## Landing slots -/

/-- The landing slots an instruction reads, one named twice once (R132). -/
def slotsOf (l : List VSrc) : List (Fin 64) :=
  (l.filterMap fun a => match a with | .ln n => some n | .v _ => none).dedup

/-- A read at schedule time t is before the named arrival (R180). -/
def Slot.early (c : Slot) (t : Nat) : Bool :=
  let d := (c.named.toNat + 2 ^ 40 - t % 2 ^ 40) % 2 ^ 40
  c.state ≠ 0 && decide (1 ≤ d) && decide (d < 2 ^ 24)

/-- LSTAT marks of a slot read (R180, R188). -/
def Seat.markSlot (st : Seat) (n : Fin 64) : Seat :=
  let c := st.ln[n]
  if c.state = 0 then { st with trap := { st.trap with lstat := putFld (st.trap.lstat ||| 1) 8 6 n.val } }
  else if c.early st.sched then { st with trap := { st.trap with lstat := putFld (st.trap.lstat ||| 2) 8 6 n.val } }
  else st

/-- A FULL slot is emptied by a read (R180). DESIGN CHOICE (log 55): its NAMED, SYM and SCALAR stay as they were. -/
def Seat.emptySlot (st : Seat) (n : Fin 64) : Seat := { st with ln := vmod st.ln n fun c => { c with state := 0 } }

/-- What reading an instruction's landing slots leads to (R36, R180, R181). -/
inductive SlotRead where
  | freeze
  | poison (detail : Nat) (s : State)
  | ok (s : State)
  deriving DecidableEq, Repr

/-- The read of an instruction's landing slots. DESIGN CHOICE (log 55): of two slots in error the first operand's is reported and cleared; of
two EMPTY or EARLY events LSTAT.SLOT keeps the later operand's. -/
def State.readSlots (s : State) (l : List (Fin 64)) : SlotRead :=
  let st := s.mySeat
  if l.any fun n => decide (st.ln[n].state = 1) then .freeze
  else
    let marked := s.modMySeat fun st => l.foldl Seat.markSlot st
    match l.find? fun n => decide (st.ln[n].state = 2) && st.ln[n].err with
    | some n =>
      .poison ((if st.ln[n].drst then 0x200 else 0x100) + n.val)
        (marked.modMySeat fun st => { st with ln := vmod st.ln n fun c => { c with data := 0, err := false, drst := false } })
    | none => .ok (marked.modMySeat fun st => l.foldl Seat.emptySlot st)

/-- The core freezes on the slots of the running instruction (R18, R36). -/
def State.freezeOn (s : State) (l : List (Fin 64)) : Res :=
  match l with
  | [] => s.stall none
  | a :: r =>
    .next (s.setCore s.turn.ref.core { s.myCore with freeze := some (.slot s.turn.ref.seat a r.head?), frozeAt := s.myCore.cycle })

/-! ## Issue -/

/-- A vector instruction: the TAG check, then its landing slots, then its results, due `lat` schedule cycles later (R126,
R133, R134). -/
def State.vectorOp (s : State) (tags : Bool) (srcs : List VSrc) (lat : Nat) (ws : List CWrite) : Res :=
  if !tags then s.raise (Flt.mk' .tag 0)
  else match s.readSlots (slotsOf srcs) with
    | .freeze => s.freezeOn (slotsOf srcs)
    | .poison d s1 => s1.raise (Flt.mk' .poison d)
    | .ok s1 => .next ((ws.foldl (fun t w => t.pipe lat w) s1).retire)

/-- The write of a register's active lanes with its tag, and of the VSTAT bits met. -/
def State.vwrite (s : State) (d : Fin 32) (tag : Fin 16) (o : LaneOut) : List CWrite :=
  let w := CWrite.vreg (physV s.mySeat.vec.rrb d) o.data o.mask (some tag)
  if o.flags = 0 then [w] else [w, .vstat o.flags]

/-- The write of a whole lane mask by a comparison (R138). -/
def maskWrite (kd : Fin 8) (n : Nat) (act : Nat → Bool) (f : Nat → Bool) : CWrite :=
  .kreg kd (BitVec.ofNat 256 (packLanes 1 ((List.range n).map fun i => if act i && f i then 1 else 0))) (BitVec.allOnes 256)

end Sys2Proof.Machine
end

