-- ==== Sys2Proof/Machine/Save.lean ====
section
/-!
DEFINITION. The pre-emption save area (R193) and its write back at resume (R194).
-/
namespace Sys2Proof.Machine

/-! ## Live maps (R361 KIND 4) -/

/-- The launch a seat's instance belongs to. -/
def State.launchOf (s : State) (q : Fin 512) : Option Launch := s.launches.find? fun l => decide (l.q = q)

/-- The registers live map `m` lists: for each stream the word of x, p and t masks, and for C the word of v, k, b and a masks. A map
that cannot be read, or of a task without live maps, lists nothing. -/
structure LiveMap where
  scalars : Vector Word 4
  vectors : Word
  deriving DecidableEq, Repr

/-- Live map m of the task a seat runs. -/
def State.liveMap (s : State) (r : SeatRef) (m : Nat) : LiveMap :=
  let d := coreDie r.core
  match s.launchOf (s.getSeat r).inst.q with
  | none => ⟨Vector.replicate 4 0, 0⟩
  | some l =>
    if l.desc.getD 8 0 = 0 then ⟨Vector.replicate 4 0, 0⟩
    else
    let base := (l.desc.getD 8 0).toNat + 64 * m
    ⟨Vector.ofFn fun j => (s.hubWord d (base + 16 * j.val)).getD 0, (s.hubWord d (base + 40)).getD 0⟩

/-- What the hub's read of live map m meets is logged and counted (R230). -/
def State.mapNote (s : State) (r : SeatRef) (m : Nat) : State :=
  match s.launchOf (s.getSeat r).inst.q with
  | none => s
  | some l => if l.desc.getD 8 0 = 0 then s else s.hubNote (coreDie r.core) (((l.desc.getD 8 0).toNat + 64 * m) / 256 * 256) 1

/-- x, p and t masks. -/
def LiveMap.x (l : LiveMap) (j : Fin 4) (i : Nat) : Bool := bit l.scalars[j] i
def LiveMap.p (l : LiveMap) (j : Fin 4) : BitVec 16 := BitVec.ofNat 16 (fld l.scalars[j] 32 16)
def LiveMap.t (l : LiveMap) (j : Fin 4) (i : Nat) : Bool := bit l.scalars[j] (48 + i)
/-- v (by name), k, b and a masks. -/
def LiveMap.v (l : LiveMap) (i : Nat) : Bool := bit l.vectors i
def LiveMap.k (l : LiveMap) (i : Nat) : Bool := bit l.vectors (32 + i)
def LiveMap.b (l : LiveMap) (i : Nat) : Bool := bit l.vectors (40 + i)
def LiveMap.a (l : LiveMap) (i : Nat) : Bool := bit l.vectors (48 + i)

/-- The physical vector registers that a map lists, under the rotation in force (R120). -/
def LiveMap.physical (l : LiveMap) (rrb : BitVec 4) (n : Fin 32) : Bool :=
  (List.finRange 32).any fun i => l.v i.val && decide (physV rrb i = n)

/-! ## Writing the area -/

/-- One item of the area: offset, bytes, value. -/
structure SaveItem where
  off  : Nat
  size : Nat
  val  : Nat
  deriving DecidableEq, Repr

/-- A long value in pieces of 256 bytes. -/
def saveChunks (off : Nat) : Nat → Nat → List SaveItem
  | 0, _ => []
  | n + 1, v => ⟨off, 256, v % 2 ^ 2048⟩ :: saveChunks (off + 256) n (v / 2 ^ 2048)

/-- Doublewords one after another. -/
def saveWords (off : Nat) : List Word → List SaveItem
  | [] => []
  | w :: r => ⟨off, 8, w.toNat⟩ :: saveWords (off + 8) r

/-- PS.0 to PS.7 as one doubleword. -/
def psWord (p : BitVec 8) : Word := p.setWidth 64

/-- The header (R193). -/
def Seat.saveHeader (st : Seat) (saved : BitVec 256) : List SaveItem :=
  saveWords 0 [st.sys.wid, st.sys.roles, st.sys.schedTime, st.cut.info, st.cut.syms, st.cut.pc[(0 : Fin 4)], st.cut.pc[(1 : Fin 4)],
    st.cut.pc[(2 : Fin 4)], st.cut.pc[(3 : Fin 4)], st.vec.vlen, st.vec.vstat, st.tile.mstat, st.tile.matgeom,
    st.tile.srec[(0 : Fin 2)], st.tile.srec[(1 : Fin 2)], st.vec.rrb.setWidth 64, st.cut.retimeVec, st.cut.commaLimit, st.trap.vec,
    st.trap.lstat] ++
  ((List.finRange 4).map fun j => ⟨0xA0 + 4 * j.val, 4, st.str[j].passes.toNat⟩) ++
  ((List.finRange 16).map fun n => ⟨0xB0 + n.val, 1, st.q[n].items.length⟩) ++
  [⟨0xC0, 32, saved.toNat⟩, ⟨0xE0, 8, st.sys.larg.toNat⟩] ++ saveWords 0x100 st.sys.perfCnt.toList ++
  (List.finRange 4).flatMap fun j =>
    saveWords (0x180 + 32 * j.val) [st.str[j].lc, st.str[j].loopPc, st.str[j].repLeft.setWidth 64, psWord st.str[j].ps]

/-- The listed scalar registers of the streams. -/
def Seat.saveScalars (st : Seat) (l : LiveMap) : List SaveItem :=
  (List.finRange 4).flatMap fun j =>
    let base := 0x200 + 512 * j.val
    let t := st.str[j]
    ((List.finRange 32).filterMap fun i => if l.x j i.val then some ⟨base + 8 * i.val, 8, (t.rdX i).toNat⟩ else none) ++
    ((List.finRange 8).filterMap fun i => if l.t j i.val then some ⟨base + 256 + 8 * i.val, 8, t.t[i].toNat⟩ else none) ++
    (if l.p j = 0 then [] else [⟨base + 320, 8, (t.p &&& l.p j).toNat⟩])

/-- The queue registers from their heads. -/
def Seat.saveQueues (st : Seat) : List SaveItem :=
  (List.finRange 16).flatMap fun n =>
    let wide := decide (n.val = 8) || decide (n.val = 9)
    let base := if wide then 0x1200 + 2048 * (n.val - 8) else 0xA00 + 128 * n.val
    let w := if wide then 256 else 8
    st.q[n].items.zipIdx.map fun x => ⟨base + w * x.2, w, x.1.data.toNat⟩

/-- A slot's state word (R179). -/
def Slot.word (c : Slot) : Word :=
  BitVec.ofNat 64 (c.named.toNat * 2 ^ 24 + c.sym.val * 2 ^ 8 + (if c.drst then 16 else 0) + (if c.scalar then 8 else 0) +
    (if c.err then 4 else 0) + c.state.val)

/-- Landing slots and lexicon. -/
def Seat.saveSlots (st : Seat) : List SaveItem :=
  ((List.finRange 64).map fun n => ⟨0x2200 + 256 * n.val, 256, st.ln[n].data.toNat⟩) ++
  ((List.finRange 64).map fun n => ⟨0x6200 + 8 * n.val, 8, st.ln[n].word.toNat⟩) ++
  ((List.finRange 32).flatMap fun y => saveWords (0x6400 + 64 * y.val) ((List.range 8).map fun w => Measure.dword st.lex[y] w))

/-- The listed vector registers, masks and tiles with their tags. -/
def Seat.saveVectors (st : Seat) (l : LiveMap) : List SaveItem :=
  ((List.finRange 8).filterMap fun i => if l.k i.val then some ⟨0x6C00 + 32 * i.val, 32, st.vec.k[i].toNat⟩ else none) ++
  ((List.finRange 32).flatMap fun n => if l.physical st.vec.rrb n then
    [⟨0x6D00 + n.val, 1, st.vec.tag[n].val⟩, ⟨0x8800 + 256 * n.val, 256, st.vec.v[n].toNat⟩] else []) ++
  ((List.finRange 8).flatMap fun n => if l.b n.val then
    ⟨0x6D20 + n.val, 1, st.tile.b[n].tag.val + 16 * st.tile.b[n].had.val⟩ ::
      saveChunks (0xA800 + 8192 * n.val) 32 st.tile.b[n].data.toNat else []) ++
  ((List.finRange 4).flatMap fun n => if l.a n.val then
    let a := st.tile.a[n]
    ⟨0x6D40 + 16 * n.val, 8, a.tag.val + (if a.fp36 then 16 else 0) + 256 * a.hnorm.val⟩ ::
      ⟨0x6D48 + 16 * n.val, 8, a.budget.toNat⟩ :: saveChunks (0x1A800 + 36864 * n.val) 144 a.data.toNat else [])

/-- A scope code of R67; 6 none. -/
def scopeCode : Option Scope → Nat
  | some .seat => 0 | some .core => 1 | some .cluster => 2 | some .die => 3 | some .device => 4 | some .domain => 5 | none => 6

/-- The scope of a code. -/
def scopeOf (n : Nat) : Option Scope :=
  match n with
  | 0 => some .seat | 1 => some .core | 2 => some .cluster | 3 => some .die | 4 => some .device | 5 => some .domain | _ => none

/-- A command as its 64 bytes (R277). -/
def Cmd.words (c : Cmd) : List Word :=
  let b (x : Bool) (i : Nat) : Nat := if x then 2 ^ i else 0
  BitVec.ofNat 64 (c.acc.toNat * 2 ^ 32 + c.attr.wacc.toNat) ::
  BitVec.ofNat 64 (c.opc.val * 2 ^ 43 + c.opnd.toNat * 2 ^ 33 + b c.attr.note 32 + b c.attr.w 31 + scopeCode c.attr.acq * 2 ^ 28 +
    c.attr.wflag.val * 2 ^ 22 + b c.attr.s 21 + scopeCode c.attr.rel * 2 ^ 18 + c.attr.sflag.val * 2 ^ 12 + c.args.length % 8) ::
  (List.range 6).map fun i => c.args.getD i 0

/-- A command read back from its doublewords (R194). -/
def Cmd.ofWords (d : Nat → Word) : Cmd :=
  let w := d 1
  { acc := BitVec.ofNat 32 (fld (d 0) 32 32), opc := Fin.ofNat 32 (fld w 43 5), opnd := BitVec.ofNat 10 (fld w 33 10),
    attr := { hasW := bit w 31, w := bit w 31, wflag := Fin.ofNat 64 (fld w 22 6), wacc := BitVec.ofNat 32 (fld (d 0) 0 32),
              acq := scopeOf (fld w 28 3), hasS := bit w 21, note := bit w 32, s := bit w 21, sflag := Fin.ofNat 64 (fld w 12 6),
              rel := scopeOf (fld w 18 3) },
    args := (List.range (fld w 0 3)).map fun i => d (2 + i), met := false, started := false, stuck := false, headAt := 0,
    placedAt := 0, bind := 0, sent := 0, fwd := [], touched := [], due := 0, data := [], todo := [], dest := [], i2 := 0, i1 := 0, k := 0, moved := false }

/-- A copy progress record (R297). -/
def Progress.words (p : Progress) : List Word :=
  [BitVec.ofNat 64 (p.acc.toNat * 2 ^ 32 + (if p.valid then 1 else 0)), BitVec.ofNat 64 (p.i2 % 2 ^ 32 * 2 ^ 32 + p.i1 % 2 ^ 32),
   BitVec.ofNat 64 p.k, 0, 0, 0, 0, 0]

/-- A progress record read back. -/
def Progress.ofWords (d : Nat → Word) : Progress :=
  ⟨bit (d 0) 0, BitVec.ofNat 32 (fld (d 0) 32 32), fld (d 1) 32 32, fld (d 1) 0 32, (d 2).toNat⟩

/-- An engine's parameter stack and loop stack as they go into the area, in a layout that is not given (log 23). -/
def EngineCtx.stackBytes (c : EngineCtx) : BitVec 1024 :=
  Config.savedStack c.stack (c.loops.map fun f => (f.start, f.left, f.stop))

/-- The engine blocks. -/
def Seat.saveEngines (st : Seat) : List SaveItem :=
  (List.finRange 3).flatMap fun (e : Fin 3) =>
    let base := 0x6E00 + 2048 * e.val
    ⟨base, 128, st.eng[e].stackBytes.toNat⟩ ::
    (st.eng[e].queue.zipIdx.flatMap fun x => saveWords (base + 0x80 + 64 * x.2) x.1.words) ++
    (if e = 1 then saveWords (base + 0x480) st.eng[e].progress.words else [])

/-- The address of the save area. -/
def Seat.saveArea (st : Seat) : Nat := fld st.trap.saveBase 12 52 * 4096

/-- A PREEMPT cut writes the seat's state to the save area, as the core's hub reaches it (R193; log 22). -/
def State.saveContext (s : State) (r : SeatRef) : State :=
  let st := s.getSeat r
  let l := s.liveMap r (fld st.cut.info 16 6)
  let items := st.saveHeader (Config.savedBits (l.vectors :: l.scalars.toList)) ++ st.saveScalars l ++ st.saveQueues ++ st.saveSlots ++ st.saveVectors l ++
    st.saveEngines
  items.foldl (fun (s : State) i => s.hubWrite (coreDie r.core) (st.saveArea + i.off) i.size i.val) (s.mapNote r (fld st.cut.info 16 6))

/-! ## Reading it back -/

/-- n bytes of the area (0 where they cannot be read). -/
def State.saveRead (s : State) (r : SeatRef) (off n : Nat) : Nat :=
  (s.hubRead (coreDie r.core) ((s.getSeat r).saveArea + off) n).getD 0

/-- A doubleword of the area. -/
def State.saveWord (s : State) (r : SeatRef) (off : Nat) : Word := BitVec.ofNat 64 (s.saveRead r off 8)

/-- Pieces of 256 bytes, put together. -/
def State.saveLong (s : State) (r : SeatRef) (off : Nat) : Nat → Nat
  | 0 => 0
  | n + 1 => s.saveRead r off 256 + 2 ^ 2048 * s.saveLong r (off + 256) n

/-- A stream as the area gives it (R194): unlisted registers are 0, and no result is in flight; the stages of its LOOP (R117) and the writes
that its releases stand for (R253, R254) are as they were. -/
def State.restoreStream (s : State) (r : SeatRef) (l : LiveMap) (j : Fin 4) (old : Stream) : Stream :=
  let base := 0x200 + 512 * j.val
  { Stream.reset with
    x := Vector.ofFn fun i => if l.x j i.val && decide (i.val ≠ 0) then s.saveWord r (base + 8 * i.val) else 0,
    t := Vector.ofFn fun i => if l.t j i.val then s.saveWord r (base + 256 + 8 * i.val) else 0,
    p := (if l.p j = 0 then 0 else BitVec.ofNat 16 (s.saveRead r (base + 320) 8) &&& l.p j) ||| 1,
    pc := old.pc, lc := s.saveWord r (0x180 + 32 * j.val), loopPc := s.saveWord r (0x188 + 32 * j.val),
    repLeft := BitVec.ofNat 32 (s.saveRead r (0x190 + 32 * j.val) 8), ps := BitVec.ofNat 8 (s.saveRead r (0x198 + 32 * j.val) 8),
    passes := BitVec.ofNat 32 (s.saveRead r (0xA0 + 4 * j.val) 4), packets := old.packets, stages := old.stages,
    repStage := old.repStage, fwd := s.onWay old.fwd, heard := old.heard, fenced := old.fenced }

/-- A queue register as the area gives it. -/
def State.restoreQueue (s : State) (r : SeatRef) (n : Fin 16) : Fifo :=
  let wide := decide (n.val = 8) || decide (n.val = 9)
  let base := if wide then 0x1200 + 2048 * (n.val - 8) else 0xA00 + 128 * n.val
  let w := if wide then 256 else 8
  { items := (List.range (s.saveRead r (0xB0 + n.val) 1)).map fun i => ⟨BitVec.ofNat 2048 (s.saveRead r (base + w * i) w), 0⟩,
    deqAt := 0, deqN := 0 }

/-- A landing slot as the area gives it. -/
def State.restoreSlot (s : State) (r : SeatRef) (n : Fin 64) : Slot :=
  let w := s.saveWord r (0x6200 + 8 * n.val)
  { data := BitVec.ofNat 2048 (s.saveRead r (0x2200 + 256 * n.val) 256), named := BitVec.ofNat 40 (fld w 24 40),
    sym := Fin.ofNat 32 (fld w 8 5), drst := bit w 4, scalar := bit w 3, err := bit w 2, state := Fin.ofNat 4 (fld w 0 2) }

/-- Vector registers, tags, masks, VLEN, VSTAT and RRB as the area gives them. -/
def State.restoreVec (s : State) (r : SeatRef) (l : LiveMap) : VecFile :=
  let rrb := BitVec.ofNat 4 (s.saveRead r 0x78 8)
  { v := Vector.ofFn fun n => if l.physical rrb n then BitVec.ofNat 2048 (s.saveRead r (0x8800 + 256 * n.val) 256) else 0,
    tag := Vector.ofFn fun n => if l.physical rrb n then Fin.ofNat 16 (s.saveRead r (0x6D00 + n.val) 1) else 0,
    k := Vector.ofFn fun n => if l.k n.val then BitVec.ofNat 256 (s.saveRead r (0x6C00 + 32 * n.val) 32) else 0,
    vlen := s.saveWord r 0x48, vstat := s.saveWord r 0x50, rrb := rrb }

/-- Tiles and matrix registers as the area gives them. -/
def State.restoreTile (s : State) (r : SeatRef) (l : LiveMap) : TileFile :=
  { b := Vector.ofFn fun n => if l.b n.val then
        let t := s.saveRead r (0x6D20 + n.val) 1
        ⟨BitVec.ofNat 65536 (s.saveLong r (0xA800 + 8192 * n.val) 32), Fin.ofNat 16 t, Fin.ofNat 4 (t / 16)⟩
      else ⟨0, 0, 0⟩,
    a := Vector.ofFn fun n => if l.a n.val then
        let t := s.saveWord r (0x6D40 + 16 * n.val)
        ⟨BitVec.ofNat 294912 (s.saveLong r (0x1A800 + 36864 * n.val) 144), Fin.ofNat 16 (fld t 0 4), bit t 4, Fin.ofNat 16 (fld t 8 4),
          s.saveWord r (0x6D48 + 16 * n.val)⟩
      else ⟨0, 0, false, 0, 0⟩,
    mstat := s.saveWord r 0x58, matgeom := s.saveWord r 0x60, srec := #v[s.saveWord r 0x68, s.saveWord r 0x70] }

/-- A command placed back (R194): it counts as placed in this core cycle, an AQUERY under the binding it had (R246, log 23), and its
release waits for the writes that it waited for (R254). -/
def State.replaced (s : State) (r : SeatRef) (old : Cmd) (head : Bool) (x : Cmd) : Cmd :=
  let now := s.core[r.core].cycle
  { x with headAt := if head then now else 0, placedAt := now, bind := old.bind, sent := s.seq, fwd := s.onWay old.fwd }

/-- An engine's queue and copy progress as the area gives them; the number of commands and the program are those the seat holds
(log 23). -/
def State.restoreEngine (s : State) (r : SeatRef) (e : Fin 3) (c : EngineCtx) : EngineCtx :=
  let base := 0x6E00 + 2048 * e.val
  { c with
    queue := c.queue.mapIdx fun i x => s.replaced r x (i = 0) (Cmd.ofWords fun w => s.saveWord r (base + 0x80 + 64 * i + 8 * w)),
    progress := if e = 1 then Progress.ofWords fun w => s.saveWord r (base + 0x480 + 8 * w) else c.progress,
    frozen := false }

/-- The system core writes the area back to its seat (R194). -/
def State.restoreContext (s : State) (r : SeatRef) : State :=
  let l := s.liveMap r (fld (s.saveWord r 0x18) 16 6)
  ((s.hubNote (coreDie r.core) (s.getSeat r).saveArea 0x3E8).mapNote r (fld (s.saveWord r 0x18) 16 6)).modSeat r fun st =>
    { st with
      str := Vector.ofFn fun j => s.restoreStream r l j st.str[j],
      c := CSched.reset,
      vec := s.restoreVec r l,
      q := Vector.ofFn fun n => s.restoreQueue r n,
      ln := Vector.ofFn fun n => s.restoreSlot r n,
      tile := s.restoreTile r l,
      lex := Vector.ofFn fun y => Measure.ofDwords st.lex[y] fun w => s.saveWord r (0x6400 + 64 * y.val + 8 * w),
      eng := Vector.ofFn fun e => s.restoreEngine r e st.eng[e],
      vm := Vector.replicate 4 0,
      trap := { st.trap with vec := s.saveWord r 0x90, lstat := s.saveWord r 0x98 },
      cut := { st.cut with
        info := s.saveWord r 0x18, syms := s.saveWord r 0x20, pc := Vector.ofFn fun j => s.saveWord r (0x28 + 8 * j.val),
        retimeVec := s.saveWord r 0x80, commaLimit := s.saveWord r 0x88 },
      sys := { st.sys with
        wid := s.saveWord r 0, roles := s.saveWord r 8, schedTime := s.saveWord r 0x10, larg := s.saveWord r 0xE0, bstatus := 0,
        perfCnt := Vector.ofFn fun n => s.saveWord r (0x100 + 8 * n.val) } }

end Sys2Proof.Machine
end

