-- ==== Sys2Proof/Machine/Cut.lean ====
section
/-!
DEFINITION. Cuts (R45 to R50, R324, R390): CUT, COMMA_TIMEOUT, PREEMPT_REQUEST, BMARK_ARM, the cut at retirement, and the fault
service's resume (R191, R194).
-/
namespace Sys2Proof.Machine

/-! ## What a cut finds -/

/-- All four streams are halted. -/
def Seat.allHalted (st : Seat) : Bool := st.str.toList.all fun t => t.halted

/-- The comma operands of the streams that stand at one. -/
def Seat.commas (st : Seat) : List (BitVec 10 × BitVec 6) := st.str.toList.filterMap fun t => if t.halted then none else t.comma

/-- The indices and the maps agree (R47 step 3). -/
def Seat.commasAgree (st : Seat) : Bool :=
  match st.commas with
  | [] => true
  | a :: r => r.all fun b => decide (b = a)

/-- Every landing request issued has landed (R47 step 4). -/
def Seat.landingsDrained (st : Seat) : Bool := !(st.loads.any fun l => match l.kind with | .slot _ => true | _ => false)

/-- Nothing that a save must hold is still on its way: scalar loads, atomics and dividers (log 19), and no side-log entry or element that
waits for one (R213). -/
def Seat.scalarsDrained (st : Seat) : Bool :=
  st.loads.isEmpty && st.elems.isEmpty && st.sideLog.isEmpty && st.str.toList.all fun t => t.div.isNone

/-- Whether PREEMPT and BOOKMARK are part of the cut (R47 step 1). -/
def Seat.joined (st : Seat) : Bool × Bool :=
  match st.cut.latch with
  | some l => (l.preempt, l.bookmark)
  | none => (st.cut.preempt, st.cut.bookmark)

/-- A LATENCY_BOUND is to be delivered (R44). -/
def Seat.boundDue (st : Seat) : Bool := st.lex.toList.any fun e => decide (e.state = 3)

/-- RETIME is pending: a proposal or a SYMSET (R47). -/
def Seat.retimeDue (st : Seat) : Bool := st.lex.toList.any fun e => decide (e.state = 2) || e.setb || e.setp || e.setc

/-- The engines are to stop at their first unstarted command before the cut delivers PREEMPT or BOOKMARK. -/
def Seat.enginesMustStop (st : Seat) : Bool := (st.joined.1 || st.joined.2) && !st.boundDue

/-- A command that the stop lets run on: to its completion, but a copy that PREEMPT alone stops to a boundary of K (R47, R297, R390). -/
def Seat.runsOn (st : Seat) (e : Fin 3) (c : Cmd) : Bool :=
  c.started && !(st.joined.1 && !st.joined.2 && decide (e = 1) && !c.moved && decide (c.k % 256 = 0))

/-- The engines stand. -/
def Seat.enginesStand (st : Seat) : Bool :=
  (List.finRange 3).all fun e => st.eng[e].frozen && !(st.eng[e].queue.any fun c => st.runsOn e c) &&
    !(st.joined.2 && st.eng[e].halfMoved)

/-- Starting and stopping the seat's queues (R47, R390). -/
def Seat.freezeEngines (st : Seat) (b : Bool) : Seat :=
  { st with eng := st.eng.map fun (c : EngineCtx) => { c with frozen := b } }

/-! ## Step 5 -/

/-- The conjunction counts start anew (R216): both stand at one number, from which matching goes on, so that accesses of before the cut
keep their places. -/
def Seat.resetConj (st : Seat) : Seat :=
  { st with conjL := max st.conjL st.conjS, conjS := max st.conjL st.conjS, tagsL := [], tagsS := [] }

/-- The seat after step 5 (R47, R48, R324), and the symbol whose LATENCY_BOUND is delivered. The lexicon's events are those of step 5 (R44,
R324). DESIGN CHOICE (log 48): a PREEMPT that the cut at retirement discards leaves CUT_INFO.PREEMPT 0. -/
def Seat.applyCut (st : Seat) (n : BitVec 32) (index : BitVec 10) (map : BitVec 6) (atRetire : Bool) : Seat × Option (Fin 32) :=
  let (st1, mask, dlv) := st.settleLexicon
  let b (x : Bool) (i : Nat) : Nat := if x then 2 ^ i else 0
  let info := n.toNat * 2 ^ 32 + index.toNat * 2 ^ 22 + map.toNat * 2 ^ 16 + b (st.retimeDue || decide (mask ≠ 0)) 3 +
    b (st.joined.1 && !atRetire) 2 + b st.joined.2 1 + b dlv.isSome 0
  let syms := mask + match dlv with
    | some y => st.lex[y].fvalue.toNat * 2 ^ 40 + y.val * 2 ^ 32
    | none => 0
  let st2 := { st1 with
    str := st1.str.map fun (t : Stream) => { t with comma := none },
    cut := { st1.cut with
      info := BitVec.ofNat 64 info, syms := BitVec.ofNat 64 syms, pc := st.pcs.map fun (p : Word) => p &&& ~~~3, latch := none,
      atRetire := atRetire } }
  let st3 := st2.count 14 none 1
  (if mask ≠ 0 then st3.count 15 none 1 else st3, dlv)

/-- Rebindings and bounds in the life record (R388). -/
def State.lifeCut (s : State) (d : Fin 8) (rebound bound : Nat) : State :=
  { s with life := { s.life with rebinds := vmod s.life.rebinds d (· + rebound), bounds := vmod s.life.bounds d (· + bound) } }

/-- Step 5 of seat r's cut. -/
def State.applyCut (s : State) (r : SeatRef) (n : BitVec 32) (index : BitVec 10) (map : BitVec 6) (atRetire : Bool) :
    State × Option (Fin 32) :=
  let a := (s.getSeat r).applyCut n index map atRetire
  let s1 := s.setSeat r a.1.resetConj
  (s1.lifeCut (coreDie r.core) (popCount 32 (fld a.1.cut.syms 0 32)) (if a.2.isSome then 1 else 0), a.2)

/-! ## Step 6 -/

/-- BM_HEAD of an engine (R390). -/
def EngineCtx.bmHead (c : EngineCtx) : Word :=
  match c.queue.find? fun x => !x.started with
  | some x => x.acc.setWidth 64
  | none => 0x1_0000_0000#64

/-- The settlement of a bookmark (R390). -/
def Seat.settleBookmark (st : Seat) : Seat :=
  { st.freezeEngines true with
    sys := { st.sys with bmark := st.sys.bmark &&& ~~~1, bmHead := st.eng.map EngineCtx.bmHead },
    cut := { st.cut with bookmark := false } }

/-- A moving copy command is put back as unstarted with its progress recorded (R297). -/
def EngineCtx.stopCopy (c : EngineCtx) : EngineCtx :=
  match c.queue.find? fun x => x.started && !x.moved with
  | none => c
  | some x =>
    { c with progress := ⟨true, x.acc, x.i2, x.i1, x.k⟩,
             queue := c.queue.map fun y => if y.acc = x.acc then { y with started := false } else y }

/-- PREEMPT is delivered, and a bookmark of the same cut settled (R47, R193). -/
def State.deliverPreempt (s : State) (r : SeatRef) (mark : Bool) : State :=
  let s1 := s.modSeat r fun st =>
    let st := if mark then st.settleBookmark else st
    st.modEng .copy EngineCtx.stopCopy
  (s1.saveContext r).modSeat r fun st =>
    { st with inst := { st.inst with phase := .preempted }, cut := { st.cut with preempt := false } }

/-- A bookmark stops the seat (R390). -/
def State.deliverBookmark (s : State) (r : SeatRef) : State :=
  (s.modSeat r Seat.settleBookmark).takeCutFault r ⟨.bookmark, 0, 0, true⟩

/-- LATENCY_BOUND of symbol y is delivered; other events stay pending (R44, R47). -/
def State.deliverBound (s : State) (r : SeatRef) (y : Fin 32) : State :=
  (s.modSeat r fun st => st.freezeEngines false).takeCutFault r ⟨.latencyBound, y.val, 0, false⟩

/-- The cut of a seat whose streams stand at pass n (R47 steps 5 and 6). -/
def State.performCut (s : State) (r : SeatRef) (n : BitVec 32) : State :=
  let st := s.getSeat r
  let c := st.commas.headD (0, 0)
  let (s1, dlv) := s.applyCut r n c.1 c.2 false
  match dlv with
  | some y => s1.deliverBound r y
  | none =>
    if st.joined.1 then s1.deliverPreempt r st.joined.2
    else if st.joined.2 then s1.deliverBookmark r
    else if bit (s1.getSeat r).cut.info 3 && decide (st.cut.retimeVec ≠ 0) then s1.modSeat r Seat.enterRetime
    else s1.modSeat r Seat.latchCut

/-- COMMA_TIMEOUT: no event of the cut is applied; the streams stand where they are (R47, R50). -/
def State.commaTimeout (s : State) (r : SeatRef) (detail : Nat) : State :=
  (s.takeFault r ⟨.commaTimeout, detail, 0, true⟩ 7).modSeat r fun st =>
    { st with cut := { st.cut with latch := none }, str := st.str.map fun (t : Stream) => { t with comma := none } }

/-- The seat runs and no handler does: a cut may proceed. -/
def State.cutMayRun (s : State) (r : SeatRef) : Bool :=
  !s.engineHeld r.core && decide ((s.getSeat r).inst.phase = .running) && !(s.getSeat r).trap.active

/-- CUT (R47): once all streams stand at comma N and the drain is complete; a sample of its core cycle comes after it (R324). -/
def execCut (r : SeatRef) (s : State) : Res :=
  let st := s.getSeat r
  match st.cut.latch with
  | none => .next s
  | some l =>
    if !s.cutMayRun r || !st.allReached || st.allHalted || !st.c.pipe.isEmpty || decide (st.lexAt.1 = s.core[r.core].cycle + 1) then
      .next s
    else if st.cut.commaLimit.toNat ≤ l.age then .next (s.commaTimeout r 3)
    else if !st.commasAgree then .next (s.commaTimeout r 2)
    else if st.enginesMustStop && !(st.eng.toList.all fun c => c.frozen) then .next (s.modSeat r fun st => st.freezeEngines true)
    else if !st.landingsDrained || (st.enginesMustStop && !st.enginesStand) || (st.joined.1 && !st.boundDue && !st.scalarsDrained) then
      .next s
    else .next (s.performCut r l.n)

/-- COMMA_LIMIT of a seat has passed (R47 HANG, R50 HANDLER); an instance of a translated object reaches its end first (log 50). -/
def State.limits (s : State) (r : SeatRef) : State :=
  let st := s.getSeat r
  if s.engineHeld r.core || st.inst.phase ≠ .running || st.inst.port.isSome then s
  else if st.trap.active && st.trap.kind then
    if st.cut.commaLimit.toNat ≤ st.cut.handlerAge then s.commaTimeout r 4 else s
  else match st.cut.latch with
    | some l =>
      if !st.trap.active && decide (st.cut.commaLimit.toNat ≤ l.age) && !st.allReached then s.commaTimeout r 3 else s
    | none => s

/-- COMMA_TIMEOUT (R47 HANG, R50 HANDLER). The act `cycle` takes it too, in the cycle in which it is due. -/
def execCommaTimeout (r : SeatRef) (s : State) : Res := .next (s.limits r)

/-! ## Requests -/

/-- PREEMPT_REQUEST: the system core asks for a PREEMPT cut of a seat that holds an instance (R47). -/
def execPreemptRequest (r : SeatRef) (s : State) : Res :=
  match (s.getSeat r).inst.phase with
  | .running | .faulted | .retiring =>
    .next (s.modSeat r fun st => ({ st with cut := { st.cut with preempt := true } } : Seat).latchCut)
  | _ => .next s

/-- A bookmark is armed at a pass (R390). -/
def Seat.armBookmark (st : Seat) (v : Word) : Seat :=
  ({ st with sys := { st.sys with bmark := v &&& 0xFFFFFFFF00000001#64 } } : Seat).bookmarkDue

/-- BMARK_ARM: the system core arms a bookmark (R390). -/
def execBmarkArm (r : SeatRef) (pass : BitVec 32) (s : State) : Res :=
  .next (s.modSeat r fun st => st.armBookmark (BitVec.ofNat 64 (pass.toNat * 2 ^ 32 + 1)))

/-! ## The cut at retirement -/

/-- The cut of a seat whose four streams have halted (R47): PREEMPT is discarded, no re-timing handler runs. -/
def State.retireCut (s : State) (r : SeatRef) : State :=
  let st := s.getSeat r
  let n := match st.cut.latch with | some l => l.n | none => BitVec.ofNat 32 (st.topPass + 1)
  let (s1, dlv) := s.applyCut r n 0 0 true
  let s2 := s1.modSeat r fun st => ({ st with cut := { st.cut with preempt := false } } : Seat).freezeEngines false
  match dlv with
  | some y => s2.deliverBound r y
  | none => if st.joined.2 then s2.deliverBookmark r else s2

/-! ## The fault service -/

/-- The fault recorded came with a cut that owes the re-timing handler (R194). -/
def Seat.resumeOwesRetime (st : Seat) : Bool :=
  st.owedRetime && (decide (fld st.trap.info 16 5 = 10) || decide (fld st.trap.info 16 5 = 19))

/-- What a resumed seat does again: its held commands retry (R289), its queues run (R390), failed fetches are tried again. -/
def Seat.wake (st : Seat) : Seat :=
  { (st.unstick).freezeEngines false with
    inst := { st.inst with phase := .running }, str := st.str.map fun (t : Stream) => t.dropBad }

/-- A Faulted seat resumed by the fault service (R47, R191, R194). -/
def Seat.resumeFaulted (st : Seat) : Seat :=
  if st.trap.nested then
    (({ st with trap := { st.trap with info := st.trap.info &&& ~~~2, nestInfo := st.trap.nestInfo &&& ~~~1 } } : Seat).modStr .K fun k =>
      { k with pc := st.trap.nestPc, halted := false, wait := .none }).wake
  else if st.resumeOwesRetime then (({ st with cut := { st.cut with pc := st.trap.pc } } : Seat).enterRetime).wake
  else if st.cut.atRetire && decide (st.trap.src = 7) then
    ({ st with trap := { st.trap with info := st.trap.info &&& ~~~5 }, c := { st.c with held := false } } : Seat).wake
  else
    let st1 := st.restart st.trap.pc
    ({ st1 with trap := { st1.trap with info := st1.trap.info &&& ~~~5 } } : Seat).wake.latchCut

/-- A pre-empted seat, its context written back (R47, R50, R194): a RETIME of the same cut runs its handler now. -/
def Seat.resumePreempted (st : Seat) : Seat :=
  let st := st.wake
  if bit st.cut.info 3 && decide (st.cut.retimeVec ≠ 0) then st.enterRetime else (st.restart st.cut.pc).latchCut

/-- FAULT_SERVICE_RESUME: the system core resumes a Faulted or a pre-empted seat (R25, R194). -/
def execFaultServiceResume (r : SeatRef) (s : State) : Res :=
  match (s.getSeat r).inst.phase with
  | .faulted => .next (s.modSeat r Seat.resumeFaulted)
  | .preempted => .next ((s.restoreContext r).modSeat r Seat.resumePreempted)
  | _ => .next s

end Sys2Proof.Machine
end

