-- ==== Sys2Proof/Machine/Header.lean ====
section
/-!
DEFINITION. Launch packets: the header fields and work identifiers (R19 to R22), the checks of R309, seat groups (R20, R365) and
levels (R21, R22).
-/
namespace Sys2Proof.Machine

/-! ## Header fields (R308) -/

/-- A field of a launch header: role, width, extent, lowest bit of the identifier. -/
structure HField where
  role  : Nat
  width : Nat
  ext   : Nat
  lo    : Nat
  deriving DecidableEq, Repr

/-- The fields F_j on, of which n are left, from bit lo on. -/
def fieldsFrom (dw : List Word) : Nat → Nat → Nat → List HField
  | 0, _, _ => []
  | n + 1, j, lo =>
    let w := dw.getD (2 + j) 0
    ⟨fld w 40 3, fld w 32 6, fld w 0 32 + 1, lo⟩ :: fieldsFrom dw n (j + 1) (lo + fld w 32 6)

/-- NF, MASK, PRIO and the extended form. -/
def pktNf (dw : List Word) : Nat := fld (dw.getD 0 0) 8 3
def pktMask (dw : List Word) : Nat := fld (dw.getD 0 0) 16 8
def pktPrio (dw : List Word) : Nat := fld (dw.getD 0 0) 12 3
def pktType (dw : List Word) : Nat := fld (dw.getD 0 0) 0 8
def pktExt (dw : List Word) : Bool := pktType dw = 2

/-- The fields of a packet. -/
def headerFields (dw : List Word) : List HField := fieldsFrom dw (pktNf dw) 0 0

/-- Every reserved bit is 0 and NF and the widths are in range (R309 check 2). -/
def reservedOk (dw : List Word) : Bool :=
  let d (i : Nat) : Word := dw.getD i 0
  let nf := pktNf dw
  fld (d 0) 32 32 = 0 && !bit (d 0) 15 && !bit (d 0) 11 && fld (d 1) 0 6 = 0 && 1 ≤ nf && nf ≤ 6 &&
    ((List.range 6).all fun j => if j < nf then fld (d (2 + j)) 43 21 = 0 && fld (d (2 + j)) 38 2 = 0 else decide (d (2 + j) = 0)) &&
    (!pktExt dw || ([8, 9].all fun i => fld (d i) 19 12 = 0 && fld (d i) 6 3 = 0) && fld (d 11) 32 32 = 0 && d 14 = 0 && d 15 = 0) &&
    (headerFields dw).all fun f => 1 ≤ f.width && f.width ≤ 32

/-- The range of a spatial role's extent on a part (R19). -/
def roleRange (p : Part) (role : Nat) : Nat := match role with | 0 => 2 | 1 => 8 | 2 => 14 | _ => if p = .mz5a then 4 else 8

/-- The conditions of R19. -/
def rolesOk (p : Part) (dw : List Word) : Bool :=
  let fs := headerFields dw
  (fs.foldr (fun f n => f.width + n) 0) ≤ 64 &&
    (fs.all fun f => f.ext ≤ 2 ^ f.width && f.role ≤ 5 && (4 ≤ f.role || f.ext ≤ roleRange p f.role) &&
      (f.role ≠ 3 || f.ext ≤ popCount 8 (pktMask dw))) &&
    [0, 1, 2, 3].all fun r => (fs.filter fun f => decide (f.role = r)).length ≤ 1

/-! ## Identifiers -/

/-- Product of the extents of the fields that satisfy p. -/
def extents (p : HField → Bool) (fs : List HField) : Nat := (fs.filter p).foldr (fun f n => f.ext * n) 1

/-- Fixed fields, SERIAL fields, FREE fields. -/
def HField.isFixed (f : HField) : Bool := f.role < 4
def HField.isSerial (f : HField) : Bool := f.role = 4
def HField.isFree (f : HField) : Bool := f.role = 5

/-- The identifier whose fixed, FREE and SERIAL values are the mixed-radix digits of three numbers, the lowest field fastest (R20,
R21). -/
def widOf : List HField → Nat → Nat → Nat → Nat
  | [], _, _, _ => 0
  | f :: r, key, free, serial =>
    if f.isFixed then key % f.ext * 2 ^ f.lo + widOf r (key / f.ext) free serial
    else if f.isSerial then serial % f.ext * 2 ^ f.lo + widOf r key free (serial / f.ext)
    else free % f.ext * 2 ^ f.lo + widOf r key (free / f.ext) serial

/-- The identifier of an instance of a launch. -/
def Launch.wid (l : Launch) (key free serial : Nat) : Word := BitVec.ofNat 64 (widOf (headerFields l.dw) key free serial)

/-- The number of instances, of FREE combinations, of SERIAL combinations. -/
def Launch.instances (l : Launch) : Nat := extents (fun _ => true) (headerFields l.dw)
def Launch.frees (l : Launch) : Nat := extents HField.isFree (headerFields l.dw)
def Launch.serials (l : Launch) : Nat := extents HField.isSerial (headerFields l.dw)

/-! ## Seat groups (R20, R365) -/

/-- The value that a map c → c + Δ or Δ − c takes to x. -/
def unmap (refl : Bool) (d x : Nat) : Option Nat :=
  if refl then (if x ≤ d then some (d - x) else none) else if d ≤ x then some (x - d) else none

/-- The value of a fixed field at a seat: SEAT, mapped CORE and CLUSTER, and the index of the die in the mask. -/
def fixedValue (mask : Nat) (bind : Word) (r : SeatRef) (f : HField) : Option Nat :=
  let c := r.core.val % 112
  let v := match f.role with
    | 0 => some r.seat.val
    | 1 => unmap (bit bind 29) (fld bind 32 3) (c % 8)
    | 2 => unmap (bit bind 28) (fld bind 24 4) (c / 8)
    | _ => some (popCount (coreDie r.core).val mask)
  match v with
  | some x => if x < f.ext then some x else none
  | none => none

/-- The number of a seat's fixed coordinates; none when a field's extent shuts the seat out. -/
def keyFrom (mask : Nat) (bind : Word) (r : SeatRef) : List HField → Option Nat
  | [] => some 0
  | f :: fs =>
    if f.isFixed then
      match fixedValue mask bind r f, keyFrom mask bind r fs with
      | some v, some k => some (v + f.ext * k)
      | _, _ => none
    else keyFrom mask bind r fs

/-- The fixed coordinates under which a launch has an unplaced group for a seat, and the group's FREE index (R316). -/
def Launch.groupFor (l : Launch) (r : SeatRef) : Option (Nat × Nat) :=
  if l.aborted || r.isSys || !(pktMask l.dw).testBit (coreDie r.core).val then none
  else match keyFrom (pktMask l.dw) (l.desc.getD 14 0) r (headerFields l.dw) with
    | none => none
    | some k =>
      let n := (assoc k l.placed).getD 0
      if n < l.frees then some (k, n) else none

/-! ## Levels (R21, R22) -/

/-- The identifier bits of the first j fields that a level group leaves open: those of non-SERIAL fields. -/
def levelOpen (fs : List HField) (j : Nat) : Nat :=
  (fs.take j).foldr (fun f n => (if f.isSerial then 0 else (2 ^ f.width - 1) * 2 ^ f.lo) + n) 0

/-- What names the level-j group of an identifier, restricted to its SERIAL values (R22). -/
def levelKey (fs : List HField) (j : Nat) (wid : Word) : Nat := (wid &&& ~~~(BitVec.ofNat 64 (levelOpen fs j))).toNat

/-- The size of a level-j group restricted to one set of SERIAL values (R22). -/
def levelSize' (fs : List HField) (j : Nat) : Nat := extents (fun f => !f.isSerial) (fs.take j)

/-- The index of an identifier at level j (R21). -/
def levelIndexOf : List HField → Nat → Nat → Nat
  | _, 0, _ => 0
  | [], _, _ => 0
  | f :: r, j + 1, wid => wid / 2 ^ f.lo % 2 ^ f.width + f.ext * levelIndexOf r j wid

end Sys2Proof.Machine
end

