-- ==== Sys2Proof/Machine/Launch.lean ====
section
/-!
DEFINITION. Launch queues and placement (R306 to R317), the instance from launch to retirement (R25, R26): LAUNCH, BAR and their
events.
-/
namespace Sys2Proof.Machine

/-! ## Queues -/

/-- The die and the queue of a queue id (R306). -/
def qDie (q : Fin 512) : Fin 8 := ⟨q.val / 64, by omega⟩
def qIndex (q : Fin 512) : Fin 64 := ⟨q.val % 64, by omega⟩

/-- A launch queue. -/
def State.lq (s : State) (q : Fin 512) : LaunchQ := s.die[qDie q].lq[qIndex q]

/-- Changing a die. -/
def State.modDie (s : State) (d : Fin 8) (f : Die → Die) : State := { s with die := vmod s.die d f }

/-- Changing a launch queue. -/
def State.modLq (s : State) (q : Fin 512) (f : LaunchQ → LaunchQ) : State :=
  s.modDie (qDie q) fun d => { d with lq := vmod d.lq (qIndex q) f }

/-- Fields of the queue registers (R306). -/
def LaunchQ.head' (l : LaunchQ) : Nat := fld l.ptr 32 32
def LaunchQ.tail (l : LaunchQ) : Nat := fld l.ptr 0 32
def LaunchQ.size (l : LaunchQ) : Nat := fld l.ring 0 4
def LaunchQ.en (l : LaunchQ) : Bool := bit l.ctl 10
def LaunchQ.stopped (l : LaunchQ) : Bool := bit l.ctl 11
def LaunchQ.active (l : LaunchQ) : Bool := bit l.ctl 12
def LaunchQ.prioMax (l : LaunchQ) : Nat := fld l.ctl 16 3

/-- The ring is usable (R306). -/
def LaunchQ.sizeOk (l : LaunchQ) : Bool := 4 ≤ l.size && l.size ≤ 14

/-- The address of ring slot n (R306). -/
def LaunchQ.slot (l : LaunchQ) (n : Nat) : Nat := fld l.ring 12 52 * 4096 + 64 * (n % 2 ^ l.size)

/-- Slots written and not consumed. -/
def LaunchQ.used (l : LaunchQ) : Nat := (l.tail + 2 ^ 32 - l.head') % 2 ^ 32

/-- The front end stops a queue (R309); the interrupt of the system core is not modelled (log 24). -/
def State.stopQueue (s : State) (q : Fin 512) (err : Nat) : State :=
  s.modLq q fun l => { l with ctl := putFld (putFld (l.ctl ||| 0x800) 20 4 err) 32 32 l.head', head := none, wait := none }

/-- The queue can take its next packet: enabled, running, its predecessor completed (R307). -/
def State.queueFree (s : State) (q : Fin 512) : Bool :=
  let l := s.lq q
  l.en && !l.stopped && !l.active && decide (l.used ≠ 0) && l.sizeOk && !s.dieInReset (qDie q).val

/-- A packet copied into ring slots from slot number n on, 64 bytes a slot. -/
def State.enqueue (s : State) (q : Fin 512) (dw : List Word) : State :=
  let l := s.lq q
  let d := qDie q
  let s1 := s.hubWriteWords d (l.slot l.tail) (dw.take 8)
  let s2 := if 8 < dw.length then s1.hubWriteWords d (l.slot (l.tail + 1)) (dw.drop 8) else s1
  s2.modLq q fun l => { l with ptr := putFld l.ptr 0 32 (l.tail + (if 8 < dw.length then 2 else 1)) }

/-! ## LAUNCH (R312) -/

/-- The dies LAUNCH names, lowest first, that are absent or quarantined. -/
def State.launchAbsent (s : State) (die mask : Nat) : Option Nat :=
  (List.range 8).find? fun d => (decide (d = die) || mask.testBit d) && !s.dieUsable d

/-- What the reads of a task descriptor's code version meet is logged and counted (R230). -/
def State.descNote (s : State) (q : Fin 512) (desc : Nat) : State := s.hubNote (qDie q) (desc / 256 * 256) 2

/-- LAUNCH's test of a task descriptor (R368): revoked, and the address of its translation-catalogue entry. -/
def State.revoked (s : State) (d : Fin 8) (desc : Nat) : Option Nat :=
  match s.hubWord d (desc + 8 * 15), s.hubWord d (desc + 8 * 16) with
  | some svn, some tcat => if fld svn 0 32 < s.secctr.toNat then some tcat.toNat else none
  | _, _ => none

/-- VALID of a catalogue entry is cleared (R368, R373). -/
def State.clearEntry (s : State) (d : Fin 8) (tcat : Nat) : State :=
  if tcat = 0 then s
  else match s.hubWord d (tcat + 80) with
    | some w => s.hubWrite d (tcat + 80) 8 (w &&& ~~~1).toNat
    | none => s

/-- Release at device scope by the running stream, and the XFENCE conditions for S, since its instruction first issued (R312). -/
def State.launchReleased (s : State) (since : Nat) : Bool := s.relMet s.turn .device s.seq && s.xfenceMet since

/-- The core cycle in which a LAUNCH or BAR first issued. -/
def State.launchSince (s : State) : Nat := match s.me.wait with | .xfence c => c | _ => s.myCore.cycle

/-- Doublewords of a checked packet slot as the running stream reads them. -/
def packetWords (v : Nat) : List Word := (List.range 8).map fun i => BitVec.ofNat 64 (v / 2 ^ (64 * i) % 2 ^ 64)

/-- A packet slot that LAUNCH reads: its place checked, its value, or what stops it. -/
inductive PktRead where
  | ok (v : Nat) (s : State)
  | fault (f : Flt) (s : State)
  | missing (d : Nat)
  | wait

/-- A read of 64 bytes by the running stream. -/
def State.readSlot (s : State) (va : Word) : PktRead :=
  match s.check s.turn va 64 .rd false false with
  | (.fault f, s1) => .fault f s1
  | (.missing d, _) => .missing d
  | (.ok p, s1) =>
    if !s.drained p va 64 then .wait
    else match s.answer p 64 s.turn.isY with
      | .ok => .ok (s.dataAt p 64) ((s1.noteCorr (some s.turn.ref) p 64).hear s.turn none (s.heardAt p 64))
      | .uncorrectable => .fault (Flt.at' .poison 0 va) (s1.noteBad p 64 false)
      | .dieReset => .fault (Flt.at' .poison 15 va) s1

/-- LAUNCH with its packet read: the remaining checks, the release, and the step at the hub (R312). -/
def State.launchWith (s : State) (d : SSpec) (srcs : List SSpec) (q : Fin 512) (dw : List Word) : Res :=
  let h := dw.getD 0 0
  let desc := fld (dw.getD 1 0) 6 58 * 64
  if qIndex q = 63 && !s.turn.isY then s.raise (Flt.mk' .perm 56)
  else match s.launchAbsent (qDie q).val (fld h 16 8) with
    | some k => s.raise (Flt.mk' .dieAbsent k)
    | none =>
      match s.revoked (qDie q) desc with
      | some tcat => ((s.descNote q desc).clearEntry (qDie q) tcat).raise (Flt.mk' .codeRevoked 0)
      | none =>
        if !s.launchReleased s.launchSince then .next (s.modMe fun t => { t with wait := .xfence s.launchSince })
        else
          let s := s.descNote q desc
          let l := s.lq q
          let n := if 8 < dw.length then 2 else 1
          if !l.sizeOk || 2 ^ l.size < l.used + n then .next (((s.takes srcs).wr d 1 2 0).retire)
          else .next ((((s.enqueue q dw).takes srcs).wr d 1 2 (BitVec.ofNat 64 (l.tail % 2 ^ l.size + 1))).retire)

/-- LAUNCH (R312). -/
def execLaunch (d a b : SSpec) (s : State) : Res :=
  if !s.classOk [a, b] [d] then s.raiseClass
  else match s.memWait [a, b] [d] with
    | some why => s.stall why
    | none =>
      let va := s.peek a
      let v := (s.peeks [a, b]).getD 1 0
      let q : Fin 512 := ⟨fld v 6 3 * 64 + fld v 0 6, by simp only [fld]; omega⟩
      match s.readSlot va with
      | .wait => s.stall none
      | .missing k => s.holdPage va k
      | .fault f s1 => s1.raise f
      | .ok lo s1 =>
        if lo % 256 ≠ 2 then s1.launchWith d [a, b] q (packetWords lo)
        else match s1.readSlot (va + 64) with
          | .wait => s.stall none
          | .missing k => s.holdPage (va + 64) k
          | .fault f s2 => s2.raise f
          | .ok hi s2 => s2.launchWith d [a, b] q (packetWords lo ++ packetWords hi)

/-! ## The head of a queue (R309, R311) -/

/-- The packet at the head of a queue; none when its slots cannot be read. -/
def State.headPacket (s : State) (q : Fin 512) : Option (List Word) :=
  let l := s.lq q
  match s.hubWords (qDie q) (l.slot l.head') 8 with
  | none => none
  | some dw =>
    if pktExt dw then (s.hubWords (qDie q) (l.slot (l.head' + 1)) 8).map fun e => dw ++ e else some dw

/-- The core a flag wait names; none above core 111. -/
def waitCore (w : Word) : Option (Fin 904) :=
  if h : fld w 9 7 < 112 then some ⟨fld w 16 3 * 112 + fld w 9 7, by simp only [fld] at *; omega⟩ else none

/-- The core cycle of a wait's flag. -/
def State.waitCycle (s : State) (w : Word) : Nat := match waitCore w with | some c => s.core[c].cycle | none => 0

/-- The flag waits of a packet: doublewords 8 and 9 of the extended form. -/
def pktWait (dw : List Word) (n : Nat) : Word := if pktExt dw then dw.getD n 0 else 0

/-- PACKET_AT_HEAD (R309): a packet reaches the head; the checks in order; the first that fails stops the queue. A packet that cannot be
read is of no known type (log 24). -/
def execPacketAtHead (q : Fin 512) (s0 : State) : Res :=
  let s := s0.hubNote (qDie q) ((s0.lq q).slot (s0.lq q).head' / 256 * 256) 1
  if !s0.queueFree q || (s0.lq q).head.isSome then .next s0
  else match s.headPacket q with
    | none => .next (s.stopQueue q 2)
    | some dw =>
      if pktType dw ≠ 1 && pktType dw ≠ 2 then .next (s.stopQueue q 2)
      else if !reservedOk dw || !rolesOk s.fuse.part dw then .next (s.stopQueue q 1)
      else if (List.range 8).any fun d => (pktMask dw).testBit d && !s.dieUsable d then .next (s.stopQueue q 3)
      else match s.hubWords (qDie q) (fld (dw.getD 1 0) 6 58 * 64) 32 with
        | none => .next (s.stopQueue q 5)
        | some desc =>
          if fld (desc.getD 17 0) 0 32 ≠ 0x4D5A5444 then .next (s.stopQueue q 5)
          else .next ((s.hubNote (qDie q) (fld (dw.getD 1 0) 8 56 * 256) 2).modLq q fun l =>
            { l with head := some (dw, desc), wait := some ⟨false, s.waitCycle (pktWait dw 8), s.waitCycle (pktWait dw 9), false, false⟩ })

/-- The flag of a wait. -/
def State.waitFlag (s : State) (w : Word) : Flag :=
  match waitCore w with
  | some c => s.core[c].flags[(⟨fld w 0 6, by simp only [fld]; omega⟩ : Fin 64)]
  | none => ⟨0, 0, 0, []⟩

/-- The accession a wait names. -/
def waitAcc (w : Word) : BitVec 32 := BitVec.ofNat 32 (fld w 32 32)

/-- A flag wait names a setter that has not been pushed (R311). -/
def State.waitForward (s : State) (w : Word) : Bool :=
  bit w 31 && decide (waitAcc w ≠ 0) && decide (waitAcc w ≠ (s.waitFlag w).pushed) && !accFollows (waitAcc w) (s.waitFlag w).pushed

/-- A flag wait is met (R311). -/
def State.waitMet (s : State) (w : Word) : Bool :=
  !bit w 31 || decide (waitAcc w = 0) || decide ((s.waitFlag w).done = waitAcc w) || accFollows (waitAcc w) (s.waitFlag w).done

/-- A packet's sync-word wait is met (R311). -/
def State.syncMet (s : State) (q : Fin 512) (dw : List Word) : Bool :=
  let a := dw.getD 10 0
  if a = 0 then true
  else match s.hubRead (qDie q) a.toNat 16 with
    | some w => genPassed (syncGen w) (fld (dw.getD 11 0) 0 32)
    | none => false

/-- What the front end's read of a packet's sync word meets is logged and counted (R230). -/
def State.syncNote (s : State) (q : Fin 512) (dw : List Word) : State :=
  let a := if pktExt dw then dw.getD 10 0 else 0
  if a = 0 then s else s.hubNote (qDie q) (a.toNat / 256 * 256) 1

/-- A newly met flag wait writes its record in the ring of its flag's core (R286, R311). -/
def State.recordWait (s : State) (w : Word) (since : Nat) : State :=
  match waitCore w with
  | some c =>
    let f := s.waitFlag w
    s.waitRecord c none 7 (fld w 0 6) f.kind.val f.done.toNat (s.core[c].cycle - since)
  | none => s

/-- A wait of a packet may be met in this core cycle of its flag's core (R386). -/
def State.waitTurn (s : State) (w : Word) : Bool := match waitCore w with | some c => s.core[c].mayMeet 7 | none => true

/-- One wait of the head packet is evaluated: the state, and whether it is met now. -/
def State.stepWait (s : State) (w : Word) (since : Nat) (met : Bool) : State × Bool :=
  if met || !bit w 31 then (s, true)
  else if s.waitMet w && s.waitTurn w then (s.recordWait w since, true)
  else (s, false)

/-! ## Completion (R25, R307, R311) -/

/-- A launch completes: HEAD advances, ACTIVE and LEVEL return to 0, an abort sets ABORTED, the completion sync word counts one byte
(none in the board region, where only stream Y may write: R327, log 24), the graph that sent it goes on. -/
def State.completeLaunch (s : State) (l : Launch) : State :=
  let n := if l.ext then 2 else 1
  let h := (s.lq l.q).head'
  let s1 := s.modLq l.q fun x =>
    { x with ptr := putFld x.ptr 32 32 (h + n), ctl := (putFld x.ctl 12 4 0) ||| (if l.aborted then 0x80000 else 0), head := none,
             wait := none, done := s.seq }
  let csw := (l.dw.getD 13 0).toNat
  { s1 with
    launches := s1.launches.filter fun x => decide (x.q ≠ l.q),
    barriers := s1.barriers.filter fun b => decide (b.q ≠ l.q),
    arrivals := if l.ext && csw ≠ 0 && csw < 2 ^ 41 && !inBoardRegion csw then s1.arrivals ++ [⟨csw, 1, .hub (qDie l.q), none⟩] else s1.arrivals,
    graphs := s1.graphs.map fun (g : Graph) =>
      if g.pending.any fun x => decide (x = (l.q, BitVec.ofNat 32 h)) then
        { g with pending := g.pending.filter (fun x => decide (x ≠ (l.q, BitVec.ofNat 32 h))), aborted := g.aborted || l.aborted }
      else g }

/-- Every fill begun before the predecessor's completion has ended (R369). -/
def State.codeAcquired (s : State) (n : Nat) : Bool := !(s.die.toList.any fun d => d.fills.any fun f => decide (f.id < n))

/-- What the met waits of a packet acquire: the releases its flags signalled, and those that its sync word holds (R253, R311). -/
def State.waitHeard (s : State) (dw : List Word) : List Heard :=
  let flag (w : Word) : List Heard := if bit w 31 then (s.waitFlag w).heard else []
  let a := if pktExt dw then dw.getD 10 0 else 0
  s.stillHeard (flag (pktWait dw 8) ++ flag (pktWait dw 9)) ++
    if a = 0 then [] else if isWindow a then s.heardAt (windowPlace a.toNat false) 16 else []

/-- The head packet becomes active, and its demands are sent; with a zero mask it completes at once (R23, R315). The met waits are an
acquire at device scope of its instances (R311). -/
def State.activate (s : State) (q : Fin 512) (dw desc : List Word) : State :=
  let l : Launch := { q := q, dw := dw, desc := desc, ext := pktExt dw, placed := [], retired := [], aborted := false,
                      ready := Vector.replicate 8 s.timebase.toNat, owed := [], heard := s.waitHeard dw }
  if pktMask dw = 0 then s.completeLaunch l
  else
    let s1 := s.modLq q fun x => { x with ctl := x.ctl ||| 0x1000 }
    { s1 with launches := s1.launches ++ [l] }

/-- LAUNCH_ACTIVATION (R307, R311): the waits of the packet at the head are evaluated; a wait on a setter not yet pushed stops the
queue with FORWARD at the first evaluation; when all are met, the packet becomes active. -/
def execLaunchActivation (q : Fin 512) (s : State) : Res :=
  match (s.lq q).head with
  | none => .next s
  | some (dw, desc) =>
    if !s.queueFree q then .next s
    else
      let w8 := pktWait dw 8
      let w9 := pktWait dw 9
      let w := (s.lq q).wait.getD ⟨false, s.waitCycle w8, s.waitCycle w9, false, false⟩
      if !w.seen && (s.waitForward w8 || s.waitForward w9) then .next (s.stopQueue q 4)
      else
        let a := s.stepWait w8 w.at8 w.met8
        let b := a.1.stepWait w9 w.at9 w.met9
        if a.2 && b.2 && (!pktExt dw || s.syncMet q dw) && s.codeAcquired (s.lq q).done then
          .next ((b.1.syncNote q dw).activate q dw desc)
        else .next (b.1.modLq q fun l => { l with wait := some { w with seen := true, met8 := a.2, met9 := b.2 } })

/-- LQ_RESTART (R309): the system core writes STOPPED 0, and the queue resumes at HEAD. -/
def execLqRestart (q : Fin 512) (s : State) : Res :=
  .next (s.modLq q fun l => { l with ctl := l.ctl &&& ~~~0x800, head := none, wait := none })

/-- ABORTED_CLEAR (R306). -/
def execAbortedClear (q : Fin 512) (s : State) : Res := .next (s.modLq q fun l => { l with ctl := l.ctl &&& ~~~0x80000 })

/-! ## Seats (R315, R316) -/

/-- The effective level of a launch's demand on a die (R315, R316). -/
def State.demandLevel (s : State) (d : Fin 8) (l : Launch) : Nat :=
  min 7 (min (pktPrio l.dw) (s.lq l.q).prioMax + (s.timebase.toNat - l.ready[d]) / (fld s.die[d].ageUs 0 16 * 1000))

/-- Demands with an unplaced group for a seat. -/
def State.demands (s : State) (r : SeatRef) : List Launch := s.launches.filter fun l => (l.groupFor r).isSome

/-- Tie pointer of a level (R306, R316). -/
def Die.tie (d : Die) (v : Nat) : Nat := if h : v < 8 then d.arbPtr[v].toNat else 0

/-- The demand granted a seat, with its level (R316). -/
def State.seatWinner (s : State) (d : Fin 8) (r : SeatRef) : Option (Launch × Nat) :=
  let c := (s.demands r).map fun l => (l, s.demandLevel d l)
  let top := c.foldr (fun x m => max x.2 m) 0
  firstBy (fun a b => decide ((a.1.q.val + 512 - s.die[d].tie top) % 512 < (b.1.q.val + 512 - s.die[d].tie top) % 512))
    (c.filter fun x => decide (x.2 = top))

/-- The seats of a die in the order in which free ones are granted (R316). -/
def dieSeats (d : Fin 8) : List SeatRef :=
  (List.finRange 112).flatMap fun c => (List.finRange 2).map fun k => ⟨⟨d.val * 112 + c.val, by omega⟩, k⟩

/-- The first free seat of a die that some demand can take. -/
def State.freeSeat (s : State) (d : Fin 8) : Option SeatRef :=
  (dieSeats d).find? fun r => decide ((s.getSeat r).inst.phase = .free) && !(s.demands r).isEmpty

/-- A lexicon entry as `.sym` declares it (R321, R361 KIND 3). -/
def LexEntry.declared (d0 d1 par : Word) : LexEntry :=
  { LexEntry.reset with
    hi := BitVec.ofNat 24 (fld d0 40 24), lo := BitVec.ofNat 24 (fld d0 16 24), policy := BitVec.ofNat 2 (fld d0 6 2),
    b := BitVec.ofNat 24 (fld d1 40 24), par := par }

/-- The lexicon of a seat group's first instance (R26, R321). -/
def State.declaredLexicon (s : State) (d : Fin 8) (lexd : Nat) (par : Word) : Vector LexEntry 32 :=
  match if lexd = 0 then none else s.hubWords d lexd 64 with
  | some w => Vector.ofFn fun y => LexEntry.declared (w.getD (2 * y.val) 0) (w.getD (2 * y.val + 1) 0) par
  | none => Vector.replicate 32 { LexEntry.reset with par := par }

/-- The eight WIN values of a launch's grant (R196, R366). -/
def State.grantWins (s : State) (d : Fin 8) (wins : Nat) : Vector Word 8 :=
  match if wins = 0 then none else s.hubWords d wins 8 with
  | some w => Vector.ofFn fun i => w.getD i.val 0 &&& ~~~0x3FFFFF0#64
  | none => Vector.replicate 8 0

/-- What the reads of a grant's lexicon and WIN values meet is logged and counted (R230). -/
def State.grantNote (s : State) (d : Fin 8) (lexd wins : Nat) : State :=
  let s1 := if lexd = 0 then s else s.hubNote d (lexd / 256 * 256) 3
  if wins = 0 then s1 else s1.hubNote d (wins / 256 * 256) 1

/-- The XLAT_ROOT that the system core writes at a dispatch from the launch's grant: the root of the image whose task it is (R367), else
FREE (R342; log 14). -/
def State.grantRoot (s : State) (l : Launch) : Word :=
  match s.images.find? fun i => i.descs.contains (fld (l.dw.getD 1 0) 6 58 * 64) with
  | some i => i.root
  | none => BitVec.ofNat 64 (Config.osChoice s.tick 1) &&& ~~~0xF0000000000#64

/-- DBG_CTL at a dispatch: 0, or FREE where the launch's own image was loaded under a debug token (R391; log 14). -/
def State.grantDbg (s : State) (l : Launch) : Word :=
  if s.images.any fun i => i.debug && i.descs.contains (fld (l.dw.getD 1 0) 6 58 * 64) then BitVec.ofNat 64 (Config.osChoice s.tick 2) &&& 0xFFFF0001 else 0

/-- The run of a translated object at its beginning (R372). -/
def PortRun.begin : PortRun := ⟨0, [], [], []⟩

/-- The seat at the dispatch of a seat group: the rows of R26 that its first instance sets, and what the grant writes (R196, R342,
R383). -/
def Seat.dispatch (st : Seat) (l : Launch) (key free : Nat) (lex : Vector LexEntry 32) (wins : Vector Word 8) (root dbg : Word) : Seat :=
  let d (i : Nat) : Word := l.desc.getD i 0
  { st with
    inst := { phase := .dispatched, q := l.q, task := BitVec.ofNat 64 (fld (l.dw.getD 1 0) 6 58 * 64), key := key, free := free, serial := 0,
              entry := #v[d 0, d 1, d 2, d 3], ebase := #v[d 4, d 5, d 6], arg := if l.ext then l.dw.getD 12 0 else 0,
              port := if bit (d 15) 32 then some PortRun.begin else none },
    lex := lex,
    trap := { TrapFile.reset with vec := d 10 &&& ~~~3, saveBase := st.trap.saveBase },
    cut := { CutFile.reset with retimeVec := d 9 &&& ~~~3, commaLimit := BitVec.ofNat 64 (max 1024 (fld (d 11) 0 32)) },
    sys := { st.sys with
      roles := if (qIndex l.q) = 63 then 0 else BitVec.ofNat 64 (fld (l.dw.getD 0 0) 24 8), schedTime := 0, win := wins, xlatRoot := root,
      perfCnt := Vector.replicate 16 0, perfSel := Vector.replicate 16 0, dbgCtl := dbg } }

/-- SEAT_GRANT (R316): the first free seat that a demand can take is granted to the demand of highest aged level. -/
def execSeatGrant (die : Fin 8) (s : State) : Res :=
  if !s.dieUsable die.val || s.dieInReset die.val then .next s
  else match s.freeSeat die with
    | none => .next s
    | some r =>
      match s.seatWinner die r with
      | none => .next s
      | some (l, v) =>
        match l.groupFor r with
        | none => .next s
        | some (k, n) =>
          let par := s.core[r.core].lexParam
          let lex := s.declaredLexicon die (l.desc.getD 7 0).toNat par
          let wins := s.grantWins die (l.desc.getD 13 0).toNat
          let s := s.grantNote die (l.desc.getD 7 0).toNat (l.desc.getD 13 0).toNat
          let s1 := s.modSeat r fun st => st.dispatch l k n lex wins (s.grantRoot l) (s.grantDbg l)
          let s2 := s1.modDie die fun d => { d with arbPtr := d.arbPtr.mapFinIdx fun i p _ => if i = v then BitVec.ofNat 9 (l.q.val + 1) else p }
          let s3 := s2.modLq l.q fun x => { x with ctl := putFld x.ctl 13 3 v }
          .next { s3 with launches := s3.launches.map fun (x : Launch) =>
            if x.q = l.q then { x with placed := setAssoc k (n + 1) x.placed, ready := x.ready.set die s.timebase.toNat } else x }

/-! ## Instances (R26) -/

/-- The stream with an index. -/
def streamAt (j : Fin 4) : StreamId := match j with | 0 => .K | 1 => .L | 2 => .C | 3 => .S

/-- The seat at the start of an instance: the rows "each instance" of R26, LARG (R310), VLEN and VSTAT (R131), the matrix registers
(R156, R164, R167), the board registers (R330, R333), the conjunction counts (R216). Each stream j stands behind the writes `fwd j` that its
launch's waits acquired (R311). -/
def Seat.begin' (st : Seat) (wid : Word) (fwd : StreamId → List Nat) : Seat :=
  { st with
    str := Vector.ofFn fun j => { Stream.reset with pc := st.inst.entry[j] &&& ~~~3, halted := false, fwd := fwd (streamAt j) },
    c := CSched.reset, vec := VecFile.reset, q := Vector.replicate 16 Fifo.reset, ln := Vector.replicate 64 Slot.reset,
    tile := TileFile.reset, cut := { st.cut with latch := none, atRetire := false }, loads := [], elems := [], conjL := 0, conjS := 0, tagsL := [],
    tagsS := [], vamo := none, eng := Vector.replicate 3 EngineCtx.reset, vm := Vector.replicate 4 0, bars := [],
    inst := { st.inst with phase := .running, port := st.inst.port.map fun _ => .begin }, sys := { st.sys with wid := wid, larg := st.inst.arg, bstatus := 0 } }

/-- INSTANCE_START (R26). -/
def execInstanceStart (r : SeatRef) (s : State) : Res :=
  let st := s.getSeat r
  if st.inst.phase ≠ .dispatched || s.dieInReset (coreDie r.core).val then .next s
  else match s.launchOf st.inst.q with
    | none => .next s
    | some l => .next (s.modSeat r fun st => (st.begin' (l.wid st.inst.key st.inst.free st.inst.serial) fun j => s.onWay (acquired ⟨r, j⟩ .device l.heard)).bookmarkDue.latchCut)

/-! ## Retirement (R25) -/

/-- The streams have halted and everything of the seat has drained (R25). DESIGN CHOICE (log 54): an engine program that has not executed
STOPW does not hold retirement when its queue is empty; it is dropped. -/
def State.mayRetire (s : State) (r : SeatRef) : Bool :=
  let st := s.getSeat r
  !r.isSys && s.cutMayRun r && st.allHalted && st.c.pipe.isEmpty && st.loads.isEmpty && st.stores.isEmpty && st.elems.isEmpty &&
    st.sideLog.isEmpty &&
    (st.eng.toList.all fun e => e.queue.isEmpty) &&
    !(s.flights.any fun f => match f.src with | .stream w => decide (w.ref = r) | _ => false)

/-- The writes of a seat's engine commands that are not yet performed at device scope. -/
def State.engineOwed (s : State) (r : SeatRef) : List Nat :=
  (s.flights.filter fun f => !f.performedAt .device && match f.src with
    | .engine c _ k _ => decide (c = r.core) && decide (k = r.seat)
    | _ => false).map fun f => f.id

/-- The launch completes with this instance, and a write of its instances' commands is not yet performed at device scope: the completion,
which releases it, waits (R25). -/
def State.completionHeld (s : State) (r : SeatRef) (l : Launch) : Bool :=
  decide (l.retired.length + 1 = l.instances) &&
    (!(s.engineOwed r).isEmpty || s.flights.any fun f => l.owed.contains f.id && !f.performedAt .device)

/-- An instance is retired; its seat takes the next of its group, or becomes free; the last one completes the launch. -/
def State.retireInst (s : State) (r : SeatRef) (l : Launch) : State :=
  let st := s.getSeat r
  let l' := { l with retired := st.sys.wid :: l.retired, owed := s.onWay l.owed ++ s.engineOwed r }
  let more := st.inst.serial + 1 < l.serials
  let s1 := s.modSeat r fun st =>
    { st with inst := { st.inst with phase := if more then .dispatched else .free, serial := st.inst.serial + 1 }, bars := [] }
  let s2 := { s1 with launches := s1.launches.map fun (x : Launch) => if x.q = l.q then l' else x }
  if l'.retired.length = l.instances then s2.completeLaunch l' else s2

/-- RETIREMENT (R25): a pending cut is performed first (R47); a sample of its core cycle comes after it (R324). -/
def execRetirement (r : SeatRef) (s : State) : Res :=
  let st := s.getSeat r
  if !s.mayRetire r then .next s
  else if st.cut.latch.isSome || st.cutPending then
    (if st.lexAt.1 = s.core[r.core].cycle + 1 then .next s else .next (s.retireCut r))
  else match s.launchOf st.inst.q with
    | none => .next s
    | some l => if s.completionHeld r l then .next s else .next (s.retireInst r l)

/-- A seat whose launch is aborted: its queues, side log and requests are emptied, and it becomes free (R25, R213, R277). -/
def Seat.abort (st : Seat) : Seat :=
  { st with
    inst := { st.inst with phase := .free }, sideLog := [], elems := [], loads := [], eng := Vector.replicate 3 EngineCtx.reset, bars := [],
    str := st.str.map fun (t : Stream) => { t with halted := true, comma := none, wait := .none, waiting := none, div := none },
    c := CSched.reset, trap := { st.trap with info := st.trap.info &&& ~~~7 },
    cut := { st.cut with latch := none, preempt := false, bookmark := false } }

/-- Seats, freezes and jobs of a launch's instances are given up. -/
def State.abortSeats (s : State) (q : Fin 512) : State :=
  let mine (st : Seat) : Bool := decide (st.inst.phase ≠ .free) && decide (st.inst.q = q)
  { s with
    core := s.core.mapFinIdx fun c x hc =>
      if 896 ≤ c then x
      else
        { x with
          seat := x.seat.map fun (st : Seat) => if mine st then st.abort else st,
          freeze := match x.freeze with
            | some (.slot k a b) => if mine x.seat[k] then none else some (.slot k a b)
            | some (.fetch k) => if mine x.seat[k] then none else some (.fetch k)
            | none => none },
    jobs := s.jobs.filter fun j => !mine (s.getSeat ⟨j.core, j.seat⟩) }

/-- The launch of a queue is aborted and completes with an error status (R25). -/
def State.abortLaunch (s : State) (l : Launch) : State := (s.abortSeats l.q).completeLaunch { l with aborted := true }

/-- A seat gives the fault service a reason to abort its launch: it stands Faulted (R25), or its side log holds an access to a page
that is not mapped (R213). -/
def State.abortable (s : State) (st : Seat) : Bool :=
  decide (st.inst.phase = .faulted) || st.sideLog.any fun e =>
    match s.walk st.sys.xlatRoot e.va.toNat with
    | .leaf _ _ => false
    | _ => true

/-- LAUNCH_ABORT (R25, R213): the fault service aborts the launch of a seat. -/
def execLaunchAbort (q : Fin 512) (s : State) : Res :=
  match s.launchOf q with
  | none => .next s
  | some l =>
    if (s.core.toList.take 896).any fun c => c.seat.toList.any fun st => s.abortable st && decide (st.inst.q = q) then
      .next (s.abortLaunch l)
    else .next s

/-! ## Level barriers (R317) -/

/-- A barrier group. -/
def State.barrierOf (s : State) (q : Fin 512) (j key : Nat) : Option Barrier :=
  s.barriers.find? fun b => decide (b.q = q) && decide (b.level = j) && decide (b.key = key)

/-- An arrival is registered at the leader hub, with the writes on their way that it releases. -/
def State.arrive (s : State) (q : Fin 512) (j key : Nat) (wid : Word) (ids : List Nat) : State :=
  match s.barrierOf q j key with
  | none => { s with barriers := s.barriers ++ [⟨q, j, key, 0, [wid], ids, []⟩] }
  | some _ =>
    { s with barriers := s.barriers.map fun (b : Barrier) =>
        if b.q = q && b.level = j && b.key = key then { b with arrived := wid :: b.arrived, ids := b.ids ++ ids } else b }

/-- The generation of a group; 0 before its first arrival. -/
def State.barGen (s : State) (q : Fin 512) (j key : Nat) : BitVec 32 := match s.barrierOf q j key with | some b => b.gen | none => 0

/-- The generation has reached g. -/
def genReached (gen g : BitVec 32) : Bool := decide ((gen - g).toNat < 2 ^ 31)

/-- The acquire of an opened group: K takes up what the arrivals released (R253, R317). -/
def State.barAcquire (s : State) (j key : Nat) : State :=
  match s.barrierOf s.mySeat.inst.q j key with
  | some b => s.modMe fun t => { t with fwd := s.onWay (t.fwd ++ b.opened) }
  | none => s

/-- BAR waits on its arrival, until the group's generation reaches it or a cut is latched (R317). -/
def State.barWait (s : State) (d : SSpec) (j key : Nat) (g : BitVec 32) : Res :=
  let st := s.mySeat
  if genReached (s.barGen st.inst.q j key) g then
    .next ((((s.barAcquire j key).modMySeat fun st => { st with bars := st.bars.filter fun b => decide (b.level ≠ j) }).wr d 1 2
      (g.setWidth 64)).retire)
  else if st.cut.latch.isSome then .next ((s.wr d 1 2 0).retire)
  else (s.modMe fun t => { t with wait := .bar j g }).stall none

/-- The arrival of the running instance at a level that a BAR waits on: the BAR's own, or one not yet opened (R317). -/
def State.barArrival (s : State) (q : Fin 512) (j key : Nat) : Option (BitVec 32) :=
  match s.me.wait with
  | .bar _ g => some g
  | _ => (s.mySeat.bars.find? fun b => decide (b.level = j) && !genReached (s.barGen q j key) b.gen).map fun b => b.gen

/-- BAR (R317). -/
def execBar (d : SSpec) (j : Fin 7) (s : State) : Res :=
  if !s.classOk [] [d] then s.raiseClass
  else match s.blocked [] [d] with
    | some why => s.stall why
    | none =>
      if j = 0 then .next ((s.wr d 1 2 1).retire)
      else match s.launchOf s.mySeat.inst.q with
        | none => .next ((s.wr d 1 2 1).retire)
        | some l =>
          let fs := headerFields l.dw
          let n := min j.val fs.length
          let key := levelKey fs n s.mySeat.sys.wid
          if 65536 < levelSize' fs n then s.raise (Flt.mk' .undefOp 57)
          else match s.barArrival l.q n key with
            | some g => s.barWait d n key g
            | none =>
              if !s.launchReleased s.launchSince then .next (s.modMe fun t => { t with wait := .xfence s.launchSince })
              else
                let g := s.barGen l.q n key + 1
                let s1 := (s.arrive l.q n key s.mySeat.sys.wid (s.relIds s.turn.ref .K s.seq)).modMySeat fun st =>
                  { st with bars := (st.bars.filter fun b => decide (b.level ≠ n)) ++ [⟨n, g⟩] }
                s1.barWait d n key g

/-- BARRIER_OPEN (R317): barrier number i opens once every member has arrived or retired. -/
def execBarrierOpen (i : Nat) (s : State) : Res :=
  match s.barriers[i]? with
  | none => .next s
  | some b =>
    match s.launchOf b.q with
    | none => .next s
    | some l =>
      let fs := headerFields l.dw
      let gone := l.retired.filter fun w => decide (levelKey fs b.level w = b.key) && !b.arrived.contains w
      if b.arrived ≠ [] && decide (levelSize' fs b.level ≤ b.arrived.length + gone.length) then
        .next { s with barriers := s.barriers.modify i fun b => { b with gen := b.gen + 1, arrived := [], opened := b.ids, ids := [] } }
      else .next s

end Sys2Proof.Machine
end

