-- ==== Sys2Proof/Machine/Boards.lean ====
section
/-!
DEFINITION. Notice boards (R327 to R336): PVIEW and its rounds, BREAD, BRESET, BINFO.
-/
namespace Sys2Proof.Machine

/-! ## The board at its home (R328) -/

/-- A board's header: its window address, and its first three doublewords. -/
structure BoardHdr where
  at' : Nat
  d0  : Word
  d1  : Word
  d2  : Word
  deriving DecidableEq, Repr

/-- A doubleword in this package's windows as it stands at its home. -/
def State.homeWord (s : State) (a : Nat) : Word := BitVec.ofNat 64 (Cells.readN s.mem a 8)

/-- The header of the board at a window address. -/
def State.boardHdr (s : State) (a : Nat) : BoardHdr := ⟨a, s.homeWord a, s.homeWord (a + 8), s.homeWord (a + 16)⟩

/-- Fields of a header (R328). -/
def BoardHdr.edition (h : BoardHdr) : Nat := fld h.d0 32 32
def BoardHdr.level (h : BoardHdr) : Nat := fld h.d0 0 32
def BoardHdr.posted (h : BoardHdr) : Nat := fld h.d2 0 11
def BoardHdr.scope (h : BoardHdr) : Nat := fld h.d1 38 2
def BoardHdr.size (h : BoardHdr) : Nat := fld h.d1 36 2
def BoardHdr.slots (h : BoardHdr) : Nat := match h.size with | 0 => 64 | 1 => 256 | _ => 1024

/-- A valid header (R332). -/
def boardValid (d1 : Word) : Bool := fld d1 0 8 = 0xB5 && fld d1 38 2 ≠ 3 && fld d1 36 2 ≠ 3

/-- The scope of a board (R332: 3, 4 or 5). -/
def boardScope (d1 : Word) : Scope := match fld d1 38 2 with | 0 => .die | 1 => .device | _ => .domain

/-- The home admits a caller (R333): of its die (none: of another package). -/
def BoardHdr.admits (h : BoardHdr) (die : Option Nat) : Bool :=
  match h.scope, die with
  | 0, some d => decide (d = (windowHome h.at').die)
  | 1, some _ => true
  | 2, _ => true
  | _, _ => false

/-- The die of a caller. -/
def callerDie (w : Who) : Nat := (coreDie w.ref.core).val

/-- Slot s: PST and SLEVEL (R328). -/
def State.slotState (s : State) (a slot : Nat) : Bool × Nat :=
  let w := s.homeWord (a + 64 + 16 * slot)
  (bit w 32, fld w 0 32)

/-- A doubleword written at the board's home. -/
def State.boardWrite (s : State) (a : Nat) (v : Nat) : State :=
  s.performWrite (.hub ⟨a / 2 ^ 29 % 8, by omega⟩) .store (windowPlace a false) 8 v false true

/-- The header's refusal of a caller, with its detail (R332, R333): NOBOARD, SCOPE. -/
def BoardHdr.refuses (h : BoardHdr) (die : Option Nat) : Option Nat :=
  if !boardValid h.d1 then some 64 else if !h.admits die then some 67 else none

/-! ## The caller's checks -/

/-- The checks of a board address (R332, R335): the state with its TLB and the place, a fault, or a missing page. -/
def State.boardCheck (s : State) (va : Word) (rt : Right) : Acc × State :=
  match s.check s.turn va 64 rt false false with
  | (.ok p, s1) => if isWindow va && inBoardRegion va.toNat then (.ok p, s1) else (.fault (Flt.at' .board 64 va), s1)
  | r => r

/-- The answer that a home gives without looking at the board: a die-reset answer is BOARD, detail DIE_RESET (R334), an
uncorrectable one POISON. -/
def State.boardDown (s : State) (p : Place) (va : Word) : Option Flt :=
  match s.answer p 64 true with
  | .ok => none
  | .dieReset => some (Flt.at' .board 15 va)
  | .uncorrectable => some (Flt.at' .poison 0 va)

/-- The running stream's BSTATUS (R330). -/
def State.setBstatus (s : State) (code : Nat) : State :=
  s.modMySeat fun st => { st with sys := { st.sys with bstatus := BitVec.ofNat 64 (code % 8) } }

/-! ## PVIEW (R331, R332) -/

/-- The slots of a board posted at or below a level. -/
def State.boardView (s : State) (h : BoardHdr) (level : Nat) : BitVec 1024 :=
  BitVec.ofNat 1024 (tabulate 1 (fun t => if (s.slotState h.at' t).1 && (s.slotState h.at' t).2 ≤ level then 1 else 0) h.slots 0)

/-- What the posts of a view release (R258): the writes still on their way before each post whose slot it holds. -/
def State.viewHeard (s : State) (h : BoardHdr) (v : BitVec 1024) : List Heard :=
  s.stillHeard ((s.carried.filter fun c => decide (h.at' + 64 ≤ c.1.key) && decide (c.1.key < h.at' + 64 + 16 * h.slots) &&
    v.getLsbD ((c.1.key - h.at' - 64) / 16)).map fun c => c.2.2)

/-- Stream w acquires, at the board's scope, what the posts of a view release (R258). -/
def State.acquireView (s : State) (w : Who) (h : BoardHdr) (v : BitVec 1024) : State := s.hear w (some (boardScope h.d1)) (s.viewHeard h v)

/-- PVIEW ends with its answer: vmn, d and BSTATUS are written, or its fault is raised precisely (R332). -/
def State.endPview (s : State) (w : Who) (d : SSpec) (vm : Fin 4) (srcs : List SSpec) (va : Word) (x : BoardAns) (full : Bool) : State :=
  match x with
  | .fault k => (s.modStr w fun t => { t with wait := .none }).takeFault w.ref (Flt.at' .board k va) w.stream.idx.val
  | .poison => (s.modStr w fun t => { t with wait := .none }).takeFault w.ref (Flt.at' .poison 0 va) w.stream.idx.val
  | .view level v code =>
    State.fullHazard (s.as w fun s => (((srcs.foldl State.take s).modMySeat fun st => { st with vm := st.vm.set vm v }).setBstatus code |>.wr d 1 2
      (BitVec.ofNat 64 (level % 2 ^ 32))).retire) w full
  | .value _ _ => s

/-- PVIEW's answer comes: in a freeze of its core it is held until the freeze ends (R18; log 53). -/
def State.heardPview (s : State) (w : Who) (d : SSpec) (vm : Fin 4) (srcs : List SSpec) (va : Word) (x : BoardAns) (full : Bool) : State :=
  if s.coreHeld w.ref.core then s.modStr w fun t => { t with wait := .viewed d vm srcs va x full } else s.endPview w d vm srcs va x full

/-- The answer of a board of another package to a post, whose header's doubleword 1 the caller has read: it admits this package's callers
only at domain scope (R333) and refuses a slot at or beyond its count; else the board has another edition, or gives a view that holds the
caller's slot, with the level and REPOST or OK: FREE (R332; log 8). -/
def State.remoteView (s : State) (key : Nat) (d1 : Word) (slot : Nat) : BoardAns :=
  let h : BoardHdr := ⟨key, 0, d1, 0⟩
  let d := Config.remoteData s.tick key
  match Config.remoteError s.tick key with
  | some true => .fault 15
  | some false => .fault (match h.refuses none with | some k => k | none => if h.slots ≤ slot then 65 else 66)
  | none =>
    match h.refuses none with
    | some k => .fault k
    | none =>
      if h.slots ≤ slot then .fault 65
      else .view (fld d 0 10 + 1) (BitVec.ofNat 1024 (fld d 1024 h.slots) ||| BitVec.ofNat 1024 (2 ^ slot)) (fld d 32 1)

/-- A caller's place in the order of a round: device-wide core, then seat. -/
def callRank (w : Who) : Nat := w.ref.core.val * 2 + w.ref.seat.val

/-- PVIEW (R331, R332): the header is read first; the post leaves once the release holds, and K waits for the answer. -/
def execPview (g : PviewArgs) (s : State) : Res :=
  if !s.classOk [g.a, g.b] [g.d] then s.raiseClass
  else match s.me.wait with
  | .board _ _ _ _ => s.stall none
  | .viewed d vm srcs va x full => .next (s.endPview s.turn d vm srcs va x full)
  | _ =>
    match s.memWait [g.a, g.b, .x g.k] [g.d] with
    | some why => s.stall why
    | none =>
      let va := s.peek g.a
      match s.boardCheck va .at' with
      | (.fault f, s1) => s1.raise f
      | (.missing k, s1) => s1.holdPage va k
      | (.ok p, s1) =>
        if !s.drained p va 64 then s.stall none
        else match s.boardDown p va with
        | some f => s1.raise f
        | none =>
          let s1 := s1.noteCorr (some s.turn.ref) p 64
          let d1 : Word := BitVec.ofNat 64 (s.dataAt p 64 / 2 ^ 64 % 2 ^ 64)
          if !boardValid d1 then s1.raise (Flt.at' .board 64 va)
          else if !s.relMet s.turn (boardScope d1) s.seq then s.stall none
          else
            let v := (s.peeks [g.a, g.b]).getD 1 0
            let xk := s.me.rdX g.k
            let w := s.turn
            let post : Post := ⟨s1.seq, some w, Config.thisPackage, callRank w, va.toNat, xk, v, d1, s.relIds w.ref w.stream s.seq, false⟩
            let s2 := State.modMe { s1 with posts := s1.posts ++ [post], seq := s1.seq + 1 } fun t =>
              { t with wait := .board s1.seq g.d g.n [g.a, g.b] }
            if p.isLocal then .next s2
            else match s2.toPort (standOf w.ref.core) (OutFlit.of p.home.pkg 1 (some s1.seq)) with
              | some s3 => .next s3
              | none => s.stall none

/-- The fate of a post in a round (R332). -/
inductive PostMark where
  | fault (d : Nat)
  | take
  | repost
  deriving DecidableEq, Repr

/-- The slot and the edition of a post. -/
def Post.slot (p : Post) : Nat := fld p.xk 0 32
def Post.edition (p : Post) : Nat := fld p.xk 32 32

/-- The posts of a round marked in order (R332); `taken` are the slots taken so far. -/
def State.markPosts (s : State) (h : BoardHdr) : List Post → List Nat → List (Post × PostMark)
  | [], _ => []
  | p :: r, taken =>
    match h.refuses (p.who.map callerDie) with
    | some k => (p, .fault k) :: s.markPosts h r taken
    | none =>
      if h.slots ≤ p.slot then (p, .fault 65) :: s.markPosts h r taken
      else if p.edition ≠ h.edition then (p, .fault 66) :: s.markPosts h r taken
      else if (s.slotState h.at' p.slot).1 || taken.contains p.slot then (p, .repost) :: s.markPosts h r taken
      else (p, .take) :: s.markPosts h r (p.slot :: taken)

/-- A post goes into its place in the order of a round: package, device-wide core, then seat. -/
def insPost (p : Post) : List Post → List Post
  | [] => [p]
  | q :: r => if p.pkg * 2048 + p.rank < q.pkg * 2048 + q.rank then p :: q :: r else q :: insPost p r

/-- The posts that have arrived at a board, in the order of a round: all but those numbered `late`, which are still on their way (log 1). -/
def State.arrivedPosts (s : State) (a : Nat) (late : List Nat) : List Post :=
  (s.posts.filter fun p => decide (p.board = a) && !late.contains p.id).foldl (fun l p => insPost p l) []

/-- A taken slot is written at level `lvl`; it carries what its post releases (R258). -/
def State.writeSlot (s : State) (h : BoardHdr) (lvl : Nat) (p : Post) : State :=
  let a := h.at' + 64 + 16 * p.slot
  let s1 := (s.boardWrite a (2 ^ 32 + lvl)).boardWrite (a + 8) p.value.toNat
  match p.who with
  | some w => { s1 with carried := s1.carried ++ [(windowPlace a false, 16, ⟨.stream w, boardScope h.d1, s1.onWay p.ids⟩)] }
  | none => s1

/-- The answer of a marked post after the round. -/
def State.postAnswer (s : State) (h : BoardHdr) (lvl : Nat) (x : Post × PostMark) : BoardAns :=
  match x.2 with
  | .fault k => .fault k
  | .take => .view lvl (s.boardView h lvl) 0
  | .repost => let l := (s.slotState h.at' x.1.slot).2; .view l (s.boardView h l) 1

/-- An answer to another package is an error answer. -/
def BoardAns.err : BoardAns → Bool
  | .fault _ => true
  | .poison => true
  | _ => false

/-- The payload of an answer to another package. -/
def BoardAns.payload : BoardAns → Nat
  | .fault d => d
  | .poison => 0
  | .view l v c => l % 2 ^ 32 + c * 2 ^ 32 + v.toNat * 2 ^ 64
  | .value v c => v.toNat + c * 2 ^ 64

/-- An answer reaches the stream that still waits on its post, which acquires the view; one to another package goes to a port (R319). -/
def State.answerPost (s : State) (x : Post × BoardAns) : State :=
  match x.1.who with
  | none => (s.toPort ⟨none, (windowHome x.1.board).die⟩ { OutFlit.of x.1.pkg 0 none with err := x.2.err, data := x.2.payload }).getD s
  | some w =>
    match (s.getStr w).wait with
    | .board id d vm srcs =>
      if id = x.1.id then
        let s1 := match x.2 with | .view _ v _ => s.acquireView w (s.boardHdr x.1.board) v | _ => s
        s1.heardPview w d vm srcs (BitVec.ofNat 64 x.1.board) x.2 x.1.full
      else s
    | _ => s

/-- The act `remoteWake` for a stream that waits on a board of another package: its post has left the port, and its answer comes (R332). -/
def State.remoteBoard (s : State) (w : Who) : State :=
  match s.posts.find? fun p => decide (p.who = some w) && decide ((windowHome p.board).pkg ≠ Config.thisPackage) with
  | none => s
  | some p =>
    if s.inPort p.id then s
    else State.answerPost { s with posts := s.posts.filter fun q => decide (q.id ≠ p.id) } (p, s.remoteView p.board p.d1 p.slot)

/-- BOARD_ROUND (R332): a hub cycle of the home processes the posts that have arrived at one board as one round. -/
def execBoardRound (a : Nat) (late : List Nat) (s : State) : Res :=
  let ps := s.arrivedPosts a late
  let s1 := { s with posts := s.posts.filter fun p => !ps.contains p }
  if (windowHome a).pkg ≠ Config.thisPackage then .next s
  else if s.dieInReset (windowHome a).die then .next (ps.foldl (fun s p => s.answerPost (p, .fault 15)) s1)
  else
    let h := s.boardHdr a
    let marks := s.markPosts h ps []
    let taken := marks.filterMap fun x => if x.2 = .take then some x.1 else none
    let lvl := if taken.isEmpty then h.level else h.level + 1
    let s2 := if taken.isEmpty then s1
      else ((taken.foldl (fun s p => s.writeSlot h lvl p) s1).boardWrite a (h.edition * 2 ^ 32 + lvl)).boardWrite (a + 16)
        (h.posted + taken.length)
    .next ((marks.map fun x => (x.1, s2.postAnswer h lvl x)).foldl State.answerPost s2)

/-! ## BREAD, BRESET, BINFO (R335, R336) -/

/-- The answer of a board of another package to BREAD, BRESET or BINFO: no valid board, one that does not admit the caller, or what `f`
makes of 128 FREE bits (log 8). -/
def State.remoteValue (s : State) (key : Nat) (v : Word) (f : Word → Nat → BoardAns) : BoardAns :=
  let d := fld (Config.remoteData s.tick key) 0 128
  match Config.remoteError s.tick key with
  | some true => .fault 15
  | some false => .fault (if d % 2 = 0 then 64 else 67)
  | none => f v d

/-- A board instruction that K waits for, with the act at the home `f`: the state there and the answer; `g` is what a board of another
package can answer. -/
def State.boardAt (s : State) (d : SSpec) (srcs : List SSpec) (rt : Right) (f : State → BoardHdr → Word → State × BoardAns)
    (g : Word → Nat → BoardAns) : Res :=
  if !s.classOk srcs [d] then s.raiseClass
  else match s.memWait srcs [d] with
    | some why => s.stall why
    | none =>
      let va := s.peek (srcs.headD (.x 0))
      match s.boardCheck va rt with
      | (.fault x, s1) => s1.raise x
      | (.missing k, s1) => s1.holdPage va k
      | (.ok p, s1) =>
        let h := s.boardHdr va.toNat
        if !s.drained p va (64 + 16 * h.slots) then s.stall none
        else match s.boardDown p va with
        | some x => s1.raise x
        | none =>
          let s1 := s1.noteCorr (some s.turn.ref) p 64
          let r := if !p.isLocal then (s1, s.remoteValue p.key ((s.peeks srcs).getD 1 0) g)
            else match h.refuses (some (callerDie s.turn)) with
              | some k => (s1, .fault k)
              | none => f s1 h ((s.peeks srcs).getD 1 0)
          match r.2 with
          | .fault k => r.1.raise (Flt.at' .board k va)
          | .poison => r.1.raise (Flt.at' .poison 0 va)
          | .value v code => .next ((((r.1.takes srcs).setBstatus code).wr d 1 2 v).retire)
          | .view _ _ _ => .next s

/-- The answer of a board to a slot read (R335): BREAD, or BREAD.lvl. -/
def State.breadAns (lvl : Bool) (s : State) (h : BoardHdr) (slot : Nat) : BoardAns :=
  if h.slots ≤ slot then .fault 65
  else if s.answer (windowPlace (h.at' + 64 + 16 * slot) false) 16 true ≠ .ok then .poison
  else
    let x := s.slotState h.at' slot
    .value (if lvl then BitVec.ofNat 64 (h.edition * 2 ^ 32 + (if x.1 then 2 ^ 31 else 0) + x.2 % 2 ^ 31)
            else if x.1 then s.homeWord (h.at' + 72 + 16 * slot) else 0) (if x.1 then 0 else 5)

/-- BREAD or BREAD.lvl at the home (R335): one of a posted slot acquires its post. -/
def State.breadAt (lvl : Bool) (s : State) (h : BoardHdr) (v : Word) : State × BoardAns :=
  let slot := fld v 0 32
  let s1 := if slot < h.slots then s.noteCorr (some s.turn.ref) (windowPlace (h.at' + 64 + 16 * slot) false) 16 else s
  (if slot < h.slots && (s.slotState h.at' slot).1 then s1.acquireView s.turn h (BitVec.ofNat 1024 (2 ^ slot)) else s1, s.breadAns lvl h slot)

/-- BREAD or BREAD.lvl of another package's board (R335): a slot that it lacks, an unposted one, or a posted one. -/
def breadRemote (lvl : Bool) (v : Word) (d : Nat) : BoardAns :=
  let posted := decide (d / 2 ^ 64 % 2 = 1)
  if 1024 ≤ fld v 0 32 || decide (d / 2 ^ 65 % 2 = 1) && 64 ≤ fld v 0 32 then .fault 65
  else .value (BitVec.ofNat 64 (if lvl then d / 2 ^ 32 * 2 ^ 32 + (if posted then 2 ^ 31 else 0) + d % 2 ^ 31 else if posted then d else 0)) (if posted then 0 else 5)

/-- BREAD (R335). -/
def execBread (d a b : SSpec) (s : State) : Res := s.boardAt d [a, b] .rd (State.breadAt false) (breadRemote false)

/-- BREAD.lvl (R335). -/
def execBreadLvl (d a b : SSpec) (s : State) : Res := s.boardAt d [a, b] .rd (State.breadAt true) (breadRemote true)

/-- A caller owns a board (R336): an instance of a launch of its queue, or a stream Y (none), in its package. -/
def BoardHdr.ownedBy (h : BoardHdr) (pkg : Nat) (q : Option Nat) : Bool :=
  decide (fld h.d1 55 9 = pkg) && match q with | none => true | some q => decide (q = fld h.d1 46 9)

/-- The queue for which the running stream calls. -/
def State.callerQueue (s : State) : Option Nat := if s.turn.isY then none else some s.mySeat.inst.q.val

/-- The code of a BRESET that finds a header (R336). -/
def BoardHdr.resetCode (h : BoardHdr) (force own : Bool) (v : Word) : Nat :=
  if fld v 0 32 ≠ h.edition then 2 else if force && !own then 4 else if !force && h.posted < h.slots then 3 else 0

/-- Every slot of a board is cleared, from slot t on. -/
def State.clearSlots (s : State) (a : Nat) : Nat → Nat → State
  | 0, _ => s
  | n + 1, t => ((s.boardWrite (a + 64 + 16 * t) 0).boardWrite (a + 72 + 16 * t) 0).clearSlots a n (t + 1)

/-- An edition ends (R336). -/
def State.endEdition (s : State) (h : BoardHdr) : State :=
  ((s.clearSlots h.at' h.slots 0).boardWrite h.at' ((h.edition + 1) % 2 ^ 32 * 2 ^ 32)).boardWrite (h.at' + 16) 0

/-- What BRESET answers with a code: the edition after it. -/
def BoardHdr.resetAns (h : BoardHdr) (c : Nat) : BoardAns := .value (BitVec.ofNat 64 (if c = 0 then (h.edition + 1) % 2 ^ 32 else h.edition)) c

/-- BRESET at the home (R336): a successful one acquires every post of the edition it ends. -/
def State.bresetAt (force : Bool) (s : State) (h : BoardHdr) (v : Word) : State × BoardAns :=
  let c := h.resetCode force (h.ownedBy Config.thisPackage s.callerQueue) v
  (if c = 0 then (s.acquireView s.turn h (BitVec.allOnes 1024)).endEdition h else s, h.resetAns c)

/-- The snapshot of BINFO (R335). -/
def BoardHdr.info (h : BoardHdr) : Word :=
  BitVec.ofNat 64 (h.edition * 2 ^ 32 + h.posted * 2 ^ 21 + h.level % 2 ^ 11 * 2 ^ 10 + h.scope * 4 + h.size)

/-- A BREAD, BRESET or BINFO of another package's caller at a board of this one (R333, R335, R336): the state at the home and the answer. -/
def State.boardServe (s : State) (pkg a : Nat) (l : FlitLoad) : State × BoardAns :=
  let h := s.boardHdr a
  match s.answer (windowPlace a false) 64 true with
  | .dieReset => (s, .fault 15)
  | .uncorrectable => (s, .poison)
  | .ok =>
    match h.refuses none, l with
    | some k, _ => (s, .fault k)
    | none, .bread lvl v => (s, s.breadAns lvl h (fld v 0 32))
    | none, .breset force q v =>
      let c := h.resetCode force (h.ownedBy pkg q) v
      (if c = 0 then s.endEdition h else s, h.resetAns c)
    | none, _ => (s, .value h.info 0)

/-- BRESET of another package's board (R336): it has another edition; or it has the one named, and refuses, or ends it. -/
def bresetRemote (force : Bool) (v : Word) (d : Nat) : BoardAns :=
  let e := d % 2 ^ 32
  let w := fld v 0 32
  if d / 2 ^ 64 % 2 = 1 && e ≠ w then .value (BitVec.ofNat 64 e) 2
  else if d / 2 ^ 65 % 2 = 1 then .value (BitVec.ofNat 64 w) (if force then 4 else 3)
  else .value (BitVec.ofNat 64 ((w + 1) % 2 ^ 32)) 0

/-- BRESET (R336). -/
def execBreset (d a b : SSpec) (s : State) : Res := s.boardAt d [a, b] .at' (State.bresetAt false) (bresetRemote false)

/-- BRESET.force (R336). -/
def execBresetForce (d a b : SSpec) (s : State) : Res := s.boardAt d [a, b] .at' (State.bresetAt true) (bresetRemote true)

/-- BINFO (R335): a snapshot. -/
def execBinfo (d a : SSpec) (s : State) : Res :=
  s.boardAt d [a] .rd
    (fun s h _ => (s, .value h.info 0))
    (fun _ d => .value (BitVec.ofNat 64 (d / 2 ^ 10 % 2 ^ 54 * 2 ^ 10 + 2 * 4 + d % 4 % 3)) 0)

/-- BINFO.vm (R335): local. -/
def execBinfoVm (d : SSpec) (n : Fin 4) (w : Fin 16) (s : State) : Res :=
  s.alu0 d 1 2 (s.mySeat.vm[n].extractLsb' (64 * w.val) 64)

end Sys2Proof.Machine
end

