-- ==== Sys2Proof/Machine/Reset.lean ====
section
/-!
DEFINITION. Die reset (R403): DIE_RESET_START and DIE_RESET_DONE, and the start of a die's stream Y (R408 step 8).
-/
namespace Sys2Proof.Machine

/-- A key lies in a slice or the hub of a die of this package (R195). -/
def inDie (d : Fin 8) (k : Nat) : Bool :=
  !isPhys k && decide ((windowHome k).pkg = Config.thisPackage) && decide ((windowHome k).die = d.val)

/-- A core after a reset of its die: its flags, its pipes and the turns of its engines (R282, R318, R411). -/
def Core.dieReset (c : Core) : Core :=
  { c with flags := Vector.replicate 64 ⟨0, 0, 0, []⟩, freeze := none, vpipe := Pipe.reset .C, port := Pipe.reset .S,
           served := Vector.replicate 4 1 }

/-- Stream Y of a die begins the device operating system, whose entry and root the manual leaves to it: FREE (R408 step 8, log 14). -/
def State.startY (s : State) (d : Fin 8) : State :=
  s.setSeat (sysRef d)
    { (Seat.reset.modStr .K fun t =>
        { t with pc := BitVec.ofNat 64 (Config.osChoice s.tick (16 + d.val)) &&& ~~~3, halted := false }) with
      sys := { SysFile.reset with xlatRoot := BitVec.ofNat 64 (Config.osChoice s.tick (24 + d.val)) &&& ~~~0xF0000000000#64 } }

/-- Slices, hub SRAM and flags of a die are cleared, and what was on its way in its cores is dropped (R200, R282, R403). -/
def State.zeroDie (s : State) (d : Fin 8) : State :=
  { s with
    mem := s.mem.filter fun x => !inDie d x.1,
    poison := s.poison.filter fun w => !inDie d (8 * w),
    corr := s.corr.filter fun w => !inDie d (8 * w),
    armed := s.armed.filter fun x => !inDie d x.1,
    shoots := s.shoots.filter fun x => decide (x.die ≠ d),
    core := s.core.mapFinIdx fun c x hc => if coreDie ⟨c, hc⟩ = d then x.dieReset else x,
    die := vmod s.die d fun x => { x with fills := [], icache := [], ftlb := [] } }

/-- A launch has an instance on a die: a seat of the die runs it, or a seat group that has no seat yet is fixed to the die by a DIE
field (R20, R25, log 36). -/
def State.launchOn (s : State) (d : Fin 8) (l : Launch) : Bool :=
  (dieSeats d).any fun r =>
    (decide ((s.getSeat r).inst.phase ≠ .free) && decide ((s.getSeat r).inst.q = l.q)) ||
      ((headerFields l.dw).any (fun f => decide (f.role = 3)) && (l.groupFor r).isSome)

/-- The launches with an instance on a die. -/
def State.launchesOn (s : State) (d : Fin 8) : List Launch := s.launches.filter (s.launchOn d)

/-- A die passes its self-test and, but for die 0, is brought up (R408 steps 1 and 7): FREE (log 14). -/
def State.bringsUp (s : State) (d : Nat) : Bool := Config.bootCheck s.tick d && (d = 0 || Config.bootCheck s.tick (8 + d))

/-- The reset of a die begins (R403): launches with an instance on it are aborted, its queues stop with DIE_LOST, its memories, flags
and boards are cleared, its stream Y stops, and it answers DIE_RESET; nothing of a die already in reset or not there. -/
def State.startDieReset (s : State) (d : Fin 8) : State :=
  if s.dieInReset d.val then s
  else
    let s1 := (s.launchesOn d).foldl State.abortLaunch s
    let s2 := (List.finRange 64).foldl (fun (s : State) (i : Fin 64) => s.stopQueue ⟨d.val * 64 + i.val, by omega⟩ 3) s1
    let s3 := (s2.zeroDie d).setSeat (sysRef d) Seat.reset
    { s3 with die := vmod s3.die d fun x => { x with inReset := true, resetAt := s.seq },
              dieRst := s3.dieRst ||| ((1 : Word) <<< (8 + d.val)) }

/-- DIE_RESET_START (R403). -/
def execDieResetStart (die : Fin 8) (s : State) : Res := .next (s.startDieReset die)

/-- DIE_RESET_DONE (R403): die 0 has brought the die back up as in the boot; BUSY clears and its stream Y starts. A die that does not come
up is quarantined (R408; log 36). -/
def execDieResetDone (die : Fin 8) (s : State) : Res :=
  if !s.die[die].inReset || !s.diePresent die.val then .next s
  else
    let s1 := { s with die := vmod s.die die fun x => { x with inReset := false },
                       dieRst := s.dieRst &&& ~~~((1 : Word) <<< (8 + die.val)) }
    if !s.bringsUp die.val then .next { s1 with quar := s1.quar ||| ((1 : Word) <<< die.val) }
    else if s1.dieUsable die.val then .next (s1.startY die)
    else .next s1

end Sys2Proof.Machine
end

