-- ==== Sys2Proof/Machine/System.lean ====
section
/-!
DEFINITION. System registers (R182 to R184, and the register maps of their chapters), the hub register window (R357), queue counts
(R185), TLB invalidation (R349, R350), keys (R351), the catalogue (R358, R360) and CODESYNC (R370).
-/
namespace Sys2Proof.Machine

/-! ## Access classes (R182, R183) -/

/-- Who may reach a system register. -/
inductive RegAcc where
  /-- Read-only. -/
  | ro
  /-- Privileged, but read by SRR in any stream (R183). -/
  | openPriv
  /-- Privileged; read-only and privileged. -/
  | priv | privRo
  /-- RW in K; in C; in C or K. -/
  | rwK | rwC | rwCK
  /-- FAULT_PC: RW in K while a handler is active. CUT_PC.1 to 3: RW in K while a re-timing handler runs. -/
  | faultPc | cutPc
  deriving DecidableEq, Repr

/-- n is one of k numbers from lo on. -/
def inRange (n lo k : Nat) : Bool := lo ≤ n && n < lo + k

/-- The access class of a defined register number. -/
def regAcc (n : Nat) : RegAcc :=
  if n = 0x0002 || n = 0x0600 || n = 0x0900 || n = 0x0901 then .openPriv
  else if inRange n 0x0105 3 then .cutPc
  else if n = 0x0108 || n = 0x0109 || n = 0x0302 || n = 0x0400 || n = 0x0408 || n = 0x0409 || inRange n 0x0500 32 then .rwK
  else if n = 0x0300 || n = 0x0301 then .rwC
  else if n = 0x0403 then .rwCK
  else if inRange n 0x0404 4 then .faultPc
  else if n = 0x040A || n = 0x0520 || n = 0x0521 || n = 0x0530 || n = 0x0540 || inRange n 0x0700 0xC1 || inRange n 0x0800 3 ||
      inRange n 0x0880 8 || n = 0x08E9 || inRange n 0x08F0 3 || n = 0x0908 || n = 0x0910 then .priv
  else if inRange n 0x0531 3 || n = 0x07C1 || n = 0x07C2 || n = 0x0840 || inRange n 0x08E0 9 then .privRo
  else .ro

/-- The running stream may read a register by SRR (R183). -/
def srrAllowed (isY : Bool) (n : Nat) : Bool := match regAcc n with | .priv | .privRo => isY | _ => true

/-- Stream `w` may write a register of its seat by SRW (R182, R183): DIE_QUAR and DIE_RST only from die 0 (R354, R403). -/
def State.srwAllowed (s : State) (w : Who) (n : Nat) : Bool :=
  let t := (s.getSeat w.ref).trap
  match regAcc n with
  | .ro | .privRo => false
  | .priv | .openPriv => w.isY && ((n ≠ 0x08E9 && n ≠ 0x0908) || coreDie w.ref.core = 0)
  | .rwK => w.stream = .K
  | .rwC => w.stream = .C
  | .rwCK => w.stream = .C || w.stream = .K
  | .faultPc => w.stream = .K && t.active
  | .cutPc => w.stream = .K && t.active && t.kind

/-! ## Reading -/

/-- ARB_PTR.i of a die (R306). -/
def Die.arbWord (d : Die) (i : Nat) : Word :=
  BitVec.ofNat 64 ((List.range 4).foldr (fun k a => d.tie (4 * i + 3 - k) * 2 ^ (27 - 9 * k) + a) 0)

/-- Registers of a seat and its core (0x0000 to 0x06FF, 0x07C3, 0x0800, 0x0880 to 0x0887), read for stream w. -/
def State.seatReg (s : State) (w : Who) (n : Nat) : Word :=
  let c := s.core[w.ref.core]
  let st := s.getSeat w.ref
  let t := st.getStr w.stream
  if inRange n 0x0104 4 then st.cut.pc[Fin.ofNat 4 (n - 0x0104)]
  else if inRange n 0x0208 8 then (if t.ps.getLsbD (n - 0x0208) then 1 else 0)
  else if inRange n 0x0404 4 then st.trap.pc[Fin.ofNat 4 (n - 0x0404)]
  else if inRange n 0x0500 16 then st.sys.perfCnt[Fin.ofNat 16 (n - 0x0500)]
  else if inRange n 0x0510 16 then st.sys.perfSel[Fin.ofNat 16 (n - 0x0510)]
  else if inRange n 0x0531 3 then st.sys.bmHead[Fin.ofNat 3 (n - 0x0531)]
  else if inRange n 0x0880 8 then st.sys.win[Fin.ofNat 8 (n - 0x0880)]
  else match n with
    | 0x0000 => st.sys.wid
    | 0x0001 => st.sys.roles
    | 0x0002 => c.ageLimit
    | 0x0003 => st.sys.schedTime
    | 0x0100 => st.cut.info
    | 0x0101 => st.cut.syms
    | 0x0108 => st.cut.retimeVec
    | 0x0109 => st.cut.commaLimit
    | 0x0200 => t.lc
    | 0x0201 => t.loopPc
    | 0x0202 => t.repLeft.setWidth 64
    | 0x0203 => if w.stream = .C then st.vec.rrb.setWidth 64 else 0
    | 0x0300 => st.vec.vlen
    | 0x0301 => st.vec.vstat
    | 0x0302 => st.tile.mstat
    | 0x0303 => st.tile.matgeom
    | 0x0304 => st.tile.srec[(0 : Fin 2)]
    | 0x0305 => st.tile.srec[(1 : Fin 2)]
    | 0x0400 => st.trap.vec
    | 0x0401 => st.trap.info
    | 0x0402 => st.trap.addr
    | 0x0403 => st.trap.lstat
    | 0x0408 => st.trap.scratch[(0 : Fin 2)]
    | 0x0409 => st.trap.scratch[(1 : Fin 2)]
    | 0x040A => st.trap.saveBase
    | 0x040B => st.trap.nestInfo
    | 0x040C => st.trap.nestPc
    | 0x0520 => c.wrecBase
    | 0x0521 => c.wrecPtr
    | 0x0530 => st.sys.bmark
    | 0x0540 => st.sys.dbgCtl
    | 0x0600 => c.lexParam
    | 0x0680 => st.sys.bstatus
    | 0x07C3 => st.sys.larg
    | 0x0800 => st.sys.xlatRoot
    | _ => 0

/-- Registers of a die and of the package, read for die d. -/
def State.dieReg (s : State) (d : Fin 8) (n : Nat) : Word :=
  let di := s.die[d]
  if inRange n 0x0700 64 then di.lq[Fin.ofNat 64 (n - 0x0700)].ring
  else if inRange n 0x0740 64 then di.lq[Fin.ofNat 64 (n - 0x0740)].ptr
  else if inRange n 0x0780 64 then di.lq[Fin.ofNat 64 (n - 0x0780)].ctl
  else if inRange n 0x08E1 8 then s.fuse.concRow[Fin.ofNat 8 (n - 0x08E1)]
  else match n with
    | 0x0004 => s.timebase
    | 0x0550 => s.recCtl
    | 0x07C0 => di.ageUs
    | 0x07C1 => di.arbWord 0
    | 0x07C2 => di.arbWord 1
    | 0x0801 => s.hostRoot
    | 0x0802 => s.domRoot
    | 0x0840 => s.keyStat
    | 0x08E0 => s.fuse.concDie
    | 0x08E9 => s.quar
    | 0x08F0 => di.hubSel
    | 0x08F1 => di.hubIdx
    | 0x0900 => di.clkPlan
    | 0x0901 => di.collGrp
    | 0x0908 => s.dieRst
    | 0x0910 => s.hbarVa
    | _ => 0

/-- The number belongs to a seat or its core, not to a die or the package. -/
def seatOwned (n : Nat) : Bool :=
  (n < 0x0700 && n ≠ 0x0004 && n ≠ 0x0550) || n = 0x07C3 || n = 0x0800 || inRange n 0x0880 8

/-- The value of a register other than HUB_DATA, read for stream w. -/
def State.sysRead (s : State) (w : Who) (n : Nat) : Word :=
  if seatOwned n then s.seatReg w n else s.dieReg (coreDie w.ref.core) n

/-! ## Clock-plan requests (R405, R406) -/

/-- The request of a die: Max(REQ, MGMT). -/
def Die.request (d : Die) : Nat := max (fld d.clkPlan 8 4) (fld d.clkPlan 16 4)

/-- The group step of a die among the dies of this package (R406). -/
def State.groupStep (s : State) (d : Fin 8) : Nat :=
  let g := fld s.die[d].collGrp 0 16
  if g = 0 then s.die[d].request
  else (List.finRange 8).foldr (fun e m => if fld s.die[e].collGrp 0 16 = g then max s.die[e].request m else m) 0

/-- The group of a die (R406). -/
def Die.group (d : Die) : Nat := fld d.collGrp 0 16

/-- The newest recorded step of a die, and its group then. -/
def Die.lastStep (d : Die) : Nat × Nat := match d.steps with | [] => (0, 0) | x :: _ => x.2

/-- Group steps that have changed are recorded with the timebase (R406: a tick applies the step as it stood 20,000 ns before). -/
def State.recordSteps (s : State) : State :=
  { s with die := Vector.ofFn fun d =>
      let x : Die := s.die[d]
      let g := (s.groupStep d, x.group)
      if g = x.lastStep then x else { x with steps := (s.timebase.toNat, g) :: x.steps } }

/-- A die changes, and with it its request or its group: the steps are recorded, and a notice of the request goes to every other package with
a die in its group (R406). -/
def State.requestChange (s : State) (d : Fin 8) (f : Die → Die) : State :=
  let t := (s.modDie d f).recordSteps
  let g := t.die[d].group
  if g = 0 || (t.die[d].request = s.die[d].request && g = s.die[d].group) then t
  else (Config.groupPackages g).foldl (fun (s : State) k => (s.toPort ⟨none, d.val⟩ (OutFlit.of k 1 none)).getD s) t

/-! ## Writing -/

/-- A seat register's new value (R5 and the maps of R30, R48, R50, R129, R130, R156, R188, R196, R383, R391); events of the same core cycle
are added to a counter's written value (R383). -/
def Seat.writeReg (st : Seat) (n : Nat) (v : Word) : Seat :=
  if inRange n 0x0104 4 then { st with cut := { st.cut with pc := st.cut.pc.set (Fin.ofNat 4 (n - 0x0104)) (v &&& ~~~3) } }
  else if inRange n 0x0404 4 then { st with trap := { st.trap with pc := st.trap.pc.set (Fin.ofNat 4 (n - 0x0404)) (v &&& ~~~3) } }
  else if inRange n 0x0500 16 then
    let k : Fin 16 := Fin.ofNat 16 (n - 0x0500)
    { st with sys := { st.sys with perfCnt := st.sys.perfCnt.set k (v + st.sys.perfNow[k]) } }
  else if inRange n 0x0510 16 then
    { st with sys := { st.sys with perfSel := st.sys.perfSel.set (Fin.ofNat 16 (n - 0x0510)) (v &&& 0x800FFFFF) } }
  else if inRange n 0x0880 8 then
    { st with sys := { st.sys with win := st.sys.win.set (Fin.ofNat 8 (n - 0x0880)) (v &&& ~~~0x3FFFFF0) } }
  else match n with
    | 0x0108 => { st with cut := { st.cut with retimeVec := v &&& ~~~3 } }
    | 0x0109 =>
      { st with cut := { st.cut with commaLimit := if v.toNat < 1024 then 1024 else v &&& 0xFFFFFFFF } }
    | 0x0300 => { st with vec := { st.vec with vlen := if v.toNat ≤ 256 then v else 256 } }
    | 0x0301 => { st with vec := { st.vec with vstat := v &&& 127 } }
    | 0x0302 => { st with tile := { st.tile with mstat := v &&& 0xFF } }
    | 0x0400 => { st with trap := { st.trap with vec := v &&& ~~~3 } }
    | 0x0403 => { st with trap := { st.trap with lstat := v &&& 0x3F03 } }
    | 0x0408 => { st with trap := { st.trap with scratch := st.trap.scratch.set 0 v } }
    | 0x0409 => { st with trap := { st.trap with scratch := st.trap.scratch.set 1 v } }
    | 0x040A => { st with trap := { st.trap with saveBase := v &&& ~~~0xFFF } }
    | 0x0530 => st.armBookmark v
    | 0x0540 => { st with sys := { st.sys with dbgCtl := v &&& 0xFFFF0001 } }
    | 0x0800 => { st with sys := { st.sys with xlatRoot := v &&& ~~~0xF0000000000#64 } }
    | _ => st

/-- A core register's new value (R30, R322, R386). -/
def Core.writeReg (c : Core) (n : Nat) (v : Word) : Core :=
  match n with
  | 0x0002 => { c with ageLimit := BitVec.ofNat 64 (min (max v.toNat 8) 1024) }
  | 0x0520 => { c with wrecBase := v &&& ~~~0xFF0 }
  | 0x0521 => { c with wrecPtr := putFld c.wrecPtr 32 32 (fld v 32 32) }
  | 0x0600 => { c with lexParam := v &&& 0xFFFF00FF0FFF#64 }
  | _ => c

/-- LQ_CTL's new value (R306): EN, PRIOMAX but for queue 63, a 1 clears ABORTED, a 0 restarts a stopped queue. -/
def LaunchQ.writeCtl (l : LaunchQ) (q : Fin 64) (v : Word) : LaunchQ :=
  let c1 := putFld l.ctl 10 1 (fld v 10 1)
  let c2 := if q = 63 then c1 else putFld c1 16 3 (fld v 16 3)
  let c3 := if bit v 19 then c2 &&& ~~~0x80000 else c2
  if bit v 11 then { l with ctl := c3 } else { l with ctl := c3 &&& ~~~0x800, head := none, wait := none }

/-- A register of a die or of the package, written by a system core (R5; R306, R342, R357, R399, R403, R405). DESIGN CHOICE (log 19): of a
value written to AGE_US, the field alone is compared with 0. -/
def State.writeDieReg (s : State) (d : Fin 8) (n : Nat) (v : Word) : State :=
  if inRange n 0x0700 64 then
    s.modDie d fun x =>
      { x with lq := vmod x.lq (Fin.ofNat 64 (n - 0x0700)) fun l => { l with ring := v &&& ~~~0xFF0, head := none, wait := none } }
  else if inRange n 0x0740 64 then
    s.modDie d fun x => { x with lq := vmod x.lq (Fin.ofNat 64 (n - 0x0740)) fun l => { l with ptr := v, head := none, wait := none } }
  else if inRange n 0x0780 64 then
    s.modDie d fun x => { x with lq := vmod x.lq (Fin.ofNat 64 (n - 0x0780)) fun l => l.writeCtl (Fin.ofNat 64 (n - 0x0780)) v }
  else match n with
    | 0x07C0 => s.modDie d fun x => { x with ageUs := if fld v 0 16 = 0 then 1 else v &&& 0xFFFF }
    | 0x0801 => { s with hostRoot := v &&& ~~~0xF0000000000#64 }
    | 0x0802 => { s with domRoot := v &&& ~~~0xF0000000000#64 }
    | 0x08E9 => { s with quar := v &&& 0xFF }
    | 0x08F0 => s.modDie d fun x => { x with hubSel := v &&& 0xFFFC }
    | 0x08F1 => s.modDie d fun x => { x with hubIdx := v }
    | 0x0900 => s.requestChange d fun x => { x with clkPlan := putFld x.clkPlan 8 4 (min (v.toNat >>> 8) 12) }
    | 0x0901 => s.requestChange d fun x => { x with collGrp := v &&& 0xFFFF }
    | 0x0908 => (List.finRange 8).foldl (fun (s : State) (e : Fin 8) => if e ≠ 0 && bit v e.val then s.startDieReset e else s) s
    | 0x0910 => { s with hbarVa := v &&& ~~~0xFFFFFFFFF#64 }
    | _ => s

/-- A register other than HUB_DATA written for stream w. -/
def State.sysWrite (s : State) (w : Who) (n : Nat) (v : Word) : State :=
  if n = 0x0002 || n = 0x0520 || n = 0x0521 || n = 0x0600 then s.modCore w.ref.core fun c => c.writeReg n v
  else if seatOwned n then s.modSeat w.ref fun st => st.writeReg n v
  else s.writeDieReg (coreDie w.ref.core) n v

/-! ## The hub register window (R357) -/

/-- Doubleword k of a side-log entry (R213): header, virtual address, data. -/
def LogEntry.dword (e : LogEntry) (k : Nat) : Word :=
  let size : Nat := match e.size with | 1 => 0 | 2 => 1 | 4 => 2 | 8 => 3 | 32 => 4 | 64 => 5 | 128 => 6 | _ => 7
  if k = 0 then
    BitVec.ofNat 64 (e.elem % 256 * 2 ^ 32 + (if e.kind = 0 then 0 else e.op.code) * 2 ^ 28 +
      (match e.rel with | some sc => sc.code * 2 ^ 25 + 2 ^ 24 | none => 0) + (if e.src = .S then 2 ^ 22 else 0) + size * 2 ^ 19 +
      e.kind.val * 2 ^ 16 + 1)
  else if k = 1 then e.va
  else BitVec.ofNat 64 (fld e.data (64 * (k - 2)) 64)

/-- What HUB_SEL and HUB_IDX of a die select: a system register of a stream K, a doubleword of a side log, or one of a stack's error
table; none when the selection is not valid. -/
inductive HubSel where
  | reg (w : Who) (n : Nat)
  | log (r : SeatRef) (i k : Nat)
  | table (stk : Fin 24) (i : Nat)
  deriving DecidableEq, Repr

/-- The selection of a die's hub register window. -/
def State.hubSelect (s : State) (d : Fin 8) : Option HubSel :=
  let sel := s.die[d].hubSel
  let i := s.die[d].hubIdx.toNat
  let td : Fin 8 := Fin.ofNat 8 (fld sel 10 3)
  let core := fld sel 3 7
  if h : core < 112 then
    let r : SeatRef := ⟨⟨td.val * 112 + core, by omega⟩, Fin.ofNat 2 (fld sel 2 1)⟩
    match fld sel 13 3 with
    | 0 =>
      if s.dieInReset td.val || !sysregDefined i || inRange i 0x08F0 3 || (inRange i 0x0700 0xC3 && td ≠ d) then none
      else some (.reg ⟨r, .K⟩ i)
    | 1 => if s.dieInReset td.val || 64 * 34 ≤ i then none else some (.log r (i / 34) (i % 34))
    | 2 => if h2 : core < 24 then (if i ≤ 256 && s.stackHere core then some (.table ⟨core, h2⟩ i) else none) else none
    | _ => none
  else none

/-- HUB_DATA as read (R357). -/
def State.hubDataRead (s : State) : HubSel → Word
  | .reg w n => s.sysRead w n
  | .log r i k => match (s.getSeat r).sideLog[i]? with | some e => e.dword k | none => 0
  | .table k i =>
    if i < 256 then s.stack[k].table[Fin.ofNat 256 i]
    else BitVec.ofNat 64 (s.stack[k].ceCount % 2 ^ 32 * 2 ^ 32 + s.stack[k].ueCount % 2 ^ 32)

/-- The selected doubleword may be written by the system core of die d (R357). -/
def State.hubWritable (s : State) (d : Fin 8) : HubSel → Bool
  | .reg w n => match regAcc n with
    | .ro | .privRo => false
    | .priv | .openPriv => (n ≠ 0x08E9 && n ≠ 0x0908) || d = 0
    | .faultPc => (s.getSeat w.ref).trap.active
    | .cutPc => (s.getSeat w.ref).trap.active && (s.getSeat w.ref).trap.kind
    | .rwK | .rwC | .rwCK => true
  | _ => false

/-- HUB_DATA as written: none when the selection, or the doubleword, refuses it. -/
def State.hubDataWrite (s : State) (d : Fin 8) (v : Word) : Option State :=
  match s.hubSelect d with
  | some (.reg w n) => if s.hubWritable d (.reg w n) then some (s.sysWrite w n v) else none
  | _ => none

/-- PERM, detail SYSREG. -/
def sysregFlt : Flt := Flt.mk' .perm 16

/-- HUB_DATA_ACCESS (R357): an access by the system core of a die; a refused one raises PERM at its stream Y. -/
def execHubDataAccess (die : Fin 8) (write : Option Word) (s : State) : Res :=
  match write with
  | none => if (s.hubSelect die).isSome then .next s else .next (s.takeFault (sysRef die) sysregFlt 0)
  | some v =>
    match s.hubDataWrite die v with
    | some t => .next t
    | none => .next (s.takeFault (sysRef die) sysregFlt 0)

/-! ## SRR and SRW (R184) -/

/-- SRR (R182 to R184). -/
def execSrr (d : SSpec) (i : BitVec 16) (s : State) : Res :=
  let n := i.toNat
  if !sysregDefined n then s.raise (Flt.mk' .undefOp 0)
  else if !s.classOk [] [d] then s.raiseClass
  else if !srrAllowed s.turn.isY n then s.raise sysregFlt
  else if n = 0x08F2 then
    match s.hubSelect (coreDie s.turn.ref.core) with
    | none => s.raise sysregFlt
    | some h => s.alu0 d 1 2 (s.hubDataRead h)
  else s.alu0 d 1 2 (s.sysRead s.turn n)

/-- The effect of an SRW that is allowed: in C at its result cycle (R184). -/
def State.srwEffect (s : State) (i : BitVec 16) (v : Word) : State :=
  if s.isC then s.pipe 2 (.sysreg i v) else s.sysWrite s.turn i.toNat v

/-- SRW (R182 to R184). -/
def execSrw (sv : SSpec) (i : BitVec 16) (s : State) : Res :=
  let n := i.toNat
  if !sysregDefined n then s.raise (Flt.mk' .undefOp 0)
  else if !s.classOk [sv] [] then s.raiseClass
  else if !s.srwAllowed s.turn n then s.raise sysregFlt
  else match s.blocked [sv] [] with
    | some why => s.stall why
    | none =>
      if n = 0x08F2 then
        match s.hubDataWrite (coreDie s.turn.ref.core) (s.peek sv) with
        | none => s.raise sysregFlt
        | some t => .next ((t.take sv).retire)
      else .next ((s.take sv).srwEffect i (s.peek sv)).retire

/-! ## Queue counts (R185) -/

/-- QCNT: the entries of a queue at issue. -/
def execQcnt (d : SSpec) (n : Fin 16) (s : State) : Res := s.alu0 d 1 2 (BitVec.ofNat 64 (s.mySeat.q[n].avail s.now))

/-- QCNT.free: depth minus entries. -/
def execQcntFree (d : SSpec) (n : Fin 16) (s : State) : Res :=
  s.alu0 d 1 2 (BitVec.ofNat 64 (qDepth n - s.mySeat.q[n].avail s.now))

/-! ## TLBI and TLBFENCE (R349, R350) -/

/-- A TLBI names an entry. -/
def Shoot.names (x : Shoot) (e : TlbEntry) : Bool :=
  (match x.page with | some va => decide (e.base ≤ va) && decide (va < e.base + e.size) | none => true) &&
    (match x.asid with | some a => decide (e.asid = a) | none => true)

/-- A TLB drops the entries a TLBI names. -/
def Shoot.drop (x : Shoot) (t : Tlb) : Tlb := t.filter fun e => !x.names e

/-- The TLBs of a core drop their entries. -/
def Shoot.dropCore (x : Shoot) (c : Core) : Core :=
  { c with
    etlb := c.etlb.map fun (t : Tlb) => x.drop t,
    seat := c.seat.map fun (st : Seat) => { st with tlbK := x.drop st.tlbK, tlbL := x.drop st.tlbL, tlbS := x.drop st.tlbS } }

/-- The act `shoot`: TLBI number i reaches the TLBs of a core. -/
def State.shootCore (s : State) (i : Nat) (c : Fin 904) : State :=
  match s.shoots[i]? with
  | none => s
  | some x => s.modCore c x.dropCore

/-- Commands of a seat's engine that have started, with their writes' places checked, and are not done. -/
def Seat.openCmds (st : Seat) (r : SeatRef) : List (SeatRef × Fin 3 × BitVec 32) :=
  (List.finRange 3).flatMap fun e =>
    (st.eng[e].queue.filter fun c => c.started && !c.moved).map fun c => (r, e, c.acc)

/-- All open commands of the package. -/
def State.openCmds (s : State) : List (SeatRef × Fin 3 × BitVec 32) :=
  (List.finRange 904).flatMap fun c => (List.finRange 2).flatMap fun k => (s.getSeat ⟨c, k⟩).openCmds ⟨c, k⟩

/-- The act `shootAll`: TLBI number i has reached every TLB of the package. -/
def State.shootAll (s : State) (i : Nat) : State :=
  match s.shoots[i]? with
  | none => s
  | some x =>
    { s with
      core := s.core.map fun (c : Core) => x.dropCore c,
      die := s.die.map fun (d : Die) => { d with ftlb := x.drop d.ftlb },
      hostTlb := x.drop s.hostTlb, portTlb := s.portTlb.map fun (t : Tlb) => x.drop t,
      shoots := s.shoots.modify i fun y => if y.mark.isNone then { y with mark := some (s.seq, s.openCmds) } else y }

/-- A TLBI is broadcast; Y issues on at once. -/
def State.broadcast (s : State) (page : Option Nat) (asid : Option (BitVec 16)) : State :=
  State.bump { s with shoots := s.shoots ++ [⟨coreDie s.turn.ref.core, page, asid, none⟩] }

/-- A TLBI with its source operands (R349). -/
def State.tlbi (s : State) (srcs : List SSpec) (page : Option Nat) (asid : Option (BitVec 16)) : Res :=
  if !s.classOk srcs [] then s.raiseClass
  else match s.blocked srcs [] with
    | some why => s.stall why
    | none => .next ((s.broadcast page asid).takes srcs).retire

/-- TLBI.page. -/
def execTlbiPage (a b : SSpec) (s : State) : Res :=
  s.tlbi [a, b] (some (s.peek a).toNat) (some (((s.peeks [a, b]).getD 1 0).setWidth 16))
/-- TLBI.asid. -/
def execTlbiAsid (b : SSpec) (s : State) : Res := s.tlbi [b] none (some ((s.peek b).setWidth 16))
/-- TLBI.all. -/
def execTlbiAll (s : State) : Res := s.tlbi [] none none
/-- TLBI.va. -/
def execTlbiVa (a : SSpec) (s : State) : Res := s.tlbi [a] (some (s.peek a).toNat) none

/-- Every access issued before number n whose address was translated is performed at its home, and replayed if it stood in a side log. -/
def State.accessesDone (s : State) (n : Nat) : Bool :=
  !(s.flights.any fun f => decide (f.id < n)) &&
    s.core.all fun c => c.seat.all fun (st : Seat) =>
      !(st.loads.any fun l => l.missing.isNone && decide (l.seq < n)) && !(st.stores.any fun e => decide (e.seq < n)) &&
        !(st.elems.any fun e => decide (e.1.place ≠ default) && decide (e.1.seq < n)) &&
        !(st.sideLog.any fun e => e.trans && decide (e.seq < n))

/-- A write of an engine's command is on its way. -/
def State.cmdInFlight (s : State) (c : SeatRef × Fin 3 × BitVec 32) : Bool :=
  s.flights.any fun f => match f.src with
    | .engine k e i a => decide (((⟨k, i⟩ : SeatRef), e.idx, a) = c)
    | _ => false

/-- A TLBI's invalidation is complete (R350): the accesses and the commands then begun have ended, and the writes of those commands, whose
places were checked at their start, are performed. -/
def State.shootDone (s : State) (x : Shoot) : Bool :=
  match x.mark with
  | none => false
  | some (n, cmds) => s.accessesDone n && !(cmds.any fun c => s.openCmds.contains c || s.cmdInFlight c)

/-- TLBFENCE (R350). -/
def execTlbfence (s : State) : Res :=
  let d := coreDie s.turn.ref.core
  if s.shoots.all fun x => decide (x.die ≠ d) || s.shootDone x then
    .next (State.retire { s with shoots := s.shoots.filter fun x => decide (x.die ≠ d) })
  else s.stall none

/-! ## KEYLD (R351, R352) -/

/-- An address lies in the hub SRAM of a die of this package (R195, R351). -/
def inHubOf (d : Fin 8) (a : Word) : Bool :=
  isWindow a && decide (windowHome a.toNat = ⟨Config.thisPackage, d.val, none⟩)

/-- A slice that holds a slot's key runs (R227, R351). -/
def State.keyBusy (s : State) (k : Fin 64) : Bool :=
  s.jobs.any fun j => decide (j.folio.slot = some k) && match j.out with
    | some (.running t _) => decide (s.timebase.toNat < t)
    | some (.scanning _ _ _ _ _) => true
    | _ => false

/-- KEYLD (R351): the key and its V bit change at once in every controller, once no slice that holds the old key runs. -/
def execKeyld (a b : SSpec) (s : State) : Res :=
  if !s.classOk [a, b] [] then s.raiseClass
  else match s.blocked [a, b] [] with
    | some why => s.stall why
    | none =>
      let va := s.peek a
      let k : Fin 64 := Fin.ofNat 64 (fld ((s.peeks [a, b]).getD 1 0) 0 6)
      if va.toNat % 64 ≠ 0 then s.raise (Flt.at' .align 0 va)
      else if !inHubOf (coreDie s.turn.ref.core) va then s.raise (Flt.at' .perm 14 va)
      else
        let p := windowPlace va.toNat false
        if !s.drained p va 64 then s.stall none
        else match s.answer p 64 true with
          | .uncorrectable => s.raise (Flt.at' .poison 0 va)
          | .dieReset => s.raise (Flt.at' .poison 15 va)
          | .ok =>
            let rec' : BitVec 512 := BitVec.ofNat 512 (s.dataAt p 64)
            if rec'.extractLsb' 0 256 = rec'.extractLsb' 256 256 then s.raise (Flt.at' .perm 74 va)
            else if s.keyBusy k then s.stall none
            else
              let s1 := (s.noteCorr (some s.turn.ref) p 64).performWrite (.stream s.turn) .store p 64 0 false true
              .next (State.takes { s1 with keys := s1.keys.set k rec', keyStat := s1.keyStat ||| ((1 : Word) <<< k.val) } [a, b]).retire

/-- KEYLD.clr (R351). -/
def execKeyldClr (b : SSpec) (s : State) : Res :=
  if !s.classOk [b] [] then s.raiseClass
  else match s.blocked [b] [] with
    | some why => s.stall why
    | none =>
      let k : Fin 64 := Fin.ofNat 64 (fld (s.peek b) 0 6)
      if s.keyBusy k then s.stall none
      else .next (State.takes { s with keyStat := s.keyStat &&& ~~~((1 : Word) <<< k.val) } [b]).retire

/-- The act `quadRetire` (R232): the device operating system marks a quad with a bank of eight uncorrectable errors within 24 hours
retired. -/
def State.retireQuad (s : State) (stk : Fin 24) (quad : Fin 256) : State :=
  let k := s.stack[stk]
  let banks := (List.range 4).map fun b => quad.val / 16 * 64 + quad.val % 16 * 4 + b
  if banks.any fun b => decide (8 ≤ (k.recent.filter fun e => decide (e.1 = b)).length) then
    { s with
      stack := s.stack.set stk { k with retired := k.retired ||| ((1 : BitVec 256) <<< quad.val) },
      life := { s.life with quads := vmod s.life.quads stk (· ||| ((1 : BitVec 256) <<< quad.val)) } }
  else s

/-! ## The catalogue (R358 to R360) -/

/-- Entries 0 to 12 of a part (R358, R359; log 16). -/
def catalogue : Part → List Word
  | .mz9a =>
    [0x1000D0000009A#64, 0x9FF#64, 0x2080E70#64, 0x4000FFFFFF#64, 0x1000001#64, 0x3#64, 0x1B001C00240#64, 0x100#64,
     0x404020#64, 0x4B03840708#64, 0x40#64, 0x401000#64, 0xF4500E76BC9FC4F4#64]
  | .mz9s =>
    [0x1000D00000095#64, 0x9FF#64, 0x2080E70#64, 0x4000FFFFFF#64, 0x0#64, 0x3#64, 0x1B001C00240#64, 0x100#64,
     0x404020#64, 0x4B03840708#64, 0x40#64, 0x401000#64, 0xF25B679A3F5926BC#64]
  | .mz5a =>
    [0x1000D0000005A#64, 0x50F#64, 0x2080E70#64, 0x4000000FFF#64, 0x1000001#64, 0x0#64, 0x1B001C00220#64, 0x100#64,
     0x404020#64, 0x4B03840708#64, 0x40#64, 0x401000#64, 0x4BC27BF5A2FE56F5#64]

/-- A catalogue entry: 13 is the security counter; none above LAST. -/
def State.catEntry (s : State) (i : Nat) : Option Word := if i = 13 then some s.secctr else (catalogue s.fuse.part)[i]?

/-- CAPQ (R360). -/
def execCapq (d : SSpec) (i : BitVec 16) (p : Fin 8) (s : State) : Res :=
  if !s.classOk [] [d] then s.raiseClass
  else if !s.pFree ⟨p.val, by omega⟩ then s.stall none
  else match s.blocked [] [d] with
    | some why => s.stall why
    | none =>
      let e := s.catEntry i.toNat
      .next ((s.wr d 1 2 (e.getD 0)).wrPred ⟨p.val, by omega⟩ e.isSome).retire

/-! ## CODESYNC (R370) -/

/-- The commands of a seat on its engines. -/
def Seat.cmds (st : Seat) : List (Fin 3 × BitVec 32) :=
  (List.finRange 3).flatMap fun e => st.eng[e].queue.map fun c => (e, c.acc)

/-- CODESYNC: XFENCE's conditions, the commands placed when it issued, then the fills begun before the drops (R370). -/
def execCodesync (s : State) : Res :=
  let w : Nat × List (Fin 3 × BitVec 32) × Option Nat := match s.me.wait with
    | .codesync t l f => (t, l, f)
    | _ => (s.myCore.cycle, s.mySeat.cmds, none)
  match w.2.2 with
  | some n => if s.codeAcquired n then .next s.retire else s.stall none
  | none =>
    if s.xfenceMet w.1 && !(w.2.1.any fun c => s.mySeat.cmds.contains c) && !(s.flights.any fun f => match f.src with
        | .engine c e k a => decide ((⟨c, k⟩ : SeatRef) = s.turn.ref) && w.2.1.contains (e.idx, a)
        | _ => false) then
      .next (s.modMe fun t => { t with wait := .codesync w.1 w.2.1 (some s.seq) })
    else .next (s.modMe fun t => { t with wait := .codesync w.1 w.2.1 none })

end Sys2Proof.Machine
end

