-- ==== Sys2Proof/Machine/Outside.lean ====
section
/-!
DEFINITION. What acts on the package from its power, cooling, links and boot: the clock plan (R405 to R407), stack temperature,
refresh and scrub (R228 to R230), life records (R388), the freeze line (R389), Herest Link (R400 to R402), package reset and boot
(R408, R409, R412).
-/
namespace Sys2Proof.Machine

/-! ## Clock plan -/

/-- The core clock of a step in MHz (R404). -/
def stepMHz (k : Nat) : Nat := 1800 - 75 * k

/-- The last step, with its group, recorded at or before a time. -/
def stepAt (t : Nat) : List (Nat × Nat × Nat) → Nat × Nat
  | [] => (0, 0)
  | (a, k) :: r => if a ≤ t then k else stepAt t r

/-- The group step that the tick at the present time applies on a die: as it stood 20,000 ns before, with the group of that time (R406). -/
def State.tickStep (s : State) (d : Fin 8) : Nat :=
  let k := if s.timebase.toNat < 20000 then (0, 0) else stepAt (s.timebase.toNat - 20000) s.die[d].steps
  if k.2 = 0 then k.1 else max k.1 (Config.remoteRequest k.2 s.timebase.toNat).val

/-- The present time is a tick (R406). -/
def State.atTick (s : State) : Bool := s.timebase.toNat % 50000 = 0

/-- The lexicon of a seat at a clock-plan step (R49, R323): an instance's symbols get their proposals. -/
def Seat.clockStep (st : Seat) (cycle old new : Nat) : Seat :=
  if st.inst.phase = .free || st.inst.phase = .preempted then st
  else ({ st with lex := st.lex.map fun (e : LexEntry) => Measure.clockStep e st.sched old new, lexAt := (st.lexAt.1, cycle + 1) } : Seat).latchCut

/-- CLOCK_PLAN_TICK (R406): a die whose group step differs from CUR takes it, and its core clocks stop for 200 ns (R320). -/
def execClockPlanTick (die : Fin 8) (s : State) : Res :=
  let new := s.tickStep die
  let old := fld s.die[die].clkPlan 0 4
  if !s.atTick || new = old then .next s
  else
    let s1 := s.modDie die fun d => { d with clkPlan := putFld (putFld d.clkPlan 24 4 new) 0 4 new, haltTo := s.timebase.toNat + 200 }
    .next { s1 with core := s1.core.mapFinIdx fun c x h =>
      if c < 896 && coreDie ⟨c, h⟩ = die then { x with seat := x.seat.map fun (st : Seat) => st.clockStep x.cycle (stepMHz old) (stepMHz new) } else x }

/-- The management controller sets a die's MGMT, and notes when (R407). -/
def State.setMgmt (s : State) (die : Fin 8) (n : Nat) : State :=
  s.requestChange die fun d => { d with clkPlan := putFld d.clkPlan 16 4 n, mgmtAt := s.timebase.toNat }

/-- The package runs hot enough for MGMT to rise: a die's junction is at or above 100 °C, or module power exceeds 4,800 W (R407). -/
def State.mgmtHigh (s : State) (die : Fin 8) : Bool := decide (100 ≤ s.die[die].junction) || decide (4800 < s.power)

/-- It is cool enough for MGMT to fall: the junction is below 92 °C and the power below 4,560 W (R407). -/
def State.mgmtLow (s : State) (die : Fin 8) : Bool := decide (s.die[die].junction < 92) && decide (s.power < 4560)

/-- MGMT_RAISE (R407): one step, at least 100 µs after the last; nothing for a die that the package lacks (log 35, 57). -/
def execMgmtRaise (die : Fin 8) (s : State) : Res :=
  if s.diePresent die.val && s.mgmtHigh die && decide (s.die[die].mgmtAt + 100000 ≤ s.timebase.toNat) then
    .next (s.setMgmt die (min (fld s.die[die].clkPlan 16 4 + 1) 12))
  else .next s

/-- MGMT_LOWER (R407): one step, at least 1 ms after the last (log 35, 57). -/
def execMgmtLower (die : Fin 8) (s : State) : Res :=
  if s.diePresent die.val && s.mgmtLow die && decide (s.die[die].mgmtAt + 1000000 ≤ s.timebase.toNat) then
    .next (s.setMgmt die (fld s.die[die].clkPlan 16 4 - 1))
  else .next s

/-- JUNCTION_OVERTEMP (R407): a die's junction at 115 °C stops the package with a device error (log 35). -/
def execJunctionOvertemp (die : Fin 8) (s : State) : Res :=
  if s.diePresent die.val then .next { s with stopped := true, devError := true } else .next s

/-- The act `junction` (R407): a reading of a die's junction; 115 °C stops the package. -/
def State.junctionAct (s : State) (die : Fin 8) (c : Int) : State :=
  if !s.diePresent die.val then s
  else
    let s1 := s.modDie die fun d => { d with junction := c }
    if 115 ≤ c then { s1 with stopped := true, devError := true } else s1

/-! ## Heat, refresh, scrub -/

/-- The lower bound of a band above 0 (R228). -/
def bandBound (b : Nat) : Int := if b = 1 then 85 else if b = 2 then 95 else if b = 3 then 105 else 110

/-- The band of a reading. -/
def bandOf (c : Int) : Nat := if 110 ≤ c then 4 else if 105 ≤ c then 3 else if 95 ≤ c then 2 else if 85 ≤ c then 1 else 0

/-- The band entered downward: a band is left when the reading falls 3 °C below its bound (R228). -/
def bandDown (c : Int) : Nat → Nat
  | 0 => 0
  | b + 1 => if c ≤ bandBound (b + 1) - 3 then bandDown c b else b + 1

/-- A stack in a band, with its refresh interval (R228, R233). -/
def Stack.enter (k : Stack) (b : Nat) : Stack := { k with band := Fin.ofNat 8 b, down := decide (b = 4), refi := refreshNs b }

/-- A stack after a reading in timebase microsecond `us`: the first one enters its band at once; later ones move upward at once and
downward with hysteresis; band 4 shuts it down for good (R228). -/
def Stack.read (k : Stack) (us : Nat) (c : Int) : Stack :=
  let k1 := { k with reading := c, readAt := us + 1 }
  if k.down then k1
  else if k.readAt = 0 then k1.enter (bandOf c)
  else k1.enter (if k.band.val < bandOf c then bandOf c else bandDown c k.band.val)

/-- TEMPERATURE_READING (R228): of a stack that the part has, once per timebase microsecond; one that enters band 4 raises a device error. -/
def execTemperatureReading (stk : Fin 24) (celsius : Int) (s : State) : Res :=
  let us := s.timebase.toNat / 1000
  if !s.stackHere stk.val || s.stack[stk].readAt = us + 1 then .next s
  else
    let k := s.stack[stk].read us celsius
    .next { s with stack := s.stack.set stk k, devError := s.devError || (k.down && !s.stack[stk].down) }

/-- REFRESH (R229): a bank is blocked for a time; nothing else changes. -/
def execRefresh (_stk : Fin 24) (_bank : Fin 1024) (s : State) : Res := .next s

/-- The number of a stack's data unit among all keys, of kind 0 in this package (R341). -/
def stackUnit (stk : Fin 24) (unit : Nat) : Nat :=
  (physBase + Config.thisPackage * 2 ^ 41 + stk.val * 2 ^ 36) / 32 + unit % 2 ^ 31

/-- SCRUB (R230): a correctable unit is counted and rewritten; an uncorrectable one is logged (R231). -/
def execScrub (stk : Fin 24) (unit : Nat) (s : State) : Res :=
  let u := stackUnit stk unit
  let o := unit % 2 ^ 31 * 32
  let s1 := if s.corr.contains (4 * u) then
      { s with
        corr := s.corr.filter fun w => decide (w ≠ 4 * u),
        stack := vmod s.stack stk fun k =>
          { k with ceCount := k.ceCount + 1, bankErr := setAssoc (2 * bankId o) ((assoc (2 * bankId o) k.bankErr).getD 0 + 1) k.bankErr } }
    else s
  if s1.stackGone stk.val then .next s
  else if s1.badUnits.contains u then .next { s1 with stack := vmod s1.stack stk fun k => k.logError s.timebase.toNat o false }
  else .next s1

/-! ## Record and replay mode (R393) -/

/-- Record mode logs an item with the timebase ns. -/
def State.logItem (s : State) (x : RecItem) : State :=
  if s.recCtl = 1 then { s with recLog := ⟨s.timebase.toNat, x⟩ :: s.recLog } else s

/-- The host buffer lags behind the log. -/
def State.recLags (s : State) : Bool := s.recCtl = 1 && decide (s.recSent < s.recLog.length)

/-- The act `streamLog`: the next entry of the log reaches the host buffer. -/
def State.streamLog (s : State) : State := if s.recLags then { s with recSent := s.recSent + 1 } else s

/-- An event of a log that replay mode injects. -/
def RecEntry.isAct (e : RecEntry) : Bool := match e.item with | .act _ => true | _ => false

/-- The first entry of a list with a property is taken out of it. -/
def takeFirst (f : RecEntry → Bool) : List RecEntry → List RecEntry
  | [] => []
  | e :: l => if f e then l else e :: takeFirst f l

/-- The event that replay mode injects next. -/
def State.nextInject (s : State) : Option RecEntry := if s.recCtl = 2 then s.replayLog.find? RecEntry.isAct else none

/-- An entropy draw: of record mode logged, of replay mode the next one of its log (R393). -/
def State.draw (s : State) (x : BitVec 512) : BitVec 512 × State :=
  let isDraw (e : RecEntry) : Bool := match e.item with | .entropy _ => true | _ => false
  match if s.recCtl = 2 then s.replayLog.find? isDraw else none with
  | some ⟨_, .entropy d⟩ => (d, { s with replayLog := takeFirst isDraw s.replayLog })
  | _ => (x, s.logItem (.entropy x))

/-! ## Time -/

/-- The act `nanos`: timebase nanoseconds pass, up to the next tick of the clock plan, but no further than a tick some die has still
to take (R406) and, in replay mode, no further than the next logged event (R393); heat and clock-plan residence are counted for the life record (R388). -/
def State.nanosAct (s : State) (n : Nat) : State :=
  if s.nextInject.any (fun e => decide (e.at' ≤ s.timebase.toNat)) || s.atTick && (List.finRange 8).any fun d => decide (s.tickStep d ≠ fld s.die[d].clkPlan 0 4) then s
  else
    let t := s.timebase.toNat
    let k := min (min n (50000 - t % 50000)) (match s.nextInject with | some e => e.at' - t | none => n)
    { s with
      timebase := BitVec.ofNat 64 (t + k),
      life := { s.life with
        heat := Vector.ofFn fun i => vmod s.life.heat[i] (Fin.ofNat 5 s.stack[i].band.val) (· + if s.stackHere i.val then k else 0),
        steps := Vector.ofFn fun d => vmod s.life.steps[d] (Fin.ofNat 13 (fld s.die[d].clkPlan 0 4)) (· + if s.diePresent d.val then k else 0) } }

/-! ## Life records (R388) -/

/-- A count as a record holds it. -/
def lifeCount (n : Nat) : Nat := min n (2 ^ 64 - 1)

/-- The counts a record carries, section by section (log 15). -/
def State.lifeBody (s : State) : List Nat :=
  ((List.finRange 24).flatMap fun n =>
      ((List.range 2048).map fun i => lifeCount ((assoc i s.stack[n].bankErr).getD 0)) ++ [popCount 256 s.life.quads[n].toNat]) ++
    (s.life.heat.toList.flatMap fun v => v.toList.map fun n => lifeCount (n / 10 ^ 9)) ++
    (s.life.freezes.toList.flatMap fun v => v.toList.map lifeCount) ++
    ((List.finRange 8).flatMap fun d => [lifeCount s.life.rebinds[d], lifeCount s.life.bounds[d]]) ++
    (s.life.faults.toList.flatMap fun v => v.toList.map lifeCount) ++
    (s.life.replays.toList.map lifeCount) ++
    (s.life.steps.toList.flatMap fun v => v.toList.map fun n => lifeCount (n / 10 ^ 9))

/-- The 2,048 doublewords of a record of 16 KiB, from the digest of the record before it and its counts (log 15). -/
def LifeRec.words (l : LifeRec) : List Word := let x := Config.lifeImage l.digest l.body; (List.range 2048).map fun i => x.getD i 0

/-- The bytes of a record, over which the next one's digest runs. -/
def LifeRec.bytes (l : LifeRec) : List Byte := l.words.flatMap fun w => leBytes 8 w.toNat

/-- A timebase hour in ns. -/
def hourNs : Nat := 3600000000000

/-- LIFE_RECORD (R388): once a timebase hour the system core of die 0 appends a record that carries the digest of the one before; the
ring holds 65,536. -/
def execLifeRecord (s : State) : Res :=
  let hour := s.timebase.toNat / hourNs
  if hour ≤ s.lifeHour then .next s
  else
    let last := s.lifeRing.getLast?
    let r : LifeRec := match last with
      | some l => ⟨l.number + 1, Config.sha512 l.bytes, s.lifeBody⟩
      | none => ⟨1, Config.flashHistory 0, s.lifeBody⟩
    let ring := s.lifeRing ++ [r]
    .next { s with lifeRing := ring.drop (ring.length - 65536), lifeHour := hour }

/-! ## The freeze line (R389) -/

/-- FREEZE_LINE_ASSERT. -/
def execFreezeLineAssert (s : State) : Res := .next { s with freezeN := true }

/-- The port's link retrains from now on (R389, R401). -/
def Port.train (p : Port) (now : Nat) : Port := { p with training := true, trainAt := now }

/-- FREEZE_LINE_RELEASE: links that dropped meanwhile, which ones is FREE (log 8), retrain; until the package is resynchronised, its sc
fences at domain scope wait. -/
def execFreezeLineRelease (s : State) : Res :=
  if s.freezeN then
    .next { s with
      freezeN := false, synced := false,
      port := s.port.mapFinIdx fun n p h =>
        if s.portUp ⟨n, h⟩ && !p.training && Config.linkDropped s.tick n then p.train s.timebase.toNat else p }
  else .next s

/-! ## Herest Link -/

/-- TIMEBASE_MARKER (R402): a marker on a link that is up: within 32 ns of the domain's reference the package is synchronised, beyond
it is not, and raises a device error. -/
def execTimebaseMarker (port : Fin 64) (drift : Int) (s : State) : Res :=
  if !s.port[port].up || s.port[port].training || !s.portHere port then .next s
  else
    let ok := decide (-32 ≤ drift) && decide (drift ≤ 32)
    .next { s with synced := ok, devError := s.devError || !ok }

/-- A notice of bytes for a sync word arrives from another package (R295, R299); the board region takes none (R327, log 24). -/
def State.noticeFrom (s : State) (g : FlitReq) : State :=
  if g.addr < 2 ^ 41 && decide ((windowHome g.addr).pkg = Config.thisPackage) && !inBoardRegion g.addr then
    { s with arrivals := s.arrivals ++ [⟨g.addr, packLanes 8 (g.bytes.map fun b => b.toNat), .hub (Fin.ofNat 8 (windowHome g.addr).die), none⟩] }
  else s

/-- A reference that a port refuses is counted there (R347). -/
def State.denyRef (s : State) (port : Fin 64) : State := { s with port := vmod s.port port fun p => { p with denied := p.denied + 1 } }

/-- The place of n bytes that a reference from another package names: a window address of this package, the board region only for reads
(R327), or a domain reference that the port's TLB translates under DOMAIN_ROOT to kind 0 with the right (R341, R347); a refused one is
counted. -/
def State.portPlace (s : State) (port : Fin 64) (a n : Nat) (rt : Right) : Option Place × State :=
  if a < 2 ^ 41 then
    if decide ((windowHome a).pkg = Config.thisPackage) && (decide (rt = .rd) || !inBoardRegion a) then (some (windowPlace a false), s)
    else (none, s.denyRef port)
  else
    let reads := s.xlatReads s.domRoot s.portTlb[port] false a rt
    match s.xlat s.domRoot s.portTlb[port] 32 false a rt with
    | (.ok leaf base z, t) =>
      let p := leafPlace leaf base z a
      let s1 := { (s.noteWalk reads) with portTlb := s.portTlb.set port t }
      if kindOf p.key = 0 && p.isLocal && decide (a % z + n ≤ z) then (some p, s1) else (none, s1.denyRef port)
    | (_, t) => (none, State.denyRef { (s.noteWalk reads) with portTlb := s.portTlb.set port t } port)

/-- What a request of another package comes to: an error answer, its data, the state. -/
structure Served where
  err  : Bool
  data : Nat
  st   : State

/-- A posted write or reduction from another package is performed at its home (R319, R347). -/
def State.postedWrite (s : State) (port : Fin 64) (g : FlitReq) (k : WKind) : Served :=
  let n := g.bytes.length
  match s.portPlace port g.addr n (if k = .store then .wr else .at') with
  | (some p, s1) =>
    ⟨decide (s1.writeAnswer k p n false ≠ .ok), 0,
      s1.performWrite (.hub (Fin.ofNat 8 p.home.die)) k p n (packLanes 8 (g.bytes.map fun b => b.toNat)) false false⟩
  | (none, s1) => ⟨true, 0, s1⟩

/-- A read from another package at its home: the errors it meets are counted (R201, R230). -/
def State.readInto (s : State) (port : Fin 64) (a n : Nat) : Served :=
  match s.portPlace port a n .rd with
  | (some p, s1) => ⟨decide (s1.answer p n false ≠ .ok), s1.dataAt p n, (s1.noteBad p n false).noteCorr none p n⟩
  | (none, s1) => ⟨true, 0, s1⟩

/-- An atomic from another package at its home (R218, R219). -/
def State.atomicFrom (s : State) (port : Fin 64) (a n : Nat) (op : AtomOp) (v e : Word) : Served :=
  match s.portPlace port a n .at' with
  | (some p, s1) =>
    match s1.answer p n false with
    | .ok => ⟨false, s1.dataAt p n, (s1.noteCorr none p n).putAmo p n op v e⟩
    | .uncorrectable => ⟨true, 0, s1.badAmo p n⟩
    | .dieReset => ⟨true, 0, s1⟩
  | (none, s1) => ⟨true, 0, s1⟩

/-- An address of a board of this package. -/
def boardHere (a : Nat) : Bool := a < 2 ^ 41 && decide ((windowHome a).pkg = Config.thisPackage) && inBoardRegion a

/-- A board post from another package waits for the next round of its board (R332). -/
def State.postFrom (s : State) (src : Nat) (g : FlitReq) (rank : Nat) (xk v : Word) : State :=
  if boardHere g.addr then
    State.bump { s with posts := s.posts ++ [⟨s.seq, none, src, rank, g.addr, xk, v, 0, [], false⟩] }
  else s

/-- A BREAD, BRESET or BINFO from another package (R333, R335, R336). -/
def State.boardFrom (s : State) (src a : Nat) (l : FlitLoad) : Served :=
  if boardHere a then
    let r := s.boardServe src a l
    ⟨r.2.err, r.2.payload, r.1⟩
  else ⟨true, 64, s⟩

/-- The answer or acknowledgement that a request of another package is sent (R205, R319). -/
def Served.respond (x : Served) (src a : Nat) : State :=
  (x.st.toPort ⟨none, (windowHome a).die⟩ { OutFlit.of src 0 none with err := x.err, data := x.data }).getD x.st

/-- Posted writes landed from a package through a port. -/
def Port.landedFrom (p : Port) (pkg : Nat) : BitVec 32 := (assoc pkg p.landed).getD 0

/-- A release-marked flag may be delivered: as many writes have landed as it counts (R259). -/
def Port.flagDue (p : Port) (g : Nat × FlitReq) : Bool := (p.landedFrom g.1 - BitVec.ofNat 32 g.2.load.count).toNat < 2 ^ 31

/-- Held flags whose count has landed are delivered. -/
def State.releaseFlags (s : State) (port : Fin 64) : State :=
  let p := s.port[port]
  let s1 := (p.held.filter fun g => p.flagDue g).foldl (fun s g => s.noticeFrom g.2) s
  { s1 with port := vmod s1.port port fun p => { p with held := p.held.filter fun g => !p.flagDue g } }

/-- A posted write has landed (R259). -/
def State.landWrite (s : State) (port : Fin 64) (src : Nat) : State :=
  State.releaseFlags
    { s with port := vmod s.port port fun p => { p with landed := setAssoc src (p.landedFrom src + 1) p.landed } } port

/-- A posted write or reduction of a flit: it is acknowledged, and has landed, with its last part (R259, R400). -/
def State.takeWrite (s : State) (port : Fin 64) (src : Nat) (q : FlitReq) (k : WKind) : State :=
  let x := s.postedWrite port q k
  if q.more then x.st else (x.respond src q.addr).landWrite port src

/-- A request of an accepted flit is served (R319, R400). The answer that a response brings is free (log 8). -/
def State.takeReq (s : State) (port : Fin 64) (src : Nat) (q : FlitReq) : State :=
  match q.load with
  | .response => s
  | .notice => s.noticeFrom q
  | .post rank xk v => s.postFrom src q rank xk v
  | .write => s.takeWrite port src q .store
  | .reduce op => s.takeWrite port src q (.red op)
  | .flag _ => State.releaseFlags { s with port := vmod s.port port fun p => { p with held := p.held ++ [(src, q)] } } port
  | .read n => (s.readInto port q.addr n).respond src q.addr
  | .atomic op n v e => (s.atomicFrom port q.addr n op v e).respond src q.addr
  | .bread _ _ => (s.boardFrom src q.addr q.load).respond src q.addr
  | .breset _ _ _ => (s.boardFrom src q.addr q.load).respond src q.addr
  | .binfo => (s.boardFrom src q.addr q.load).respond src q.addr

/-- What an accepted flit carries is served in order; a flit for another package, or with more than a flit holds, carries nothing for this
one (R400; log 8). -/
def State.takeFlit (s : State) (port : Fin 64) (g : FlitArgs) : State :=
  if g.dst = Config.thisPackage && g.fits then g.reqs.foldl (fun s q => s.takeReq port g.src q) s else s

/-- The virtual channel of a request (R319). -/
def loadChannel : FlitLoad → Fin 4
  | .response => 0
  | .notice => 1
  | .post _ _ _ => 1
  | .write => 2
  | .reduce _ => 2
  | .flag _ => 2
  | .read _ => 3
  | .atomic _ _ _ _ => 3
  | .bread _ _ => 3
  | .breset _ _ _ => 3
  | .binfo => 3

/-- The virtual channel of a flit: that of its requests. -/
def flitChannel (g : FlitArgs) : Fin 4 := match g.reqs with | [] => 0 | q :: _ => loadChannel q.load

/-- The credits of a channel, in flits (R319). -/
def channelCredits (k : Fin 4) : Nat := match k with | 0 => 64 | 1 => 16 | 2 => 128 | _ => 64

/-- The channel from which a port sends in a flit slot (R319): the first with a flit and a credit, of posted writes and requests the one not
sent last. -/
def Port.channel (p : Port) : Option (Fin 4) :=
  (if p.posted then [0, 1, 3, 2] else [0, 1, 2, 3]).find? fun k => !p.queue[k].isEmpty && decide (0 < p.credit[k])

/-- A flit leaves a port (R259, R319, R401): it takes a credit and a sequence number and goes into the replay buffer; a posted write is
counted, and a release-marked flag takes the count with it. -/
def Port.send (p : Port) (k : Fin 4) (x : OutFlit) (now : Nat) : Port :=
  let n := (assoc x.pkg p.sent).getD 0
  { p with
    queue := vmod p.queue k fun q => q.drop 1, credit := vmod p.credit k (· - 1), txSeq := p.txSeq + 1,
    sent := if x.write then setAssoc x.pkg (n + 1) p.sent else p.sent,
    posted := if k = 2 then true else if k = 3 then false else p.posted,
    replay := p.replay ++ [{ x with count := if x.flag then n else 0, at' := now }] }

/-- The act `slot` (R319): a flit slot of a link that is up, with room in its replay buffer of 256 flits (R401); in replay
mode the flit is discarded (R393). -/
def State.portSlot (s : State) (n : Fin 64) : State :=
  let p := s.port[n]
  if !p.up || p.training || !s.portHere n || 256 ≤ p.replay.length then s
  else if s.recCtl = 2 then
    match p.channel with
    | none => s
    | some k => { s with port := s.port.set n { p with queue := vmod p.queue k fun q => q.drop 1 } }
  else match p.channel with
    | none => s
    | some k => match p.queue[k] with
      | [] => s
      | x :: _ => { s with port := s.port.set n (p.send k x s.timebase.toNat) }

/-- The act `ack` (R319, R401): the oldest flit sent is acknowledged, and its credit returns; a port that is down gets none. -/
def State.portAck (s : State) (n : Fin 64) : State :=
  match s.port[n].replay with
  | [] => s
  | x :: rest =>
    if s.port[n].up then { s with port := vmod s.port n fun p => { p with replay := rest, credit := vmod p.credit x.ch (· + 1) } } else s

/-- A refused flit is counted as replayed; after 64 refusals in a row of one flit the link retrains (R401). -/
def State.refuseFlit (s : State) (port : Fin 64) : State :=
  { s with
    port := vmod s.port port fun p =>
      let p := { p with refusals := p.refusals + 1 }
      if 64 ≤ p.refusals then p.train s.timebase.toNat else p,
    life := { s.life with replays := vmod s.life.replays port (· + 1) } }

/-- FLIT_RECEIVE (R319, R401): a flit comes for which its sender holds a credit; one with a wrong CRC is refused, and every later one, until
its sequence number comes again. -/
def execFlitReceive (port : Fin 64) (g : FlitArgs) (s : State) : Res :=
  let p := s.port[port]
  if !p.up || p.training || !s.portHere port then .next s
  else if !g.crcOk then .next (s.refuseFlit port)
  else if g.seq % 4096 ≠ p.rxSeq.toNat || channelCredits (flitChannel g) ≤ p.owed[flitChannel g] then .next s
  else .next (State.takeFlit { s with port := vmod s.port port fun p =>
    { p with rxSeq := p.rxSeq + 1, refusals := 0, owed := vmod p.owed (flitChannel g) (· + 1) } } port g)

/-- The act `credit` (R319, R393): a port returns the credits of the flits that have arrived; record mode withholds them while its log is
behind. -/
def State.creditAct (s : State) (n : Fin 64) : State :=
  if s.recLags then s else { s with port := vmod s.port n fun p => { p with owed := Vector.replicate 4 0 } }

/-- What stands in the queues of a port that is down goes to another port, if one is up (R401). -/
def State.moveQueue (s : State) (n : Fin 64) : State :=
  match (List.finRange 64).find? s.portUp with
  | none => s
  | some k =>
    { s with port := vmod (vmod s.port k fun p => { p with queue := Vector.ofFn fun c => p.queue[c] ++ s.port[n].queue[c] }) n fun p =>
        { p with queue := Vector.replicate 4 [] } }

/-- LINK_TRAINING_TIMEOUT (R401, R402): training has not succeeded within 1 ms and the port is down; with no link left the package is not
synchronised, and raises a device error. -/
def execLinkTrainingTimeout (port : Fin 64) (s : State) : Res :=
  if !s.port[port].training || decide (s.timebase.toNat < s.port[port].trainAt + 1000000) then .next s
  else
    let s1 := State.moveQueue { s with port := vmod s.port port fun p => { p with up := false, training := false } } port
    let left := (List.finRange 64).any s1.portUp
    .next { s1 with synced := s1.synced && left, devError := s1.devError || !left }

/-- LINK_RETRAIN_COMPLETE (R401): the link carries flits again, with replay from its buffer. -/
def execLinkRetrainComplete (port : Fin 64) (s : State) : Res :=
  .next { s with port := vmod s.port port fun p => if p.training then { p with training := false, refusals := 0 } else p }

/-- A flit of the request was lost on a port that is down and was sent 2 ms ago or more (R401). -/
def State.lostLong (s : State) (id : Nat) : Bool :=
  s.port.any fun p => !p.up && p.replay.any fun x => decide (x.id = some id) && decide (x.at' + 2000000 ≤ s.timebase.toNat)

/-- Request number i to another package has lost its flits, or finds no port (R401). -/
def State.requestLost (s : State) (i : Nat) : Bool := s.lostLong i || !((List.finRange 64).any s.portUp)

/-- The read or atomic with a request number that another package has still to answer. -/
def State.remoteReq (s : State) (i : Nat) : Option (SeatRef × LoadReq) :=
  (List.finRange 904).findSome? fun c => (List.finRange 2).findSome? fun k =>
    ((s.getSeat ⟨c, k⟩).loads.find? fun l => decide (l.seq = i) && l.got.isNone && l.missing.isNone && l.way.isSome && !l.place.isLocal).map
      fun l => (⟨c, k⟩, l)

/-- LOST_REQUEST_TIMEOUT (R401): request number i, whose flits were lost on a port that is down, or that has no port left, has its error
answer (R205): a write is dropped, a read or an atomic is answered, a board post fails with POISON. -/
def execLostRequestTimeout (i : Nat) (s : State) : Res :=
  if !s.requestLost i then .next s
  else match s.flights.find? fun f => decide (f.id = i) && !f.place.isLocal with
    | some f => .next (State.dropWrite { s with flights := s.flights.filter fun g => decide (g.id ≠ i) } f.src)
    | none =>
      match s.remoteReq i with
      | some (r, l) => .next (s.setReq r { l with got := some ⟨.uncorrectable, 0, true⟩ })
      | none =>
        match s.posts.find? fun p => decide (p.id = i) && decide ((windowHome p.board).pkg ≠ Config.thisPackage) with
        | some p => .next (State.answerPost { s with posts := s.posts.filter fun q => decide (q.id ≠ i) } (p, .poison))
        | none => .next s

/-! ## Reset and boot (R408, R409, R412) -/

/-- Every register at its reset value, and the memories whose reset the manual states; stack and host memory keep what they hold (log 3).
Fuses, flash and life records persist (R388, R409), and the model's own counters. -/
def State.clear (s : State) : State :=
  { State.reset with
    fuse := s.fuse, secctr := s.secctr, life := s.life, lifeRing := s.lifeRing, freezeN := s.freezeN, agenda := s.agenda, tick := s.tick,
    seq := s.seq, transl := s.transl, stack := s.stack.map fun k => { Stack.reset with bankErr := k.bankErr },
    mem := s.mem.filter fun x => isPhys x.1, unitKey := s.unitKey, badUnits := s.badUnits, corr := s.corr.filter fun w => isPhys (8 * w) }

/-- Power was off: stack memory is lost too, and with it every cached translation (log 3). -/
def State.powerLoss (s : State) : State :=
  { s with mem := s.mem.filter fun x => decide (kindOf x.1 = 1) && isPhys x.1, unitKey := [], badUnits := [], corr := [], transl := [] }

/-- Step 1: the present dies whose self-test fails are quarantined. -/
def State.bootQuar (s : State) : Word :=
  BitVec.ofNat 64 ((List.range 8).foldr (fun d n => (if !s.diePresent d || Config.bootCheck s.tick d then 0 else 2 ^ d) + n) 0)

/-- Step 7: dies 1 to 7 that are not brought up are quarantined. -/
def State.upQuar (s : State) : Word :=
  BitVec.ofNat 64 ((List.range 8).foldr (fun d n => (if !s.diePresent d || d = 0 || Config.bootCheck s.tick (8 + d) then 0 else 2 ^ d) + n) 0)

/-- Step 8: queue 63 of every usable die, with a ring of 2^10 slots whose address is the operating system's choice (R412). -/
def State.bootQueue (s : State) (d : Fin 8) : State :=
  if s.dieUsable d.val then
    s.modDie d fun x =>
      { x with lq := x.lq.set 63 ⟨BitVec.ofNat 64 (Config.osChoice s.tick (40 + d.val) * 4096 + 10), 0, 0x400, none, none, 0⟩ }
  else s

/-- Step 8: stream Y of every usable die starts. -/
def State.bootDie (s : State) (d : Fin 8) : State := if s.dieUsable d.val then (s.bootQueue d).startY d else s

/-- The mode that the boot's debug token names (R394; number 33, log 14): 1 record, 2 replay, 3 debug; 0 without a valid token. -/
def State.tokenMode (s : State) : Nat := if Config.bootCheck s.tick 18 then Config.osChoice s.tick 33 % 4 else 0

/-- The reading of a stack that a log entry holds. -/
def RecEntry.reading (n : Fin 24) (e : RecEntry) : Option Int :=
  match e.item with
  | .act (.event (.temperatureReading k c)) => if k = n then some c else none
  | _ => none

/-- The first reading of a stack after the reset: in replay mode the first one of the log (R393). -/
def State.firstReading (s : State) (n : Fin 24) : Int :=
  match if s.tokenMode = 2 then (Config.replayLog s.tick).findSome? (RecEntry.reading n) else none with
  | some c => c
  | none => (Config.firstReading s.tick n.val).toInt

/-- The first reading of every stack that the part has, in the first microsecond after the reset and before any access (R228). -/
def State.firstReadings (s : State) : State :=
  let k : Vector Stack 24 := Vector.ofFn fun n =>
    if s.stackHere n.val then s.stack[n].read (s.timebase.toNat / 1000) (s.firstReading n) else s.stack[n]
  { s with stack := k, devError := s.devError || k.any fun x => x.down }

/-- Record mode logs the first readings; replay mode has used those of its log (R393). -/
def State.noteReadings (s : State) : State :=
  let here := (List.finRange 24).filter fun n => s.stackHere n.val
  let s1 := here.foldl (fun (t : State) n => t.logItem (.act (.event (.temperatureReading n s.stack[n].reading)))) s
  { s1 with replayLog := here.foldl (fun l n => takeFirst (fun e => (RecEntry.reading n e).isSome) l) s1.replayLog }

/-- Step 5: the mode of the run (R393, R394). -/
def State.bootMode (s : State) : State :=
  let m := s.tokenMode
  (State.logItem { s with recCtl := if m = 3 then 0 else BitVec.ofNat 64 m, dbgToken := decide (m = 3),
                          replayLog := if m = 2 then Config.replayLog s.tick else [] } (.boot s.measured)).noteReadings

/-- Step 6: slot 0 gets its key, an entropy draw (R352, R393). -/
def State.bootKeys (s : State) : State :=
  let k := s.draw (Config.bootKey s.tick)
  { k.2 with keys := k.2.keys.set 0 k.1, keyStat := 1 }

/-- The boot (R408). Number 16 is the firmware's digest and signatures, 17 its advance bit, 18 a valid debug token, 19 the entropy
source. -/
def State.boot (s : State) : State :=
  let t := s.tick
  let svn := Config.osChoice t 32 % 2 ^ 32
  let s1 := State.firstReadings { s with quar := s.bootQuar }
  if !Config.bootCheck t 16 then { s1 with bootStat := 2 }
  else if svn < s1.secctr.toNat then { s1 with bootStat := 3 }
  else
    let s2 := if s1.secctr.toNat < svn && Config.bootCheck t 17 then { s1 with secctr := BitVec.ofNat 64 svn } else s1
    let s3 := State.bootMode { s2 with measured := Config.measurement t }
    if !Config.bootCheck t 19 then { s3 with bootStat := 6 }
    else
      let s4 := s3.bootKeys
      { (List.finRange 8).foldl State.bootDie { s4 with quar := s4.quar ||| s4.upQuar } with bootStat := 1 }

/-- PACKAGE_RESET (R409). -/
def execPackageReset (s : State) : Res := .next s.clear.boot

/-- POWER_UP (R408). -/
def execPowerUp (s : State) : Res := .next s.clear.powerLoss.boot

end Sys2Proof.Machine
end

