-- ==== Sys2Proof/Machine/Loader.lean ====
section
/-!
DEFINITION. The loader of the device operating system (R361 to R367, R371, R373, R412): an image file in host memory is checked in
order, bound, and laid out in the package. Where it puts what it lays out is the operating system's choice: FREE, within what these rules
ask of it (log 14, 49).
-/
namespace Sys2Proof.Machine

/-! ## The file (R361) -/

/-- The key of a host bus address (R341 kind 1). -/
def hostKey (a : Nat) : Nat := physBase + 2 ^ 50 + a % 2 ^ 50

/-- n bytes of host memory, little-endian. -/
def State.hostN (s : State) (a n : Nat) : Nat := Cells.readN s.mem (hostKey a) n

/-- Doubleword at a byte offset of the file at `a`. -/
def State.file (s : State) (a off : Nat) : Word := BitVec.ofNat 64 (s.hostN (a + off) 8)

/-- Bytes of the file. -/
def State.fileBytes (s : State) (a off n : Nat) : List Byte := (List.range n).map fun i => Cells.read s.mem (hostKey (a + off + i))

/-- A section record. -/
structure Sect where
  kind : Nat
  task : Nat
  sub  : Nat
  off  : Nat
  len  : Nat
  deriving DecidableEq, Repr, Inhabited

/-- The section records of the file. -/
def State.sections (s : State) (a : Nat) : List Sect :=
  (List.range (fld (s.file a 0) 48 16)).map fun i =>
    let w := s.file a (64 + 32 * i)
    ⟨fld w 0 8, fld w 8 16, fld w 24 8, (s.file a (72 + 32 * i)).toNat, (s.file a (80 + 32 * i)).toNat⟩

/-- Header fields. -/
def State.imgTasks (s : State) (a : Nat) : Nat := fld (s.file a 8) 32 32
def State.imgSvn (s : State) (a : Nat) : Nat := fld (s.file a 8) 0 32
def State.imgLen (s : State) (a : Nat) : Nat := (s.file a 16).toNat
def State.imgColo (s : State) (a : Nat) : Nat := (s.file a 24).toNat
def State.imgData (s : State) (a : Nat) : Nat := (s.file a 48).toNat

/-! ## Checks 1 to 6 (R364) -/

/-- Check 1. -/
def State.formatOk (s : State) (a : Nat) : Bool :=
  let secs := s.sections a
  fld (s.file a 0) 0 32 = 0x4E5A494D && fld (s.file a 0) 32 16 = 1 && 64 + 32 * secs.length ≤ s.imgLen a &&
    s.imgColo a + 3456 ≤ s.imgLen a &&
    (secs.all fun x => 1 ≤ x.kind && x.kind ≤ 9 && x.off % 64 = 0 && x.off + x.len ≤ s.imgLen a) &&
    (List.range (s.imgTasks a)).all fun t => (List.range 4).all fun j =>
      (secs.filter fun x => x.kind = 1 && x.task = t && x.sub = j).length = 1

/-- Check 2 (R363). -/
def State.digestOk (s : State) (a : Nat) : Bool :=
  (Config.sha512 (s.fileBytes a 0 (s.imgColo a))).toNat = s.hostN (a + s.imgColo a) 64

/-- Check 3: both signatures over bytes 0 to 75 of the colophon. -/
def State.imageSigned (s : State) (a : Nat) : Bool := Config.signaturesVerify (s.fileBytes a (s.imgColo a) 3449)

/-- Check 5. -/
def State.partOk (s : State) (a : Nat) : Bool :=
  (s.file a 32 = 0 || s.file a 32 = (catalogue s.fuse.part).getD 12 0) && fld (s.file a 40) 0 16 ≤ fld ((catalogue s.fuse.part).getD 0 0) 48 16

/-- Check 6 (R40): lo ≤ initial ≤ hi. -/
def State.symsOk (s : State) (a : Nat) : Bool :=
  ((s.sections a).filter fun x => x.kind = 3).all fun x => (List.range 32).all fun y =>
    let d0 := s.file a (x.off + 16 * y)
    let b := fld (s.file a (x.off + 16 * y + 8)) 40 24
    fld d0 16 24 ≤ b && b ≤ fld d0 40 24

/-! ## Binding (R365) -/

/-- A map: the image of each logical die, and the cluster and position maps. -/
structure Bind where
  perm : List Nat
  rc   : Bool
  dc   : Nat
  rq   : Bool
  dq   : Nat
  deriving DecidableEq, Repr, Inhabited

/-- x → x + Δ or Δ − x; none below 0. -/
def mapCoord (refl : Bool) (d x : Nat) : Option Nat := if refl then (if x ≤ d then some (d - x) else none) else some (x + d)

/-- Permutations of a list in lexicographic order of positions. -/
def permsOf : Nat → List Nat → List (List Nat)
  | 0, _ => [[]]
  | n + 1, l => l.flatMap fun x => (permsOf n (l.erase x)).map fun r => x :: r

/-- A die mask rewritten by π. -/
def Bind.mask (b : Bind) (m : Nat) : Nat :=
  (List.range 8).foldr (fun d n => (match b.perm[d]? with | some k => if m.testBit d then 2 ^ k else 0 | none => 0) + n) 0

/-- Every die of a mask is a die of the part, so that π takes it somewhere. -/
def Bind.covers (b : Bind) (m : Nat) : Bool := (List.range 8).all fun d => !m.testBit d || decide (d < b.perm.length)

/-- A logical device-wide core under the map. -/
def Bind.core (b : Bind) (c : Nat) : Option (Nat × Nat × Nat) :=
  match mapCoord b.rc b.dc (c % 112 / 8), mapCoord b.rq b.dq (c % 8) with
  | some x, some y => if x < 14 && y < 8 then b.perm[c / 112]?.map fun d => (d, x, y) else none
  | _, _ => none

/-- The launch records of a task-graph section: 16 doublewords each. -/
def State.records (s : State) (a : Nat) (x : Sect) : List (List Word) :=
  (List.range (fld (s.file a x.off) 0 32)).map fun i => (List.range 16).map fun k => s.file a (x.off + 16 + 128 * i + 8 * k)

/-- The `.neigh` records of a section. -/
def State.neighs (s : State) (a : Nat) (x : Sect) : List Word :=
  (List.range (fld (s.file a x.off) 32 32)).map fun i => s.file a (x.off + 16 + 128 * fld (s.file a x.off) 0 32 + 16 * i)

/-- The dies that a launch record's DIE values select: the first set bits of its rewritten mask (R20); every other coordinate that no field
fixes is chosen among usable dies. -/
def fixedDies (b : Bind) (dw : List Word) : List Nat :=
  match (headerFields dw).find? fun f => decide (f.role = 3) with
  | some f => ((List.range 8).filter fun d => (b.mask (pktMask dw)).testBit d).take f.ext
  | none => []

/-- The coordinates of a launch record land on existing cores of usable dies, and its mask stays within the present dies (R365). -/
def State.recordFits (s : State) (b : Bind) (dw : List Word) : Bool :=
  b.covers (pktMask dw) && ((List.range 8).all fun d => !(b.mask (pktMask dw)).testBit d || s.diePresent d) && ((fixedDies b dw).all s.dieUsable) &&
    (headerFields dw).all fun f =>
      if f.role = 2 then (List.range f.ext).all fun c => match mapCoord b.rc b.dc c with | some x => x < 14 | none => false
      else if f.role = 1 then (List.range f.ext).all fun q => match mapCoord b.rq b.dq q with | some x => x < 8 | none => false
      else true

/-- A `.neigh` pair lies at its declared distance (R14, R356). -/
def State.neighFits (s : State) (b : Bind) (w : Word) : Bool :=
  match b.core (fld w 16 16), b.core (fld w 32 16) with
  | some (d1, c1, q1), some (d2, c2, q2) => dist c1 c2 + dist q1 q2 + s.dieHops d1 d2 = fld w 48 16
  | _, _ => false

/-- The first valid map in the order of R365. -/
def State.bindImage (s : State) (a : Nat) : Option Bind :=
  let gs := (s.sections a).filter fun x => x.kind = 5
  let recs := gs.flatMap fun x => s.records a x
  let ns := gs.flatMap fun x => s.neighs a x
  (permsOf (partDies s.fuse.part) (List.range (partDies s.fuse.part))).findSome? fun p => [false, true].findSome? fun rc => (List.range 16).findSome? fun dc =>
    [false, true].findSome? fun rq => (List.range 8).findSome? fun dq =>
      let b : Bind := ⟨p, rc, dc, rq, dq⟩
      if (recs.all fun r => s.recordFits b r) && ns.all fun w => s.neighFits b w then some b else none

/-! ## Places (R364 check 8, R366, R367) -/

/-- A choice of the operating system in this step. -/
def State.os (s : State) (i : Nat) : Nat := Config.osChoice s.tick i

/-- WIN value i of task t, which the loader grants (R196, R366): the operating system's choice. -/
def State.winValue (s : State) (t i : Nat) : Word := BitVec.ofNat 64 (s.os (600000 + 8 * t + i)) &&& ~~~0x3FFFFF0#64

/-- A WIN value covers the slice or hub of a window address. -/
def winCovers (w : Word) (v : Nat) : Bool := bit w 0 && decide (fld w 45 19 ≤ sliceIndex v) && decide (sliceIndex v ≤ fld w 26 19)

/-- Check 8: a base of the data segment is aligned, and lies in a slice of a usable die that some rewritten mask names, or in a slice or hub
that a WIN value of the image's descriptors covers. -/
def State.dataOk (s : State) (a : Nat) (b : Bind) (v : Nat) : Bool :=
  let h := windowHome v
  let named := h.pkg = Config.thisPackage && h.unit.isSome && s.dieUsable h.die &&
    ((s.sections a).filter fun x => x.kind = 5).any fun x => (s.records a x).any fun r => (b.mask (pktMask r)).testBit h.die
  v % 64 = 0 && v < 2 ^ 41 &&
    (named || (List.range (s.imgTasks a)).any fun t => (List.range 8).any fun i => winCovers (s.winValue t i) v)

/-- The board and folio records of the file: doublewords 0 and 1. -/
def State.decls (s : State) (a : Nat) : List (Word × Word) :=
  ((s.sections a).filter fun x => x.kind = 7).flatMap fun x =>
    (List.range (x.len / 32)).map fun i => (s.file a (x.off + 32 * i), s.file a (x.off + 32 * i + 8))

/-- The lowest die of the mask of a task's first launch record; die 0 at image level (R327, R365, R367). -/
def State.taskDie (s : State) (a : Nat) (b : Bind) (t : Nat) : Nat :=
  if t = 0xFFFF then 0
  else
    let recs := ((s.sections a).filter fun x => x.kind = 5).flatMap fun x => s.records a x
    match recs.find? fun r => fld (r.getD 1 0) 6 58 = t with
    | some r => ((List.range 8).find? fun d => (b.mask (pktMask r)).testBit d).getD 0
    | none => 0

/-- A folio that the image declares: its address, its stack and its home die. -/
structure Folio where
  va    : Nat
  stack : Nat
  die   : Nat
  deriving DecidableEq, Repr, Inhabited

/-- The folios of the declarations; an address 0 is replaced by the operating system's choice. -/
def State.folios (s : State) (a : Nat) (b : Bind) : List Folio :=
  ((s.decls a).zipIdx.filter fun d => fld d.1.1 0 8 = 2).map fun d =>
    ⟨if d.1.2 = 0 then s.os (200000 + d.2) * 2 ^ 17 else d.1.2.toNat, fld d.1.1 24 5, s.taskDie a b (fld d.1.1 8 16)⟩

/-- A folio can lie at its address: aligned, and translated (R195, R344, R367). -/
def Folio.placed (f : Folio) : Bool := f.va % 2 ^ 17 = 0 && 2 ^ 41 ≤ f.va && f.va < 2 ^ 57

/-- The chosen address of a folio lies below 2^48, where the three quarters of a relocation entry reach it (R362, R367). -/
def State.chosenOk (s : State) (a : Nat) : Bool :=
  ((s.decls a).zipIdx.filter fun d => fld d.1.1 0 8 = 2 && d.1.2 = 0).all fun d => decide (s.os (200000 + d.2) * 2 ^ 17 < 2 ^ 48)

/-- Two folios of one image: at different addresses, and of one 2 MiB page only when the page's one leaf serves both (R367; log 49). -/
def Folio.apart (f g : Folio) : Bool := f.va ≠ g.va && (f.va / 2 ^ 21 ≠ g.va / 2 ^ 21 || (f.stack = g.stack && f.die = g.die))

/-- Folios are pairwise apart. -/
def foliosApart : List Folio → Bool
  | [] => true
  | f :: r => r.all f.apart && foliosApart r

/-- Check 8 of the folios that name their address, and of every folio's stack (R367). -/
def State.foliosOk (s : State) (a : Nat) (b : Bind) : Bool :=
  let named := ((s.decls a).zipIdx.filter fun d => fld d.1.1 0 8 = 2 && d.1.2 ≠ 0).map fun d =>
    (⟨d.1.2.toNat, fld d.1.1 24 5, s.taskDie a b (fld d.1.1 8 16)⟩ : Folio)
  (s.folios a b).all (fun f => s.stackHere f.stack && partAttention s.fuse.part) && named.all Folio.placed && foliosApart named

/-! ## The verdict (R364) -/

/-- The status of an image, and its binding when it is accepted (0). -/
def State.imageVerdict (s : State) (a : Nat) : Nat × Bind :=
  if !s.formatOk a then (1, default)
  else if !s.digestOk a then (2, default)
  else if !s.imageSigned a then (3, default)
  else if s.imgSvn a < s.secctr.toNat then (4, default)
  else if !s.partOk a then (5, default)
  else if !s.symsOk a then (6, default)
  else match s.bindImage a with
    | none => (7, default)
    | some b =>
      if (s.imgData a ≠ 0 && !s.dataOk a b (s.imgData a)) || !s.foliosOk a b then (8, default) else (0, b)

/-! ## What is placed, and where (R327, R366, R367, R412) -/

/-- Where section number i, the descriptor and the WIN values of task t go: the operating system's choice. -/
def State.secAddr (s : State) (i : Nat) : Nat := s.os (1000 + i) * 64
def State.descAddr (s : State) (t : Nat) : Nat := s.os (100000 + t) * 64
def State.winsAddr (s : State) (t : Nat) : Nat := s.os (110000 + t) * 64

/-- The bytes of a board of a size code (R328). -/
def boardBytes (code : Nat) : Nat := match code with | 0 => 1088 | 1 => 4160 | _ => 16448

/-- The board of declaration number i: its window address, in the board region of its home die's hub, and its bytes (R327). -/
def State.boardSpan (s : State) (a : Nat) (b : Bind) (d : (Word × Word) × Nat) : Nat × Nat :=
  let n := boardBytes (fld d.1.1 24 2)
  (Config.thisPackage * 2 ^ 32 + s.taskDie a b (fld d.1.1 8 16) * 2 ^ 29 + 112 * 2 ^ 22 + s.os (200000 + d.2) % ((2 ^ 23 - n) / 64 + 1) * 64, n)

/-- The boards of the image. -/
def State.boardSpans (s : State) (a : Nat) (b : Bind) : List (Nat × Nat) :=
  ((s.decls a).zipIdx.filter fun d => fld d.1.1 0 8 = 1).map (s.boardSpan a b)

/-- The base of the data segment. -/
def State.dataBase (s : State) (a : Nat) : Nat := if s.imgData a = 0 then s.os 62 * 64 else s.imgData a

/-- The bytes of the data segment. -/
def State.dataBytes (s : State) (a : Nat) : Nat := ((s.sections a).filter fun x => x.kind = 6).foldr (fun x n => x.len + n) 0

/-- Stream code and engine words, which the image's tables map: addresses and bytes. -/
def State.ownSpans (s : State) (a : Nat) : List (Nat × Nat) :=
  ((s.sections a).zipIdx.filter fun x => x.1.kind ≤ 2).map fun x => (s.secAddr x.2, x.1.len)

/-- What the hubs reach under their own root: lexicon declarations, live maps, descriptors and WIN values. -/
def State.hubSpans (s : State) (a : Nat) : List (Nat × Nat) :=
  (((s.sections a).zipIdx.filter fun x => x.1.kind = 3 || x.1.kind = 4).map fun x => (s.secAddr x.2, x.1.len)) ++
    ((List.range (s.imgTasks a)).flatMap fun t => [(s.descAddr t, 256), (s.winsAddr t, 64)])

/-- Ranges that do not overlap. -/
def apart : List (Nat × Nat) → Bool
  | [] => true
  | x :: r => (r.all fun y => decide (x.1 + x.2 ≤ y.1) || decide (y.1 + y.2 ≤ x.1)) && apart r

/-- The 2 MiB pages that ranges touch, by number. -/
def pagesOf (l : List (Nat × Nat)) : List Nat :=
  (l.flatMap fun x => if x.2 = 0 then [] else (List.range ((x.1 + x.2 - 1) / 2 ^ 21 - x.1 / 2 ^ 21 + 1)).map fun i => x.1 / 2 ^ 21 + i).dedup

/-- A physical address of a stack of this package (R341). -/
def physAt (n o : Nat) : Nat := Config.thisPackage * 2 ^ 41 + n * 2 ^ 36 + o

/-- A leaf (R343). -/
def leafWord (slot : Fin 64) (die pa bits : Nat) : Nat := slot.val * 2 ^ 58 + die % 8 * 2 ^ 55 + pa / 2 ^ 12 * 2 ^ 12 + bits

/-- The leaf of a page of the image's folios: V, L, R and W (R367). -/
def State.folioLeaf (s : State) (slot : Fin 64) (p : Nat) (f : Folio) : Nat × Nat :=
  (p, leafWord slot f.die (physAt f.stack (s.os (720000 + p) % 2 ^ 15 * 2 ^ 21)) 15)

/-- The leaf of a page of code: V, L and X, with further rights, a stack and a home of the operating system's choice. -/
def State.codeLeaf (s : State) (slot : Fin 64) (p : Nat) : Nat × Nat :=
  (p, leafWord slot (s.os (740000 + p)) (physAt (s.os (750000 + p) % 24) (s.os (720000 + p) % 2 ^ 15 * 2 ^ 21)) (35 + s.os (730000 + p) % 8 * 4))

/-- The physical page of a leaf. -/
def leafPa (l : Nat × Nat) : Nat := l.2 / 2 ^ 12 % 2 ^ 40 * 2 ^ 12

/-- The key slot of the image's stack pages, and whether it shares it with another image. -/
def State.newSlot (s : State) : Fin 64 := Fin.ofNat 64 (s.os 66)
def State.slotShared (s : State) : Bool := s.images.any fun i => decide (i.slot = s.newSlot)

/-- The 2 MiB leaves of the image's tables. -/
def State.imageLeaves (s : State) (a : Nat) (b : Bind) : List (Nat × Nat) :=
  let fs := s.folios a b
  ((pagesOf (fs.map fun f => (f.va, 2 ^ 17))).filterMap fun p =>
      (fs.find? fun f => decide (f.va / 2 ^ 21 = p)).map fun f => s.folioLeaf s.newSlot p f) ++
    (pagesOf (s.ownSpans a)).map fun p => s.codeLeaf s.newSlot p

/-- The physical address of the image's level-0 table; the tables below it follow, at most three for a leaf. -/
def State.tableBase (s : State) : Nat := physAt (s.os 67 % 24) (s.os 68 % 2 ^ 24 * 2 ^ 12)

/-- The physical memory of leaves and their tables. -/
def rangesOf (base : Nat) (ls : List (Nat × Nat)) : List (Nat × Nat) := (base, 4096 * (1 + 3 * ls.length)) :: ls.map fun l => (leafPa l, 2 ^ 21)

/-- The image's XLAT_ROOT (R342): the operating system chooses ASID and THOME. -/
def State.newRoot (s : State) : Word := BitVec.ofNat 64 (s.os 69 % 2 ^ 16 * 2 ^ 48 + s.os 70 % 8 * 2 ^ 45 + 2 ^ 44 + s.tableBase / 2 ^ 12)

/-- A physical range lies in one stack that the part has. -/
def State.inStack (s : State) (x : Nat × Nat) : Bool :=
  s.stackHere (x.1 / 2 ^ 36 % 32) && decide (x.1 % 2 ^ 36 + x.2 ≤ 2 ^ 36)

/-- An address that the hub of a die reaches lies in stack memory. -/
def State.hubStack (s : State) (d : Fin 8) (va : Nat) : Bool :=
  match s.hubPlace d va .wr with
  | some p => isPhys p.key && decide (kindOf p.key = 0) && p.isLocal && s.stackHere (stackOf p.key)
  | none => false

/-- A range that the hub of a die reaches lies in stack memory: every 64 KiB page of it does (R344). -/
def State.hubSpan (s : State) (d : Fin 8) (x : Nat × Nat) : Bool :=
  (List.range ((x.1 + x.2 - 1) / 2 ^ 16 - x.1 / 2 ^ 16 + 1)).all fun i => s.hubStack d (max x.1 ((x.1 / 2 ^ 16 + i) * 2 ^ 16))

/-- The fresh key of the image, an entropy draw (R367, R393). -/
def State.imageKey (s : State) : BitVec 512 × State := s.draw (Config.freshKey s.tick)

/-- A fresh key may be loaded into the image's slot: it is not slot 0, no image uses it and no slice runs under it; a shared one stands
loaded (R351, R367). -/
def State.slotReady (s : State) : Bool :=
  s.newSlot ≠ 0 &&
    (if s.slotShared then s.keyStat.getLsbD s.newSlot.val
     else !s.keyBusy s.newSlot && decide (s.imageKey.1.extractLsb' 0 256 ≠ s.imageKey.1.extractLsb' 256 256))

/-- The boards of the image overlap no board, and each die holds at most 256 (R327). -/
def State.boardsReady (s : State) (a : Nat) (b : Bind) : Bool :=
  let all := s.boardSpans a b ++ s.images.flatMap fun i => i.boards
  apart all && (List.range 8).all fun d => (all.filter fun x => decide ((windowHome x.1).die = d)).length ≤ 256

/-- The memory chosen is the package's, and free. -/
def State.memoryReady (s : State) (base : Nat) (ls : List (Nat × Nat)) : Bool :=
  (rangesOf base ls).all s.inStack && apart (rangesOf base ls ++ s.images.flatMap fun i => i.ranges)

/-- The ring of queue q on die d. -/
def State.ringAddr (s : State) (d : Fin 8) : Nat := s.os (600 + d.val) * 4096

/-- The operating system's choices fit what the rules ask of them; else the load has not come about yet. -/
def State.loadReady (s : State) (d : Fin 8) (a : Nat) (b : Bind) : Bool :=
  let own := s.ownSpans a
  let fs := s.folios a b
  let ls := s.imageLeaves a b
  (s.imgData a ≠ 0 || s.dataOk a b (s.dataBase a)) && s.slotReady && s.boardsReady a b && s.memoryReady s.tableBase ls &&
    fs.all Folio.placed && s.chosenOk a && foliosApart fs && (own.all fun x => decide (2 ^ 41 ≤ x.1) && decide (x.1 + x.2 ≤ 2 ^ 57)) &&
    ((pagesOf own).all fun p => fs.all fun f => decide (f.va / 2 ^ 21 ≠ p)) && apart own &&
    apart ((s.dataBase a, s.dataBytes a) :: s.boardSpans a b ++ s.hubSpans a) && (s.hubSpans a).all (s.hubSpan d) &&
    (List.finRange 8).all fun e => !s.dieUsable e.val || s.hubSpan e (s.ringAddr e, 2 ^ 16)

/-! ## Tables (R343, R344, R367) -/

/-- A table entry is written. -/
def State.writeEntry (s : State) (d : Fin 8) (root : Word) (pa e : Nat) : State :=
  s.performWrite (.hub d) .store (tablePlace root pa) 8 e false true

/-- A table of zeros. -/
def State.zeroTable (s : State) (d : Fin 8) (root : Word) (pa : Nat) : State :=
  (List.range 512).foldl (fun s i => s.writeEntry d root (pa + 8 * i) 0) s

/-- A 2 MiB leaf is entered under a root, n levels above it; a table missing on the way is made at `free`. -/
def State.mapLeaf (s : State) (d : Fin 8) (root : Word) (va leaf t free : Nat) : Nat → State × Nat
  | 0 => (s.writeEntry d root (t + 8 * levelIndex va 3) leaf, free)
  | n + 1 =>
    let pa := t + 8 * levelIndex va (2 - n)
    let e := (s.tableEntry root pa).getD 0
    if bit e 0 then s.mapLeaf d root va leaf (fld e 12 40 * 2 ^ 12) free n
    else ((s.zeroTable d root free).writeEntry d root pa (free + 1)).mapLeaf d root va leaf free (free + 4096) n

/-- Leaves are entered under a root: the state, and the next free table. -/
def State.mapLeaves (s : State) (d : Fin 8) (root : Word) (free : Nat) (ls : List (Nat × Nat)) : State × Nat :=
  ls.foldl (fun x l => x.1.mapLeaf d root (l.1 * 2 ^ 21) l.2 (fld root 0 40 * 2 ^ 12) x.2 3) (s, free)

/-- The place of an address under an image's root; the operating system needs no right. -/
def State.rootPlace (s : State) (root : Word) (va : Nat) : Option Place :=
  match s.walk root va with
  | .leaf e z => some (leafPlace e (va / z * z) z va)
  | _ => none

/-- Doublewords are written by a hub where a root maps them. -/
def State.rootWriteWords (s : State) (d : Fin 8) (root : Word) (va : Nat) : List Word → State
  | [] => s
  | w :: r =>
    let t := match s.rootPlace root va with
      | some p => s.performWrite (.hub d) .store p 8 w.toNat false true
      | none => s
    t.rootWriteWords d root (va + 8) r

/-! ## Laying out (R366, R367) -/

/-- The doublewords of a section as they are copied. -/
def State.sectWords (s : State) (a : Nat) (x : Sect) : List Word :=
  (List.range ((x.len + 7) / 8)).map fun i => BitVec.ofNat 64 (s.hostN (a + x.off + 8 * i) (min 8 (x.len - 8 * i)))

/-- The address of the section of a kind, task and sub-number; 0 when there is none. -/
def State.sectAt (s : State) (a kind task sub : Nat) : Word :=
  match (s.sections a).zipIdx.find? fun x => x.1.kind = kind && x.1.task = task && x.1.sub = sub with
  | some x => BitVec.ofNat 64 (s.secAddr x.2)
  | none => 0

/-- The descriptor of task t (R366); the vectors and the comma limit are the operating system's. -/
def State.descriptor (s : State) (a : Nat) (b : Bind) (t : Nat) : List Word :=
  let dmap := (List.range 8).foldr (fun d n => b.perm.getD d d * 2 ^ (3 * d) + n) 0
  (List.range 4).map (fun j => s.sectAt a 1 t j) ++ (List.range 3).map (fun e => s.sectAt a 2 t e) ++
    [s.sectAt a 3 t 0, s.sectAt a 4 t 0, BitVec.ofNat 64 (s.os (300000 + t)), BitVec.ofNat 64 (s.os (310000 + t)),
     BitVec.ofNat 64 (s.os (320000 + t) % 2 ^ 32), BitVec.ofNat 64 (s.dataBase a), BitVec.ofNat 64 (s.winsAddr t),
     BitVec.ofNat 64 (b.dq * 2 ^ 32 + b.rq.toNat * 2 ^ 29 + b.rc.toNat * 2 ^ 28 + b.dc * 2 ^ 24 + dmap),
     BitVec.ofNat 64 (s.imgSvn a), 0, 0x4D5A5444#64] ++ List.replicate 14 0

/-- The task graphs of an accepted image: masks rewritten, tasks named by their descriptors. -/
def State.graphsOf (s : State) (a : Nat) (b : Bind) : List (List (List Word)) :=
  ((s.sections a).filter fun x => x.kind = 5).map fun x => (s.records a x).map fun r =>
    let d0 := r.getD 0 0
    putFld d0 16 8 (b.mask (fld d0 16 8)) :: BitVec.ofNat 64 (s.descAddr (fld (r.getD 1 0) 6 58)) :: r.drop 2

/-- The address that declaration number n denotes (R53). -/
def State.declAt (s : State) (a : Nat) (b : Bind) (n : Nat) : Nat :=
  match (s.decls a).zipIdx[n]? with
  | some d =>
    if fld d.1.1 0 8 = 1 then (s.boardSpan a b d).1 else if d.1.2 = 0 then s.os (200000 + n) * 2 ^ 17 else d.1.2.toNat
  | none => s.dataBase a

/-- The address that a relocation entry's immediate names: the base of the data segment, or the address of a declaration, and a distance
(R53, R362; log 49). -/
def State.named (s : State) (a : Nat) (b : Bind) (w : Word) : Nat :=
  match Config.namedLabel (Config.sha512 (s.fileBytes a 0 (s.imgColo a))) w with
  | (0, k) => s.dataBase a + k
  | (n + 1, k) => s.declAt a b n + k

/-- Relocation entry `w` of the code of the image: the three LIMM words it names get quarters 0, 1 and 2 of the address (R362, R367). -/
def State.relocate (s : State) (d : Fin 8) (root : Word) (sec v : Nat) (w : Word) : State :=
  (List.range 3).foldl (fun s k =>
    match s.rootPlace root (sec + fld w 8 40 + 4 * k) with
    | some p => s.performWrite (.hub d) .store p 4 (putFld (BitVec.ofNat 32 (s.dataAt p 4)) 4 16 (v / 2 ^ (16 * k))).toNat false true
    | none => s) s

/-- Board and folio declarations are laid out: a board's header and slots (R327, R328), a folio's header and zeros (R367). -/
def State.declare (s : State) (d : Fin 8) (root : Word) (die at' : Nat) (q : Fin 64) (w : Word) : State :=
  if fld w 0 8 = 1 then
    s.hubWriteWords d at' ([0, BitVec.ofNat 64 (Config.thisPackage * 2 ^ 55 + (die * 64 + q.val) * 2 ^ 46 + fld w 26 2 * 2 ^ 38 +
      fld w 24 2 * 2 ^ 36 + 0xB5)] ++ List.replicate (boardBytes (fld w 24 2) / 8 - 2) 0)
  else if fld w 0 8 = 2 then
    s.rootWriteWords d root at' (BitVec.ofNat 64 (10 + fld w 31 1 * 16 + fld w 29 2 * 128) :: List.replicate 7 0)
  else s

/-- One section is copied: code and engine words where the image's tables map them, lexicon declarations and live maps where the hubs reach
them, data to the data segment, one data section after another. -/
def State.copySect (s : State) (d : Fin 8) (root : Word) (at' before : Nat) (ws : List Word) (kind : Nat) : State :=
  if kind ≤ 2 then s.rootWriteWords d root at' ws
  else if kind ≤ 4 then s.hubWriteWords d at' ws
  else if kind = 6 then s.hubWriteWords d before ws
  else s

/-! ## Queue and handle (R397, R412) -/

/-- Queue q is disabled on every present die. -/
def State.queueDisabled (s : State) (q : Fin 64) : Bool :=
  (List.finRange 8).all fun d => !s.diePresent d.val || !(s.die[d].lq[q]).en

/-- Images served by a queue number. -/
def State.queueLoad (s : State) (q : Fin 64) : Nat := (s.images.filter fun i => decide (i.q = q)).length

/-- The queue number of a new image (R412). -/
def State.pickQueue (s : State) : Fin 64 :=
  let qs := (List.finRange 64).filter fun q => decide (q ≠ 63)
  match qs.find? s.queueDisabled with
  | some q => q
  | none => (qs.find? fun q => qs.all fun p => decide (s.queueLoad q ≤ s.queueLoad p)).getD 0

/-- A launch queue set up with a ring of 2^10 slots (R412): what LQ_CTL holds besides PRIOMAX, STOPPED and EN stays. -/
def LaunchQ.setUp (l : LaunchQ) (q : Fin 64) (ring : Nat) : LaunchQ :=
  LaunchQ.writeCtl { l with ring := BitVec.ofNat 64 (ring + 10), ptr := 0, head := none, wait := none } q 0x70400

/-- The queue is set up on every usable die where it is disabled (R412). -/
def State.setupQueue (s : State) (q : Fin 64) : State :=
  (List.finRange 8).foldl (fun (t : State) (d : Fin 8) =>
    if s.dieUsable d.val && !(s.die[d].lq[q]).en then t.modDie d fun x => { x with lq := vmod x.lq q fun l => l.setUp q (s.ringAddr d) } else t) s

/-- A nonzero handle that no loaded image has. -/
def State.freshHandle (s : State) : BitVec 32 :=
  ((List.range (s.images.length + 2)).map fun i => BitVec.ofNat 32 (s.os 64 + i)).find? (fun h =>
    h ≠ 0 && !(s.images.any fun x => decide (x.handle = h))) |>.getD 1

/-- The image's key slot holds its key: a fresh one, unless it shares the slot (R351, R367). -/
def State.loadKey (s : State) : State :=
  if s.slotShared then s
  else
    let k := s.imageKey
    { k.2 with keys := s.keys.set s.newSlot k.1, keyStat := s.keyStat ||| ((1 : Word) <<< s.newSlot.val) }

/-- The portable objects of the file (R371). -/
def State.objects (s : State) (a : Nat) : List PortObj :=
  ((s.sections a).filter fun x => x.kind = 9).map fun x =>
    ⟨Config.sha512 (s.fileBytes a x.off x.len), s.sectWords a x, x.len⟩

/-- An accepted image is laid out and entered under its handle; it is loaded under a debug token only where the boot found one that names
debug mode (R391, R394). -/
def State.layOut (s : State) (d : Fin 8) (a : Nat) (b : Bind) : State × BitVec 32 :=
  let q := s.pickQueue
  let h := s.freshHandle
  let root := s.newRoot
  let secs := s.sections a
  let ls := s.imageLeaves a b
  let s1 := (s.loadKey.setupQueue q).zeroTable d root s.tableBase
  let m := s1.mapLeaves d root (s.tableBase + 4096) ls
  let before (i : Nat) : Nat := s.dataBase a + ((secs.take i).filter fun y => y.kind = 6).foldr (fun y n => y.len + n) 0
  let s2 := secs.zipIdx.foldl (fun t x => t.copySect d root (s.secAddr x.2) (before x.2) (s.sectWords a x.1) x.1.kind) m.1
  let s3 := (secs.filter fun x => x.kind = 8).foldl (fun t x => (List.range (x.len / 8)).foldl (fun t i =>
    let w := s.file a (x.off + 8 * i)
    t.relocate d root (s.secAddr (fld w 48 16)) (s.named a b w) w) t) s2
  let s4 := (List.range (s.imgTasks a)).foldl (fun t k =>
    (t.hubWriteWords d (s.descAddr k) (s.descriptor a b k)).hubWriteWords d (s.winsAddr k) ((List.range 8).map (s.winValue k))) s3
  let s5 := (s.decls a).zipIdx.foldl (fun t x => t.declare d root (s.taskDie a b (fld x.1.1 8 16)) (s.declAt a b x.2) q x.1.1) s4
  ({ s5 with images := s5.images ++
      [{ handle := h, q := q, debug := s.dbgToken && decide (s.os 65 ≠ 0), graphs := s.graphsOf a b, svn := s.imgSvn a, root := root, slot := s.newSlot,
         descs := (List.range (s.imgTasks a)).map s.descAddr, boards := s.boardSpans a b, ranges := rangesOf s.tableBase ls, table := m.2,
         objs := s.objects a }] }, h)

/-- The loader on die d: the state after, and the completion word (R397). -/
def State.loadImage (s : State) (d : Fin 8) (a : Nat) : State × Word :=
  match s.imageVerdict a with
  | (0, b) => let r := s.layOut d a b; (r.1, BitVec.ofNat 64 (r.2.toNat * 2 ^ 32))
  | (k, _) => (s, BitVec.ofNat 64 k)

/-- A load can be decided now: the image is refused, or the operating system's choices fit. -/
def State.loadDue (s : State) (d : Fin 8) (a : Nat) : Bool :=
  match s.imageVerdict a with
  | (0, b) => s.loadReady d a b
  | _ => true

/-- The act `unload` (R366): the loader releases an image; its descriptors are no longer in force. -/
def State.unload (s : State) (d : Fin 8) (i : Nat) : State :=
  match s.images[i]? with
  | some x =>
    if !s.dieUsable d.val || s.dieInReset d.val || s.bootStat ≠ 1 then s
    else
      let t := x.descs.foldl (fun t k => t.hubWrite d (k + 8 * 17) 8 0) s
      { t with images := dropAt i t.images }
  | none => s

end Sys2Proof.Machine
end

