-- ==== Sys2Proof/Machine/VectorFp.lean ====
section
/-!
DEFINITION. The floating vector instructions (R135, R137, R138, R144, R147, R148).
-/
namespace Sys2Proof.Machine

/-- A source's lane as an exact value. -/
def fpVal (g : FpArgs) (d : VData) (i : Nat) : FVal := (fpFmt g.t).dec g.ftz (lane d (fpW g.t) i)

/-- A floating arithmetic instruction: `f` gives the exact result from a, b and the destination c (R137). -/
def State.fpOp (s : State) (g : FpArgs) (useD : Bool) (f : FVal → FVal → FVal → FVal) : Res :=
  let a := s.vread g.a
  let b := s.vread g.b
  let c := s.vread (.v g.d)
  let t := fpTag g.t
  s.vectorOp (g.raw || (s.tagOk g.a t && s.tagOk g.b t && (!useD || s.tagOk (.v g.d) t))) [g.a, g.b] 4
    (s.vwrite g.d t (s.runActive (fpW g.t) g.k fun i => opRound (fpFmt g.t) g.r g.ftz (f (fpVal g a i) (fpVal g b i) (fpVal g c i))))

/-- VADD: a + b. -/
def execVaddFp (g : FpArgs) (s : State) : Res := s.fpOp g false fun a b _ => a.add (g.r = .rd) b
/-- VSUB: a − b. -/
def execVsubFp (g : FpArgs) (s : State) : Res := s.fpOp g false fun a b _ => a.add (g.r = .rd) b.neg
/-- VMUL: a × b. -/
def execVmulFp (g : FpArgs) (s : State) : Res := s.fpOp g false fun a b _ => a.mul b
/-- VFMA: a × b + c. -/
def execVfma (g : FpArgs) (s : State) : Res := s.fpOp g true fun a b c => (a.mul b).add (g.r = .rd) c
/-- VFMS: a × b − c. -/
def execVfms (g : FpArgs) (s : State) : Res := s.fpOp g true fun a b c => (a.mul b).add (g.r = .rd) c.neg
/-- VNFMA: c − a × b. -/
def execVnfma (g : FpArgs) (s : State) : Res := s.fpOp g true fun a b c => (a.mul b).neg.add (g.r = .rd) c
/-- VMADD: c × a + b. -/
def execVmadd (g : FpArgs) (s : State) : Res := s.fpOp g true fun a b c => (c.mul a).add (g.r = .rd) b

/-- VMIN and VMAX by R138. -/
def State.fpMinMax (s : State) (g : FpMinArgs) (mx : Bool) : Res :=
  let a := s.vread g.a
  let b := s.vread g.b
  let w := fpW g.t
  let t := fpTag g.t
  s.vectorOp (g.raw || (s.tagOk g.a t && s.tagOk g.b t)) [g.a, g.b] 2
    (s.vwrite g.d t (s.runActive w g.k fun i => (fMinMax (fpFmt g.t) mx (lane a w i) (lane b w i), 0)))

/-- VMIN (R138). -/
def execVminFp (g : FpMinArgs) (s : State) : Res := s.fpMinMax g false
/-- VMAX (R138). -/
def execVmaxFp (g : FpMinArgs) (s : State) : Res := s.fpMinMax g true

/-- VCMP: writes every bit of kd (R138). -/
def execVcmpFp (g : FpCmpArgs) (s : State) : Res :=
  let a := s.vread g.a
  let b := s.vread g.b
  let w := fpW g.t
  let t := fpTag g.t
  s.vectorOp (g.raw || (s.tagOk g.a t && s.tagOk g.b t)) [g.a, g.b] 2
    [maskWrite g.kd (s.lanes w) (s.masked g.k) fun i => fCompare (fpFmt g.t) g.c (lane a w i) (lane b w i)]

/-- VSCALE: va × 2^n, n a signed lane of vb (R144). -/
def execVscale (g : FpArgs) (s : State) : Res :=
  let a := s.vread g.a
  let b := s.vread g.b
  let w := fpW g.t
  let t := fpTag g.t
  s.vectorOp (g.raw || (s.tagOk g.a t && s.tagOk g.b (if w = 32 then 12 else 11))) [g.a, g.b] 4
    (s.vwrite g.d t (s.runActive w g.k fun i =>
      opRound (fpFmt g.t) g.r g.ftz ((fpVal g a i).scale (toSigned w (lane b w i)))))

/-! ## One source -/

/-- A floating one-source instruction by a lane function on bits. -/
def State.fpUn (s : State) (g : FpUnArgs) (lat : Nat) (tag : Fin 16) (f : Nat → Nat × FFlags) : Res :=
  let a := s.vread g.a
  let w := fpW g.t
  s.vectorOp (g.raw || s.tagOk g.a (fpTag g.t)) [g.a] lat (s.vwrite g.d tag (s.runActive w g.k fun i => f (lane a w i)))

/-- VRND: rounded to an integral value in its own format; sets no bit (R148). -/
def vrndLane (f : Fmt) (r : Rnd) (ftz : Bool) (b : Nat) : Nat :=
  match f.dec ftz b with
  | .fin neg m e st =>
    if m = 0 then f.sign neg
    else if 0 ≤ e then (f.round .rn false (.fin neg m e st)).1
    else (f.round .rn false (.fin neg (roundAt r neg m e 0).1 0 false)).1
  | v => (f.round .rn false v).1

/-- VRND (R148). -/
def execVrnd (g : FpUnArgs) (s : State) : Res := s.fpUn g 3 (fpTag g.t) fun b => (vrndLane (fpFmt g.t) g.r g.ftz b, 0)

/-- VRCP: 1/a; ±0 gives ±∞ with DZ (R148). -/
def vrcpLane (f : Fmt) (r : Rnd) (ftz : Bool) (b : Nat) : Nat × FFlags :=
  match f.dec ftz b with
  | .fin neg m e _ => if m = 0 then (f.infinity neg, fDZ) else opRound f r ftz (FVal.recip m e neg)
  | .inf neg => (f.sign neg, 0)
  | v => opRound f r ftz v

/-- VRCP (R148). -/
def execVrcp (g : FpUnArgs) (s : State) : Res := s.fpUn g 8 (fpTag g.t) (vrcpLane (fpFmt g.t) g.r g.ftz)

/-- VRSQ: 1/√a (R148). -/
def vrsqLane (f : Fmt) (r : Rnd) (ftz : Bool) (b : Nat) : Nat × FFlags :=
  match f.dec ftz b with
  | .fin neg m e _ =>
    if m = 0 then (f.infinity neg, fDZ) else if neg then (f.qnan, fNV) else opRound f r ftz (FVal.rsqrt m e)
  | .inf neg => if neg then (f.qnan, fNV) else (0, 0)
  | v => opRound f r ftz v

/-- VRSQ (R148). -/
def execVrsq (g : FpUnArgs) (s : State) : Res := s.fpUn g 8 (fpTag g.t) (vrsqLane (fpFmt g.t) g.r g.ftz)

/-- VEXP2: Exp2_S of the source taken into FP32; sets no bit (R95, R148). -/
def vexp2Lane (f : Fmt) (ftz : Bool) (b : Nat) : Nat :=
  let y := exp2S (fp32.round .rn false (f.dec ftz b)).1
  let z := if f = fp32 then y else (f.round .rn false (fp32.dec false y)).1
  if ftz && z < 2 ^ f.frac then 0 else z

/-- VEXP2 (R148). -/
def execVexp2 (g : FpUnArgs) (s : State) : Res := s.fpUn g 8 (fpTag g.t) fun b => (vexp2Lane (fpFmt g.t) g.ftz b, 0)

/-- VLOG2 (R148). -/
def vlog2Lane (f : Fmt) (r : Rnd) (ftz : Bool) (b : Nat) : Nat × FFlags :=
  match f.dec ftz b with
  | .fin neg m e _ =>
    if m = 0 then (f.infinity true, fDZ) else if neg then (f.qnan, fNV) else opRound f r ftz (FVal.log2 m e)
  | .inf neg => if neg then (f.qnan, fNV) else (f.infinity false, 0)
  | v => opRound f r ftz v

/-- VLOG2 (R148). -/
def execVlog2 (g : FpUnArgs) (s : State) : Res := s.fpUn g 8 (fpTag g.t) (vlog2Lane (fpFmt g.t) g.r g.ftz)

/-- The class bit of a value (R148). -/
def vclassLane (f : Fmt) (b : Nat) : Nat :=
  match f.dec false b with
  | .inf true => 1
  | .inf false => 128
  | .fin neg m _ _ =>
    if m = 0 then (if neg then 8 else 16)
    else if m < 2 ^ f.frac then (if neg then 4 else 32)
    else (if neg then 2 else 64)
  | _ => 256

/-- VCLASS: writes an integer of the width (R148). -/
def execVclass (g : FpUnArgs) (s : State) : Res :=
  s.fpUn g 3 (if fpW g.t = 32 then 12 else 11) fun b => (vclassLane (fpFmt g.t) b, 0)

end Sys2Proof.Machine
end

