-- ==== Sys2Proof/Machine/VectorInt.lean ====
section
/-!
DEFINITION. The integer, bitwise, data movement and dot-product vector instructions (R139 to R143).
-/
namespace Sys2Proof.Machine

/-- Integer VADD, VSUB, VMUL: the exact result, wrapped or clamped (R139). -/
def State.intOp (s : State) (g : IntSatArgs) (lat : Nat) (f : Int → Int → Int) : Res :=
  let a := s.vread g.a
  let b := s.vread g.b
  let w := laneW (intLane g.t)
  let sg := intSigned g.t
  let t := laneTag (intLane g.t)
  s.vectorOp (g.raw || (s.tagOk g.a t && s.tagOk g.b t)) [g.a, g.b] lat
    (s.vwrite g.d t (s.runActive w g.k fun i =>
      intResult w sg g.sat (f (laneInt w sg (lane a w i)) (laneInt w sg (lane b w i)))))

/-- VADD. -/
def execVaddInt (g : IntSatArgs) (s : State) : Res := s.intOp g 2 fun x y => x + y
/-- VSUB. -/
def execVsubInt (g : IntSatArgs) (s : State) : Res := s.intOp g 2 fun x y => x - y
/-- VMUL. -/
def execVmulInt (g : IntSatArgs) (s : State) : Res := s.intOp g 4 fun x y => x * y

/-- A condition of R110 on lanes of w bits (R140). -/
def laneCond (c : Cond) (w a b : Nat) : Bool :=
  let x := toSigned w a
  let y := toSigned w b
  match c with
  | .eq => a = b
  | .ne => a ≠ b
  | .lt => x < y
  | .le => x ≤ y
  | .gt => y < x
  | .ge => y ≤ x
  | .ltn => a < b
  | .len => a ≤ b
  | .gtn => b < a
  | .gen => b ≤ a

/-- VCMP (R140). -/
def execVcmpInt (g : IntCmpArgs) (s : State) : Res :=
  let a := s.vread g.a
  let b := s.vread g.b
  let w := laneW g.w
  s.vectorOp (s.tagOk g.a (laneTag g.w) && s.tagOk g.b (laneTag g.w)) [g.a, g.b] 2
    [maskWrite g.kd (s.lanes w) (s.masked g.k) fun i => laneCond g.c w (lane a w i) (lane b w i)]

/-- A typed instruction of major 43 (R141). -/
def State.intLaneOp (s : State) (g : IntArgs) (f : Nat → Bool → Nat → Nat → Nat) : Res :=
  let a := s.vread g.a
  let b := s.vread g.b
  let w := laneW (intLane g.t)
  let t := laneTag (intLane g.t)
  s.vectorOp (s.tagOk g.a t && s.tagOk g.b t) [g.a, g.b] 2
    (s.vwrite g.d t (s.runActive w g.k fun i => (f w (intSigned g.t) (lane a w i) (lane b w i), 0)))

/-- A bitwise instruction of major 43: type-free, it copies va's tag (R141). -/
def State.bitOp (s : State) (g : IntArgs) (f : Nat → Nat → Nat) : Res :=
  let a := s.vread g.a
  let b := s.vread g.b
  let w := laneW (intLane g.t)
  s.vectorOp true [g.a, g.b] 2 (s.vwrite g.d (s.vtag g.a) (s.runActive w g.k fun i => (f (lane a w i) (lane b w i), 0)))

/-- VMIN. -/
def execVminInt (g : IntArgs) (s : State) : Res :=
  s.intLaneOp g fun w sg a b => if laneInt w sg b < laneInt w sg a then b else a
/-- VMAX. -/
def execVmaxInt (g : IntArgs) (s : State) : Res :=
  s.intLaneOp g fun w sg a b => if laneInt w sg a < laneInt w sg b then b else a
/-- VSHL: 0 when the count is at least w. -/
def execVshl (g : IntArgs) (s : State) : Res :=
  s.intLaneOp g fun w _ a b => if w ≤ b then 0 else a * 2 ^ b % 2 ^ w
/-- VSHR: zeros enter. -/
def execVshr (g : IntArgs) (s : State) : Res := s.intLaneOp g fun w _ a b => if w ≤ b then 0 else a / 2 ^ b
/-- VSRA: the sign enters. -/
def execVsra (g : IntArgs) (s : State) : Res :=
  s.intLaneOp g fun w _ a b => ofSigned w (Int.fdiv (toSigned w a) ((2 ^ min b w : Nat) : Int))
/-- VAND. -/
def execVand (g : IntArgs) (s : State) : Res := s.bitOp g fun a b => a &&& b
/-- VOR. -/
def execVor (g : IntArgs) (s : State) : Res := s.bitOp g fun a b => a ||| b
/-- VXOR. -/
def execVxor (g : IntArgs) (s : State) : Res := s.bitOp g fun a b => a ^^^ b

/-! ## Data movement (R142) -/

/-- A data movement: lane i of the result from the width, L, and the sources; type-free, copies va's tag. -/
def State.moveOp (s : State) (g : MoveArgs) (f : Nat → Nat → Nat → Nat) : Res :=
  let w := laneW g.w
  s.vectorOp true [g.a, g.b] 3 (s.vwrite g.d (s.vtag g.a) (s.runActive w g.k fun i => (f w (s.lanes w) i, 0)))

/-- VSEL: the mask field names the selector, and every lane below L is written. -/
def execVsel (g : MoveArgs) (s : State) : Res :=
  let w := laneW g.w
  let a := s.vread g.a
  let b := s.vread g.b
  s.vectorOp true [g.a, g.b] 3 (s.vwrite g.d (s.vtag g.a)
    (runLanes w (s.lanes w) (fun _ => true) fun i => (if s.masked g.k i then lane a w i else lane b w i, 0)))

/-- VPERM. -/
def execVperm (g : MoveArgs) (s : State) : Res :=
  let a := s.vread g.a
  let b := s.vread g.b
  s.moveOp g fun w n i => let k := lane b w i; if k < n then lane a w k else 0

/-- VSHUF: reads the destination at issue. -/
def execVshuf (g : MoveArgs) (s : State) : Res :=
  let a := s.vread g.a
  let b := s.vread g.b
  let d := s.vread (.v g.d)
  s.moveOp g fun w n i =>
    let k := lane b w i
    if k < n then lane a w k else if k < 2 * n then lane d w (k - n) else 0

/-- Lane i of VZIP #h (R142). -/
def zipLane (a b : VData) (h w n i : Nat) : Nat :=
  let k := h * ((n + 1) / 2) + i / 2
  if n ≤ k then 0 else lane (if i % 2 = 0 then a else b) w k

/-- VZIP #0. -/
def execVzip0 (g : MoveArgs) (s : State) : Res :=
  let a := s.vread g.a
  let b := s.vread g.b
  s.moveOp g fun w n i => zipLane a b 0 w n i

/-- VZIP #1. -/
def execVzip1 (g : MoveArgs) (s : State) : Res :=
  let a := s.vread g.a
  let b := s.vread g.b
  s.moveOp g fun w n i => zipLane a b 1 w n i

/-- Lane i of VUZP #h (R142). -/
def uzpLane (a b : VData) (h w n i : Nat) : Nat :=
  let j := 2 * i + h
  if j < n then lane a w j else if j - n < n then lane b w (j - n) else 0

/-- VUZP #0. -/
def execVuzp0 (g : MoveArgs) (s : State) : Res :=
  let a := s.vread g.a
  let b := s.vread g.b
  s.moveOp g fun w n i => uzpLane a b 0 w n i

/-- VUZP #1. -/
def execVuzp1 (g : MoveArgs) (s : State) : Res :=
  let a := s.vread g.a
  let b := s.vread g.b
  s.moveOp g fun w n i => uzpLane a b 1 w n i

/-- VSLIDE #0: towards higher lanes by vb[0]. -/
def execVslide0 (g : MoveArgs) (s : State) : Res :=
  let a := s.vread g.a
  let b := s.vread g.b
  s.moveOp g fun w _ i => let k := lane b w 0; if k ≤ i then lane a w (i - k) else 0

/-- VSLIDE #1: towards lower lanes by vb[0]. -/
def execVslide1 (g : MoveArgs) (s : State) : Res :=
  let a := s.vread g.a
  let b := s.vread g.b
  s.moveOp g fun w n i => let k := lane b w 0; if i + k < n then lane a w (i + k) else 0

/-! ## Dot products (R143) -/

/-- A dot product: `f` combines an element pair; lanes of 32 bits; a source byte at or beyond VLEN counts as zero. -/
def State.dotOp (s : State) (g : DotArgs) (sgn : Bool) (f : Int → Int → Int) : Res :=
  let a := s.vread g.a
  let b := s.vread g.b
  let c := s.vread (.v g.d)
  let n := s.mySeat.vec.vlen.toNat
  let byte (d : VData) (j : Nat) : Int := if j < n then laneInt 8 sgn (lane d 8 j) else 0
  s.vectorOp (g.raw || (s.tagOk g.a 10 && s.tagOk g.b 10 && s.tagOk (.v g.d) 12)) [g.a, g.b] 4
    (s.vwrite g.d 12 (s.runActive 32 g.k fun i =>
      intResult 32 sgn g.sat ((List.range 4).foldl (fun acc j => acc + f (byte a (4 * i + j)) (byte b (4 * i + j)))
        (laneInt 32 sgn (lane c 32 i)))))

/-- VDOT4.i8. -/
def execVdot4I8 (g : DotArgs) (s : State) : Res := s.dotOp g true fun x y => x * y
/-- VDOT4.n8. -/
def execVdot4N8 (g : DotArgs) (s : State) : Res := s.dotOp g false fun x y => x * y
/-- VTACC: the sign of the weight a adds or subtracts b; it always wraps. -/
def execVtacc (g : DotArgs) (s : State) : Res :=
  s.dotOp { g with sat := false } true fun x y => if 0 < x then y else if x < 0 then -y else 0

end Sys2Proof.Machine
end

