-- ==== Sys2Proof/Machine/VectorOne.lean ====
section
/-!
DEFINITION. Major 47: moves, VIDX, VSETVL (R146), VNEG, VABS, VNOT (R147), the reductions (R149), VBCAST and VEXTR (R150),
VTUNPK (R151) and VCVT (R152).
-/
namespace Sys2Proof.Machine

/-- VMOV to a register: bytes; T = 0 copies the tag, else va must carry T or 0 and T is written (R146). -/
def execVmov (g : VmovArgs) (s : State) : Res :=
  let a := s.vread g.a
  s.vectorOp (g.tag = 0 || s.tagOk g.a g.tag) [g.a] 2
    (s.vwrite g.d (if g.tag = 0 then s.vtag g.a else g.tag) (s.runActive 8 g.k fun i => (lane a 8 i, 0)))

/-- VMOV q8 or q9: all 2,048 bits are enqueued at the result cycle; it issues only when the queue has room (R134, R146). -/
def execVmovQ (q9 : Bool) (a : VSrc) (s : State) : Res :=
  let n : Fin 16 := if q9 then 9 else 8
  if !s.mySeat.qRoom n s.now 1 then s.stall (some true)
  else s.vectorOp true [a] 2 [.queue n (s.vread a)]

/-- VIDX: each active lane becomes its index (R146). -/
def execVidx (d : Fin 32) (w : LaneW) (k : Fin 8) (s : State) : Res :=
  s.vectorOp true [] 2 (s.vwrite d (laneTag w) (s.runActive (laneW w) k fun i => (i, 0)))

/-- VSETVL (R146). -/
def execVsetvl (d : Fin 32) (a : SSpec) (w : LaneW) (s : State) : Res :=
  if !s.classOk [a] [] then s.raiseClass
  else match s.blocked [a] [] with
    | some why => s.stall why
    | none =>
      let n := min ((s.peek a).toInt.toNat * laneW w / 8) 256
      (s.take a).vectorOp true [] 2 [.vlen (BitVec.ofNat 64 n), .xreg d (BitVec.ofNat 64 (n * 8 / laneW w))]

/-- VNEG or VABS (R147). DESIGN CHOICE (log 52): a NaN gives the canonical NaN with .raw too, as R147 says, though R83 has .raw copy bits. -/
def State.signOp (s : State) (g : UnArgs) (abs : Bool) : Res :=
  let a := s.vread g.a
  match g.ty with
  | .fp t raw =>
    let f := fpFmt t
    let top := 2 ^ (f.width - 1)
    s.vectorOp (raw || s.tagOk g.a (fpTag t)) [g.a] 2 (s.vwrite g.d (fpTag t) (s.runActive (fpW t) g.k fun i =>
      let b := lane a (fpW t) i
      (if f.dec false b = .nan then f.qnan else if abs then b % top else b ^^^ top, 0)))
  | .int w sat =>
    let n := laneW w
    s.vectorOp (s.tagOk g.a (laneTag w)) [g.a] 2 (s.vwrite g.d (laneTag w) (s.runActive n g.k fun i =>
      let x := toSigned n (lane a n i)
      intResult n true sat (if abs then (x.natAbs : Int) else -x)))

/-- VNEG (R147). -/
def execVneg (g : UnArgs) (s : State) : Res := s.signOp g false
/-- VABS (R147). -/
def execVabs (g : UnArgs) (s : State) : Res := s.signOp g true

/-- VNOT: type-free, copies va's tag (R147). -/
def execVnot (d : Fin 32) (a : VSrc) (w : LaneW) (k : Fin 8) (s : State) : Res :=
  let v := s.vread a
  s.vectorOp true [a] 2 (s.vwrite d (s.vtag a) (s.runActive (laneW w) k fun i => (2 ^ laneW w - 1 - lane v (laneW w) i, 0)))

/-! ## Reductions (R149) -/

/-- One level of the addition tree: neighbours are added with one rounding in FP32. -/
def treeLevel (r : Rnd) : List Nat → List Nat × FFlags
  | a :: b :: rest =>
    let x := fp32.round r false ((fp32.dec false a).add (r = .rd) (fp32.dec false b))
    let y := treeLevel r rest
    (x.1 :: y.1, x.2 ||| y.2)
  | l => (l, 0)

/-- The addition tree, with at most `n` levels. -/
def treeSum (r : Rnd) : Nat → List Nat → Nat × FFlags
  | 0, l => (l.headD 0, 0)
  | n + 1, l =>
    match l with
    | [] => (0, 0)
    | [a] => (a, 0)
    | _ =>
      let x := treeLevel r l
      let y := treeSum r n x.1
      (y.1, x.2 ||| y.2)

/-- The write of lane 0 alone (R149). -/
def State.lane0 (s : State) (d : Fin 32) (w : Nat) (tag : Fin 16) (r : Nat × FFlags) : List CWrite :=
  s.vwrite d tag { data := BitVec.ofNat 2048 (r.1 % 2 ^ w), mask := BitVec.ofNat 2048 (ones w), flags := r.2 }

/-- The active lanes of a source. -/
def State.activeLanes (s : State) (a : VSrc) (w : Nat) (k : Fin 8) : List Nat :=
  ((List.range (s.lanes w)).filter fun i => s.masked k i).map fun i => lane (s.vread a) w i

/-- The fixed tree of floating VREDADD over the values of lanes; a lane without one counts as −0. -/
def redTree (t : FpType) (r : Rnd) (v : Nat → Option Nat) : Nat × FFlags :=
  let n := if t = .fp32 then 64 else 128
  let x := treeSum r 8 ((List.range n).map fun i => match v i with
    | some b => (fp32.round .rn false ((fpFmt t).dec false b)).1
    | none => 0x80000000)
  match t with
  | .fp32 => x
  | .fp16 => let y := fp16.round r false (fp32.dec false x.1); (y.1, x.2 ||| y.2)
  | .bf16 => let y := bf16.round .rn false (fp32.dec false x.1); (y.1, x.2 ||| y.2)

/-- Floating VREDADD. -/
def State.fpSum (s : State) (a : VSrc) (k : Fin 8) (t : FpType) (r : Rnd) : Nat × FFlags :=
  redTree t r fun i => if i < s.lanes (fpW t) && s.masked k i then some (lane (s.vread a) (fpW t) i) else none

/-- VREDADD (R149). -/
def execVredadd (g : VredArgs) (s : State) : Res :=
  match g.ty with
  | .fp t r raw => s.vectorOp (raw || s.tagOk g.a (fpTag t)) [g.a] 6 (s.lane0 g.d (fpW t) (fpTag t) (s.fpSum g.a g.k t r))
  | .int w un sat raw =>
    let n := laneW w
    let x := (s.activeLanes g.a n g.k).foldl (fun acc v => acc + laneInt n (!un) v) 0
    s.vectorOp (raw || s.tagOk g.a (laneTag w)) [g.a] 6 (s.lane0 g.d n (laneTag w) (intResult n (!un) sat x))

/-- The greatest or least of the active lanes (R149). -/
def State.extreme (s : State) (g : VredArgs) (mx : Bool) : Res :=
  match g.ty with
  | .fp t _ raw =>
    let f := fpFmt t
    let ls := s.activeLanes g.a (fpW t) g.k
    let r := match ls with
      | [] => f.infinity mx
      | x :: rest => rest.foldl (fMinMax f mx) (fMinMax f mx x x)
    s.vectorOp (raw || s.tagOk g.a (fpTag t)) [g.a] 6 (s.lane0 g.d (fpW t) (fpTag t) (r, 0))
  | .int w un _ raw =>
    let n := laneW w
    let first : Int := if mx then intMin n (!un) else intMax n (!un)
    let r := (s.activeLanes g.a n g.k).foldl (fun acc v => if mx then max acc (laneInt n (!un) v) else min acc (laneInt n (!un) v)) first
    s.vectorOp (raw || s.tagOk g.a (laneTag w)) [g.a] 6 (s.lane0 g.d n (laneTag w) (ofSigned n r, 0))

/-- VREDMAX (R149). -/
def execVredmax (g : VredArgs) (s : State) : Res := s.extreme g true
/-- VREDMIN (R149). -/
def execVredmin (g : VredArgs) (s : State) : Res := s.extreme g false

/-! ## Between lanes and files (R150) -/

/-- VBCAST from a lane: type-free, copies va's tag. -/
def execVbcast (d : Fin 32) (a : VSrc) (w : LaneW) (j : Fin 16) (k : Fin 8) (s : State) : Res :=
  let x := lane (s.vread a) (laneW w) j.val
  s.vectorOp true [a] 3 (s.vwrite d (s.vtag a) (s.runActive (laneW w) k fun _ => (x, 0)))

/-- The lane width of a tag code (R98). -/
def tagWidth (t : Fin 16) : Nat :=
  match t.val with
  | 1 => 32 | 2 => 16 | 3 => 16 | 4 => 8 | 5 => 8 | 10 => 8 | 11 => 16 | 12 => 32 | _ => 64

/-- VBCAST from a scalar: the low w bits, and the tag of the type. -/
def execVbcastScalar (d : Fin 32) (a : SSpec) (tag : Fin 16) (k : Fin 8) (s : State) : Res :=
  if !s.classOk [a] [] then s.raiseClass
  else match s.blocked [a] [] with
    | some why => s.stall why
    | none =>
      let w := tagWidth tag
      let x := (s.peek a).toNat % 2 ^ w
      (s.take a).vectorOp true [] 3 (s.vwrite d tag (s.runActive w k fun _ => (x, 0)))

/-- VEXTR: one lane to an x register of C. -/
def execVextr (g : VextrArgs) (s : State) : Res :=
  let w := laneW g.w
  let x := lane (s.vread g.a) w g.j.val
  s.vectorOp true [g.a] 3 [.xreg g.d (if g.sgn then signExt w x else BitVec.ofNat 64 x)]

/-! ## VTUNPK (R151) -/

/-- VTUNPK: byte j of the source governs lanes 5j to 5j + 4; k0 receives the illegal bits. -/
def execVtunpk (d : Fin 32) (a : VSrc) (raw : Bool) (k : Fin 8) (s : State) : Res :=
  let v := s.vread a
  let nb := s.mySeat.vec.vlen.toNat / 5
  let bad (j : Nat) : Bool := s.masked k j && decide (243 ≤ lane v 8 j)
  let o := runLanes 8 (5 * nb) (fun i => s.masked k (i / 5)) fun i =>
    (ofSigned 8 (t5Weight (lane v 8 (i / 5)) (i % 5)), if bad (i / 5) then fTERN else 0)
  s.vectorOp (raw || s.tagOk a 14) [a] 3 (s.vwrite d 10 o ++ [maskWrite 0 nb (fun _ => true) bad])

/-! ## VCVT (R152) -/

/-- A format of VCVT: a floating format, or an integer's signedness. -/
def cvtFloat : CvtFmt → Option Fmt
  | .fp32 => some fp32 | .fp16 => some fp16 | .bf16 => some bf16 | .e4m3 => some e4m3 | .e5m2 => some e5m2
  | .e2m3 => some e2m3 | .e3m2 => some e3m2 | .e2m1 => some e2m1 | _ => none

/-- Element width in bits. -/
def cvtW : CvtFmt → Nat
  | .fp32 => 32 | .fp16 => 16 | .bf16 => 16 | .e4m3 => 8 | .e5m2 => 8 | .e2m3 => 6 | .e3m2 => 6 | .e2m1 => 4 | .i4 => 4
  | .i8 => 8 | .n8 => 8 | .i16 => 16 | .n16 => 16 | .i32 => 32 | .n32 => 32 | .i64 => 64

/-- Signedness of an integer code. -/
def cvtSigned : CvtFmt → Bool
  | .n8 => false | .n16 => false | .n32 => false | _ => true

/-- The tag of a code (R98). -/
def cvtTag : CvtFmt → Fin 16
  | .fp32 => 1 | .fp16 => 2 | .bf16 => 3 | .e4m3 => 4 | .e5m2 => 5 | .e2m3 => 6 | .e3m2 => 7 | .e2m1 => 8 | .i4 => 9
  | .i8 => 10 | .n8 => 10 | .i16 => 11 | .n16 => 11 | .i32 => 12 | .n32 => 12 | .i64 => 13

/-- The rounding mode of a code. -/
def rndOf (m : Fin 4) : Rnd := match m with | 0 => .rn | 1 => .rz | 2 => .rd | _ => .ru

/-- One element converted (R85, R152). -/
def cvtElem (src dst : CvtFmt) (mode : Fin 4) (b : Nat) : Nat × FFlags :=
  let toInt (v : FVal) : Nat × FFlags :=
    let r := v.toIntRange (rndOf mode) (intMin (cvtW dst) (cvtSigned dst)) (intMax (cvtW dst) (cvtSigned dst))
    (ofSigned (cvtW dst) r.1, r.2)
  match cvtFloat src, cvtFloat dst with
  | some f, some h => h.round (rndOf mode) false (f.dec false b)
  | some f, none => toInt (f.dec false b)
  | none, some h => h.round (rndOf mode) false (FVal.ofInt (laneInt (cvtW src) (cvtSigned src) b))
  | none, none => intResult (cvtW dst) (cvtSigned dst) (mode = 1) (laneInt (cvtW src) (cvtSigned src) b)

/-- VCVT: elements 0 to n − 1, each at its packed position (R125, R152). -/
def execVcvt (g : VcvtArgs) (s : State) : Res :=
  let v := s.vread g.a
  let ws := cvtW g.src
  let wd := cvtW g.dst
  let n := 8 * s.mySeat.vec.vlen.toNat / max ws wd
  s.vectorOp (s.tagOk g.a (cvtTag g.src)) [g.a] 3
    (s.vwrite g.d (cvtTag g.dst) (runLanes wd n (s.masked g.k) fun i => cvtElem g.src g.dst g.mode (lane v ws i)))

end Sys2Proof.Machine
end

