-- ==== Sys2Proof/Machine/Portable.lean ====
section
/-!
DEFINITION. The portable form (R371): its objects, the element-wise effect of their ops; the translator's choices (R372), the translation
catalogue (R373, R374). The translated code itself is not the manual's: what an instance of it does is run strip by strip (log 50).
-/
namespace Sys2Proof.Machine

/-! ## Objects (R371) -/

/-- A stream specification: its byte offset from LARG, its dimensions (stride, count) from the innermost on, its symbol, whether it is an
output, its element format. -/
structure PStream where
  base : Nat
  dims : List (Int × Nat)
  sym  : Nat
  out  : Bool
  tag  : Nat
  deriving DecidableEq, Repr, Inhabited

/-- The header's counts. -/
def PortObj.streams (o : PortObj) : Nat := fld (o.words.getD 0 0) 16 8
def PortObj.opCount (o : PortObj) : Nat := fld (o.words.getD 0 0) 24 8
def PortObj.syms (o : PortObj) : Nat := fld (o.words.getD 0 0) 32 8

/-- Stream i of an object. -/
def PortObj.stream (o : PortObj) (i : Nat) : PStream :=
  let d (k : Nat) : Word := o.words.getD (4 + 8 * i + k) 0
  { base := (d 0).toNat, dims := (List.range 4).map fun k => (toSigned 32 (fld (d (1 + k)) 32 32), fld (d (1 + k)) 0 32),
    sym := fld (d 5) 8 5, out := bit (d 5) 4, tag := fld (d 5) 0 4 }

/-- The ops of an object, in order, and their fields. -/
def PortObj.ops (o : PortObj) : List Word := (List.range o.opCount).map fun i => o.words.getD (4 + 8 * o.streams + i) 0
def opCode (w : Word) : Nat := fld w 0 8
def opDst (w : Word) : Nat := fld w 8 8
def opA (w : Word) : Nat := fld w 16 8
def opB (w : Word) : Nat := fld w 24 8
def opC (w : Word) : Nat := fld w 32 8
def opTag (w : Word) : Nat := fld w 40 4

/-- Doubleword 0 of symbol record i (R321, R361). -/
def PortObj.symWord (o : PortObj) (i k : Nat) : Word := o.words.getD (4 + 8 * o.streams + o.opCount + 2 * i + k) 0

/-- The width of an element of a tag (R98); none where an element has none. -/
def tagBits (t : Nat) : Option Nat :=
  match t with
  | 1 => some 32 | 2 => some 16 | 3 => some 16 | 4 => some 8 | 5 => some 8 | 6 => some 6 | 7 => some 6 | 8 => some 4 | 9 => some 4
  | 10 => some 8 | 11 => some 16 | 12 => some 32 | 13 => some 64 | _ => none

/-- The product of a stream's counts. -/
def PStream.trips (x : PStream) : Nat := x.dims.foldr (fun d n => d.2 * n) 1

/-- The output streams that a STORE names, and those that a REDADD names. -/
def PortObj.stored (o : PortObj) : List Nat := (o.ops.filter fun w => opCode w = 2).map opA
def PortObj.summed (o : PortObj) : List Nat := (o.ops.filter fun w => opCode w = 11).map opB

/-- The streams whose product of counts is the trip count. -/
def PortObj.counted (o : PortObj) : List Nat := (List.range o.streams).filter fun i => !(o.stream i).out || o.stored.contains i

/-- The trip count. -/
def PortObj.trips (o : PortObj) : Nat := match o.counted.head? with | some i => (o.stream i).trips | none => 0

/-- The object keeps the layout of R371 (log 50): its counts are in range, its parts lie in the section, every count is at least 1, formats
have elements, ops name streams that it has, and no value is written twice. -/
def PortObj.laidOut (o : PortObj) : Bool :=
  let dsts := (o.ops.filter fun w => opCode w ≠ 2 && opCode w ≠ 11).map opDst
  1 ≤ o.streams && o.streams ≤ 16 && 1 ≤ o.opCount && 32 + 64 * o.streams + 8 * o.opCount + 16 * o.syms ≤ o.bytes &&
    ((List.range o.streams).all fun i => (tagBits (o.stream i).tag).isSome && (o.stream i).dims.all fun d => 1 ≤ d.2) &&
    (o.ops.all fun w => match opCode w with
      | 1 => opA w < o.streams && !(o.stream (opA w)).out
      | 2 => opA w < o.streams && (o.stream (opA w)).out
      | 11 => opB w < o.streams && (o.stream (opB w)).out
      | _ => (tagBits (opTag w)).isSome) && decide dsts.Nodup

/-- The translator accepts the object; it answers FORMAT else (R371): known ops, one trip count, single-element sums, and no output both
stored and summed. -/
def PortObj.accepted (o : PortObj) : Bool :=
  o.laidOut && (o.ops.all fun w => 1 ≤ opCode w && opCode w ≤ 11) &&
    (o.counted.all fun i => (o.stream i).trips = o.trips) &&
    (o.summed.all fun i => (o.stream i).dims.all fun d => d.2 = 1) &&
    !(o.stored.any fun i => o.summed.contains i)

/-! ## The effect of an op on one element (R371) -/

/-- A value of the body: its format and its bits. -/
abbrev PVal := Nat × Nat

/-- The floating types that the vector instructions compute in (R136). -/
def tagFp (t : Nat) : Option FpType := match t with | 1 => some .fp32 | 2 => some .fp16 | 3 => some .bf16 | _ => none

/-- The integer lanes. -/
def tagInt (t : Nat) : Option LaneW := match t with | 10 => some .w8 | 11 => some .w16 | 12 => some .w32 | 13 => some .w64 | _ => none

/-- The conversion code of a tag (R152). -/
def tagCvt (t : Nat) (uns : Bool) : Option CvtFmt :=
  match t with
  | 1 => some .fp32 | 2 => some .fp16 | 3 => some .bf16 | 4 => some .e4m3 | 5 => some .e5m2 | 6 => some .e2m3 | 7 => some .e3m2
  | 8 => some .e2m1 | 9 => some .i4 | 10 => some (if uns then .n8 else .i8) | 11 => some (if uns then .n16 else .i16)
  | 12 => some (if uns then .n32 else .i32) | 13 => some .i64 | _ => none

/-- A floating op at .rn: sum, difference, product, fused, greater, lesser, Exp2_S. -/
def portFp (f : FpType) (code a b c : Nat) : Option Nat :=
  let m := fpFmt f
  let v (x : Nat) : FVal := m.dec false x
  match code with
  | 3 => some (opRound m .rn false ((v a).add false (v b))).1
  | 4 => some (opRound m .rn false ((v a).add false (v b).neg)).1
  | 5 => some (opRound m .rn false ((v a).mul (v b))).1
  | 6 => some (opRound m .rn false (((v a).mul (v b)).add false (v c))).1
  | 7 => some (fMinMax m true a b)
  | 8 => some (fMinMax m false a b)
  | 9 => some (vexp2Lane m false a)
  | _ => none

/-- An integer op: sum, difference and product wrap; greater and lesser. -/
def portInt (w : Nat) (uns : Bool) (code a b : Nat) : Option Nat :=
  let x := laneInt w (!uns) a
  let y := laneInt w (!uns) b
  match code with
  | 3 => some (ofSigned w (x + y))
  | 4 => some (ofSigned w (x - y))
  | 5 => some (ofSigned w (x * y))
  | 7 => some (ofSigned w (max x y))
  | 8 => some (ofSigned w (min x y))
  | _ => none

/-- The result of an op that computes, in the format of its tag; FREE where the vector rules state none: another format, sources of
another format, a conversion to the same one (log 50). -/
def portOp (dig : BitVec 512) (w : Word) (a b c : PVal) : PVal :=
  let t := opTag w
  let two := opCode w ≤ 8
  let same := a.1 = t && (!two || b.1 = t) && (opCode w ≠ 6 || c.1 = t)
  let uns := Config.portableUnsigned dig w
  let stated : Option Nat :=
    if opCode w = 10 then
      match tagCvt a.1 uns, tagCvt t uns with
      | some x, some y => if a.1 = t then none else some (cvtElem x y 0 a.2).1
      | _, _ => none
    else if !same then none
    else match tagFp t, tagInt t with
      | some f, _ => portFp f (opCode w) a.2 b.2 c.2
      | none, some l => portInt (laneW l) uns (opCode w) a.2 b.2
      | none, none => none
  (t, (stated.getD (Config.portableValue dig w [a.1, a.2, b.1, b.2, c.1, c.2])) % 2 ^ (tagBits t).getD 0)

/-! ## Elements in memory -/

/-- The index of element e, counted from the innermost dimension. -/
def elemIndex : List (Int × Nat) → Nat → Int
  | [], _ => 0
  | (st, c) :: r, e => ((e % c : Nat) : Int) * st + elemIndex r (e / c)

/-- The bit address of element e of a stream under a LARG. -/
def PStream.bitAddr (x : PStream) (larg : Word) (e : Nat) : Nat :=
  ((8 * ((larg.toNat + x.base : Nat) : Int) + elemIndex x.dims e * ((tagBits x.tag).getD 0 : Nat)) % (2 ^ 67 : Nat)).toNat

/-- What keeps an instance from its access: a missing page, for which it waits, or a fault of a stream; with the access. -/
inductive PortStop where
  | wait (va : Nat) (write : Bool)
  | fault (va : Nat) (write : Bool) (f : Flt)
  deriving DecidableEq, Repr

/-- The stream that makes an access. -/
def portStream (write : Bool) : StreamId := if write then .S else .L

/-- The check of an access to one byte by the instance on a seat (R196, R346). -/
def State.portCheck (s : State) (r : SeatRef) (va : Nat) (write : Bool) : Acc × State :=
  s.check ⟨r, portStream write⟩ (BitVec.ofNat 64 va) 1 (if write then .wr else .rd) false write

/-- The place of one byte that the instance on a seat may access. -/
def State.portPlaceOf (s : State) (r : SeatRef) (va : Nat) (write : Bool) : Except PortStop (Place × State) :=
  match s.portCheck r va write with
  | (.ok p, s1) =>
    match s1.answer p 1 false with
    | .ok => .ok (p, s1)
    | .uncorrectable => .error (.fault va write (Flt.at' .poison 0 (BitVec.ofNat 64 va)))
    | .dieReset => .error (.fault va write (Flt.at' .poison 15 (BitVec.ofNat 64 va)))
  | (.fault f, _) => .error (.fault va write f)
  | (.missing _, _) => .error (.wait va write)

/-- n bytes from an address on, little-endian; the first one of each word or data unit counts its correctable error (R201, R230). -/
def State.portRead (s : State) (r : SeatRef) (first : Bool) (va : Nat) : Nat → Except PortStop (Nat × State)
  | 0 => .ok (0, s)
  | n + 1 =>
    match s.portPlaceOf r va false with
    | .error e => .error e
    | .ok (p, s1) =>
      let s2 := if first || p.key % (if isPhys p.key then 32 else 8) = 0 then s1.noteCorr (some r) p 1 else s1
      match s2.portRead r false (va + 1) n with
      | .error e => .error e
      | .ok (v, s3) => .ok (s1.dataAt p 1 + 256 * v, s3)

/-- The low n bytes of v written from an address on. -/
def State.portWrite (s : State) (r : SeatRef) (va v : Nat) : Nat → Except PortStop State
  | 0 => .ok s
  | n + 1 =>
    match s.portPlaceOf r va true with
    | .error e => .error e
    | .ok (p, s1) => (s1.performWrite (.stream ⟨r, .S⟩) .store p 1 (v % 256) false false).portWrite r (va + 1) (v / 256) n

/-- Element e of a stream. -/
def State.loadElem (s : State) (r : SeatRef) (x : PStream) (e : Nat) : Except PortStop (PVal × State) :=
  let b := x.bitAddr (s.getSeat r).sys.larg e
  let w := (tagBits x.tag).getD 0
  match s.portRead r true (b / 8) ((b % 8 + w + 7) / 8) with
  | .error k => .error k
  | .ok (v, s1) => .ok ((x.tag, v / 2 ^ (b % 8) % 2 ^ w), s1)

/-- Element e of a stream is written; other bits of its bytes stay. -/
def State.storeElem (s : State) (r : SeatRef) (x : PStream) (e v : Nat) : Except PortStop State :=
  let b := x.bitAddr (s.getSeat r).sys.larg e
  let w := (tagBits x.tag).getD 0
  let n := (b % 8 + w + 7) / 8
  if w % 8 = 0 && b % 8 = 0 then s.portWrite r (b / 8) v n
  else match s.portRead r true (b / 8) n with
    | .error k => .error k
    | .ok (o, s1) =>
      s1.portWrite r (b / 8) (o % 2 ^ (b % 8) + v % 2 ^ w * 2 ^ (b % 8) + o / 2 ^ (b % 8 + w) * 2 ^ (b % 8 + w)) n

/-! ## A strip (R372) -/

/-- The elements of a strip: 256 bytes of the widest format of the object (R372; log 50). -/
def PortObj.stripLen (o : PortObj) : Nat :=
  let ts := (List.range o.streams).map (fun i => (o.stream i).tag) ++ (o.ops.filter fun w => 3 ≤ opCode w && opCode w ≤ 10).map opTag
  2048 / (ts.map fun t => (tagBits t).getD 0).foldr max 1

/-- The elements of a strip of a translation's object. -/
def Translation.strip (t : Translation) : Nat := t.obj.stripLen

/-- The window address of a core's slice (R195). -/
def sliceBase (c : Fin 904) : Nat := (ownSlice ⟨c, 0⟩).getD 0 * 2 ^ 22

/-- Element e of a stream as it stands in the staged copy of its trip, which begins with element e0. -/
def State.stagedElem (s : State) (r : SeatRef) (dig : BitVec 512) (i trip e0 e : Nat) (x : PStream) : PVal :=
  let w := (tagBits x.tag).getD 0
  let b := (e - e0) * w
  let a := (sliceBase r.core + Config.stagedAt dig i trip % 2 ^ 21) + b / 8
  (x.tag, s.dataAt (windowPlace a false) ((b % 8 + w + 7) / 8) / 2 ^ (b % 8) % 2 ^ w)

/-- The body so far: the state, the elements loaded ahead, the values written, the terms of the sums by op number. -/
structure PBody where
  st    : State
  elems : List ((Nat × Nat) × Nat)
  env   : List (Nat × PVal)
  sums  : List (Nat × PVal)

/-- The bytes of element e of stream i. -/
def PortObj.span (o : PortObj) (larg : Word) (i e : Nat) : Nat × Nat :=
  let b := (o.stream i).bitAddr larg e
  (b / 8, (b % 8 + (tagBits (o.stream i).tag).getD 0 + 7) / 8)

/-- Elements loaded ahead whose bytes a store of the object writes are loaded again (R371: the body runs in index order). -/
def PBody.overwritten (b : PBody) (r : SeatRef) (o : PortObj) (i e : Nat) : List ((Nat × Nat) × Nat) :=
  let larg := (b.st.getSeat r).sys.larg
  let x := o.span larg i e
  b.elems.filter fun y => let z := o.span larg y.1.1 y.1.2; !(decide (x.1 < z.1 + z.2) && decide (z.1 < x.1 + x.2))

/-- Element e of a load stream: loaded ahead, and read where copies have staged it; or loaded now. -/
def PBody.element (b : PBody) (r : SeatRef) (t : Translation) (i e : Nat) : Except PortStop (PVal × State) :=
  let x := t.obj.stream i
  let n := t.group.getD 1 * t.strip
  match b.elems.find? fun y => decide (y.1 = (i, e)) with
  | some y => .ok (if t.staged.contains i then b.st.stagedElem r t.obj.digest i (e / n) (e / n * n) e x else (x.tag, y.2), b.st)
  | none => b.st.loadElem r x e

/-- One op on element e. -/
def PBody.op (b : PBody) (r : SeatRef) (t : Translation) (e : Nat) (w : Word × Nat) : Except PortStop PBody :=
  let v (n : Nat) : PVal := (assoc n b.env).getD (0, 0)
  match opCode w.1 with
  | 1 =>
    match b.element r t (opA w.1) e with
    | .error k => .error k
    | .ok (x, s1) => .ok { b with st := s1, env := setAssoc (opDst w.1) x b.env }
  | 2 =>
    match b.st.storeElem r (t.obj.stream (opA w.1)) e (v (opB w.1)).2 with
    | .error k => .error k
    | .ok s1 => .ok { b with st := s1, elems := b.overwritten r t.obj (opA w.1) e }
  | 11 => .ok { b with sums := b.sums ++ [(w.2, v (opA w.1))] }
  | _ => .ok { b with env := setAssoc (opDst w.1) (portOp t.obj.digest w.1 (v (opA w.1)) (v (opB w.1)) (v (opC w.1))) b.env }

/-- Ops in order. -/
def PBody.runOps (b : PBody) (r : SeatRef) (t : Translation) (e : Nat) : List (Word × Nat) → Except PortStop PBody
  | [] => .ok b
  | w :: l => match b.op r t e w with | .error k => .error k | .ok b1 => b1.runOps r t e l

/-- Elements in index order, n of them from e on. -/
def PBody.elements (b : PBody) (r : SeatRef) (t : Translation) (e : Nat) : Nat → Except PortStop PBody
  | 0 => .ok b
  | n + 1 =>
    match PBody.runOps { b with env := [] } r t e t.obj.ops.zipIdx with
    | .error k => .error k
    | .ok b1 => b1.elements r t (e + 1) n

/-- The sum of values of one format: VREDADD's tree, or the wrapped integer sum (R149); FREE for another format. -/
def stripSum (dig : BitVec 512) (w : Word) (vs : List PVal) : PVal :=
  let t := (vs.headD (0, 0)).1
  (t, match tagFp t, tagInt t with
    | some f, _ => (redTree f .rn fun i => vs[i]?.map fun v => v.2).1
    | none, some l => ofSigned (laneW l) (vs.foldl (fun a v => a + laneInt (laneW l) true v.2) 0)
    | none, none => Config.portableValue dig w (vs.map fun v => v.2) % 2 ^ (tagBits t).getD 0)

/-- Two sums added in their format, at .rn. -/
def sumAdd (dig : BitVec 512) (w : Word) (a b : PVal) : PVal :=
  (b.1, match tagFp b.1, tagInt b.1 with
    | some f, _ => (portFp f 3 a.2 b.2 0).getD 0
    | none, some l => (portInt (laneW l) false 3 a.2 b.2).getD 0
    | none, none => Config.portableValue dig w [a.2, b.2] % 2 ^ (tagBits b.1).getD 0)

/-- The sums after a strip, in strip order. -/
def addSums (o : PortObj) (old : List (Nat × Nat)) (terms : List (Nat × PVal)) : List (Nat × Nat) :=
  (o.ops.zipIdx.filter fun w => opCode w.1 = 11).map fun w =>
    let s := stripSum o.digest w.1 ((terms.filter fun x => x.1 = w.2).map fun x => x.2)
    (w.2, match assoc w.2 old with | some v => (sumAdd o.digest w.1 (s.1, v) s).2 | none => s.2)

/-- The sums are written at the end of the body; each may start from the element as it stands. -/
def State.writeSums (s : State) (r : SeatRef) (o : PortObj) : List (Nat × Nat) → Except PortStop State
  | [] => .ok s
  | x :: l =>
    let w := o.ops.getD x.1 0
    let d := o.stream (opB w)
    match s.loadElem r d 0 with
    | .error k => .error k
    | .ok (v, s1) =>
      match s1.storeElem r d 0 (if Config.sumKeeps then (sumAdd o.digest w v (d.tag, x.2)).2 else x.2) with
      | .error k => .error k
      | .ok s2 => s2.writeSums r o l

/-- The translation that the instance on a seat runs. -/
def State.portable (s : State) (r : SeatRef) : Option (Translation × PortRun) :=
  let i := (s.getSeat r).inst
  match i.port, s.transl.find? fun t => decide (i.task = BitVec.ofNat 64 t.desc) with
  | some p, some t => some (t, p)
  | _, _ => none

/-- An access that stops: what the trip has done is undone and done again later, but a TLB entry that failed the access is dropped (R346);
it waits, or the stream of its access faults. -/
def State.portStop (s : State) (r : SeatRef) : PortStop → Res
  | .wait va wr => .next (s.portCheck r va wr).2
  | .fault va wr f => State.raise { (s.portCheck r va wr).2 with turn := ⟨r, portStream wr⟩ } f

/-- Elements of a trip, and the trips of an object (R372): a trip covers u strips. -/
def Translation.tripLen (t : Translation) : Nat := max 1 (t.group.getD 1 * t.strip)
def Translation.trips (t : Translation) : Nat := (t.obj.trips + t.tripLen - 1) / t.tripLen

/-- The trip that an instance runs next. -/
def Translation.trip (t : Translation) (p : PortRun) : Nat := p.strip / max 1 (t.group.getD 1)

/-- The trips that a load stream is to have loaded before the next trip runs: up to its prefetch distance ahead of it. -/
def Translation.reach (t : Translation) (p : PortRun) (i : Nat) : Nat := min t.trips (t.trip p + 1 + (assoc i t.dist).getD 0)

/-- The load stream whose next trip is to be loaded. -/
def Translation.toLoad (t : Translation) (p : PortRun) : Option Nat :=
  t.dist.findSome? fun x => if (assoc x.1 p.ahead).getD 0 < t.reach p x.1 then some x.1 else none

/-- Elements of a stream, n from e on, are loaded. -/
def State.loadElems (s : State) (r : SeatRef) (x : PStream) (e : Nat) : Nat → Except PortStop (List (Nat × Nat) × State)
  | 0 => .ok ([], s)
  | n + 1 =>
    match s.loadElem r x e with
    | .error k => .error k
    | .ok (v, s1) =>
      match s1.loadElems r x (e + 1) n with
      | .error k => .error k
      | .ok (l, s2) => .ok ((e, v.2) :: l, s2)

/-- A copy command stages the elements of a trip in the own slice, under the next accession number of the core (R278, R372). -/
def State.stage (s : State) (r : SeatRef) (dig : BitVec 512) (i trip : Nat) (x : PStream) (l : List (Nat × Nat)) : State :=
  let w := (tagBits x.tag).getD 0
  let acc := s.core[r.core].takeAcc
  let bytes := leBytes ((l.length * w + 7) / 8) (packLanes w (l.map fun y => y.2))
  let a := sliceBase r.core + Config.stagedAt dig i trip % 2 ^ 21
  let s1 := (s.setCore r.core acc.2).modSeat r fun st => st.modEng .copy fun c => { c with lastAcc := acc.1 }
  bytes.zipIdx.foldl (fun (s : State) b =>
    s.performWrite (.engine r.core .copy r.seat acc.1) .store (windowPlace (a + b.2) false) 1 b.1.toNat false false) s1

/-- The next trip of a load stream is loaded; its latency is a sample of the stream's symbol (R38, R372). -/
def State.loadTrip (s : State) (r : SeatRef) (t : Translation) (p : PortRun) (i : Nat) : Res :=
  let st := s.getSeat r
  let x := t.obj.stream i
  let k := (assoc i p.ahead).getD 0
  let e := k * t.tripLen
  let cyc := s.core[r.core].cycle
  if !st.mayCount cyc then .next s
  else match s.loadElems r x e (min t.tripLen (t.obj.trips - e)) with
    | .error k => s.portStop r k
    | .ok (l, s1) =>
      let s2 := if t.staged.contains i then s1.stage r t.obj.digest i k x l else s1
      let m := match s.portCheck r (t.obj.span st.sys.larg i e).1 false with | (.ok q, _) => s.latency (standOf r.core) q true | _ => 0
      let y : Fin 32 := Fin.ofNat 32 x.sym
      .next (s2.modSeat r fun st =>
        { (st.sample s.core[r.core].lexParam cyc y m st.lex[y].b.toNat) with
          inst := { st.inst with port := some { p with
            ahead := setAssoc i (k + 1) p.ahead, elems := p.elems ++ l.map fun z => ((i, z.1), z.2) } } })

/-- Strips of a trip, u of them at most, from element e on: the sums are added in strip order. -/
def State.runStrips (s : State) (r : SeatRef) (t : Translation) (p : PortRun) : Nat → Except PortStop (State × PortRun)
  | 0 => .ok (s, p)
  | u + 1 =>
    let o := t.obj
    let e := p.strip * t.strip
    match PBody.elements ⟨s, p.elems, [], []⟩ r t e (min t.strip (o.trips - e)) with
    | .error k => .error k
    | .ok b => b.st.runStrips r t { p with strip := p.strip + 1, sums := addSums o p.sums b.sums, elems := b.elems } u

/-- The strips of a trip that have elements. -/
def Translation.stripsLeft (t : Translation) (p : PortRun) : Nat :=
  min (max 1 (t.group.getD 1)) ((t.obj.trips - p.strip * t.strip + t.strip - 1) / max 1 t.strip)

/-- The act `strip` (R372): an instance of a translated object loads the next trip of a load stream, up to its prefetch distance ahead; or
runs its next trip, u strips, from what is loaded; after the last one its sums are written and its streams halt. -/
def State.stripAct (s : State) (r : SeatRef) : Res :=
  let st := s.getSeat r
  match s.portable r with
  | none => .next s
  | some (t, p) =>
    let o := t.obj
    if s.coreHeld r.core || !st.mayRun false .L then .next s
    else match t.toLoad p with
    | some i => s.loadTrip r t p i
    | none =>
      if p.strip * t.strip < o.trips then
        match s.runStrips r t p (t.stripsLeft p) with
        | .error k => s.portStop r k
        | .ok (s1, q) =>
          .next (s1.modSeat r fun st => { st with inst := { st.inst with port := some { q with
            elems := q.elems.filter fun y => decide (q.strip * t.strip ≤ y.1.2) } } })
      else
        match s.writeSums r o p.sums with
        | .error k => s.portStop r k
        | .ok s1 => .next (s1.modSeat r fun st => { st with str := st.str.map fun (x : Stream) => { x with halted := true } })

/-! ## The translator (R372 to R374) -/

/-- The values live between two ops: written by then, and read later. -/
def PortObj.liveAt (o : PortObj) (i : Nat) : Nat :=
  let before := ((o.ops.take (i + 1)).filter fun w => opCode w ≠ 2 && opCode w ≠ 11).map opDst
  let uses (w : Word) : List Nat := match opCode w with | 1 => [] | 2 => [opB w] | 6 => [opA w, opB w, opC w] | 9 => [opA w] | 10 => [opA w] | 11 => [opA w] | _ => [opA w, opB w]
  let after := (o.ops.drop (i + 1)).flatMap uses
  (before.dedup.filter fun v => after.contains v).length

/-- The live values of the body. -/
def PortObj.live (o : PortObj) : Nat := ((List.range o.opCount).map o.liveAt).foldr max 0

/-- Register grouping: the largest of 4, 2 and 1 that the 16 rotating registers hold. -/
def PortObj.group (o : PortObj) : Option Nat := [4, 2, 1].find? fun u => u * o.live ≤ 16

/-- The load streams. -/
def PortObj.loads (o : PortObj) : List Nat := ((o.ops.filter fun w => opCode w = 1).map opA).dedup

/-- The prefetch distance of a load stream: Ceil(HI / T) trips, lowered while more than 64 landing slots would be in use. -/
def PortObj.distance (o : PortObj) (t i : Nat) : Nat :=
  let perTrip := o.group.getD 1 * (o.ops.filter fun w => opCode w = 1).length
  min ((fld (o.symWord (o.stream i).sym 0) 40 24 + max t 1 - 1) / max t 1) (64 / perTrip - 1)

/-- A load stream is staged by copy commands: its innermost run is at least 1 KiB a trip. -/
def PortObj.isStaged (o : PortObj) (i : Nat) : Bool :=
  let d := (o.stream i).dims.headD (0, 1)
  d.1 = 1 && decide (8192 ≤ min d.2 (o.group.getD 1 * o.stripLen) * (tagBits (o.stream i).tag).getD 0)

/-- A lookup of the translation catalogue (R373): the descriptor of a valid entry whose three key fields match. -/
def State.lookup (s : State) (d : Fin 8) (dig : BitVec 512) (sig : Word) (ver : BitVec 32) : Option Word :=
  s.transl.findSome? fun t =>
    match s.hubWords d t.entry 12 with
    | some w =>
      if bit (w.getD 10 0) 0 && w.take 8 = ((List.range 8).map fun i => dig.extractLsb' (64 * i) 64) && w.getD 8 0 = sig &&
          fld (w.getD 9 0) 0 32 = ver.toNat then some (w.getD 11 0) else none
    | none => none

/-- The CATSIG of the part (R359). -/
def State.catSig (s : State) : Word := (catalogue s.fuse.part).getD 12 0

/-- Section j of a translation's code. -/
def State.codeOf (s : State) (o : PortObj) (j : Nat) : List Word := Config.translated o.digest s.catSig Config.translatorVersion j

/-- Where the operating system lets the translator put them: code, descriptor, catalogue entry, lexicon declarations, WIN values. -/
def State.codeAddr (s : State) (j : Nat) : Nat := s.os (800000 + j) * 64
def State.transDesc (s : State) : Nat := s.os 800010 * 64
def State.transEntry (s : State) : Nat := s.os 800011 * 128
def State.transLex (s : State) : Nat := s.os 800012 * 64
def State.transWins (s : State) : Nat := s.os 800013 * 64

/-- The code as ranges, and the leaves that map it for the image. -/
def State.codeSpans (s : State) (o : PortObj) : List (Nat × Nat) := (List.range 7).map fun j => (s.codeAddr j, 8 * (s.codeOf o j).length)
def State.codeLeaves (s : State) (x : Image) (o : PortObj) : List (Nat × Nat) := (pagesOf (s.codeSpans o)).map fun p => s.codeLeaf x.slot p

/-- The choices fit. -/
def State.translateReady (s : State) (d : Fin 8) (x : Image) (o : PortObj) : Bool :=
  let hub := [(s.transDesc, 256), (s.transEntry, 128), (s.transLex, 512), (s.transWins, 64)]
  s.memoryReady s.tableBase (s.codeLeaves x o) && apart (s.codeSpans o) && apart hub && hub.all (s.hubSpan d) &&
    ((s.codeSpans o).all fun y => decide (2 ^ 41 ≤ y.1) && decide (y.1 + y.2 ≤ 2 ^ 57)) &&
    (pagesOf (s.codeSpans o)).all fun p => (s.rootPlace x.root (p * 2 ^ 21)).isNone

/-- The descriptor of a translation: PORT is 1, SVN the object's, TCAT its entry (R366, R374). -/
def State.transWords (s : State) (x : Image) : List Word :=
  ((List.range 7).map fun j => BitVec.ofNat 64 (s.codeAddr j)) ++
    [BitVec.ofNat 64 s.transLex, BitVec.ofNat 64 (s.os 800014), BitVec.ofNat 64 (s.os 800015), BitVec.ofNat 64 (s.os 800016),
     BitVec.ofNat 64 (s.os 800017 % 2 ^ 32), BitVec.ofNat 64 (s.os 800018), BitVec.ofNat 64 s.transWins, BitVec.ofNat 64 (s.os 800019 % 2 ^ 24),
     BitVec.ofNat 64 (2 ^ 32 + x.svn % 2 ^ 32), BitVec.ofNat 64 s.transEntry, 0x4D5A5444#64] ++ List.replicate 14 0

/-- The translation is inserted: code, `.sym` records with the object's bounds, descriptor, then the entry, VALID last (R372, R373). -/
def State.insert (s : State) (d : Fin 8) (i : Nat) (x : Image) (o : PortObj) : State :=
  let e := s.transEntry
  let m := s.mapLeaves d x.root s.tableBase (s.codeLeaves x o)
  let s1 := (List.range 7).foldl (fun t j => t.rootWriteWords d x.root (s.codeAddr j) (s.codeOf o j)) m.1
  let s2 := s1.hubWriteWords d s.transLex ((List.range 64).map fun k => if k / 2 < o.syms then o.symWord (k / 2) (k % 2) else 0)
  let s3 := (s2.hubWriteWords d s.transWins ((List.range 8).map (s.winValue 0))).hubWriteWords d s.transDesc (s.transWords x)
  let s4 := s3.hubWriteWords d e (((List.range 8).map fun k => o.digest.extractLsb' (64 * k) 64) ++
    [s.catSig, BitVec.ofNat 64 (x.svn % 2 ^ 32 * 2 ^ 32 + Config.translatorVersion.toNat)])
  let s5 := ((s4.hubWriteWords d (e + 88) [BitVec.ofNat 64 s.transDesc, 0, 0, 0, 0]).hubWrite d (e + 80) 8 1)
  let t := Config.tripLength o.digest s.catSig Config.translatorVersion
  { s5 with
    images := s5.images.set i { x with descs := x.descs ++ [s.transDesc], ranges := x.ranges ++ rangesOf s.tableBase (s.codeLeaves x o) },
    transl := s5.transl ++ [⟨o, s.catSig, Config.translatorVersion, s.transDesc, e, o.group, o.loads.map fun k => (k, o.distance t k),
      o.loads.filter o.isStaged⟩] }

/-- The act `translate` (R372, R374): an instance of the system queue, in BACKGROUND roles, translates an object of a loaded image. It
refuses an object that breaks the rules of R371 or whose SVN is below SECCTR, and one that stands translated is not translated again. -/
def State.translate (s : State) (r : SeatRef) (i k : Nat) : State :=
  let st := s.getSeat r
  let d := coreDie r.core
  if st.inst.phase ≠ .running || qIndex st.inst.q ≠ 63 || st.sys.roles ≠ 0 || s.core[r.core].freeze.isSome || s.dieInReset d.val then s
  else match s.images[i]? with
    | none => s
    | some x =>
      match x.objs[k]? with
      | none => s
      | some o =>
        if x.svn < s.secctr.toNat then s
        else if !o.accepted then { s with badObjs := o.digest :: s.badObjs.erase o.digest }
        else if (s.lookup d o.digest s.catSig Config.translatorVersion).isSome || !s.translateReady d x o then s
        else s.insert d i x o

end Sys2Proof.Machine
end

