-- ==== Sys2Proof/Machine/HostPort.lean ====
section
/-!
DEFINITION. The host port (R395 to R399): mailboxes and the task-graph runner (R314, R396, R397), accesses through BAR2 (R399),
and BAR0 (R396), the completions it owes, requests it does not support (R395).
-/
namespace Sys2Proof.Machine

/-! ## Mailboxes -/

/-- A host write to a mailbox page: the page of a die that the package lacks ignores it (R396). -/
def State.mailbox (s : State) (die : Fin 8) (f : Die → Die) : Res := if s.diePresent die.val then .next (s.modDie die f) else .next s

/-- DOORBELL (R397): posts the message, or is lost while BUSY. -/
def execDoorbell (die : Fin 8) (s : State) : Res :=
  s.mailbox die fun d => { d with mbox := if bit d.mbox 0 then d.mbox ||| 2 else d.mbox ||| 1 }

/-- LOST_CLEAR (R396). -/
def execLostClear (die : Fin 8) (s : State) : Res := s.mailbox die fun d => { d with mbox := d.mbox &&& ~~~2 }

/-- MAILBOX_MESSAGE_WRITE (R397): ignored while BUSY. -/
def execMailboxMessageWrite (die : Fin 8) (dw : Fin 8) (v : Word) (s : State) : Res :=
  s.mailbox die fun d => if bit d.mbox 0 then d else { d with msg := d.msg.set dw v }

/-- A write of host memory by the system core of a die (R395). -/
def State.hostWrite (s : State) (d : Fin 8) (a n v : Nat) : State :=
  s.performWrite (.hub d) .store ⟨hostKey a, ⟨Config.thisPackage, d.val, none⟩, none, false⟩ n v false true

/-- MSI-X vector d is raised (R397). -/
def State.raiseMsix (s : State) (d : Fin 8) : State := { s with msix := s.msix ||| ((1 : BitVec 64) <<< d.val) }

/-- Bytes of host memory written from an address on. -/
def State.hostBytes (s : State) (d : Fin 8) (a : Nat) : List Byte → State
  | [] => s
  | b :: r => (s.hostWrite d a 1 b.toNat).hostBytes d (a + 1) r

/-- Some seat has a nonzero DBG_CTL (R391). -/
def State.debugActive (s : State) : Bool := s.core.any fun c => c.seat.any fun st => decide (st.sys.dbgCtl ≠ 0)

/-- What an attestation report signs (R410): debug mode shows while a seat has a nonzero DBG_CTL, or when the boot's token named it (R391,
R394). -/
def State.reportBody (s : State) (nonce : Word) : List Byte :=
  leBytes 8 nonce.toNat ++ leBytes 64 s.measured.toNat ++ leBytes 8 s.secctr.toNat ++
    leBytes 8 ((catalogue s.fuse.part).getD 12 0).toNat ++ leBytes 8 s.recCtl.toNat ++ [if s.debugActive || s.dbgToken then 1 else 0]

/-- An attestation report, written at an address of host memory: its layout is not given, its bytes a FREE function of its contents
(R397, R410; log 13). -/
def State.attest (s : State) (d : Fin 8) (nonce : Word) (a : Nat) : State := s.hostBytes d a (Config.sign (s.reportBody nonce))

/-! ## The task-graph runner (R314) -/

/-- The leader die of a launch record: the lowest of its mask, or the runner's own. -/
def leaderDie (d : Fin 8) (dw : List Word) : Fin 8 :=
  ((List.finRange 8).find? fun k => (pktMask dw).testBit k.val).getD d

/-- The packet of a launch record: extended, with the message's ARG (log 14). -/
def graphPacket (arg : Word) (r : List Word) : List Word :=
  putFld (r.getD 0 0) 0 8 2 :: ((List.range 15).map fun i => if i = 11 then arg else r.getD (i + 1) 0)

/-- What one LAUNCH of the runner comes to: no room in the ring, a refusal by an absent die or a revoked descriptor (R312, R368), or the
queue and slot count of its packet. -/
inductive RunnerOut where
  | full
  | refused
  | sent (q : Fin 512) (slot : BitVec 32)
  deriving DecidableEq, Repr

/-- One LAUNCH of the runner. -/
def State.runnerLaunch (s : State) (d : Fin 8) (q : Fin 64) (arg : Word) (r : List Word) : State × RunnerOut :=
  let die := leaderDie d r
  let id : Fin 512 := ⟨die.val * 64 + q.val, by omega⟩
  let l := s.lq id
  if (s.launchAbsent die.val (pktMask r)).isSome then (s, .refused)
  else match s.revoked die (r.getD 1 0).toNat with
    | some tcat => (s.clearEntry die tcat, .refused)
    | none =>
      if !l.sizeOk || 2 ^ l.size < l.used + 2 then (s, .full)
      else (s.enqueue id (graphPacket arg r), .sent id (BitVec.ofNat 32 l.tail))

/-- The LAUNCHes of a graph's records in order, as far as the rings have room: the state, and the graph with what is left (R312, R314). -/
def State.runRecords (s : State) (g : Graph) : List (List Word) → State × Graph
  | [] => (s, { g with left := [] })
  | r :: l =>
    match s.runnerLaunch g.die g.q g.arg r with
    | (_, .full) => (s, { g with left := r :: l })
    | (t, .refused) => t.runRecords { g with aborted := true } l
    | (t, .sent q slot) => t.runRecords { g with pending := g.pending ++ [(q, slot)] } l

/-- A graph is begun (R314). -/
def State.runGraph (s : State) (d : Fin 8) (i : Image) (g : Nat) (arg compl : Word) (recs : List (List Word)) : State :=
  let r := s.runRecords { die := d, handle := i.handle, q := i.q, left := [], graph := g, arg := arg, compl := compl, pending := [], aborted := false } recs
  { r.1 with graphs := r.1.graphs ++ [r.2] }

/-- The act `graph` (R312, R314): the runner tries the records left of graph number i again. -/
def State.graphAct (s : State) (i : Nat) : State :=
  match s.graphs[i]? with
  | none => s
  | some g =>
    if !s.dieUsable g.die.val || s.dieInReset g.die.val then s
    else
      let r := s.runRecords g g.left
      { r.1 with graphs := r.1.graphs.set i r.2 }

/-- A taken message: BUSY cleared, SEQ advanced, ERR set. -/
def State.accept (s : State) (d : Fin 8) (err : Nat) : State :=
  s.modDie d fun x => { x with mbox := putFld (putFld (x.mbox &&& ~~~1) 32 32 (fld x.mbox 32 32 + 1)) 8 8 err }

/-- A refused message is completed with 0x100 + ERR (R397). -/
def State.refuse (s : State) (d : Fin 8) (compl : Word) (err : Nat) : State :=
  ((s.accept d err).hostWrite d compl.toNat 8 (0x100 + err)).raiseMsix d

/-- MAILBOX_TAKE (R397): the runner of a die takes the posted message; a load comes about when the operating system's choices fit (log 49). -/
def execMailboxTake (die : Fin 8) (s : State) : Res :=
  let m := s.die[die].msg
  let g := fld m[(1 : Fin 8)] 0 16
  let arg := m[(2 : Fin 8)]
  let compl := m[(3 : Fin 8)]
  if !bit s.die[die].mbox 0 || !s.dieUsable die.val || s.dieInReset die.val || s.bootStat ≠ 1 then .next s
  else if fld m[(1 : Fin 8)] 16 48 ≠ 0 || m[(4 : Fin 8)] ≠ 0 || m[(5 : Fin 8)] ≠ 0 || m[(6 : Fin 8)] ≠ 0 || m[(7 : Fin 8)] ≠ 0 then
    .next (s.refuse die compl 3)
  else if g = 0xFFFF then .next ((s.accept die 0).attest die arg compl.toNat)
  else if g = 0xFFFE then
    if !s.loadDue die arg.toNat then .next s
    else
      let r := (s.accept die 0).loadImage die arg.toNat
      .next (r.1.hostWrite die compl.toNat 8 r.2.toNat)
  else match s.images.find? fun i => decide (m[(0 : Fin 8)] ≠ 0) && decide (i.handle.setWidth 64 = m[(0 : Fin 8)]) with
    | none => .next (s.refuse die compl 1)
    | some i =>
      match i.graphs[g]? with
      | none => .next (s.refuse die compl 2)
      | some recs => .next ((s.accept die 0).runGraph die i g arg compl recs)

/-- GRAPH_COMPLETION (R397): graph number i, all of whose records are launched and completed, has its completion word written by its
runner, whose die works. -/
def execGraphCompletion (i : Nat) (s : State) : Res :=
  match s.graphs[i]? with
  | none => .next s
  | some g =>
    if !g.left.isEmpty || !g.pending.isEmpty || !s.dieUsable g.die.val || s.dieInReset g.die.val then .next s
    else
      let s1 := { s with graphs := dropAt i s.graphs }
      .next ((s1.hostWrite g.die g.compl.toNat 8 (if g.aborted then 1 else 0)).raiseMsix g.die)

/-! ## Completions -/

/-- The package owes the host a completion. -/
def State.owe (s : State) (c : HostCpl) : State := { s with hostOut := s.hostOut ++ [c] }

/-- The act `complete`: the host is given the oldest completion; record mode withholds it while its log is behind (R393). -/
def State.completeAct (s : State) : State := if s.recLags then s else { s with hostOut := s.hostOut.drop 1 }

/-! ## BAR2 (R399) -/

/-- A host write through BAR2, its page found: performed at its home, or handed to a port for another package's (R398, R399). -/
def State.bar2Write (s : State) (p : Place) (n data : Nat) : State :=
  if p.isLocal then s.performWrite (.hub (Fin.ofNat 8 p.home.die)) .store p n data false true
  else (s.toPort ⟨none, 0⟩ { OutFlit.of p.home.pkg 2 none with write := true, data := data }).getD s

/-- A host read through BAR2, its page found: the data, or Completer Abort for an error answer (log 42). -/
def State.bar2Read (s : State) (p : Place) (n : Nat) : State :=
  if p.isLocal then
    let s1 := (s.noteBad p n false).noteCorr none p n
    s1.owe (if s.answer p n true = .ok then .data (BitVec.ofNat 64 (s.dataAt p n)) else .abort)
  else match s.toPort ⟨none, 0⟩ (OutFlit.of p.home.pkg 3 none) with
    | none => s.owe .abort
    | some s1 =>
      s1.owe (if (Config.remoteError s.tick p.key).isSome then .abort
        else .data (BitVec.ofNat 64 ((Config.remoteData s.tick p.key).toNat % 2 ^ (8 * n))))

/-- HOST_BAR2_ACCESS: a host write or read of 2^size bytes at an offset, translated under HOST_ROOT by the host-port TLB; a failed walk
or check is completed as Completer Abort and writes nothing. -/
def execHostBar2Access (g : Bar2Args) (s : State) : Res :=
  let va := s.hbarVa.toNat + g.off % 2 ^ 36
  let n := 2 ^ g.size.val
  let rt : Right := if g.write then .wr else .rd
  let s0 := s.noteWalk (s.xlatReads s.hostRoot s.hostTlb false va rt)
  match s.xlat s.hostRoot s.hostTlb 64 false va rt with
  | (.ok leaf base z, t) =>
    let s1 := { s0 with hostTlb := t }
    let p := leafPlace leaf base z va
    if z < va % z + n then .next (s1.owe .abort)
    else if g.write then .next (s1.bar2Write p n (g.data.toNat % 2 ^ (8 * n)))
    else .next (s1.bar2Read p n)
  | (_, t) => .next (State.owe { s0 with hostTlb := t } .abort)

/-! ## BAR0 (R396, R408, R409) -/

/-- What a BAR0 offset names. -/
inductive Bar0 where
  | message (die dw : Fin 8)
  | doorbell (die : Fin 8)
  | stat (die : Fin 8)
  | bootStat
  | ring (off : Nat)
  | reset
  | other
  deriving DecidableEq, Repr

/-- The decoding of the doubleword at a BAR0 offset: a mailbox page for each logical die, and the management page. -/
def bar0 (off : Nat) : Bar0 :=
  if h : off < 0x8000 then
    let die : Fin 8 := ⟨off / 0x1000, by omega⟩
    let o := off % 0x1000
    if o < 0x40 then .message die (Fin.ofNat 8 (o / 8)) else if o / 8 = 8 then .doorbell die else if o / 8 = 9 then .stat die else .other
  else if off / 8 = 0x80000 / 8 then .bootStat
  else if off / 8 = 0x80100 / 8 then .reset
  else if 0x80000 ≤ off && off < 0x81000 then .ring off
  else .other

/-- A doubleword of the ring of life records; 0 where none stands (R388; log 15). -/
def State.ringData (s : State) (off : Nat) : Word :=
  let i := Config.ringWord s.tick off
  match s.lifeRing[i / 2048]? with
  | some r => r.words.getD (i % 2048) 0
  | none => 0

/-- The doubleword that the host reads at a BAR0 offset; every offset without contents reads 0, and so does the page of a die that the
package lacks (R396). -/
def State.bar0Data (s : State) (off : Nat) : Word :=
  match bar0 off with
  | .message d k => if s.diePresent d.val then s.die[d].msg[k] else 0
  | .stat d => if s.diePresent d.val then s.die[d].mbox else 0
  | .bootStat => s.bootStat
  | .ring o => s.ringData o
  | _ => 0

/-- The act `bar0Read`: the host reads BAR0, behind every earlier write through BAR2 (R398). -/
def State.bar0ReadAct (s : State) (off : Nat) : State := s.owe (.data (s.bar0Data off))

/-- The act `bar0Write`: the host writes BAR0; an offset without contents ignores it (R396, R397, R409). -/
def State.bar0WriteAct (s : State) (off : Nat) (v : Word) : Res :=
  match bar0 off with
  | .message d k => execMailboxMessageWrite d k v s
  | .doorbell d => execDoorbell d s
  | .stat d => if bit v 1 then execLostClear d s else .next s
  | .reset => if fld v 0 32 = 1 then execPackageReset s else .next s
  | _ => .next s

/-- UNSUPPORTED_REQUEST (R395): completed as Unsupported Request. -/
def execUnsupportedRequest (s : State) : Res := .next (s.owe .unsupported)

end Sys2Proof.Machine
end

