-- ==== Sys2Proof/Machine/Integer.lean ====
section
/-!
DEFINITION. The integer, compare, select and predicate instructions (R104 to R112). Timing: R103.
-/
namespace Sys2Proof.Machine

/-- ADD (R104). -/
def execAdd (d a b : SSpec) (s : State) : Res := s.alu2 d a b 1 2 fun x y => x + y
/-- SUB (R104). -/
def execSub (d a b : SSpec) (s : State) : Res := s.alu2 d a b 1 2 fun x y => x - y
/-- MUL: low 64 bits (R104). -/
def execMul (d a b : SSpec) (s : State) : Res := s.alu2 d a b 3 4 fun x y => x * y
/-- MULH: bits [127:64] of the signed product (R104). -/
def execMulh (d a b : SSpec) (s : State) : Res :=
  s.alu2 d a b 3 4 fun x y => ((x.signExtend 128) * (y.signExtend 128)).extractLsb' 64 64
/-- AND (R104). -/
def execAnd (d a b : SSpec) (s : State) : Res := s.alu2 d a b 1 2 fun x y => x &&& y
/-- OR (R104). -/
def execOr (d a b : SSpec) (s : State) : Res := s.alu2 d a b 1 2 fun x y => x ||| y
/-- XOR (R104). -/
def execXor (d a b : SSpec) (s : State) : Res := s.alu2 d a b 1 2 fun x y => x ^^^ y
/-- ANDN (R104). -/
def execAndn (d a b : SSpec) (s : State) : Res := s.alu2 d a b 1 2 fun x y => x &&& ~~~y
/-- SHL: a × 2^(b mod 64) (R104). -/
def execShl (d a b : SSpec) (s : State) : Res := s.alu2 d a b 1 2 fun x y => x <<< (y.toNat % 64)
/-- SHR: zeros enter (R104). -/
def execShr (d a b : SSpec) (s : State) : Res := s.alu2 d a b 1 2 fun x y => x >>> (y.toNat % 64)
/-- SRA: the sign enters (R104). -/
def execSra (d a b : SSpec) (s : State) : Res := s.alu2 d a b 1 2 fun x y => x.sshiftRight (y.toNat % 64)
/-- ROTR (R104). -/
def execRotr (d a b : SSpec) (s : State) : Res := s.alu2 d a b 1 2 fun x y => x.rotateRight (y.toNat % 64)
/-- MIN, signed (R104). -/
def execMin (d a b : SSpec) (s : State) : Res := s.alu2 d a b 1 2 fun x y => if x.slt y then x else y
/-- MAX, signed (R104). -/
def execMax (d a b : SSpec) (s : State) : Res := s.alu2 d a b 1 2 fun x y => if y.slt x then x else y

/-- Quotient and remainder of R106. -/
def divRem (a b : Word) : Word × Word :=
  if b = 0 then (BitVec.allOnes 64, a)
  else if a = 0x8000000000000000#64 && b = BitVec.allOnes 64 then (a, 0)
  else (BitVec.ofInt 64 (Int.tdiv a.toInt b.toInt), BitVec.ofInt 64 (Int.tmod a.toInt b.toInt))

/-- The core cycles for which a divide holds the divider (R106). -/
def divCycles (a b : Word) : Nat :=
  if b = 0 || (a = 0x8000000000000000#64 && b = BitVec.allOnes 64) then 18
  else 18 + (bitLen 64 a.toInt.natAbs + 1 - bitLen 64 b.toInt.natAbs + 3) / 4

/-- DIV and REM share the divider: the result comes when it is released (R106). -/
def State.divide (s : State) (d a b : SSpec) (rem : Bool) : Res :=
  if !s.classOk [a, b] [d] then s.raiseClass
  else if s.me.div.isSome then s.stall none
  else match s.blocked [a, b] [d] with
    | some why => s.stall why
    | none =>
      let x := s.peek a
      let s1 := s.take a
      let y := s1.peek b
      let r := divRem x y
      .next (((s1.take b).modMe fun t =>
        { t with div := some ⟨d, if rem then r.2 else r.1, s.now + divCycles x y, false⟩ }).retire)

/-- DIV (R106). -/
def execDiv (d a b : SSpec) (s : State) : Res := s.divide d a b false
/-- REM (R106). -/
def execRem (d a b : SSpec) (s : State) : Res := s.divide d a b true

/-- DIVIDER_RELEASE (R106): once its cycles have passed, the divider writes its result and is free; before, and in a freeze (R18), nothing
happens. -/
def execDividerRelease (w : Who) (s : State) : Res :=
  match (s.getStr w).div with
  | none => .next s
  | some o =>
    if s.coreHeld w.ref.core || decide (s.core[w.ref.core].live < o.due) then .next s
    else
      let s1 := { s with turn := w }.modMe fun t => { t with div := none }
      match o.dest with
      | .x n => .next { s1.modMe (fun t => t.wrX n o.res) with turn := s.turn }
      | .q n =>
        .next (State.fullHazard { (s1.modMySeat fun st => st.modQ n fun f => f.push (o.res.setWidth 2048) s1.now) with turn := s.turn } w o.full)

/-- CLZ (R107). -/
def execClz (d a : SSpec) (s : State) : Res := s.alu1 d a 1 2 fun x => BitVec.ofNat 64 (64 - bitLen 64 x.toNat)
/-- POPC (R107). -/
def execPopc (d a : SSpec) (s : State) : Res := s.alu1 d a 1 2 fun x => BitVec.ofNat 64 (popCount 64 x.toNat)
/-- EXT: Floor(a / 2^pos) mod 2^len; `len` holds len − 1 (R107). -/
def execExt (d a : SSpec) (pos len : Fin 64) (s : State) : Res :=
  s.alu1 d a 1 2 fun x => BitVec.ofNat 64 (fld x pos.val (len.val + 1))
/-- INS: bits [pos + len − 1 : pos] of d replaced; reads d (R107, R102). -/
def execIns (d a : SSpec) (pos len : Fin 64) (s : State) : Res :=
  s.alu2 d a d 1 2 fun x y => putFld y pos.val (len.val + 1) x.toNat
/-- ADDI (R104). -/
def execAddi (d a : SSpec) (i : BitVec 11) (s : State) : Res := s.alu1 d a 1 2 fun x => x + i.signExtend 64
/-- ANDI (R104). -/
def execAndi (d a : SSpec) (i : BitVec 11) (s : State) : Res := s.alu1 d a 1 2 fun x => x &&& i.signExtend 64
/-- ORI (R104). -/
def execOri (d a : SSpec) (i : BitVec 11) (s : State) : Res := s.alu1 d a 1 2 fun x => x ||| i.signExtend 64
/-- XORI (R104). -/
def execXori (d a : SSpec) (i : BitVec 11) (s : State) : Res := s.alu1 d a 1 2 fun x => x ^^^ i.signExtend 64
/-- LIMM: h = 0 sets d, h = 1 to 3 replaces one quarter of d (R108). -/
def execLimm (d : SSpec) (v : BitVec 16) (h : Fin 4) (s : State) : Res :=
  if h = 0 then s.alu0 d 1 2 (v.setWidth 64) else s.alu1 d d 1 2 fun x => putFld x (16 * h.val) 16 v.toNat
/-- SCALE: a × m × 2^sh, with multiply timing (R109). -/
def execScale (d a : SSpec) (m : BitVec 11) (sh : Fin 8) (s : State) : Res :=
  s.alu1 d a 3 4 fun x => (x * m.signExtend 64) <<< sh.val

/-- CMP (R110). -/
def execCmp (p : Fin 16) (a b : SSpec) (c : Cond) (s : State) : Res :=
  if !s.classOk [a, b] [] then s.raiseClass
  else match s.blocked [a, b] [] with
    | some why => s.stall why
    | none =>
      if !s.pFree p then s.stall none
      else
        let s1 := s.take a
        .next (((s1.take b).wrPred p (condHolds c (s.peek a) (s1.peek b))).retire)

/-- SEL: both sources are dequeued if they are queues (R110). -/
def execSel (d a b : SSpec) (n : Fin 16) (s : State) : Res :=
  if !s.pFree n then s.stall none
  else s.alu2 d a b 1 2 fun x y => if s.me.rdP n then x else y

/-- CMPI (R111). -/
def execCmpi (p : Fin 16) (a : SSpec) (i : BitVec 11) (c : CondI) (s : State) : Res :=
  if !s.classOk [a] [] then s.raiseClass
  else match s.blocked [a] [] with
    | some why => s.stall why
    | none =>
      if !s.pFree p then s.stall none
      else .next (((s.take a).wrPred p (condIHolds c (s.peek a) i)).retire)

/-- The predicate instructions: pd := f (pa, pb) (R112). -/
def State.predOp (s : State) (d a b : Fin 16) (f : Bool → Bool → Bool) : Res :=
  if !(s.pFree a && s.pFree b && s.pFree d) then s.stall none
  else .next ((s.wrPred d (f (s.me.rdP a) (s.me.rdP b))).retire)

/-- PAND (R112). -/
def execPand (d a b : Fin 16) (s : State) : Res := s.predOp d a b fun x y => x && y
/-- POR (R112). -/
def execPor (d a b : Fin 16) (s : State) : Res := s.predOp d a b fun x y => x || y
/-- PXOR (R112). -/
def execPxor (d a b : Fin 16) (s : State) : Res := s.predOp d a b fun x y => x != y
/-- PNOT (R112). -/
def execPnot (d a : Fin 16) (s : State) : Res := s.predOp d a 0 fun x _ => !x

end Sys2Proof.Machine
end

