-- ==== Sys2Proof/Machine/Dispatch.lean ====
section
/-!
DEFINITION. The dispatch: one arm per constructor of `Instr`, each one direct call of its meaning.
-/
namespace Sys2Proof.Machine

def exec (i : Instr) (s : State) : Host.Outcome State Fault Refusal :=
  match i with
  | .add d a b => Sys2Proof.Machine.execAdd d a b s
  | .sub d a b => Sys2Proof.Machine.execSub d a b s
  | .mul d a b => Sys2Proof.Machine.execMul d a b s
  | .mulh d a b => Sys2Proof.Machine.execMulh d a b s
  | .and d a b => Sys2Proof.Machine.execAnd d a b s
  | .or d a b => Sys2Proof.Machine.execOr d a b s
  | .xor d a b => Sys2Proof.Machine.execXor d a b s
  | .andn d a b => Sys2Proof.Machine.execAndn d a b s
  | .shl d a b => Sys2Proof.Machine.execShl d a b s
  | .shr d a b => Sys2Proof.Machine.execShr d a b s
  | .sra d a b => Sys2Proof.Machine.execSra d a b s
  | .rotr d a b => Sys2Proof.Machine.execRotr d a b s
  | .min d a b => Sys2Proof.Machine.execMin d a b s
  | .max d a b => Sys2Proof.Machine.execMax d a b s
  | .div d a b => Sys2Proof.Machine.execDiv d a b s
  | .rem d a b => Sys2Proof.Machine.execRem d a b s
  | .dividerRelease w => Sys2Proof.Machine.execDividerRelease w s
  | .clz d a => Sys2Proof.Machine.execClz d a s
  | .popc d a => Sys2Proof.Machine.execPopc d a s
  | .ext d a pos len => Sys2Proof.Machine.execExt d a pos len s
  | .ins d a pos len => Sys2Proof.Machine.execIns d a pos len s
  | .addi d a iv => Sys2Proof.Machine.execAddi d a iv s
  | .andi d a iv => Sys2Proof.Machine.execAndi d a iv s
  | .ori d a iv => Sys2Proof.Machine.execOri d a iv s
  | .xori d a iv => Sys2Proof.Machine.execXori d a iv s
  | .limm d v h => Sys2Proof.Machine.execLimm d v h s
  | .scale d a m sh => Sys2Proof.Machine.execScale d a m sh s
  | .cmp p a b c => Sys2Proof.Machine.execCmp p a b c s
  | .sel d a b n => Sys2Proof.Machine.execSel d a b n s
  | .cmpi p a iv c => Sys2Proof.Machine.execCmpi p a iv c s
  | .pand d a b => Sys2Proof.Machine.execPand d a b s
  | .por d a b => Sys2Proof.Machine.execPor d a b s
  | .pxor d a b => Sys2Proof.Machine.execPxor d a b s
  | .pnot d a => Sys2Proof.Machine.execPnot d a s
  | .nop => Sys2Proof.Machine.execNop s
  | .pbr t iv => Sys2Proof.Machine.execPbr t iv s
  | .br t p => Sys2Proof.Machine.execBr t p s
  | .call t p => Sys2Proof.Machine.execCall t p s
  | .ret p => Sys2Proof.Machine.execRet p s
  | .halt => Sys2Proof.Machine.execHalt s
  | .pbri t a iv => Sys2Proof.Machine.execPbri t a iv s
  | .loopReg sv a b => Sys2Proof.Machine.execLoopReg sv a b s
  | .loopImm b c sv => Sys2Proof.Machine.execLoopImm b c sv s
  | .repReg a => Sys2Proof.Machine.execRepReg a s
  | .repImm n => Sys2Proof.Machine.execRepImm n s
  | .gap y k => Sys2Proof.Machine.execGap y k s
  | .ld d b y sv o => Sys2Proof.Machine.execLd d b y sv o s
  | .ldV d b y sv o => Sys2Proof.Machine.execLdV d b y sv o s
  | .st d b sv o => Sys2Proof.Machine.execSt d b sv o s
  | .pref b y sv o => Sys2Proof.Machine.execPref b y sv o s
  | .ldx g => Sys2Proof.Machine.execLdx g s
  | .lda g => Sys2Proof.Machine.execLda g s
  | .stx g => Sys2Proof.Machine.execStx g s
  | .stl g => Sys2Proof.Machine.execStl g s
  | .landing r slot => Sys2Proof.Machine.execLanding r slot s
  | .fetchFill die iv => Sys2Proof.Machine.execFetchFill die iv s
  | .storeDepart r => Sys2Proof.Machine.execStoreDepart r s
  | .storePerform iv => Sys2Proof.Machine.execStorePerform iv s
  | .loadReplay w giveUp => Sys2Proof.Machine.execLoadReplay w giveUp s
  | .sideLogReplay r iv => Sys2Proof.Machine.execSideLogReplay r iv s
  | .amo g => Sys2Proof.Machine.execAmo g s
  | .vamo g => Sys2Proof.Machine.execVamo g s
  | .red g => Sys2Proof.Machine.execRed g s
  | .vmred g => Sys2Proof.Machine.execVmred g s
  | .fence c k => Sys2Proof.Machine.execFence c k s
  | .scOrderEvent core => Sys2Proof.Machine.execScOrderEvent core s
  | .domainFenceSettle w => Sys2Proof.Machine.execDomainFenceSettle w s
  | .conj t => Sys2Proof.Machine.execConj t s
  | .xfence => Sys2Proof.Machine.execXfence s
  | .mwait g => Sys2Proof.Machine.execMwait g s
  | .mwaitTimeout w => Sys2Proof.Machine.execMwaitTimeout w s
  | .fork e iv => Sys2Proof.Machine.execFork e iv s
  | .join e => Sys2Proof.Machine.execJoin e s
  | .sarm a b => Sys2Proof.Machine.execSarm a b s
  | .sarmFlag d a b f => Sys2Proof.Machine.execSarmFlag d a b f s
  | .swait d a b => Sys2Proof.Machine.execSwait d a b s
  | .launch d a b => Sys2Proof.Machine.execLaunch d a b s
  | .bar d j => Sys2Proof.Machine.execBar d j s
  | .barrierOpen iv => Sys2Proof.Machine.execBarrierOpen iv s
  | .pview g => Sys2Proof.Machine.execPview g s
  | .boardRound a late => Sys2Proof.Machine.execBoardRound a late s
  | .bread d a b => Sys2Proof.Machine.execBread d a b s
  | .breadLvl d a b => Sys2Proof.Machine.execBreadLvl d a b s
  | .breset d a b => Sys2Proof.Machine.execBreset d a b s
  | .bresetForce d a b => Sys2Proof.Machine.execBresetForce d a b s
  | .binfo d a => Sys2Proof.Machine.execBinfo d a s
  | .binfoVm d n w => Sys2Proof.Machine.execBinfoVm d n w s
  | .vaddFp g => Sys2Proof.Machine.execVaddFp g s
  | .vsubFp g => Sys2Proof.Machine.execVsubFp g s
  | .vmulFp g => Sys2Proof.Machine.execVmulFp g s
  | .vfma g => Sys2Proof.Machine.execVfma g s
  | .vfms g => Sys2Proof.Machine.execVfms g s
  | .vnfma g => Sys2Proof.Machine.execVnfma g s
  | .vmadd g => Sys2Proof.Machine.execVmadd g s
  | .vminFp g => Sys2Proof.Machine.execVminFp g s
  | .vmaxFp g => Sys2Proof.Machine.execVmaxFp g s
  | .vcmpFp g => Sys2Proof.Machine.execVcmpFp g s
  | .vaddInt g => Sys2Proof.Machine.execVaddInt g s
  | .vsubInt g => Sys2Proof.Machine.execVsubInt g s
  | .vmulInt g => Sys2Proof.Machine.execVmulInt g s
  | .vcmpInt g => Sys2Proof.Machine.execVcmpInt g s
  | .vminInt g => Sys2Proof.Machine.execVminInt g s
  | .vmaxInt g => Sys2Proof.Machine.execVmaxInt g s
  | .vshl g => Sys2Proof.Machine.execVshl g s
  | .vshr g => Sys2Proof.Machine.execVshr g s
  | .vsra g => Sys2Proof.Machine.execVsra g s
  | .vand g => Sys2Proof.Machine.execVand g s
  | .vor g => Sys2Proof.Machine.execVor g s
  | .vxor g => Sys2Proof.Machine.execVxor g s
  | .vsel g => Sys2Proof.Machine.execVsel g s
  | .vperm g => Sys2Proof.Machine.execVperm g s
  | .vshuf g => Sys2Proof.Machine.execVshuf g s
  | .vzip0 g => Sys2Proof.Machine.execVzip0 g s
  | .vzip1 g => Sys2Proof.Machine.execVzip1 g s
  | .vuzp0 g => Sys2Proof.Machine.execVuzp0 g s
  | .vuzp1 g => Sys2Proof.Machine.execVuzp1 g s
  | .vslide0 g => Sys2Proof.Machine.execVslide0 g s
  | .vslide1 g => Sys2Proof.Machine.execVslide1 g s
  | .vdot4I8 g => Sys2Proof.Machine.execVdot4I8 g s
  | .vdot4N8 g => Sys2Proof.Machine.execVdot4N8 g s
  | .vtacc g => Sys2Proof.Machine.execVtacc g s
  | .vscale g => Sys2Proof.Machine.execVscale g s
  | .vmov g => Sys2Proof.Machine.execVmov g s
  | .vmovQ q9 a => Sys2Proof.Machine.execVmovQ q9 a s
  | .vidx d w k => Sys2Proof.Machine.execVidx d w k s
  | .vsetvl d a w => Sys2Proof.Machine.execVsetvl d a w s
  | .vneg g => Sys2Proof.Machine.execVneg g s
  | .vabs g => Sys2Proof.Machine.execVabs g s
  | .vnot d a w k => Sys2Proof.Machine.execVnot d a w k s
  | .vrnd g => Sys2Proof.Machine.execVrnd g s
  | .vrcp g => Sys2Proof.Machine.execVrcp g s
  | .vrsq g => Sys2Proof.Machine.execVrsq g s
  | .vexp2 g => Sys2Proof.Machine.execVexp2 g s
  | .vlog2 g => Sys2Proof.Machine.execVlog2 g s
  | .vclass g => Sys2Proof.Machine.execVclass g s
  | .vredadd g => Sys2Proof.Machine.execVredadd g s
  | .vredmax g => Sys2Proof.Machine.execVredmax g s
  | .vredmin g => Sys2Proof.Machine.execVredmin g s
  | .vbcast d a w j k => Sys2Proof.Machine.execVbcast d a w j k s
  | .vbcastScalar d a tag k => Sys2Proof.Machine.execVbcastScalar d a tag k s
  | .vextr g => Sys2Proof.Machine.execVextr g s
  | .vtunpk d a raw k => Sys2Proof.Machine.execVtunpk d a raw k s
  | .vcvt g => Sys2Proof.Machine.execVcvt g s
  | .srr d iv => Sys2Proof.Machine.execSrr d iv s
  | .srw sv iv => Sys2Proof.Machine.execSrw sv iv s
  | .comma n m => Sys2Proof.Machine.execComma n m s
  | .trap iv => Sys2Proof.Machine.execTrap iv s
  | .eret => Sys2Proof.Machine.execEret s
  | .qcnt d n => Sys2Proof.Machine.execQcnt d n s
  | .qcntFree d n => Sys2Proof.Machine.execQcntFree d n s
  | .symrd d y w => Sys2Proof.Machine.execSymrd d y w s
  | .symsetB sv y => Sys2Proof.Machine.execSymsetB sv y s
  | .symsetPol sv y => Sys2Proof.Machine.execSymsetPol sv y s
  | .symsetClr y => Sys2Proof.Machine.execSymsetClr y s
  | .tlbiPage a b => Sys2Proof.Machine.execTlbiPage a b s
  | .tlbiAsid b => Sys2Proof.Machine.execTlbiAsid b s
  | .tlbiAll => Sys2Proof.Machine.execTlbiAll s
  | .tlbiVa a => Sys2Proof.Machine.execTlbiVa a s
  | .tlbfence => Sys2Proof.Machine.execTlbfence s
  | .keyld a b => Sys2Proof.Machine.execKeyld a b s
  | .keyldClr b => Sys2Proof.Machine.execKeyldClr b s
  | .capq d iv p => Sys2Proof.Machine.execCapq d iv p s
  | .codesync => Sys2Proof.Machine.execCodesync s
  | .lit v => Sys2Proof.Machine.execLit v s
  | .litx next => Sys2Proof.Machine.execLitx next s
  | .dup => Sys2Proof.Machine.execDup s
  | .drop => Sys2Proof.Machine.execDrop s
  | .swap => Sys2Proof.Machine.execSwap s
  | .over => Sys2Proof.Machine.execOver s
  | .addw => Sys2Proof.Machine.execAddw s
  | .subw => Sys2Proof.Machine.execSubw s
  | .mulw => Sys2Proof.Machine.execMulw s
  | .shlw n => Sys2Proof.Machine.execShlw n s
  | .qpop => Sys2Proof.Machine.execQpop s
  | .loopw d => Sys2Proof.Machine.execLoopw d s
  | .endw => Sys2Proof.Machine.execEndw s
  | .stopw => Sys2Proof.Machine.execStopw s
  | .waitf acq n => Sys2Proof.Machine.execWaitf acq n s
  | .sigf note t => Sys2Proof.Machine.execSigf note t s
  | .mldt b sideB half => Sys2Proof.Machine.execMldt b sideB half s
  | .mstt b sideB half => Sys2Proof.Machine.execMstt b sideB half s
  | .mma a raw => Sys2Proof.Machine.execMma a raw s
  | .mhad b z => Sys2Proof.Machine.execMhad b z s
  | .mzero a fp36 => Sys2Proof.Machine.execMzero a fp36 s
  | .mdrain g => Sys2Proof.Machine.execMdrain g s
  | .msrec sideB en => Sys2Proof.Machine.execMsrec sideB en s
  | .mgeom a b askew bskew => Sys2Proof.Machine.execMgeom a b askew bskew s
  | .copy g => Sys2Proof.Machine.execCopy g s
  | .cgath g => Sys2Proof.Machine.execCgath g s
  | .cscat g => Sys2Proof.Machine.execCscat g s
  | .cfill g => Sys2Proof.Machine.execCfill g s
  | .cbcast g => Sys2Proof.Machine.execCbcast g s
  | .cremote g => Sys2Proof.Machine.execCremote g s
  | .cacc g => Sys2Proof.Machine.execCacc g s
  | .afolio e4m3 hd => Sys2Proof.Machine.execAfolio e4m3 hd s
  | .aappend => Sys2Proof.Machine.execAappend s
  | .aquery e4m3 hd y => Sys2Proof.Machine.execAquery e4m3 hd y s
  | .astat => Sys2Proof.Machine.execAstat s
  | .engineCommandStart core e seat => Sys2Proof.Machine.execEngineCommandStart core e seat s
  | .flagWaitMet core e seat => Sys2Proof.Machine.execFlagWaitMet core e seat s
  | .engineCommandComplete core e seat iv => Sys2Proof.Machine.execEngineCommandComplete core e seat iv s
  | .syncArrival iv => Sys2Proof.Machine.execSyncArrival iv s
  | .attentionSlice iv => Sys2Proof.Machine.execAttentionSlice iv s
  | .appendAtController iv => Sys2Proof.Machine.execAppendAtController iv s
  | .cut r => Sys2Proof.Machine.execCut r s
  | .preemptRequest r => Sys2Proof.Machine.execPreemptRequest r s
  | .bmarkArm r pass => Sys2Proof.Machine.execBmarkArm r pass s
  | .commaTimeout r => Sys2Proof.Machine.execCommaTimeout r s
  | .faultServiceResume r => Sys2Proof.Machine.execFaultServiceResume r s
  | .launchAbort q => Sys2Proof.Machine.execLaunchAbort q s
  | .instanceStart r => Sys2Proof.Machine.execInstanceStart r s
  | .retirement r => Sys2Proof.Machine.execRetirement r s
  | .packetAtHead q => Sys2Proof.Machine.execPacketAtHead q s
  | .launchActivation q => Sys2Proof.Machine.execLaunchActivation q s
  | .seatGrant die => Sys2Proof.Machine.execSeatGrant die s
  | .pipeGrant core vector => Sys2Proof.Machine.execPipeGrant core vector s
  | .lqRestart q => Sys2Proof.Machine.execLqRestart q s
  | .abortedClear q => Sys2Proof.Machine.execAbortedClear q s
  | .hubDataAccess die write => Sys2Proof.Machine.execHubDataAccess die write s
  | .clockPlanTick die => Sys2Proof.Machine.execClockPlanTick die s
  | .temperatureReading stk celsius => Sys2Proof.Machine.execTemperatureReading stk celsius s
  | .refresh stk bank => Sys2Proof.Machine.execRefresh stk bank s
  | .scrub stk unit => Sys2Proof.Machine.execScrub stk unit s
  | .mgmtRaise die => Sys2Proof.Machine.execMgmtRaise die s
  | .mgmtLower die => Sys2Proof.Machine.execMgmtLower die s
  | .junctionOvertemp die => Sys2Proof.Machine.execJunctionOvertemp die s
  | .timebaseMarker port drift => Sys2Proof.Machine.execTimebaseMarker port drift s
  | .flitReceive port g => Sys2Proof.Machine.execFlitReceive port g s
  | .linkTrainingTimeout port => Sys2Proof.Machine.execLinkTrainingTimeout port s
  | .lostRequestTimeout iv => Sys2Proof.Machine.execLostRequestTimeout iv s
  | .dieResetStart die => Sys2Proof.Machine.execDieResetStart die s
  | .dieResetDone die => Sys2Proof.Machine.execDieResetDone die s
  | .doorbell die => Sys2Proof.Machine.execDoorbell die s
  | .mailboxTake die => Sys2Proof.Machine.execMailboxTake die s
  | .graphCompletion iv => Sys2Proof.Machine.execGraphCompletion iv s
  | .lostClear die => Sys2Proof.Machine.execLostClear die s
  | .hostBar2Access g => Sys2Proof.Machine.execHostBar2Access g s
  | .scalarAnswer w iv => Sys2Proof.Machine.execScalarAnswer w iv s
  | .undefinedEncoding w => Sys2Proof.Machine.execUndefinedEncoding w s
  | .undefinedEngineWord w => Sys2Proof.Machine.execUndefinedEngineWord w s
  | .linkRetrainComplete port => Sys2Proof.Machine.execLinkRetrainComplete port s
  | .mailboxMessageWrite die dw v => Sys2Proof.Machine.execMailboxMessageWrite die dw v s
  | .lifeRecord => Sys2Proof.Machine.execLifeRecord s
  | .freezeLineAssert => Sys2Proof.Machine.execFreezeLineAssert s
  | .freezeLineRelease => Sys2Proof.Machine.execFreezeLineRelease s
  | .packageReset => Sys2Proof.Machine.execPackageReset s
  | .unsupportedRequest => Sys2Proof.Machine.execUnsupportedRequest s
  | .powerUp => Sys2Proof.Machine.execPowerUp s

end Sys2Proof.Machine
end

