-- ==== Sys2Proof/Machine/Hazard.lean ====
section
/-!
DEFINITION. The hazard detector of debug mode (R391, R392): what each C instruction reads, and the cases of an instruction that has
completed.
-/
namespace Sys2Proof.Machine

/-! ## Shared pipes (R133, R318) -/

/-- The value of an address operand, when it can be read. -/
def State.addrOf (s : State) (a : SSpec) : List Word :=
  match a with
  | .x n => [s.me.rdX n]
  | .q n => if s.mySeat.q[n].avail s.now = 0 then [] else [s.peek a]

/-- The addresses of the elements of a VAMO or VMRED. -/
def State.elemAddrs (s : State) (a b : SSpec) (dbl : Bool) : List Word :=
  (List.range (elemCount dbl ((s.peeks [a, b]).getD 1 0))).map fun e =>
    elemAddr ((s.peeks [a, b]).getD 0 0) s.mySeat.q[(9 : Fin 16)].head (atomSize dbl) e

/-- The addresses that an instruction's access of memory names (R318): of a VAMO the element it stands at, of a VMRED every element, of a
LAUNCH its packet, of a monitor wait the word it arms at. -/
def State.accessAddrs (s : State) (i : Instr) : List Word :=
  let off (b : Fin 32) (o : BitVec 8) (n : Nat) : List Word := [s.me.rdX b + BitVec.ofInt 64 (o.toInt * n)]
  match i with
  | .ld _ b _ z o => off b o (2 ^ z.val)
  | .ldV _ b _ z o => off b o (32 * 2 ^ z.val)
  | .st d b z o =>
    match d with
    | .q n => if qNarrow n then off b o (2 ^ z.val) else off b o (32 * 2 ^ z.val)
    | .x _ => off b o (2 ^ z.val)
  | .ldx g => [s.me.rdX g.base]
  | .lda g => [s.me.rdX g.base]
  | .stx g => [s.me.rdX g.base]
  | .stl g => [s.me.rdX g.base]
  | .amo g => s.addrOf g.a
  | .vamo g => if s.mySeat.elemReq.isSome then [] else ((s.elemAddrs g.a g.b g.dbl).drop s.vamoIndex).take 1
  | .red g => s.addrOf g.a
  | .vmred g => s.elemAddrs g.a g.b g.dbl
  | .mwait g => if s.me.wait = .none then s.addrOf g.a else []
  | .sarm a _ => s.addrOf a
  | .sarmFlag _ a _ _ => s.addrOf a
  | .swait _ a _ => if s.me.wait = .none then s.addrOf a else []
  | .launch _ a _ => s.addrOf a
  | _ => []

/-- The pipe an instruction needs in the cycle it issues (R133, R318): the vector pipe for Form E, the scratchpad port for
an access of K, L or S to the own slice. -/
def State.pipeNeeded (s : State) (word : Nat) (i : Instr) : Option Bool :=
  if s.isC then (if 32 ≤ word / 2 ^ 26 && word / 2 ^ 26 ≤ 47 then some true else none)
  else if (s.accessAddrs i).any fun a => isWindow a && decide (ownSlice s.turn.ref = some (sliceIndex a.toNat)) then some false else none

/-! ## What C reads -/

/-- A register that C reads at issue. -/
inductive CReg where
  | x (n : Fin 32)
  | p (n : Fin 16)
  | t (n : Fin 8)
  | src (a : VSrc)
  | k (n : Fin 8)
  | vlen
  | vstat
  | sys (num : BitVec 16)
  deriving DecidableEq, Repr

/-- Scalar sources. -/
def readS : List SSpec → List CReg := List.filterMap fun a => match a with | .x n => some (.x n) | .q _ => none

/-- Vector sources. -/
def readV : List VSrc → List CReg := List.map .src

/-- What an instruction with a vector result reads: its sources, VLEN (R125) and its mask register (R128). -/
def readVec (l : List VSrc) (k : Fin 8) : List CReg := .vlen :: (if k = 0 then [] else [.k k]) ++ readV l

/-- The registers a C instruction reads, by name (R33). -/
def cReads (i : Instr) : List CReg :=
  match i with
  | .add _ a b => readS [a, b]
  | .sub _ a b => readS [a, b]
  | .mul _ a b => readS [a, b]
  | .mulh _ a b => readS [a, b]
  | .and _ a b => readS [a, b]
  | .or _ a b => readS [a, b]
  | .xor _ a b => readS [a, b]
  | .andn _ a b => readS [a, b]
  | .shl _ a b => readS [a, b]
  | .shr _ a b => readS [a, b]
  | .sra _ a b => readS [a, b]
  | .rotr _ a b => readS [a, b]
  | .min _ a b => readS [a, b]
  | .max _ a b => readS [a, b]
  | .clz _ a => readS [a]
  | .popc _ a => readS [a]
  | .ext _ a _ _ => readS [a]
  | .ins d a _ _ => readS [d, a]
  | .addi _ a _ => readS [a]
  | .andi _ a _ => readS [a]
  | .ori _ a _ => readS [a]
  | .xori _ a _ => readS [a]
  | .limm d _ h => if h = 0 then [] else readS [d]
  | .scale _ a _ _ => readS [a]
  | .cmp _ a b _ => readS [a, b]
  | .sel _ a b n => .p n :: readS [a, b]
  | .cmpi _ a _ _ => readS [a]
  | .pand _ a b => [.p a, .p b]
  | .por _ a b => [.p a, .p b]
  | .pxor _ a b => [.p a, .p b]
  | .pnot _ a => [.p a]
  | .br t p => [.t t, .p p]
  | .call t p => [.t t, .p p]
  | .ret p => [.t 7, .p p]
  | .pbri _ a _ => readS [a]
  | .loopReg _ a _ => readS [a]
  | .repReg a => readS [a]
  | .vaddFp g => readVec [g.a, g.b] g.k
  | .vsubFp g => readVec [g.a, g.b] g.k
  | .vmulFp g => readVec [g.a, g.b] g.k
  | .vfma g => readVec [g.a, g.b, .v g.d] g.k
  | .vfms g => readVec [g.a, g.b, .v g.d] g.k
  | .vnfma g => readVec [g.a, g.b, .v g.d] g.k
  | .vmadd g => readVec [g.a, g.b, .v g.d] g.k
  | .vminFp g => readVec [g.a, g.b] g.k
  | .vmaxFp g => readVec [g.a, g.b] g.k
  | .vcmpFp g => readVec [g.a, g.b] g.k
  | .vaddInt g => readVec [g.a, g.b] g.k
  | .vsubInt g => readVec [g.a, g.b] g.k
  | .vmulInt g => readVec [g.a, g.b] g.k
  | .vcmpInt g => readVec [g.a, g.b] g.k
  | .vminInt g => readVec [g.a, g.b] g.k
  | .vmaxInt g => readVec [g.a, g.b] g.k
  | .vshl g => readVec [g.a, g.b] g.k
  | .vshr g => readVec [g.a, g.b] g.k
  | .vsra g => readVec [g.a, g.b] g.k
  | .vand g => readVec [g.a, g.b] g.k
  | .vor g => readVec [g.a, g.b] g.k
  | .vxor g => readVec [g.a, g.b] g.k
  | .vsel g => readVec [g.a, g.b] g.k
  | .vperm g => readVec [g.a, g.b] g.k
  | .vshuf g => readVec [g.a, g.b, .v g.d] g.k
  | .vzip0 g => readVec [g.a, g.b] g.k
  | .vzip1 g => readVec [g.a, g.b] g.k
  | .vuzp0 g => readVec [g.a, g.b] g.k
  | .vuzp1 g => readVec [g.a, g.b] g.k
  | .vslide0 g => readVec [g.a, g.b] g.k
  | .vslide1 g => readVec [g.a, g.b] g.k
  | .vdot4I8 g => readVec [g.a, g.b, .v g.d] g.k
  | .vdot4N8 g => readVec [g.a, g.b, .v g.d] g.k
  | .vtacc g => readVec [g.a, g.b, .v g.d] g.k
  | .vscale g => readVec [g.a, g.b] g.k
  | .vmov g => readVec [g.a] g.k
  | .vmovQ _ a => readV [a]
  | .vidx _ _ k => readVec [] k
  | .vsetvl _ a _ => readS [a]
  | .vneg g => readVec [g.a] g.k
  | .vabs g => readVec [g.a] g.k
  | .vnot _ a _ k => readVec [a] k
  | .vrnd g => readVec [g.a] g.k
  | .vrcp g => readVec [g.a] g.k
  | .vrsq g => readVec [g.a] g.k
  | .vexp2 g => readVec [g.a] g.k
  | .vlog2 g => readVec [g.a] g.k
  | .vclass g => readVec [g.a] g.k
  | .vredadd g => readVec [g.a] g.k
  | .vredmax g => readVec [g.a] g.k
  | .vredmin g => readVec [g.a] g.k
  | .vbcast _ a _ _ k => readVec [a] k
  | .vbcastScalar _ a _ k => readVec [] k ++ readS [a]
  | .vextr g => readV [g.a]
  | .vtunpk _ a _ k => readVec [a] k
  | .vcvt g => readVec [g.a] g.k
  | .srr _ n => if n = 0x0300 then [.vlen] else if n = 0x0301 then [.vstat] else [.sys n]
  | .srw a _ => readS [a]
  | _ => []

/-- The landing slots among what an instruction of C reads. -/
def slotReads (l : List CReg) : List (Fin 64) := slotsOf (l.filterMap fun r => match r with | .src a => some a | _ => none)

/-- A result in C's pipeline writes the register read (R33). -/
def CWrite.feeds (rrb : BitVec 4) (r : CReg) (w : CWrite) : Bool :=
  match r, w with
  | .x n, .xreg m _ => decide (n = m)
  | .p n, .preg m _ => decide (n = m)
  | .t n, .treg m _ => decide (n = m)
  | .src (.v n), .vreg m _ _ _ => decide (physV rrb n = m)
  | .k n, .kreg m _ _ => decide (n = m)
  | .vlen, .vlen _ => true
  | .vlen, .sysreg m _ => decide (m = 0x0300)
  | .vstat, .vstat _ => true
  | .vstat, .sysreg m _ => decide (m = 0x0301)
  | .sys n, .sysreg m _ => decide (n = m)
  | _, _ => false

/-- EARLY_REG, EARLY_LAND and FREE_LAND at the issue of a C instruction (R392), in the order of their codes. -/
def Seat.cHazard (st : Seat) (i : Instr) : Option Nat :=
  let l := cReads i
  if l.any fun r => st.c.pipe.any fun p => p.w.feeds st.vec.rrb r then some 80
  else if (slotReads l).any fun n => st.ln[n].early st.sched then some 81
  else if (slotReads l).any fun n => decide (st.ln[n].state = 0) then some 82
  else none

/-- NO_CONJ (R392): request `l` of L, issued in core cycle `now`, reads bytes of a store that S issued earlier and that is not yet
performed at seat scope, with no conjunction between them (R216). -/
def State.noConj (s : State) (r : SeatRef) (now : Nat) (l : LoadReq) : Bool :=
  l.counts && decide (l.stream = .L) &&
    ((s.getSeat r).stores.any (fun e => decide (e.stream = .S) && decide (e.kind = .store) && decide (e.issued < now) &&
        decide (l.conj ≤ e.conj) && overlap l.place l.size e.place e.size) ||
     (s.getSeat r).sideLog.any (fun e => decide (e.src = .S) && decide (e.kind = 0) && decide (e.issued < now) && decide (l.conj ≤ e.conj) &&
        vaOverlap l.va l.size e.va e.size) ||
     s.flights.any fun f => decide (f.src = .stream ⟨r, .S⟩) && decide (f.kind = .store) && !f.performedAt .seat &&
        decide (f.issued < now) && decide (l.conj ≤ f.conj) && overlap l.place l.size f.place f.size)

/-- CONJ_TAG (R392): the CONJ just executed, the n-th of its stream since the counts were made equal (R216), and the one it matches have
different tags. -/
def Seat.conjHazard (st : Seat) (i : StreamId) : Bool :=
  let n := if i = .L then st.tagsL.length else st.tagsS.length
  match st.tagsL[n - 1]?, st.tagsS[n - 1]? with
  | some a, some b => decide (a ≠ b)
  | _, _ => false

/-- The queue registers an instruction writes, of those a scalar destination or VMOV names. -/
def queueDest (i : Instr) : Option SSpec :=
  match i with
  | .add d _ _ => some d
  | .sub d _ _ => some d
  | .mul d _ _ => some d
  | .mulh d _ _ => some d
  | .and d _ _ => some d
  | .or d _ _ => some d
  | .xor d _ _ => some d
  | .andn d _ _ => some d
  | .shl d _ _ => some d
  | .shr d _ _ => some d
  | .sra d _ _ => some d
  | .rotr d _ _ => some d
  | .min d _ _ => some d
  | .max d _ _ => some d
  | .div d _ _ => some d
  | .rem d _ _ => some d
  | .clz d _ => some d
  | .popc d _ => some d
  | .ext d _ _ _ => some d
  | .addi d _ _ => some d
  | .andi d _ _ => some d
  | .ori d _ _ => some d
  | .xori d _ _ => some d
  | .limm d _ _ => some d
  | .scale d _ _ _ => some d
  | .sel d _ _ _ => some d
  | .ldx g => match g.dest with | .scalar d => some d | .slot _ => none
  | .lda g => match g.dest with | .scalar d => some d | .slot _ => none
  | .amo g => some g.d
  | .sarmFlag d _ _ _ => some d
  | .swait d _ _ => some d
  | .launch d _ _ => some d
  | .bar d _ => some d
  | .pview g => some g.d
  | .bread d _ _ => some d
  | .breadLvl d _ _ => some d
  | .breset d _ _ => some d
  | .bresetForce d _ _ => some d
  | .binfo d _ => some d
  | .binfoVm d _ _ => some d
  | .vmovQ q9 _ => some (.q (if q9 then 9 else 8))
  | .srr d _ => some d
  | .qcnt d _ => some d
  | .qcntFree d _ => some d
  | .symrd d _ _ => some d
  | .capq d _ _ => some d
  | _ => none

/-- The instruction's result is written after its issue: by an answer, the divider or a board (R106, R208, R332). -/
def deferred (i : Instr) : Bool :=
  match i with
  | .ldx _ => true
  | .lda _ => true
  | .amo _ => true
  | .div _ _ _ => true
  | .rem _ _ _ => true
  | .pview _ => true
  | _ => false

/-- QUEUE_DEPTH (R392): the instruction writes a queue of QMASK that it has found full. -/
def Seat.queueHazard (st : Seat) (t : Stream) (i : Instr) : Bool :=
  decide (t.waiting = some true) && match queueDest i with
    | some (.q n) => bit st.sys.dbgCtl (16 + n.val)
    | _ => false

/-- What stream w has sent on its way from number `since` on, and with `div` what its divider holds, is to be written to a queue found full:
QUEUE_DEPTH is reported when it is (R392). -/
def State.markFull (s : State) (w : Who) (since : Nat) (div : Bool) : State :=
  { (s.modSeat w.ref fun st =>
      { (st.modStr w.stream fun t => { t with div := t.div.map fun o => { o with full := o.full || div } }) with
        loads := st.loads.map fun l => if l.stream = w.stream ∧ since ≤ l.seq then { l with full := true } else l }) with
    posts := s.posts.map fun p => if p.who = some w ∧ since ≤ p.id then { p with full := true } else p }

/-- The stream has issued in this live core cycle and taken no fault: its instruction has completed. -/
def State.completed (s' s : State) (w : Who) : Bool :=
  decide ((s'.getStr w).issued = s.core[w.ref.core].live + 1) && decide ((s.getStr w).issued ≠ s.core[w.ref.core].live + 1) &&
    decide ((s'.getSeat w.ref).trap.info = (s.getSeat w.ref).trap.info) && decide ((s'.getSeat w.ref).inst.phase = (s.getSeat w.ref).inst.phase)

/-- The case of R392 that instruction i of stream w has met: `s` before it, `s'` after it. -/
def State.hazardCase (s s' : State) (w : Who) (i : Instr) : Option Nat :=
  let st := s.getSeat w.ref
  let here := if w.stream = .C then st.cHazard i else none
  match here with
  | some d => some d
  | none =>
    if decide (w.stream = .L) && (s'.getSeat w.ref).loads.any fun l =>
        decide (s.seq ≤ l.seq) && s.noConj w.ref s.core[w.ref.core].cycle l then some 83
    else if (match i with | .conj _ => (s'.getSeat w.ref).conjHazard w.stream | _ => false) then some 84
    else if !deferred i && st.queueHazard (s.getStr w) i then some 85
    else none

/-- The detector at work (R391, R392): a case met raises HAZARD once the instruction has completed (R186, R189); a result still to be
written carries the case of its queue with it. -/
def State.detect (s s' : State) (w : Who) (i : Instr) : State :=
  if !bit (s.getSeat w.ref).sys.dbgCtl 0 then s'
  else
    let s1 := if deferred i && (s.getSeat w.ref).queueHazard (s.getStr w) i then s'.markFull w s.seq (s.getStr w).div.isNone else s'
    if s1.completed s w then
      match s.hazardCase s1 w i with
      | some d => s1.takeFault w.ref (Flt.mk' .hazard d) w.stream.idx.val
      | none => s1
    else s1

/-- QUEUE_DEPTH of an engine's return queue (R279, R392), the launch word having completed. -/
def State.detectWord (s s' : State) (r : SeatRef) (e : EngineId) : State :=
  let st := s.getSeat r
  if bit st.sys.dbgCtl 0 && bit st.sys.dbgCtl (16 + (returnQueue e).val) && (st.getEng e).full && !((s'.getSeat r).getEng e).full &&
      decide ((s'.getSeat r).inst.phase = st.inst.phase) then
    s'.engineFault r e (Flt.mk' .hazard 85)
  else s'

end Sys2Proof.Machine
end

