-- ==== Sys2Proof/Machine/Issue.lean ====
section
/-!
DEFINITION. One act of the package (log 1): a stream issues the instruction at its program counter (R73, R116, R119, R318), an engine
program runs one word (R158), an event happens, time passes.
-/
namespace Sys2Proof.Machine

/-- A scalar load or atomic of stream w will bring an error answer: the stream stops behind it, so that its fault is precise (R181, R190;
DESIGN CHOICE, log 51). -/
def State.doomed (s : State) (w : Who) : Bool :=
  (s.getSeat w.ref).loads.any fun l => decide (l.stream = w.stream) &&
    (match l.kind with | .scalar _ => true | _ => false) && l.missing.isNone &&
    match l.got with
    | some a => decide (a.ans ≠ .ok)
    | none => decide (s.answerReq w.ref l l.place l.size ≠ .ok)

/-- Stream w stands where it can issue in this core cycle (R18, R33, R34, R212, R222, R406): its core's clocks run, it has not issued yet, no missing page holds it (DESIGN CHOICE, log 51: it holds every instruction of the stream), no element of its VMRED waits;
C is not held and its next schedule cycle has come. The code of a translated object is run by strips (log 50). -/
def State.canIssue (s : State) (w : Who) : Bool :=
  let c := s.core[w.ref.core]
  let st := s.getSeat w.ref
  !s.coreHeld w.ref.core && st.mayRun w.isY w.stream && (!w.isY || w.ref.seat = 0) &&
    decide ((st.getStr w.stream).issued ≠ c.live + 1) &&
    (match (st.getStr w.stream).wait with | .held _ _ => false | _ => true) && (decide (w.stream ≠ .S) || st.elems.isEmpty) &&
    !s.doomed w && (s.portable w.ref).isNone &&
    (decide (w.stream ≠ .C) || (!st.c.held && decide (st.c.ready ≤ st.c.clock)))

/-- The stream class of R69. -/
def sclass (w : Who) : SClass :=
  if w.isY then .Y else match w.stream with | .K => .K | .L => .L | .C => .C | .S => .S

/-- The word is a REP (R122). -/
def isRep (w : IWord) : Bool :=
  match decodeWord w.toNat with | some (.repReg _) => true | some (.repImm _) => true | _ => false

/-- STREAM_CLASS (R73 checks 3 and 5). -/
def State.raiseStream (s : State) : Res := s.raise (Flt.mk' .streamClass 0)

/-- The restart index of a VAMO is forgotten when S issues another instruction, and with it the element still on its way (R222). -/
def State.forgetVamo (s : State) : State :=
  if s.turn.stream = .S then s.modMySeat fun st =>
    match st.vamo with
    | some v =>
      if v.1 = (st.getStr .S).pc then st
      else { st with vamo := none, loads := st.loads.filter fun l => match l.kind with | .elem _ _ => false | _ => true }
    | none => st
  else s

/-- The running stream asks for a pipe, or no longer does (R318). -/
def State.askPipe (s : State) (vector ask : Bool) : State :=
  let c := s.myCore
  let r := s.turn.ref.seat
  let i := s.turn.stream
  let f (p : Pipe) : Pipe :=
    if ask then p.ask r i c.live else { p with reqs := p.reqs.filter fun q => !(decide (q.1 = r) && decide (q.2.1 = i)) }
  s.setCore s.turn.ref.core (if vector then { c with vpipe := f c.vpipe } else { c with port := f c.port })

/-- The running stream holds a pipe's grant of this core cycle. -/
def State.granted (s : State) (vector : Bool) : Bool :=
  (if vector then s.myCore.vpipe else s.myCore.port).isGranted s.turn.ref.seat s.turn.stream

/-- The running stream has sent a request that its instruction waits for: an element of a VAMO, the arm of a monitor (R222, R223, R301). -/
def State.sentOne (s' s : State) : Bool := s'.mySeat.loads.any fun l => decide (l.stream = s.turn.stream) && decide (s.seq ≤ l.seq)

/-- The running stream's instruction, already decoded: it issues, and each of its accesses goes, when it is ready and, where it needs a
shared pipe, holds its grant (R29, R133, R199, R318); otherwise it asks for it and waits. The hazard detector looks at what has completed
(R392). -/
def State.runInstr (s : State) (word : Nat) (i : Instr) : Res :=
  let s := s.forgetVamo
  match exec i s with
  | .next s' =>
    match s.pipeNeeded word i with
    | none => .next (s.detect s' s.turn i)
    | some v =>
      if s'.completed s s.turn || s'.sentOne s then
        if s.granted v then .next (s.detect s' s.turn i) else (s.askPipe v true).stall (if bit s.mySeat.sys.dbgCtl 0 then s.me.waiting else none)
      else .next (s'.askPipe v false)
  | r => r

/-- The running stream decodes and runs a word (R73 checks 2 to 6); the slot of an instruction whose stage predicate is off does nothing
(R119). -/
def State.runWord (s : State) (w : IWord) : Res :=
  if !s.me.enabled then s.skipSlot (isRep w)
  else if majorReserved (fld w 26 6) then exec (.undefinedEncoding w) s
  else if !majorAccepts (fld w 26 6) (sclass s.turn) then s.raiseStream
  else match decodeWord w.toNat with
    | none => exec (.undefinedEncoding w) s
    | some i => if !narrowAccepts i (sclass s.turn) then s.raiseStream else s.runInstr w.toNat i

/-- The running stream waits for the packet of its program counter; C does not wait, its core freezes until the packet arrives (R116). -/
def State.awaitFetch (s : State) : Res :=
  if s.isC then
    .next (s.setCore s.turn.ref.core { s.myCore with freeze := some (.fetch s.turn.ref.seat), frozeAt := s.myCore.cycle })
  else s.stall none

/-- An instruction issues when the count of issues (R384 event 4) takes it: it has completed, or stands inside its wait. -/
def State.countIssue (s' s : State) : State :=
  let a := s.me
  let b := s'.getStr s.turn
  if decide (a.wait = .none) && (decide (b.issued ≠ a.issued) || decide (b.wait ≠ .none)) then
    s'.modSeat s.turn.ref fun st => st.count 4 (some s.turn.stream) 1
  else s'

/-- Stream `s.turn` issues the instruction at its program counter: check 1 of R73, whose fetch fault comes before the stage predicate of
its slot is looked at (R78, R119; DESIGN CHOICE, log 25), and the rest. -/
def State.issueHere (s : State) : Res :=
  match s.me.fetch with
  | .fault f => (s.modMe Stream.dropBad).raise f
  | .missing => (s.startFill s.turn.ref s.me.pc).awaitFetch
  | .word w =>
    match s.runWord w with
    | .next s' => .next (s'.countIssue s)
    | r => r

/-- Stream w can issue, and its instruction faults. -/
def State.faultsNow (s : State) (w : Who) : Bool :=
  s.canIssue w && match State.issueHere { s with turn := w } with
    | .next t => decide ((t.getSeat w.ref).trap.info ≠ (s.getSeat w.ref).trap.info) || decide ((t.getSeat w.ref).inst.phase ≠ (s.getSeat w.ref).inst.phase)
    | _ => false

/-- A stream of lower SRC faults in the core cycle in which stream w would fault: w stops before its instruction (R189). -/
def State.faultsBehind (s : State) (w : Who) : Bool :=
  s.faultsNow w && [StreamId.K, .L, .C, .S].any fun i => decide (i.idx.val < w.stream.idx.val) && s.faultsNow ⟨w.ref, i⟩

/-- No freeze that stream w would have to wait for begins any more: the C of both seats have had their turn, or that of its own seat stops
behind a fault of w, with which no freeze begins together (R189; log 51). -/
def State.noFreezeBefore (s : State) (w : Who) : Bool :=
  let c := s.core[w.ref.core]
  c.settled || (!c.vpipe.undecided && !(s.getSeat (otherSeat w.ref)).cDue && s.faultsNow w && s.faultsBehind ⟨w.ref, .C⟩)

/-- Stream w can issue, and what it meets freezes the core (R36, R116). -/
def State.freezesNow (s : State) (w : Who) : Bool :=
  s.canIssue w && match State.issueHere { s with turn := w } with
    | .next t => t.core[w.ref.core].freeze.isSome
    | _ => false

/-- No C of the core issues in the core cycle in which the other seat's C freezes it (R36, R189). -/
def State.cMay (s : State) (w : Who) : Bool := !s.freezesNow ⟨otherSeat w.ref, .C⟩ || s.freezesNow w

/-- Stream w may issue in this core cycle (R18, R36, R189): a C unless the other seat's C freezes the core; K, L and S behind the C of both
seats (log 51); and one that faults behind a stream of lower SRC that faults too. -/
def State.mayIssue (s : State) (w : Who) : Bool :=
  s.canIssue w && (if w.stream = .C then s.cMay w else s.noFreezeBefore w) && !s.faultsBehind w

/-- Stream w of a core stands ready for a pipe that it has not asked for yet (R318). -/
def State.wouldAsk (s : State) (w : Who) (vector : Bool) : Bool :=
  let p (t : State) : Pipe := if vector then t.core[w.ref.core].vpipe else t.core[w.ref.core].port
  let asks (t : State) : Bool := (p t).reqs.any fun q => decide (q.1 = w.ref.seat) && decide (q.2.1 = w.stream)
  s.canIssue w && !asks s && match State.issueHere { s with turn := w } with | .next t => asks t | _ => false

/-- A pipe grants once every ready stream of its core has asked (R318). -/
def State.eventDue (s : State) (i : Instr) : Bool :=
  match i with
  | .pipeGrant c v => !([(0 : Fin 2), 1].any fun k => [StreamId.K, .L, .C, .S].any fun j => s.wouldAsk ⟨⟨c, k⟩, j⟩ v)
  | _ => true

/-- The act `issue`. -/
def State.issueAct (s : State) (w : Who) : Res :=
  if s.mayIssue w then State.issueHere { s with turn := w } else .next s

/-! ## Engine programs -/

/-- The program of a seat on an engine may run a word in this core cycle (R18, R158); a fault of the seat does not stop it (R289). -/
def State.mayWord (s : State) (r : SeatRef) (e : EngineId) : Bool :=
  let st := s.getSeat r
  !s.engineHeld r.core && s.core[r.core].settled && (s.portable r).isNone && !r.isSys && decide (st.inst.phase ≠ .free) &&
    decide (st.inst.phase ≠ .preempted) && (st.getEng e).running &&
    decide ((st.getEng e).stepped ≠ s.core[r.core].live + 1)

/-- What an engine program's fetch finds at word `pc` (R78, R287). -/
def Seat.fetchWord (st : Seat) (e : EngineId) (pc : Nat) : Fetched :=
  let a := st.wordAddr e pc
  if isWindow a then .fault ⟨.perm, 35, a, true⟩
  else match (st.getEng e).packets.find? fun q => decide (q.addr = packetOf a) with
    | none => .missing
    | some p =>
      match p.bad with
      | some c => .fault (fetchFlt c a)
      | none => .word ((p.data.extractLsb' (8 * (a.toNat % 64)) 16).setWidth 32)

/-- The packets of an engine program whose fetch failed are dropped. -/
def EngineCtx.dropBad (c : EngineCtx) : EngineCtx := { c with packets := c.packets.filter fun p => p.bad.isNone }

/-- A fetch fault of an engine program stops it and reaches its seat as one of class S (R78, R289); a seat that already stands Faulted
takes it when it is resumed (log 21). -/
def State.wordFetchFault (s : State) (f : Flt) : Res := (s.modMyEng EngineCtx.dropBad).stopProgram f

/-- The word is a LITX that reads the word after it: its operand is 0 and the stack has an entry (R76). -/
def State.pairs (s : State) (w : IWord) : Bool := fld w 10 6 = 1 && fld w 0 10 = 0 && !s.myEng.stack.isEmpty

/-- The engine program of `s.turn` and `s.turnE` runs the word at its index. -/
def State.wordHere (s : State) : Res :=
  let st := s.mySeat
  let e := s.turnE
  let pc := s.myEng.pc
  match st.fetchWord e pc with
  | .fault f => s.wordFetchFault f
  | .missing => .next (s.startFill s.turn.ref (st.wordAddr e pc))
  | .word w =>
    let run (next : Nat) : Res :=
      match exec ((decodeEngine e w.toNat next).getD (.undefinedEngineWord (w.setWidth 16))) s with
      | .next s' => .next (s.detectWord s' s.turn.ref e)
      | r => r
    if s.pairs w then
      match st.fetchWord e (pc + 1) with
      | .fault f => s.wordFetchFault f
      | .missing => .next (s.startFill s.turn.ref (st.wordAddr e (pc + 1)))
      | .word x => run x.toNat
    else run 0

/-- The act `word`. -/
def State.wordAct (s : State) (core : Fin 904) (e : EngineId) (seat : Fin 2) : Res :=
  let r : SeatRef := ⟨core, seat⟩
  if s.mayWord r e then State.wordHere { s with turn := ⟨r, .K⟩, turnE := e } else .next s

/-! ## Acts -/

/-- An event of the opcode table that can happen by itself: undefined encodings come up in `issue` and `word` only. -/
def happens (i : Instr) : Bool :=
  i.isEvent && match i with | .undefinedEncoding _ => false | .undefinedEngineWord _ => false | _ => true

/-- What record mode logs (R393): arrivals at the host port and the fabric ports, temperature, junction and power readings, and error
events. -/
def recorded (a : Act) : Bool :=
  match a with
  | .upset _ _ => true
  | .junction _ _ => true
  | .power _ => true
  | .bar0Read _ => true
  | .bar0Write _ _ => true
  | .ack _ => true
  | .remoteWake _ => true
  | .event (.doorbell _) => true
  | .event (.mailboxMessageWrite _ _ _) => true
  | .event (.lostClear _) => true
  | .event (.hostBar2Access _) => true
  | .event .unsupportedRequest => true
  | .event (.flitReceive _ _) => true
  | .event (.timebaseMarker _ _) => true
  | .event (.temperatureReading _ _) => true
  | .event (.mgmtRaise _) => true
  | .event (.mgmtLower _) => true
  | .event (.junctionOvertemp _) => true
  | _ => false

/-- Acts that a package with a device error (R407), or with its clocks stopped by the freeze line (R389), still answers: resets, and for
the freeze line its release. -/
def isReset (a : Act) : Bool :=
  match a with
  | .event .packageReset => true
  | .event .powerUp => true
  | .bar0Write o v => decide (bar0 o = .reset) && decide (fld v 0 32 = 1)
  | _ => false

/-- The act brings the answer of another package to a request (R319). -/
def State.fromFabric (s : State) (a : Act) : Bool :=
  match a with
  | .event (.landing r n) => (s.getSeat r).loads.any fun l => decide (l.kind = .slot n) && !l.place.isLocal
  | .event (.scalarAnswer w i) => (s.nthAnswer w i).any fun l => !l.place.isLocal
  | _ => false

/-- The act comes from outside the package, and is no reset, which begins a new run (R393; log 41). -/
def State.arrives (s : State) (a : Act) : Bool := !isReset a && (recorded a || s.fromFabric a)

/-- Record mode logs the act with its timebase ns (R393). -/
def State.record (s : State) (a : Act) : State := if s.arrives a then s.logItem (.act a) else s

/-- An event of the opcode table, where it can happen by itself. -/
def State.eventAct (s : State) (i : Instr) : Res := if happens i && s.eventDue i then exec i s else .next s

/-- The act `cycle`: a core cycle passes, the waiting elements of VMREDs go on (R222), and the seats' limits are looked at. -/
def State.coreCycle (s : State) (c : Fin 904) : State :=
  ((((s.cycleAct c).feedElems ⟨c, 0⟩).feedElems ⟨c, 1⟩).limits ⟨c, 0⟩).limits ⟨c, 1⟩

/-- What an act does (log 1). -/
def State.doAct (s : State) (a : Act) : Res :=
  match a with
  | .issue w => s.issueAct w
  | .word c e k => s.wordAct c e k
  | .event i => s.eventAct i
  | .cycle c => .next (s.coreCycle c)
  | .nanos n => .next (s.nanosAct n)
  | .move i => .next (s.moveFlight i)
  | .beat i => .next (s.beatFlight i)
  | .pass r i => .next (s.passReq r i)
  | .readBeat r i => .next (s.readBeat r i)
  | .remoteWake w => .next (match (s.getStr w).wait with | .board _ _ _ _ => s.remoteBoard w | _ => s.remoteWake w)
  | .slot n => .next (s.portSlot n)
  | .ack n => .next (s.portAck n)
  | .upset k h => .next (s.upset k h)
  | .piece c k => .next (s.pieceAct c k)
  | .ahead w => .next (s.ahead w)
  | .aheadWord c e k => .next (s.aheadWord c e k)
  | .shoot i c => .next (s.shootCore i c)
  | .shootAll i => .next (s.shootAll i)
  | .graph i => .next (s.graphAct i)
  | .unload d i => .next (s.unload d i)
  | .translate r i k => .next (s.translate r i k)
  | .strip r => s.stripAct r
  | .quadRetire n q => .next (s.retireQuad n q)
  | .merged l => .next (s.mergedAct l)
  | .row c k i => .next (s.rowAct c k i)
  | .jobRow i => .next (s.jobRowAct i)
  | .junction d c => .next (s.junctionAct d c)
  | .power w => .next { s with power := w }
  | .bar0Read o => .next (s.bar0ReadAct o)
  | .bar0Write o v => s.bar0WriteAct o v
  | .complete => .next s.completeAct
  | .streamLog => .next s.streamLog
  | .inject => .next s
  | .credit n => .next (s.creditAct n)

/-- The act `inject` (R393): replay mode performs the next event of its log once its time has come. -/
def State.injectAct (s : State) : Res :=
  match s.nextInject with
  | some ⟨t, .act a⟩ => if t ≤ s.timebase.toNat then State.doAct { s with replayLog := takeFirst RecEntry.isAct s.replayLog } a else .next s
  | _ => .next s

/-- One act: record mode logs what arrives from outside; in replay mode nothing arrives but what the log injects (R393). -/
def State.act (s : State) (a : Act) : Res :=
  if a = .inject then s.injectAct
  else if s.recCtl = 2 && s.arrives a then .next s
  else (s.record a).doAct a

/-- The step's act: the head of the agenda, or, when it is empty, the free choice for this step (log 1). -/
def State.nextAct (s : State) : Act := match s.agenda with | [] => Config.nextAct s.tick | a :: _ => a

/-- The state in which the step's act happens: its agenda entry used up, the step counted. -/
def State.turnPage (s : State) : State := { s with agenda := s.agenda.tail, tick := s.tick + 1 }

/-- One step of the package. -/
def State.stepAct (s : State) : Res :=
  let a := s.nextAct
  if s.stopped && !isReset a then .fault .deviceError
  else if s.freezeN && !isReset a && decide (a ≠ .event .freezeLineRelease) then .next s.turnPage
  else s.turnPage.act a

end Sys2Proof.Machine
end

