-- ==== Sys2Proof/Machine/Step.lean ====
section
/-!
DEFINITION. The step of the package (log 1), and a state about to run one instruction (log 2).
-/
namespace Sys2Proof.Machine

/-- One step: the act at the head of the agenda, or the free choice of this step (log 1). -/
def step (s : State) : Host.Outcome State Fault Refusal := s.stepAct

/-- The stream that runs a word first: the first of K, L, C, S that its major, minor and fields accept (R70, R73), else Y. -/
def wordStream (w : Nat) : Who :=
  let ok (c : SClass) : Bool :=
    majorAccepts (w / 2 ^ 26) c && (match decodeWord w with | some i => narrowAccepts i c | none => true)
  if ok .K then ⟨⟨0, 0⟩, .K⟩ else if ok .L then ⟨⟨0, 0⟩, .L⟩ else if ok .C then ⟨⟨0, 0⟩, .C⟩ else if ok .S then ⟨⟨0, 0⟩, .S⟩
  else ⟨⟨896, 0⟩, .K⟩

/-- Code stands outside the SRAM window (R78): an address in the window is replaced by the first one past it. -/
def codeBase (a : Word) : Word := if isWindow a then 0x200_0000_0000#64 else a

/-- The packet at the address of a word, holding the word and zeros (R64, R75, R78). -/
def wordPacket (a : Word) (w : Nat) : Packet := ⟨packetOf a, BitVec.ofNat 512 (w * 2 ^ (8 * (a.toNat % 64))), none⟩

/-- A stream that stands at a word of its packet buffer and may issue it. -/
def Stream.withWord (t : Stream) (w : Nat) : Stream :=
  { t with pc := codeBase t.pc, packets := [wordPacket (codeBase t.pc) w, ⟨packetOf (codeBase t.pc) + 64, 0, none⟩], halted := false, comma := none, wait := .none,
           lc := if t.act then 0 else t.lc, issued := 0 }

/-- A seat whose stream i stands at a word. -/
def Seat.withWord (st : Seat) (sys : Bool) (i : StreamId) (w : Nat) : Seat :=
  { st.modStr i (fun t => t.withWord w) with
    inst := { st.inst with phase := if sys then .free else .running, port := none },
    loads := st.loads.filter fun l => decide (l.stream ≠ i), elems := if i = .S then [] else st.elems,
    trap := { st.trap with info := if i = .K then st.trap.info else st.trap.info &&& ~~~4 },
    c := { st.c with held := false, ready := 0, done := true } }

/-- An engine program that stands at a word of its packet buffer; the words after it are 0. -/
def Seat.withEngineWord (st : Seat) (e : EngineId) (w : Nat) : Seat :=
  let pc := (st.getEng e).pc
  let a := codeBase (st.wordAddr e pc)
  { (st.modEng e fun c =>
      { c with packets := [wordPacket a w, ⟨packetOf a + 64, 0, none⟩], running := true, faulted := false, stepped := 0 }) with
    inst := { st.inst with phase := .running, port := none, ebase := st.inst.ebase.set e.idx (a - BitVec.ofNat 64 (2 * pc)) } }

/-- The core of the word runs, every stream has had its turn in this core cycle, and the pipes are granted to stream i of seat 0 (R318). -/
def Core.withGrant (c : Core) (i : StreamId) : Core :=
  { c with freeze := none,
           seat := c.seat.map fun (st : Seat) =>
             { st with c := { st.c with done := true }, str := st.str.map fun (t : Stream) => { t with issued := c.live + 1 } },
           vpipe := { c.vpipe with granted := some (0, i), decided := true },
           port := { c.port with granted := some (0, i), decided := true } }

/-- `s` with an instruction placed where the next step fetches: in the packet buffer (R78) of the stream or engine program that the next
act runs, which stands for the dispatch of a program that holds it there (log 2). -/
def State.withFetchWord (s : State) (nbits w : Nat) : State :=
  let s := { s with stopped := false, freezeN := false, die := s.die.map fun (d : Die) => { d with inReset := false, haltTo := 0 } }
  if nbits = 16 then
    let e := tableEngine w
    let s1 := s.setCore 0 (s.core[(0 : Fin 904)].withGrant .K)
    { (s1.modSeat ⟨0, 0⟩ fun st => st.withEngineWord e w) with agenda := .word 0 e 0 :: s.agenda }
  else
    let who := wordStream w
    let s1 := s.setCore who.ref.core (s.core[who.ref.core].withGrant who.stream)
    { (s1.modSeat who.ref fun st => st.withWord who.isY who.stream w) with agenda := .issue who :: s.agenda }

end Sys2Proof.Machine
end

