-- ==== Sys2Proof/Safety.lean ====
section
/-!
DEFINITION. The terms in which claims are stated: what a step leaves unchanged, how an instruction goes on, how a result is delivered,
and the invariants of a safe run.
-/
namespace Sys2Proof.Machine

/-! ## What is left unchanged -/

/-- The byte at a memory key. -/
def State.byteAt (s : State) (k : Nat) : Byte := Cells.read s.mem k

/-- Every byte of memory reads as before. -/
def SameBytes (s t : State) : Prop := ∀ k, t.byteAt k = s.byteAt k

/-- Nothing outside one core has changed. -/
def OnlyCore (c : Fin 904) (s t : State) : Prop :=
  { t with core := s.core } = s ∧ ∀ k, k ≠ c → t.core[k] = s.core[k]

/-- Nothing outside one seat has changed. -/
def OnlySeat (r : SeatRef) (s t : State) : Prop :=
  OnlyCore r.core s t ∧ { t.core[r.core] with seat := s.core[r.core].seat } = s.core[r.core] ∧
    ∀ k, k ≠ r.seat → t.core[r.core].seat[k] = s.core[r.core].seat[k]

/-- Of a stream nothing has changed but registers, interlocks and the sequencer. -/
structure KeepsStream (a b : Stream) : Prop where
  loopPc   : b.loopPc = a.loopPc
  stages   : b.stages = a.stages
  halted   : b.halted = a.halted
  passes   : b.passes = a.passes
  comma    : b.comma = a.comma
  packets  : b.packets = a.packets
  div      : b.div = a.div
  fwd      : b.fwd = a.fwd
  heard    : b.heard = a.heard
  fenced   : b.fenced = a.fenced
  lastPage : b.lastPage = a.lastPage

/-- Of a seat nothing has changed but stream i as `KeepsStream` says, queue registers, the position and content of C's pipeline, and RRB. -/
structure KeepsSeat (i : StreamId) (a b : Seat) : Prop where
  rest   : { b with str := a.str, q := a.q, c := a.c, vec := { b.vec with rrb := a.vec.rrb } } = a
  pipe   : { b.c with ready := a.c.ready, done := a.c.done, pipe := a.c.pipe } = a.c
  others : ∀ j, j ≠ i → b.getStr j = a.getStr j
  mine   : KeepsStream (a.getStr i) (b.getStr i)

/-- Nothing has changed but what `KeepsSeat` lets the running stream change. -/
structure Keeps (s t : State) : Prop where
  only  : OnlySeat s.turn.ref s t
  bytes : SameBytes s t
  seat  : KeepsSeat s.turn.stream s.mySeat t.mySeat

/-! ## Going on -/

/-- The running stream has issued in this core cycle and its sequencer stands as stream state `a` has it; `trip` tells that a trip of a
LOOP has ended, at which C turns its register names (R119, R120). -/
def Went (s t : State) (a : Stream) (trip : Bool) : Prop :=
  t.me.pc = a.pc ∧ t.me.lc = a.lc ∧ t.me.ps = a.ps ∧ t.me.repLeft = a.repLeft ∧ t.me.repStage = a.repStage ∧
    t.me.issued = s.now + 1 ∧ t.me.wait = .none ∧
    t.mySeat.vec.rrb = (if trip && s.isC then s.mySeat.vec.rrb + 1 else s.mySeat.vec.rrb)

/-- The running stream goes on in sequence. -/
def WentOn (s t : State) : Prop := Went s t s.me.advance.1 s.me.advance.2

/-! ## Results -/

/-- An entry has entered a queue: it stands behind those enqueued before it or in its own cycle, and before those enqueued later; the
others keep their order (R102, R178). -/
def Enqueued (old new : List QItem) (x : QItem) : Prop :=
  ∃ a b, old = a ++ b ∧ new = a ++ x :: b ∧ (∀ i ∈ a, i.at' ≤ x.at') ∧ ∀ i ∈ b.head?, x.at' < i.at'

/-- The running stream's registers are as before. -/
def SameRegs (s t : State) : Prop := (∀ n, t.me.rdX n = s.me.rdX n) ∧ t.me.p = s.me.p ∧ t.me.t = s.me.t

/-- The sources named have been read: a queue register loses one entry for each naming (R65, R102); `d` gets `v`, enqueued `lat` core
cycles after issue, unless the stream is C (R102). -/
def Queues (s t : State) (srcs : List SSpec) (d : Option SSpec) (lat : Nat) (v : VData) : Prop :=
  ∀ n : Fin 16,
    if !s.isC && decide (d = some (.q n)) then Enqueued (s.mySeat.q[n].items.drop (qCount n srcs)) t.mySeat.q[n].items ⟨v, s.now + lat⟩
    else t.mySeat.q[n].items = s.mySeat.q[n].items.drop (qCount n srcs)

/-- What a scalar result adds to C's pipeline (R33): nothing for x0. -/
def pipeEntry (clock lat : Nat) (d : SSpec) (v : Word) : List CPend :=
  match d with
  | .x n => if n = 0 then [] else [⟨clock + lat, .xreg n v⟩]
  | .q n => [⟨clock + lat, .queue n (v.setWidth 2048)⟩]

/-- An instruction of scalar sources `srcs` has delivered `v` to `d` and gone on: in K, L and S the register holds it (x0 keeps 0), under
interlock for `lat` core cycles (R103), or the queue register gets it after `lat` core cycles; in C it is due `latC` schedule cycles
after issue (R33). Everything else is as before. -/
def ScalarResult (s t : State) (srcs : List SSpec) (d : SSpec) (lat latC : Nat) (v : Word) : Prop :=
  Keeps s t ∧ WentOn s t ∧ t.me.p = s.me.p ∧ t.me.t = s.me.t ∧
    (∀ n, t.me.rdX n = if !s.isC && decide (d = .x n) && decide (n ≠ 0) then v else s.me.rdX n) ∧
    (∀ n, !s.isC → d = .x n → n ≠ 0 → 1 < lat → ⟨n.val, s.now + lat⟩ ∈ t.me.busy) ∧
    Queues s t srcs (some d) lat (v.setWidth 2048) ∧
    t.mySeat.c.pipe = s.mySeat.c.pipe ++ (if s.isC then pipeEntry s.mySeat.c.clock latC d v else [])

/-- An instruction of scalar sources `srcs` has delivered `v` to predicate pn (p0 stays true) and gone on: at once in K, L and S, two
schedule cycles after issue in C (R103). Everything else is as before. -/
def PredResult (s t : State) (srcs : List SSpec) (n : Fin 16) (v : Bool) : Prop :=
  Keeps s t ∧ WentOn s t ∧ (∀ m, t.me.rdX m = s.me.rdX m) ∧ t.me.t = s.me.t ∧
    (∀ m, t.me.rdP m = if !s.isC && decide (m = n) && decide (n ≠ 0) then v else s.me.rdP m) ∧
    Queues s t srcs none 0 0 ∧
    t.mySeat.c.pipe = s.mySeat.c.pipe ++ (if s.isC && decide (n ≠ 0) then [⟨s.mySeat.c.clock + 2, .preg n v⟩] else [])

/-- An instruction that writes no register of its stream: it has gone to stream state `a`. -/
def Moved (s t : State) (srcs : List SSpec) (a : Stream) (trip : Bool) : Prop :=
  Keeps s t ∧ Went s t a trip ∧ SameRegs s t ∧ Queues s t srcs none 0 0 ∧ t.mySeat.c.pipe = s.mySeat.c.pipe


/-! ## Completing -/

/-- Instruction `i` completes in state `s`: it answers a next state, and that state is as `P` says. -/
def Runs (i : Instr) (s : State) (P : State → Prop) : Prop := ∃ t, exec i s = .next t ∧ P t

/-- What a stream may do with the operands named, and that they are ready (R102, R177). -/
def Ready (s : State) (srcs dsts : List SSpec) : Prop := s.classOk srcs dsts = true ∧ s.blocked srcs dsts = none

/-- The two values that sources a and b supply: s1 is read before s2 (R102). -/
def State.two (s : State) (a b : SSpec) : Word × Word := (s.peek a, (s.take a).peek b)

/-- An instruction of two scalar sources computes `f` of them. -/
def TwoSource (op : SSpec → SSpec → SSpec → Instr) (lat latC : Nat) (f : Word → Word → Word) : Prop :=
  ∀ (s : State) (d a b : SSpec), Ready s [a, b] [d] →
    Runs (op d a b) s fun t => ScalarResult s t [a, b] d lat latC (f (s.two a b).1 (s.two a b).2)

/-- An instruction of one scalar source computes `f` of it. -/
def OneSource (op : SSpec → SSpec → Instr) (lat latC : Nat) (f : Word → Word) : Prop :=
  ∀ (s : State) (d a : SSpec), Ready s [a] [d] → Runs (op d a) s fun t => ScalarResult s t [a] d lat latC (f (s.peek a))

/-- An instruction that gives a target register a value and has started a fill (R113, R114) has gone on. -/
def SameTargets (s t : State) (n : Fin 8) (v : Word) : Prop :=
  ∀ m : Fin 8, t.me.t[m] = if !s.isC && decide (m = n) then v else s.me.t[m]

/-- `Moved`, but that the part of the running stream which `put` puts back has changed. -/
def MovedBut (put : Stream → Stream) (s t : State) (srcs : List SSpec) (a : Stream) (trip : Bool) : Prop :=
  Moved s (t.modMe put) srcs a trip

/-- Of the stacks nothing has changed but their error tables and error counts (R230). -/
def SameStacks (s t : State) : Prop :=
  ∀ k : Fin 24, { t.stack[k] with
    recent := s.stack[k].recent, table := s.stack[k].table, next := s.stack[k].next, ueCount := s.stack[k].ueCount,
    ceCount := s.stack[k].ceCount, bankErr := s.stack[k].bankErr } = s.stack[k]

/-- A fill of the packet at `a` is on its way for the running seat; beside it, the running seat and the errors met in the stacks, nothing
has changed (R78, R79). -/
structure FillFor (s t : State) (a : Word) : Prop where
  rest   : { t with core := s.core, die := s.die, stack := s.stack, seq := s.seq } = s
  errors : SameStacks s t
  cores  : ∀ k, k ≠ s.turn.ref.core → t.core[k] = s.core[k]
  mine   : { t.core[s.turn.ref.core] with seat := s.core[s.turn.ref.core].seat } = s.core[s.turn.ref.core]
  seats  : ∀ k, k ≠ s.turn.ref.seat → t.core[s.turn.ref.core].seat[k] = s.core[s.turn.ref.core].seat[k]
  dies   : ∀ k, k ≠ coreDie s.turn.ref.core → t.die[k] = s.die[k]
  die    : { t.die[coreDie s.turn.ref.core] with
               fills := s.die[coreDie s.turn.ref.core].fills, ftlb := s.die[coreDie s.turn.ref.core].ftlb,
               icache := s.die[coreDie s.turn.ref.core].icache } = s.die[coreDie s.turn.ref.core]
  kept   : ∃ l, t.die[coreDie s.turn.ref.core].fills = s.die[coreDie s.turn.ref.core].fills ++ l
  begun  : ∃ f ∈ t.die[coreDie s.turn.ref.core].fills, f.pkt.addr = packetOf a ∧ f.root = s.mySeat.sys.xlatRoot ∧ f.q = s.mySeat.inst.q ∧
             f.task = s.mySeat.inst.task ∧ f.sys = s.turn.ref.isSys
  bytes  : SameBytes s t
  seat   : KeepsSeat s.turn.stream s.mySeat t.mySeat

/-! ## Vector results -/

/-- The landing slots named by the sources have their data, without error (R36, R181). -/
def SlotsGood (s : State) (srcs : List VSrc) : Prop :=
  ∀ n, VSrc.ln n ∈ srcs → s.mySeat.ln[n].state ≠ 1 ∧ s.mySeat.ln[n].err = false

/-- A C instruction has gone on with `ws` added to C's pipeline; it has read the landing slots among `srcs`, which are FREE from now on
(R180), with the marks of LSTAT; nothing else has changed. -/
structure VectorWent (s t : State) (srcs : List VSrc) (ws : List CPend) : Prop where
  only   : OnlySeat s.turn.ref s t
  bytes  : SameBytes s t
  rest   : { t.mySeat with
               str := s.mySeat.str, ln := s.mySeat.ln, c := s.mySeat.c,
               trap := { t.mySeat.trap with lstat := s.mySeat.trap.lstat }, vec := { t.mySeat.vec with rrb := s.mySeat.vec.rrb } } = s.mySeat
  sched  : { t.mySeat.c with ready := s.mySeat.c.ready, done := s.mySeat.c.done, pipe := s.mySeat.c.pipe } = s.mySeat.c
  pipe   : t.mySeat.c.pipe = s.mySeat.c.pipe ++ ws
  slots  : ∀ n, t.mySeat.ln[n] = if VSrc.ln n ∈ srcs then { s.mySeat.ln[n] with state := 0 } else s.mySeat.ln[n]
  empty  : bit t.mySeat.trap.lstat 0 =
             (bit s.mySeat.trap.lstat 0 || (List.finRange 64).any fun n => decide (VSrc.ln n ∈ srcs) && decide (s.mySeat.ln[n].state = 0))
  early  : bit t.mySeat.trap.lstat 1 =
             (bit s.mySeat.trap.lstat 1 || (List.finRange 64).any fun n => decide (VSrc.ln n ∈ srcs) && s.mySeat.ln[n].early s.mySeat.sched)
  others : ∀ j, j ≠ s.turn.stream → t.mySeat.getStr j = s.mySeat.getStr j
  mine   : KeepsStream s.me t.me
  regs   : SameRegs s t
  went   : WentOn s t

/-- Of the lanes i < n of width w, `mask` holds exactly the bits of those for which `act` holds, and each of these is `val i` in `data`. -/
def LanesAre (w n : Nat) (act : Nat → Bool) (val : Nat → Nat) (data mask : VData) : Prop :=
  (∀ b < 2048, mask.getLsbD b = (decide (b / w < n) && act (b / w))) ∧
    ∀ i < n, w * (i + 1) ≤ 2048 → act i = true → lane data w i = val i % 2 ^ w

/-- The bits of VSTAT that the active lanes meet (R130). -/
def FlagsAre (n : Nat) (act : Nat → Bool) (fl : Nat → FFlags) (flags : FFlags) : Prop :=
  ∀ k < 8, flags.getLsbD k = (List.range n).any fun i => act i && (fl i).getLsbD k

/-- A vector instruction has issued: `lat` schedule cycles later its active lanes take their values in the register that `d` denotes at
issue, with its tag, and VSTAT the bits met (R120, R126, R130, R133); `more` is what else is due then. -/
def VectorWrites (s t : State) (srcs : List VSrc) (lat : Nat) (d : Fin 32) (tag : Fin 16) (w n : Nat) (act : Nat → Bool)
    (val : Nat → Nat) (fl : Nat → FFlags) (more : List CWrite) : Prop :=
  ∃ data mask flags, LanesAre w n act val data mask ∧ FlagsAre n act fl flags ∧
    VectorWent s t srcs ((CWrite.vreg (physV s.mySeat.vec.rrb d) data mask (some tag) ::
      ((if flags = 0 then [] else [CWrite.vstat flags]) ++ more)).map fun x => CPend.mk (s.mySeat.c.clock + lat) x)

/-- A comparison has issued: two schedule cycles later all of mask register kd is written (R138). -/
def MaskWrites (s t : State) (srcs : List VSrc) (kd : Fin 8) (f : Nat → Bool) : Prop :=
  ∃ bits : BitVec 256, (∀ i < 256, bits.getLsbD i = f i) ∧
    VectorWent s t srcs [⟨s.mySeat.c.clock + 2, .kreg kd bits (BitVec.allOnes 256)⟩]

/-- A floating instruction of two sources and the destination: each active lane is the exact result `f`, rounded once (R135, R137). -/
def FloatOp (op : FpArgs → Instr) (useD : Bool) (f : FpArgs → FVal → FVal → FVal → FVal) : Prop :=
  ∀ (s : State) (g : FpArgs), SlotsGood s [g.a, g.b] →
    (g.raw = true ∨ s.tagOk g.a (fpTag g.t) = true ∧ s.tagOk g.b (fpTag g.t) = true ∧
      (useD = true → s.tagOk (.v g.d) (fpTag g.t) = true)) →
    Runs (op g) s fun t =>
      let x (v : VSrc) (i : Nat) : FVal := (fpFmt g.t).dec g.ftz (lane (s.vread v) (fpW g.t) i)
      let r (i : Nat) := opRound (fpFmt g.t) g.r g.ftz (f g (x g.a i) (x g.b i) (x (.v g.d) i))
      VectorWrites s t [g.a, g.b] 4 g.d (fpTag g.t) (fpW g.t) (s.lanes (fpW g.t)) (s.masked g.k) (fun i => (r i).1) (fun i => (r i).2) []

/-- A floating instruction of one source: each active lane is `f` of the source's bits. -/
def FloatUnary (op : FpUnArgs → Instr) (lat : Nat) (tag : FpType → Fin 16) (f : FpUnArgs → Nat → Nat × FFlags) : Prop :=
  ∀ (s : State) (g : FpUnArgs), SlotsGood s [g.a] → (g.raw = true ∨ s.tagOk g.a (fpTag g.t) = true) →
    Runs (op g) s fun t =>
      let r (i : Nat) := f g (lane (s.vread g.a) (fpW g.t) i)
      VectorWrites s t [g.a] lat g.d (tag g.t) (fpW g.t) (s.lanes (fpW g.t)) (s.masked g.k) (fun i => (r i).1) (fun i => (r i).2) []

/-- Element i of width w of a vector source, as an integer of the signedness given. -/
def State.elem (s : State) (v : VSrc) (w : Nat) (sgn : Bool) (i : Nat) : Int :=
  let u := lane (s.vread v) w i
  if sgn && decide (2 ^ (w - 1) ≤ u) then (u : Int) - 2 ^ w else u

/-- The least and the greatest value of an integer type (R81). -/
def intRange (w : Nat) (sgn : Bool) : Int × Int := if sgn then (-2 ^ (w - 1), 2 ^ (w - 1) - 1) else (0, 2 ^ w - 1)

/-- An exact integer as w bits: modulo 2^w, or clamped first with .sat (R81). -/
def narrowed (w : Nat) (sgn sat : Bool) (x : Int) : Nat :=
  ((if sat then max (intRange w sgn).1 (min (intRange w sgn).2 x) else x) % 2 ^ w).toNat

/-- SAT is met when .sat clamps (R130). -/
def satMet (w : Nat) (sgn sat : Bool) (x : Int) : FFlags :=
  if sat && (decide (x < (intRange w sgn).1) || decide ((intRange w sgn).2 < x)) then 32 else 0

/-- An integer instruction of two sources: the exact result, wrapped or clamped (R139). -/
def IntegerOp (op : IntSatArgs → Instr) (lat : Nat) (f : Int → Int → Int) : Prop :=
  ∀ (s : State) (g : IntSatArgs), SlotsGood s [g.a, g.b] →
    (g.raw = true ∨ s.tagOk g.a (laneTag (intLane g.t)) = true ∧ s.tagOk g.b (laneTag (intLane g.t)) = true) →
    Runs (op g) s fun t =>
      let w := laneW (intLane g.t)
      let sg := intSigned g.t
      let x (i : Nat) : Int := f (s.elem g.a w sg i) (s.elem g.b w sg i)
      VectorWrites s t [g.a, g.b] lat g.d (laneTag (intLane g.t)) w (s.lanes w) (s.masked g.k)
        (fun i => narrowed w sg g.sat (x i)) (fun i => satMet w sg g.sat (x i)) []

/-- A typed instruction of major 43 (R141): `f` gets the lane width, the signedness and the two lanes as natural numbers. -/
def LaneOp (op : IntArgs → Instr) (typed : Bool) (f : Nat → Bool → Nat → Nat → Nat) : Prop :=
  ∀ (s : State) (g : IntArgs), SlotsGood s [g.a, g.b] →
    (typed = true → s.tagOk g.a (laneTag (intLane g.t)) = true ∧ s.tagOk g.b (laneTag (intLane g.t)) = true) →
    Runs (op g) s fun t =>
      let w := laneW (intLane g.t)
      VectorWrites s t [g.a, g.b] 2 g.d (if typed then laneTag (intLane g.t) else s.vtag g.a) w (s.lanes w) (s.masked g.k)
        (fun i => f w (intSigned g.t) (lane (s.vread g.a) w i) (lane (s.vread g.b) w i)) (fun _ => 0) []

/-- A data movement (R142): lane i from the lane count, i, and the lanes of va, vb and vd. -/
def MoveOp (op : MoveArgs → Instr) (f : Nat → Nat → (Nat → Nat) → (Nat → Nat) → (Nat → Nat) → Nat) : Prop :=
  ∀ (s : State) (g : MoveArgs), SlotsGood s [g.a, g.b] →
    Runs (op g) s fun t =>
      let w := laneW g.w
      VectorWrites s t [g.a, g.b] 3 g.d (s.vtag g.a) w (s.lanes w) (s.masked g.k)
        (fun i => f (s.lanes w) i (lane (s.vread g.a) w) (lane (s.vread g.b) w) (lane (s.vread (.v g.d)) w)) (fun _ => 0) []

/-! ## Accesses -/

/-- A memory instruction has gone on: beside the queues of memory requests, landing slots, TLBs and event counters of its seat, the errors
that the walk of its address met in the stacks (R230) and what the walk's reads acquire (R348), nothing has changed but what every instruction changes, and no byte of
memory. -/
structure AccessWent (s t : State) (srcs : List SSpec) : Prop where
  rest   : { t with core := s.core, stack := s.stack, seq := s.seq } = s
  cores  : ∀ k, k ≠ s.turn.ref.core → t.core[k] = s.core[k]
  mine   : { t.core[s.turn.ref.core] with seat := s.core[s.turn.ref.core].seat } = s.core[s.turn.ref.core]
  seats  : ∀ k, k ≠ s.turn.ref.seat → t.core[s.turn.ref.core].seat[k] = s.core[s.turn.ref.core].seat[k]
  errors : SameStacks s t
  seat   : { t.mySeat with
               str := s.mySeat.str, q := s.mySeat.q, c := s.mySeat.c, ln := s.mySeat.ln, loads := s.mySeat.loads,
               stores := s.mySeat.stores, sideLog := s.mySeat.sideLog, tlbK := s.mySeat.tlbK, tlbL := s.mySeat.tlbL,
               tlbS := s.mySeat.tlbS, vec := { t.mySeat.vec with rrb := s.mySeat.vec.rrb },
               sys := { t.mySeat.sys with perfCnt := s.mySeat.sys.perfCnt, perfNow := s.mySeat.sys.perfNow } } = s.mySeat
  sched  : { t.mySeat.c with ready := s.mySeat.c.ready, done := s.mySeat.c.done } = s.mySeat.c
  others : ∀ j, j ≠ s.turn.stream → t.mySeat.getStr j = s.mySeat.getStr j
  stream : KeepsStream s.me { t.me with lastPage := s.me.lastPage, fwd := s.me.fwd, heard := s.me.heard }
  regs   : SameRegs s t
  queues : Queues s t srcs none 0 0
  went   : WentOn s t

/-- One request has entered the load queue (R207 to R209). -/
def Requested (s t : State) (k : LoadKind) (p : Place) (va : Word) (size : Nat) (y : Fin 32) (acq : Option Scope) (fwd : Option VData) : Prop :=
  t.mySeat.stores = s.mySeat.stores ∧ t.mySeat.sideLog = s.mySeat.sideLog ∧
  t.mySeat.loads = s.mySeat.loads ++
    [{ seq := s.seq, stream := s.turn.stream, kind := k, place := p, va := va, size := size, sym := y, b := s.mySeat.lex[y].b.toNat,
       issued := s.myCore.cycle, site := s.me.site, inHandler := s.mySeat.trap.active, conj := s.myConj, acq := acq, way := none,
       beats := 0, part := ⟨.ok, 0, false⟩, got := fwd.map fun v => ⟨.ok, v, true⟩, missing := none, hint := none, full := false }]

/-- A landing load has gone on: its slot is PENDING, named for the schedule time plus the binding of its symbol (R35, R207). -/
def LandingIssued (s t : State) (n : Fin 64) (p : Place) (va : Word) (size : Nat) (y : Fin 32) (vec : Bool)
    (acq : Option Scope) : Prop :=
  AccessWent s t [] ∧ Requested s t (.slot n) p va size y acq none ∧
  ∀ k, t.mySeat.ln[k] = if k = n then
      { data := 0, named := BitVec.ofNat 40 (s.mySeat.sched + s.mySeat.lex[y].b.toNat), sym := y, drst := false, scalar := !vec,
        err := false, state := 1 }
    else s.mySeat.ln[k]

/-- A scalar load has gone on (R208). -/
def ScalarLoadIssued (s t : State) (d : SSpec) (p : Place) (va : Word) (size : Nat) (acq : Option Scope) : Prop :=
  AccessWent s t [] ∧ t.mySeat.ln = s.mySeat.ln ∧
  Requested s t (.scalar d) p va size 0 acq (s.mySeat.forwarded s.turn.stream s.seq p size)

/-- A store or reduction has gone on: an entry of the store queue (`joins` false) or of the side log holds its address, size and the
data given by `bits` (R209, R213); no byte of memory has changed yet. -/
def StoreIssued (s t : State) (srcs : List SSpec) (k : WKind) (kind : Fin 8) (va : Word) (size : Nat) (bits : Nat → Bool)
    (rel : Option Scope) (hint : Option (Fin 8)) (joins : Bool) (p : Place) : Prop :=
  AccessWent s t srcs ∧ t.mySeat.ln = s.mySeat.ln ∧ t.mySeat.loads = s.mySeat.loads ∧
  ∃ data : VData, (∀ b < 2048, data.getLsbD b = (decide (b < 8 * size) && bits b)) ∧
    if joins then
      t.mySeat.stores = s.mySeat.stores ∧ ∃ e : LogEntry, t.mySeat.sideLog = s.mySeat.sideLog ++ [e] ∧ e.kind = kind ∧
        e.src = s.turn.stream ∧ e.size = size ∧ e.rel = rel ∧ e.hint = hint ∧ e.va = va ∧ e.data = data ∧ e.seq = s.seq ∧ e.conj = s.myConj
    else
      t.mySeat.sideLog = s.mySeat.sideLog ∧ t.mySeat.stores = s.mySeat.stores ++
        [{ seq := s.seq, stream := s.turn.stream, kind := k, place := p, va := va, size := size, data := data,
           issued := s.myCore.cycle, conj := s.myConj, rel := rel, hint := hint }]

/-- Stream w has gone on from an instruction in which it waited. -/
def MovedAs (w : Who) (s t : State) (srcs : List SSpec) : Prop :=
  t.turn = s.turn ∧ Moved { s with turn := w } { t with turn := w } srcs (s.getStr w).advance.1 (s.getStr w).advance.2

/-- The monitor wait of stream w has ended with pn = `v` (R223): it has no monitor and no request for one any longer, and it goes on. -/
def WaitEnds (w : Who) (s t : State) (srcs : List SSpec) (n : Fin 16) (v : Bool) : Prop :=
  t.turn = s.turn ∧ (∀ m ∈ t.monitors, m.who ≠ w) ∧
    PredResult { s with turn := w }
      (State.modMySeat { t with turn := w, monitors := s.monitors } fun a => { a with loads := (s.getSeat w.ref).loads }) srcs n v

/-- Element i of width w of the entry at the head of queue n, as a signed integer. -/
def State.elem' (s : State) (n : Fin 16) (w i : Nat) : Int := (BitVec.ofNat w (lane s.mySeat.q[n].head w i)).toInt

/-- But for the note that core c has met a wait in this core cycle (R386). -/
def State.unmet (s t : State) (c : Fin 904) : State := t.setCore c { t.core[c] with metAt := s.core[c].metAt }

/-! ## Faults -/

/-- Stream j as a fault of source `src` stops it (R189): behind a load that it has issued and that is held on a missing page, when another
agent faults (R212); else where it stands. -/
def Seat.stopsAt (a : Seat) (src : Nat) (j : StreamId) : Stream :=
  match (a.getStr j).wait with
  | .held _ _ => if j ≠ .C ∧ j.idx.val ≠ src ∧ (a.heldReq j).isSome then (a.getStr j).advance.1 else a.getStr j
  | _ => a.getStr j

/-! ## Engine words -/

/-- The running engine word has executed in sequence with parameter stack `l`; nothing else has changed (R158, R159). -/
def State.stackIs (s : State) (l : List Word) : State :=
  s.modMyEng fun c => { c with stack := l, pc := c.pc + 1, stepped := s.now + 1 }

/-- The running engine word is left unexecuted and its program stops; the fault reaches the seat with SRC 4 + e and the word's address
(R158, R289). -/
def WordFaults (i : Instr) (s : State) (c : Cause) (detail : Nat) : Prop :=
  s.mySeat.inst.phase ≠ .faulted → exec i s =
    .next ((s.modMyEng fun x => { x with running := false, faulted := true }).takeFault s.turn.ref
      ⟨c, detail, s.mySeat.inst.ebase[s.turnE.idx] + BitVec.ofNat 64 (2 * s.myEng.pc), false⟩ (4 + s.turnE.idx.val))

/-- The next accession number of a core: the visible 0 is never given (R278). -/
def Core.nextAcc (c : Core) : Word := if fld c.accNext 0 32 = 0 then c.accNext + 1 else c.accNext

/-- A launch word has placed its command (R277 to R280, R282): `n` arguments are popped, the command stands last in the queue with the next
accession number, the pending attributes are used up, a flag it sets holds the number as PUSHED, and with NOTE the return queue has it. -/
structure Placed (s t : State) (i : Instr) (n bind : Nat) : Prop where
  rest   : { t with core := s.core } = s
  cores  : ∀ k, k ≠ s.turn.ref.core → t.core[k] = s.core[k]
  mine   : { t.myCore with seat := s.myCore.seat, flags := s.myCore.flags, accNext := s.myCore.accNext } = s.myCore
  seats  : ∀ k, k ≠ s.turn.ref.seat → t.myCore.seat[k] = s.myCore.seat[k]
  seat   : { t.mySeat with eng := s.mySeat.eng, q := s.mySeat.q } = s.mySeat
  others : ∀ e, e ≠ s.turnE → t.mySeat.getEng e = s.mySeat.getEng e
  number : t.myCore.accNext = s.myCore.nextAcc + 1
  ctx    : ∃ c : Cmd, t.myEng = { s.myEng with
             stack := s.myEng.stack.drop n, attrs := Attrs.reset, queue := s.myEng.queue ++ [c],
             lastAcc := s.myCore.nextAcc.setWidth 32, full := false, pc := s.myEng.pc + 1, stepped := s.now + 1 } ∧
           c.acc = s.myCore.nextAcc.setWidth 32 ∧ c.opc.val = encode i / 2 ^ 10 % 32 ∧ c.opnd = BitVec.ofNat 10 (encode i) ∧
           c.attr = s.myEng.attrs ∧ c.args = s.myEng.stack.take n ∧ c.met = false ∧ c.started = false ∧ c.moved = false ∧
           c.placedAt = s.myCore.cycle ∧ c.bind = bind
  flags  : ∀ f, t.myCore.flags[f] =
             if s.myEng.attrs.s && decide (f = s.myEng.attrs.sflag) then
               { s.myCore.flags[f] with kind := s.turnE.idx.castSucc, pushed := s.myCore.nextAcc.setWidth 32 }
             else s.myCore.flags[f]
  note   : ∀ k : Fin 16,
             if s.myEng.attrs.note && decide (k = returnQueue s.turnE) then
               Enqueued s.mySeat.q[k].items t.mySeat.q[k].items ⟨(s.myCore.nextAcc.setWidth 32).setWidth 2048, s.now⟩
             else t.mySeat.q[k].items = s.mySeat.q[k].items

/-- A launch word of `n` arguments, with room in its queue, when K's accesses wait for nothing (R210, R252), its arguments on the stack, no
wait for a number not yet pushed (R284) and, with NOTE, room in the return queue, places its command. -/
def Places (i : Instr) (n : State → Nat) (bind : State → Nat) : Prop :=
  ∀ s : State, s.myEng.queue.length < 16 → s.gated = false → n s ≤ s.myEng.stack.length →
    (s.myEng.attrs.w = true → s.myEng.attrs.wacc = 0 ∨ s.myEng.attrs.wacc = s.myCore.flags[s.myEng.attrs.wflag].pushed ∨
      accFollows s.myEng.attrs.wacc s.myCore.flags[s.myEng.attrs.wflag].pushed = true) →
    (s.myEng.attrs.note = true → s.mySeat.qRoom (returnQueue s.turnE) s.now 1 = true) →
    Runs i s fun t => Placed s t i (n s) (bind s)

/-- A launch word of a unit that only the parts of `has` have: there it places its command, as `Places` says; elsewhere it raises UNDEF_OP,
detail ABSENT, when it is placed (R168, R170, R237). -/
def PlacesOn (has : Part → Bool) (i : Instr) (n : State → Nat) (bind : State → Nat) : Prop :=
  ∀ s : State, s.myEng.queue.length < 16 → s.gated = false → (has s.fuse.part = false → WordFaults i s .undefOp 13) ∧
    (has s.fuse.part = true → n s ≤ s.myEng.stack.length →
      (s.myEng.attrs.w = true → s.myEng.attrs.wacc = 0 ∨ s.myEng.attrs.wacc = s.myCore.flags[s.myEng.attrs.wflag].pushed ∨
        accFollows s.myEng.attrs.wacc s.myCore.flags[s.myEng.attrs.wflag].pushed = true) →
      (s.myEng.attrs.note = true → s.mySeat.qRoom (returnQueue s.turnE) s.now 1 = true) →
      Runs i s fun t => Placed s t i (n s) (bind s))

/-! ## Events -/

/-- Nothing outside one die has changed. -/
def OnlyDie (d : Fin 8) (s t : State) : Prop := { t with die := s.die } = s ∧ ∀ k, k ≠ d → t.die[k] = s.die[k]

/-- Nothing outside one launch queue has changed. -/
def OnlyQueue (q : Fin 512) (s t : State) : Prop :=
  OnlyDie (qDie q) s t ∧ { t.die[qDie q] with lq := s.die[qDie q].lq } = s.die[qDie q] ∧ ∀ r, r ≠ q → t.lq r = s.lq r

/-- The front end has stopped queue q (R309): STOPPED is 1, ERR has the code, ERR_INDEX the head; ring and pointers are as before. -/
def Stopped (q : Fin 512) (err : Nat) (s t : State) : Prop :=
  OnlyQueue q s t ∧ (t.lq q).ring = (s.lq q).ring ∧ (t.lq q).ptr = (s.lq q).ptr ∧ (t.lq q).stopped = true ∧
    fld (t.lq q).ctl 20 4 = err ∧ fld (t.lq q).ctl 32 32 = (s.lq q).head' ∧
    ∀ i < 32, i ≠ 11 → (i < 20 ∨ 24 ≤ i) → bit (t.lq q).ctl i = bit (s.lq q).ctl i

/-- The home of a window address lies in this package and answers (R200, R203). -/
def HomeUp (s : State) (a : Nat) : Prop :=
  (windowHome a).pkg = Config.thisPackage ∧ s.dieUsable (windowHome a).die = true ∧ s.dieInReset (windowHome a).die = false

/-- A board instruction finds its operands, the rights, and a board of this package at p, behind no write on its way, that admits its
caller (R251, R332, R333, R335). -/
def BoardReady (s : State) (srcs : List SSpec) (d : SSpec) (rt : Right) (p : Place) : Prop :=
  let va := s.peek (srcs.headD (.x 0))
  Ready s srcs [d] ∧ s.gated = false ∧ inBoardRegion va.toNat = true ∧ isWindow va = true ∧
    s.check s.turn va 64 rt false false = (.ok p, s) ∧ s.answer p 64 true = .ok ∧ p.isLocal = true ∧
    s.drained p va (64 + 16 * (s.boardHdr va.toNat).slots) = true ∧
    (s.boardHdr va.toNat).refuses (some (callerDie s.turn)) = none

/-- But for what the running stream has acquired (R253). -/
def State.unheard (s t : State) : State := t.modMe fun x => { x with fwd := s.me.fwd, heard := s.me.heard }

/-- A board instruction has delivered a value and BSTATUS (R330). -/
def BoardResult (s t : State) (srcs : List SSpec) (d : SSpec) (code : Nat) (v : Word) : Prop :=
  ScalarResult (s.setBstatus code) t srcs d 1 2 v

end Sys2Proof.Machine
end

