-- ==== Sys2Proof/Certificates/Slice0/Obligations.lean ====
section
/-!
DEFINITION. The statements for the provers, family by family; each says in its docstring which rules of spec/ it states.
-/
open Sys2Proof Sys2Proof.Machine

/-! ## Integer, compare and predicate instructions -/

/-- R104: the two-source integer instructions, with the timing of R103; the sources as n64 (`toNat`) or i64 (`toInt`). ADD, SUB, MUL, MULH,
AND, OR, XOR, ANDN, SHL, SHR, SRA, ROTR, MIN and MAX complete. -/
def Obligations.TwoSourceIntegers : Prop :=
  TwoSource .add 1 2 (fun a b => BitVec.ofNat 64 (a.toNat + b.toNat)) ∧
  TwoSource .sub 1 2 (fun a b => BitVec.ofInt 64 (a.toInt - b.toInt)) ∧
  TwoSource .mul 3 4 (fun a b => BitVec.ofNat 64 (a.toNat * b.toNat)) ∧
  TwoSource .mulh 3 4 (fun a b => BitVec.ofInt 64 (a.toInt * b.toInt / 2 ^ 64)) ∧
  TwoSource .and 1 2 (fun a b => a &&& b) ∧
  TwoSource .or 1 2 (fun a b => a ||| b) ∧
  TwoSource .xor 1 2 (fun a b => a ^^^ b) ∧
  TwoSource .andn 1 2 (fun a b => a &&& ~~~b) ∧
  TwoSource .shl 1 2 (fun a b => BitVec.ofNat 64 (a.toNat * 2 ^ (b.toNat % 64))) ∧
  TwoSource .shr 1 2 (fun a b => BitVec.ofNat 64 (a.toNat / 2 ^ (b.toNat % 64))) ∧
  TwoSource .sra 1 2 (fun a b => BitVec.ofInt 64 (a.toInt / 2 ^ (b.toNat % 64))) ∧
  TwoSource .rotr 1 2 (fun a b => BitVec.ofNat 64 (a.toNat / 2 ^ (b.toNat % 64) + a.toNat * 2 ^ (64 - b.toNat % 64))) ∧
  TwoSource .min 1 2 (fun a b => if a.toInt < b.toInt then a else b) ∧
  TwoSource .max 1 2 (fun a b => if a.toInt > b.toInt then a else b)

/-- R104, R107, R108, R109: the instructions of one source and an immediate, the bit-field instructions, LIMM and SCALE; INS and a LIMM of
quarter 1 to 3 read their destination. CLZ, POPC, EXT, INS, ADDI, ANDI, ORI, XORI, LIMM and SCALE complete. -/
def Obligations.OneSourceIntegers : Prop :=
  (∀ i : BitVec 11,
    OneSource (.addi · · i) 1 2 (fun a => BitVec.ofInt 64 (a.toInt + i.toInt)) ∧
    OneSource (.andi · · i) 1 2 (fun a => a &&& BitVec.ofInt 64 i.toInt) ∧
    OneSource (.ori · · i) 1 2 (fun a => a ||| BitVec.ofInt 64 i.toInt) ∧
    OneSource (.xori · · i) 1 2 (fun a => a ^^^ BitVec.ofInt 64 i.toInt) ∧
    ∀ sh : Fin 8, OneSource (.scale · · i sh) 3 4 (fun a => BitVec.ofInt 64 (a.toInt * i.toInt * 2 ^ sh.val))) ∧
  OneSource .clz 1 2 (fun a => BitVec.ofNat 64 (((List.range 65).find? fun n => decide (a.toNat < 2 ^ n)).elim 0 (64 - ·))) ∧
  OneSource .popc 1 2 (fun a => BitVec.ofNat 64 ((List.range 64).countP fun n => a.getLsbD n)) ∧
  (∀ pos len : Fin 64,
    OneSource (.ext · · pos len) 1 2 (fun a => BitVec.ofNat 64 (a.toNat / 2 ^ pos.val % 2 ^ (len.val + 1))) ∧
    (pos.val + len.val + 1 ≤ 64 → ∀ (s : State) (d : Fin 32) (a : SSpec), Ready s [a, .x d] [.x d] →
      Runs (.ins (.x d) a pos len) s fun t => ∃ v : Word, ScalarResult s t [a, .x d] (.x d) 1 2 v ∧
        ∀ k < 64, v.getLsbD k = if pos.val ≤ k ∧ k < pos.val + len.val + 1 then (s.peek a).getLsbD (k - pos.val)
          else (s.me.rdX d).getLsbD k)) ∧
  (∀ (v16 : BitVec 16) (s : State) (d : SSpec), Ready s [] [d] →
    Runs (.limm d v16 0) s fun t => ScalarResult s t [] d 1 2 (BitVec.ofNat 64 v16.toNat)) ∧
  ∀ (v16 : BitVec 16) (h : Fin 4) (s : State) (d : Fin 32), h ≠ 0 → Ready s [.x d] [.x d] →
    Runs (.limm (.x d) v16 h) s fun t => ∃ v : Word, ScalarResult s t [.x d] (.x d) 1 2 v ∧
      ∀ k < 64, v.getLsbD k = if k / 16 = h.val then v16.getLsbD (k % 16) else (s.me.rdX d).getLsbD k

/-- R106: DIV and REM truncate towards zero, with a zero divisor and the overflow case as its table has them; the divider is held for 18 +
Ceil(nq / 4) core cycles, 18 in those cases. Nothing else of the stream but its place and its sources changes. R106: once its cycles have
passed, the divider's result becomes available in its destination and the divider is free; before, and while its core stands still (R18),
nothing happens. (A result that found its queue full is reported then by the hazard detector, when it is on: R392.) DIV, REM and
DIVIDER_RELEASE complete. -/
def Obligations.DivisionAndItsDivider : Prop := (
  ∀ (s : State) (d a b : SSpec), Ready s [a, b] [d] → s.me.div = none →
    let A := (s.two a b).1.toInt
    let B := (s.two a b).2.toInt
    let special : Bool := decide (B = 0) || (decide (A = -2 ^ 63) && decide (B = -1))
    let q : Int := if B = 0 then -1 else if special then -2 ^ 63 else A.tdiv B
    let m : Int := if B = 0 then A else if special then 0 else A - A.tdiv B * B
    let nq : Int := max 0 ((Nat.size A.natAbs : Int) - Nat.size B.natAbs + 1)
    let held : Nat := if special then 18 else 18 + ((nq + 3) / 4).toNat
    let back : Stream → Stream := fun t => { t with div := none }
    Runs (.div d a b) s (fun t =>
      t.me.div = some ⟨d, BitVec.ofInt 64 q, s.now + held, false⟩ ∧ MovedBut back s t [a, b] s.me.advance.1 s.me.advance.2) ∧
    Runs (.rem d a b) s (fun t =>
      t.me.div = some ⟨d, BitVec.ofInt 64 m, s.now + held, false⟩ ∧ MovedBut back s t [a, b] s.me.advance.1 s.me.advance.2)) ∧ (
  ∀ (s : State) (w : Who) (o : DivOp), (s.getStr w).div = some o →
    if s.coreHeld w.ref.core = true ∨ s.core[w.ref.core].live < o.due then exec (.dividerRelease w) s = .next s
    else Runs (.dividerRelease w) s fun v => ∃ t : State, v = t.fullHazard w (o.full && decide (∃ n, o.dest = .q n)) ∧
      OnlySeat w.ref s t ∧ SameBytes s t ∧ (t.getStr w).div = none ∧
      { t.getStr w with div := (s.getStr w).div, x := (s.getStr w).x } = s.getStr w ∧
      (∀ j, j ≠ w.stream → (t.getSeat w.ref).getStr j = (s.getSeat w.ref).getStr j) ∧
      { t.getSeat w.ref with str := (s.getSeat w.ref).str, q := (s.getSeat w.ref).q } = s.getSeat w.ref ∧
      (∀ n, (t.getStr w).rdX n = if n ≠ 0 ∧ o.dest = .x n then o.res else (s.getStr w).rdX n) ∧
      ∀ n : Fin 16,
        if o.dest = .q n then
          Enqueued (s.getSeat w.ref).q[n].items (t.getSeat w.ref).q[n].items ⟨o.res.setWidth 2048, s.core[w.ref.core].live⟩
        else (t.getSeat w.ref).q[n].items = (s.getSeat w.ref).q[n].items)

/-- R110, R111: CMP and CMPI write their condition into a predicate, SEL one of two values. R112: the predicate instructions. CMP, CMPI,
SEL, PAND, POR, PXOR and PNOT complete. -/
def Obligations.CompareSelectAndPredicates : Prop := (
  (∀ (s : State) (n : Fin 16) (a b : SSpec) (c : Cond), Ready s [a, b] [] → s.pFree n = true →
    let x := (s.two a b).1
    let y := (s.two a b).2
    let v : Bool := match c with
      | .eq => x.toNat = y.toNat | .ne => x.toNat ≠ y.toNat
      | .lt => x.toInt < y.toInt | .le => x.toInt ≤ y.toInt | .gt => x.toInt > y.toInt | .ge => x.toInt ≥ y.toInt
      | .ltn => x.toNat < y.toNat | .len => x.toNat ≤ y.toNat | .gtn => x.toNat > y.toNat | .gen => x.toNat ≥ y.toNat
    Runs (.cmp n a b c) s fun t => PredResult s t [a, b] n v) ∧
  (∀ (s : State) (n : Fin 16) (a : SSpec) (i : BitVec 11) (c : CondI), Ready s [a] [] → s.pFree n = true →
    let x := s.peek a
    let v : Bool := match c with
      | .eq => x.toInt = i.toInt | .ne => x.toInt ≠ i.toInt
      | .lt => x.toInt < i.toInt | .le => x.toInt ≤ i.toInt | .gt => x.toInt > i.toInt | .ge => x.toInt ≥ i.toInt
      | .ltn => x.toNat < i.toNat | .gen => x.toNat ≥ i.toNat
    Runs (.cmpi n a i c) s fun t => PredResult s t [a] n v) ∧
  ∀ (s : State) (d a b : SSpec) (n : Fin 16), Ready s [a, b] [d] → s.pFree n = true →
    Runs (.sel d a b n) s fun t => ScalarResult s t [a, b] d 1 2 (if s.me.rdP n then (s.two a b).1 else (s.two a b).2)) ∧ (
  ∀ (s : State) (d a b : Fin 16), s.pFree d = true → s.pFree a = true →
    Runs (.pnot d a) s (fun t => PredResult s t [] d (!s.me.rdP a)) ∧
    (s.pFree b = true →
      Runs (.pand d a b) s (fun t => PredResult s t [] d (s.me.rdP a && s.me.rdP b)) ∧
      Runs (.por d a b) s (fun t => PredResult s t [] d (s.me.rdP a || s.me.rdP b)) ∧
      Runs (.pxor d a b) s (fun t => PredResult s t [] d (s.me.rdP a != s.me.rdP b))))

/-! ## Control -/

/-- R113, R114: NOP, PBR, PBRI, BR, CALL, RET and HALT. A branch whose predicate is false only advances; PBR, PBRI and CALL start a fill; a
PBRI to an address with bits [1:0] nonzero raises ALIGN with nothing dequeued and no register written. That CALL's x31 and t7 are due two
schedule cycles after issue in C is the model's choice (log 44). They complete. -/
def Obligations.ControlTransfers : Prop :=
  (∀ s : State, Runs .nop s fun t => Moved s t [] s.me.advance.1 s.me.advance.2) ∧
  (∀ (s : State) (n : Fin 8) (i : BitVec 16), let a := s.me.pc + 4 * BitVec.ofInt 64 i.toInt
    Runs (.pbr n i) s fun t => FillFor s t a ∧ Went s t s.me.advance.1 s.me.advance.2 ∧ SameTargets s t n (a &&& ~~~3) ∧
      (∀ m, t.me.rdX m = s.me.rdX m) ∧ t.me.p = s.me.p ∧
      t.mySeat.c.pipe = s.mySeat.c.pipe ++ if s.isC then [⟨s.mySeat.c.clock + 2, .treg n (a &&& ~~~3)⟩] else []) ∧
  (∀ (s : State) (n : Fin 8) (a : SSpec) (i : BitVec 11), Ready s [a] [] →
    let v := s.peek a + 4 * BitVec.ofInt 64 i.toInt
    if v &&& 3 ≠ 0 then exec (.pbri n a i) s = .next (s.takeFault s.turn.ref ⟨.align, 0, v, false⟩ s.turn.stream.idx.val)
    else Runs (.pbri n a i) s fun t => FillFor s t v ∧ Went s t s.me.advance.1 s.me.advance.2 ∧ SameTargets s t n v ∧
      (∀ m, t.me.rdX m = s.me.rdX m) ∧ t.me.p = s.me.p ∧ Queues s t [a] none 0 0 ∧
      t.mySeat.c.pipe = s.mySeat.c.pipe ++ if s.isC then [⟨s.mySeat.c.clock + 2, .treg n v⟩] else []) ∧
  (∀ (s : State) (n : Fin 8) (m : Fin 16), s.pFree m = true →
    Runs (.br n m) s (fun t =>
      if s.me.rdP m then Moved s t [] (s.me.jump s.me.t[n]) false else Moved s t [] s.me.advance.1 s.me.advance.2) ∧
    Runs (.ret m) s (fun t =>
      if s.me.rdP m then Moved s t [] (s.me.jump s.me.t[(7 : Fin 8)]) false else Moved s t [] s.me.advance.1 s.me.advance.2) ∧
    (s.xOpen 31 = true → Runs (.call n m) s fun t =>
      let r := s.me.pc + 4
      if s.me.rdP m then
        FillFor s t r ∧ Went s t (s.me.jump s.me.t[n]) false ∧ SameTargets s t 7 (r &&& ~~~3) ∧ t.me.p = s.me.p ∧
        (∀ k, t.me.rdX k = if !s.isC && decide (k = 31) then r else s.me.rdX k) ∧
        t.mySeat.c.pipe = s.mySeat.c.pipe ++
          if s.isC then [⟨s.mySeat.c.clock + 2, .xreg 31 r⟩, ⟨s.mySeat.c.clock + 2, .treg 7 (r &&& ~~~3)⟩] else []
      else Moved s t [] s.me.advance.1 s.me.advance.2)) ∧
  ∀ s : State, Runs .halt s fun t => t.me.halted = true ∧ MovedBut (fun a => { a with halted := s.me.halted }) s t [] s.me false

/-- R118, R119, R122, R123: LOOP and REP with a count above 0 enter their body, with a count at or below 0 skip it; GAP sets the distance to
C's next issue. `stages` is what the stage table says (R74). R119, R121: the end of a trip of an active LOOP of `S` stages, and a taken
transfer out of a body. LOOP, REP and GAP complete. -/
def Obligations.LoopsRepeatsAndTheirTrips : Prop := (
  (∀ (s : State) (sv : Fin 8) (len : Nat) (stages : List (Fin 8)), s.loopChecked sv len = .ok stages → 0 < len → len < 2 ^ 11 →
    let body := s.me.pc + BitVec.ofNat 64 (4 + 4 * (if sv = 0 then 0 else (len + 9) / 10))
    let after := ({ s.me with repStage := none } : Stream).goSeq (body + BitVec.ofNat 64 (4 * len))
    let entered (t : State) (srcs : List SSpec) (c : Nat) : Prop :=
      t.me.act = true ∧ t.me.lcStg = sv.val ∧ t.me.lcLen = len ∧ t.me.lcIter = c - 1 ∧ t.me.loopPc = body ∧ t.me.stages = stages ∧
      MovedBut (fun a => { a with loopPc := s.me.loopPc, stages := s.me.stages }) s t srcs
        { s.me with pc := body, lc := t.me.lc, ps := 1, repStage := none } false
    (∀ b : BitVec 6, b.toNat = len → ∀ c : BitVec 16, Runs (.loopImm b c sv) s fun t =>
      if c = 0 then Moved s t [] after.1 after.2 else entered t [] c.toNat) ∧
    ∀ b : BitVec 11, b.toNat = len → ∀ a : SSpec, Ready s [a] [] → Runs (.loopReg sv a b) s fun t =>
      let c := (s.peek a).toInt
      if c ≤ 0 then Moved s t [a] after.1 after.2 else entered t [a] (min c.toNat (2 ^ 32 - 1))) ∧
  (∀ s : State, s.repChecked = .ok () →
    let skipped := ({ s.me with repStage := none } : Stream).goSeq (s.me.pc + 8)
    let begun (n : Nat) : Stream :=
      { s.me with pc := s.me.pc + 4, repLeft := BitVec.ofNat 32 n, repStage := if s.me.act then some s.me.stageNow else none }
    (∀ n : BitVec 16, Runs (.repImm n) s fun t =>
      if n = 0 then Moved s t [] skipped.1 skipped.2 else Moved s t [] (begun n.toNat) false) ∧
    ∀ a : SSpec, Ready s [a] [] → Runs (.repReg a) s fun t =>
      let n := (s.peek a).toInt
      if n ≤ 0 then Moved s t [a] skipped.1 skipped.2 else Moved s t [a] (begun (min n.toNat (2 ^ 32 - 1))) false) ∧
  ∀ (s : State) (y : Fin 32) (k : BitVec 16), Runs (.gap y k) s fun t =>
    Moved s t [] s.me.advance.1 s.me.advance.2 ∧
    (t.mySeat.c.ready : Int) = s.mySeat.c.clock + max ((s.mySeat.lex[y].b.toNat : Int) + k.toInt) 1) ∧ (
  ∀ a : Stream, a.act = true → a.lcStg < 8 →
    let b := a.tripEnd
    (∀ k : Nat, k < 8 → b.ps.getLsbD k =
      if k = 0 then decide (0 < a.lcIter) else decide (k ≤ a.lcStg) && a.ps.getLsbD (k - 1)) ∧
    b.lcIter = a.lcIter - 1 ∧ b.lcStg = a.lcStg ∧ b.lcLen = a.lcLen ∧
    (if b.ps = 0 then b.act = false ∧ b.pc = a.loopPc + BitVec.ofNat 64 (4 * a.lcLen) else b.act = true ∧ b.pc = a.loopPc) ∧
    ∀ p, (a.jump p).pc = p ∧ (a.jump p).act = false ∧ (a.jump p).lcIter = 0 ∧ (a.jump p).ps = 0)

/-- R45, R47, R121, R192: COMMA counts a pass, and at the pass of a latched cut the stream stops after it; in a body it raises UNDEF_OP,
detail NEST. A bookmark due at this pass becomes pending (R390). COMMA completes. -/
def Obligations.CommaCounts : Prop :=
  ∀ (s : State) (n : BitVec 10) (m : BitVec 6),
    if s.me.act then exec (.comma n m) s = .next (s.takeFault s.turn.ref ⟨.undefOp, 1, 0, false⟩ s.turn.stream.idx.val)
    else ∃ t, exec (.comma n m) s = .next (t.modMySeat Seat.bookmarkDue) ∧
      t.me.passes = s.me.passes + 1 ∧
      t.me.comma = (if s.mySeat.cut.latch.any (fun l => decide (l.n = s.me.passes + 1)) then some (n, m) else s.me.comma) ∧
      MovedBut (fun a => { a with passes := s.me.passes, comma := s.me.comma }) s t [] s.me.advance.1 s.me.advance.2

/-! ## Faults -/

/-- R188, R189: a fault of class H taken while no handler runs and TRAP_VEC is set: the fault is recorded, FAULT_PC takes the four program
counters (a stream that holds an issued load on a missing page stops behind it: R212), K's loop state moves to the shadow and is cleared, C
is held, and K goes to TRAP_VEC; the registers of the streams stay. R186, R189: a fault of class S, or one taken while TRAP_VEC is 0, with
no handler running, leaves the seat Faulted with the fault recorded; one taken while a handler runs is recorded in NEST_INFO and NEST_PC,
with FAULT_PC as it was, and leaves the seat Faulted. -/
def Obligations.FaultEntries : Prop := (
  ∀ (s : State) (r : SeatRef) (f : Flt) (src : Nat), src < 8 → f.detail < 2 ^ 32 → f.sys = false →
    (s.getSeat r).trap.active = false → (s.getSeat r).trap.vec ≠ 0 →
    let a := s.getSeat r
    let t := s.takeFault r f src
    let b := t.getSeat r
    fld b.trap.info 32 32 = f.detail ∧ b.trap.src = src ∧ fld b.trap.info 16 5 = f.cause.code ∧
    b.trap.kind = false ∧ b.trap.active = true ∧ b.trap.nested = false ∧ bit b.trap.info 0 = true ∧
    b.trap.addr = f.addr ∧ b.trap.vec = a.trap.vec ∧ (∀ j, b.trap.pc[j.idx] = (a.stopsAt src j).pc) ∧
    b.trap.shLc = (a.stopsAt src .K).lc ∧ b.trap.shLoopPc = (a.stopsAt src .K).loopPc ∧ b.trap.shPs = (a.stopsAt src .K).ps ∧
    b.trap.shRep = (a.stopsAt src .K).repLeft ∧
    (b.getStr .K).pc = a.trap.vec ∧ (b.getStr .K).lc = 0 ∧ (b.getStr .K).loopPc = 0 ∧ (b.getStr .K).ps = 0 ∧ (b.getStr .K).repLeft = 0 ∧
    b.c.held = true ∧ b.c.pipe = a.c.pipe ∧ b.inst = a.inst ∧ b.vec = a.vec ∧ b.q = a.q ∧ b.tile = a.tile ∧ b.sys = a.sys ∧
    (∀ j, (b.getStr j).x = (a.getStr j).x ∧ (b.getStr j).p = (a.getStr j).p ∧ (b.getStr j).t = (a.getStr j).t) ∧
    (∀ j, j ≠ .K → (b.getStr j).pc = (a.stopsAt src j).pc) ∧ SameBytes s t ∧ (∀ k, k ≠ r.core → t.core[k] = s.core[k])) ∧ (
  ∀ (s : State) (r : SeatRef) (f : Flt) (src : Nat), src < 8 → f.detail < 2 ^ 32 →
    let a := s.getSeat r
    let b := (s.takeFault r f src).getSeat r
    (a.trap.active = true ∨ f.sys = true ∨ a.trap.vec = 0) →
    b.inst.phase = .faulted ∧ b.c.held = true ∧ b.trap.addr = f.addr ∧ (∀ j, (b.getStr j).pc = (a.stopsAt src j).pc) ∧
    if a.trap.active then
      b.trap.nested = true ∧ b.trap.nestPc = (a.stopsAt src .K).pc ∧ b.trap.pc = a.trap.pc ∧ fld b.trap.nestInfo 32 32 = f.detail ∧
      fld b.trap.nestInfo 21 3 = src ∧ fld b.trap.nestInfo 16 5 = f.cause.code ∧ bit b.trap.nestInfo 0 = true ∧
      b.trap.src = a.trap.src ∧ fld b.trap.info 16 5 = fld a.trap.info 16 5
    else
      b.trap.active = false ∧ b.trap.src = src ∧ fld b.trap.info 16 5 = f.cause.code ∧ fld b.trap.info 32 32 = f.detail ∧
      bit b.trap.info 0 = true ∧ (∀ j, b.trap.pc[j.idx] = (a.stopsAt src j).pc))

/-- R47, R186, R191: TRAP completes and then raises cause TRAP with its code as detail; ERET returns from a handler: every stream resumes at
its FAULT_PC (CUT_PC from the re-timing handler), K's loop state comes back from the shadow, C is released at the end of the core cycle; from
a LATENCY_BOUND handler whose cut owes the re-timing handler it starts that handler, with CUT_PC taken from FAULT_PC; with no handler running
it raises UNDEF_OP, detail 17. -/
def Obligations.TrapAndReturn : Prop :=
  (∀ (s : State) (i : BitVec 16), ∃ t, Moved s t [] s.me.advance.1 s.me.advance.2 ∧
    exec (.trap i) s = .next (t.takeFault s.turn.ref ⟨.trap, i.toNat, 0, false⟩ s.turn.stream.idx.val)) ∧
  (∀ s : State, s.mySeat.trap.active = false →
    exec .eret s = .next (s.takeFault s.turn.ref ⟨.undefOp, 17, 0, false⟩ s.turn.stream.idx.val)) ∧
  (∀ s : State, s.mySeat.trap.active = true → s.mySeat.owedRetime = true →
    Runs .eret s fun t =>
      let a := s.mySeat
      let b := t.mySeat
      let k := b.getStr .K
      OnlySeat s.turn.ref s t ∧ SameBytes s t ∧ b.cut.pc = a.trap.pc ∧ b.cut.handlerAge = 0 ∧ b.cut.retimeVec = a.cut.retimeVec ∧
      b.trap.active = true ∧ b.trap.kind = true ∧ bit b.trap.info 0 = false ∧ b.trap.pc = a.trap.pc ∧
      k.pc = a.cut.retimeVec ∧ k.halted = false ∧ k.lc = a.trap.shLc ∧ k.loopPc = a.trap.shLoopPc ∧ k.ps = a.trap.shPs ∧
      k.repLeft = a.trap.shRep ∧ b.c = a.c ∧ b.vec = a.vec ∧ b.q = a.q ∧ b.tile = a.tile ∧ b.lex = a.lex ∧ b.sys = a.sys ∧ b.inst = a.inst ∧
      (∀ j : Fin 4, j ≠ 0 → b.str[j].pc = a.str[j].pc ∧ b.str[j].halted = a.str[j].halted ∧ b.str[j].comma = a.str[j].comma) ∧
      ∀ j, (b.getStr j).x = (a.getStr j).x ∧ (b.getStr j).p = (a.getStr j).p ∧ (b.getStr j).t = (a.getStr j).t) ∧
  ∀ s : State, s.mySeat.trap.active = true → s.mySeat.owedRetime = false →
    Runs .eret s fun t =>
      let a := s.mySeat
      let b := t.mySeat
      OnlySeat s.turn.ref s t ∧ SameBytes s t ∧
      (∀ j : Fin 4, b.str[j].pc = (if a.trap.kind then a.cut.pc else a.trap.pc)[j] ∧ b.str[j].halted = false ∧ b.str[j].wait = .none) ∧
      b.c.held = true ∧ b.c.release = true ∧ b.trap.active = false ∧ bit b.trap.info 0 = false ∧ b.trap.pc = a.trap.pc ∧
      (if a.trap.kind then (b.getStr .K).lc = (a.getStr .K).lc
       else (b.getStr .K).lc = a.trap.shLc ∧ (b.getStr .K).loopPc = a.trap.shLoopPc ∧ (b.getStr .K).ps = a.trap.shPs ∧
            (b.getStr .K).repLeft = a.trap.shRep) ∧
      b.vec = a.vec ∧ b.q = a.q ∧ b.tile = a.tile ∧ b.lex = a.lex ∧ b.sys = a.sys ∧
      ∀ j, (b.getStr j).x = (a.getStr j).x ∧ (b.getStr j).p = (a.getStr j).p ∧ (b.getStr j).t = (a.getStr j).t

/-- R72: a word of a reserved major raises UNDEF_MAJOR, any other undefined word UNDEF_OP, at its own address. R75, R158, R159, R289: a word
that no encoding defines, and a word that would empty or overfill the parameter stack, fault; in a seat that already stands Faulted
nothing happens (log 21). That an empty stack is found before a PREFIX in a LITX is the model's choice (log 45). -/
def Obligations.UndefinedAndFaultingWords : Prop := (
  ∀ (s : State) (w : IWord),
    exec (.undefinedEncoding w) s = .next (s.takeFault s.turn.ref
      ⟨if majorReserved (fld w 26 6) then .undefMajor else .undefOp, 0, 0, false⟩ s.turn.stream.idx.val)) ∧ (
  ∀ s : State,
    (∀ w : EWord, WordFaults (.undefinedEngineWord w) s .undefOp 0 ∧
      (s.mySeat.inst.phase = .faulted → exec (.undefinedEngineWord w) s = .next s)) ∧
    (s.myEng.stack = [] → WordFaults .dup s .engineStack 6 ∧ WordFaults .drop s .engineStack 6 ∧ WordFaults .swap s .engineStack 6 ∧
      WordFaults .addw s .engineStack 6 ∧ (∀ w, WordFaults (.litx w) s .engineStack 6) ∧ ∀ d, WordFaults (.loopw d) s .engineStack 6) ∧
    (s.myEng.stack.length = 8 → (∀ v, WordFaults (.lit v) s .engineStack 5) ∧ WordFaults .dup s .engineStack 5 ∧
      WordFaults .over s .engineStack 5 ∧ WordFaults .qpop s .engineStack 5) ∧
    (s.myEng.loops = [] → WordFaults .endw s .undefOp 8))

/-! ## Vector instructions -/

/-- R135, R137, R144: the floating arithmetic instructions; `dec` reads a lane exactly, `opRound` rounds the exact result once. R138:
floating VMIN, VMAX and VCMP; VCMP writes every bit of its mask register, 0 for a lane that is not active. They complete. -/
def Obligations.VectorFloatArithmeticAndCompares : Prop := (
  FloatOp .vaddFp false (fun g a b _ => a.add (g.r = .rd) b) ∧
  FloatOp .vsubFp false (fun g a b _ => a.add (g.r = .rd) b.neg) ∧
  FloatOp .vmulFp false (fun _ a b _ => a.mul b) ∧
  FloatOp .vfma true (fun g a b c => (a.mul b).add (g.r = .rd) c) ∧
  FloatOp .vfms true (fun g a b c => (a.mul b).add (g.r = .rd) c.neg) ∧
  FloatOp .vnfma true (fun g a b c => (a.mul b).neg.add (g.r = .rd) c) ∧
  FloatOp .vmadd true (fun g a b c => (c.mul a).add (g.r = .rd) b) ∧
  ∀ (s : State) (g : FpArgs), SlotsGood s [g.a, g.b] →
    (g.raw = true ∨ s.tagOk g.a (fpTag g.t) = true ∧ s.tagOk g.b (if g.t = .fp32 then 12 else 11) = true) →
    Runs (.vscale g) s fun t =>
      let r (i : Nat) := opRound (fpFmt g.t) g.r g.ftz
        (((fpFmt g.t).dec g.ftz (lane (s.vread g.a) (fpW g.t) i)).scale (s.elem g.b (fpW g.t) true i))
      VectorWrites s t [g.a, g.b] 4 g.d (fpTag g.t) (fpW g.t) (s.lanes (fpW g.t)) (s.masked g.k) (fun i => (r i).1) (fun i => (r i).2) []) ∧ (
  (∀ (s : State) (g : FpMinArgs), SlotsGood s [g.a, g.b] →
    (g.raw = true ∨ s.tagOk g.a (fpTag g.t) = true ∧ s.tagOk g.b (fpTag g.t) = true) →
    let w := fpW g.t
    let r (mx : Bool) (i : Nat) := fMinMax (fpFmt g.t) mx (lane (s.vread g.a) w i) (lane (s.vread g.b) w i)
    Runs (.vminFp g) s (fun t =>
      VectorWrites s t [g.a, g.b] 2 g.d (fpTag g.t) w (s.lanes w) (s.masked g.k) (r false) (fun _ => 0) []) ∧
    Runs (.vmaxFp g) s (fun t =>
      VectorWrites s t [g.a, g.b] 2 g.d (fpTag g.t) w (s.lanes w) (s.masked g.k) (r true) (fun _ => 0) [])) ∧
  ∀ (s : State) (g : FpCmpArgs), SlotsGood s [g.a, g.b] →
    (g.raw = true ∨ s.tagOk g.a (fpTag g.t) = true ∧ s.tagOk g.b (fpTag g.t) = true) →
    Runs (.vcmpFp g) s fun t => MaskWrites s t [g.a, g.b] g.kd fun i =>
      decide (i < s.lanes (fpW g.t)) && s.masked g.k i &&
        fCompare (fpFmt g.t) g.c (lane (s.vread g.a) (fpW g.t) i) (lane (s.vread g.b) (fpW g.t) i))

/-- R148: the elementary functions; VRND, VEXP2 and VCLASS set no bit of VSTAT. R96, R97, R151, R152: VTUNPK gives the five weights of every
governed byte, zeros for an illegal one, and all of k0; VCVT converts element by element. How a mask governs VCVT's elements beyond 255 is the model's
choice (log 52). VRCP, VRSQ, VEXP2, VLOG2, VRND, VCLASS, VTUNPK and
VCVT complete. -/
def Obligations.VectorFunctionsAndConversions : Prop := (
  FloatUnary .vrnd 3 fpTag (fun g b => (vrndLane (fpFmt g.t) g.r g.ftz b, 0)) ∧
  FloatUnary .vrcp 8 fpTag (fun g => vrcpLane (fpFmt g.t) g.r g.ftz) ∧
  FloatUnary .vrsq 8 fpTag (fun g => vrsqLane (fpFmt g.t) g.r g.ftz) ∧
  FloatUnary .vexp2 8 fpTag (fun g b => (vexp2Lane (fpFmt g.t) g.ftz b, 0)) ∧
  FloatUnary .vlog2 8 fpTag (fun g => vlog2Lane (fpFmt g.t) g.r g.ftz) ∧
  FloatUnary .vclass 3 (fun t => if t = .fp32 then 12 else 11) (fun g b => (vclassLane (fpFmt g.t) b, 0))) ∧ (
  (∀ (s : State) (d : Fin 32) (a : VSrc) (raw : Bool) (k : Fin 8), SlotsGood s [a] → (raw = true ∨ s.tagOk a 14 = true) →
    let nb := s.mySeat.vec.vlen.toNat / 5
    let byte (j : Nat) := lane (s.vread a) 8 j
    let digit (j i : Nat) : Int := (byte j / 3 ^ (4 - i) % 3 : Nat) - 1
    Runs (.vtunpk d a raw k) s fun t => ∃ bits : BitVec 256,
      (∀ j < 256, bits.getLsbD j = (decide (j < nb) && s.masked k j && decide (243 ≤ byte j))) ∧
      VectorWrites s t [a] 3 d 10 8 (5 * nb) (fun i => s.masked k (i / 5))
        (fun i => narrowed 8 true false (if byte (i / 5) < 243 then digit (i / 5) (i % 5) else 0))
        (fun i => if byte (i / 5) < 243 then 0 else 64) [.kreg 0 bits (BitVec.allOnes 256)]) ∧
  ∀ (s : State) (g : VcvtArgs), SlotsGood s [g.a] → s.tagOk g.a (cvtTag g.src) = true →
    let n := 8 * s.mySeat.vec.vlen.toNat / max (cvtW g.src) (cvtW g.dst)
    let r (i : Nat) := cvtElem g.src g.dst g.mode (lane (s.vread g.a) (cvtW g.src) i)
    Runs (.vcvt g) s fun t => VectorWrites s t [g.a] 3 g.d (cvtTag g.dst) (cvtW g.dst) n (s.masked g.k) (fun i => (r i).1) (fun i => (r i).2) [])

/-- R139, R140, R141: the integer and bitwise vector instructions. R143: the dot products; a source byte at or beyond VLEN counts as zero,
and VTACC adds or subtracts by the sign of the weight. They complete. -/
def Obligations.VectorIntegersAndDotProducts : Prop := (
  IntegerOp .vaddInt 2 (· + ·) ∧ IntegerOp .vsubInt 2 (· - ·) ∧ IntegerOp .vmulInt 4 (· * ·) ∧
  LaneOp .vminInt true (fun w sg a b => if (if sg then (BitVec.ofNat w b).slt (BitVec.ofNat w a) else decide (b < a)) then b else a) ∧
  LaneOp .vmaxInt true (fun w sg a b => if (if sg then (BitVec.ofNat w a).slt (BitVec.ofNat w b) else decide (a < b)) then b else a) ∧
  LaneOp .vshl true (fun w _ a b => if w ≤ b then 0 else a * 2 ^ b) ∧
  LaneOp .vshr true (fun w _ a b => if w ≤ b then 0 else a / 2 ^ b) ∧
  LaneOp .vsra true (fun w _ a b => ((BitVec.ofNat w a).toInt / 2 ^ b % 2 ^ w).toNat) ∧
  LaneOp .vand false (fun _ _ a b => a &&& b) ∧
  LaneOp .vor false (fun _ _ a b => a ||| b) ∧
  LaneOp .vxor false (fun _ _ a b => a ^^^ b) ∧
  ∀ (s : State) (g : IntCmpArgs), SlotsGood s [g.a, g.b] →
    s.tagOk g.a (laneTag g.w) = true → s.tagOk g.b (laneTag g.w) = true →
    Runs (.vcmpInt g) s fun t => MaskWrites s t [g.a, g.b] g.kd fun i =>
      let w := laneW g.w
      let x := s.elem g.a w true i
      let y := s.elem g.b w true i
      let m := s.elem g.a w false i
      let n := s.elem g.b w false i
      let holds : Bool := match g.c with
        | .eq => m = n | .ne => m ≠ n | .lt => x < y | .le => x ≤ y | .gt => x > y | .ge => x ≥ y
        | .ltn => m < n | .len => m ≤ n | .gtn => m > n | .gen => m ≥ n
      decide (i < s.lanes w) && s.masked g.k i && holds) ∧ (
  ∀ (s : State) (g : DotArgs), SlotsGood s [g.a, g.b] →
    (g.raw = true ∨ s.tagOk g.a 10 = true ∧ s.tagOk g.b 10 = true ∧ s.tagOk (.v g.d) 12 = true) →
    let byte (v : VSrc) (sgn : Bool) (j : Nat) : Int := if j < s.mySeat.vec.vlen.toNat then s.elem v 8 sgn j else 0
    let sum (sgn : Bool) (f : Int → Int → Int) (i : Nat) : Int :=
      s.elem (.v g.d) 32 sgn i + f (byte g.a sgn (4 * i)) (byte g.b sgn (4 * i)) + f (byte g.a sgn (4 * i + 1)) (byte g.b sgn (4 * i + 1)) +
        f (byte g.a sgn (4 * i + 2)) (byte g.b sgn (4 * i + 2)) + f (byte g.a sgn (4 * i + 3)) (byte g.b sgn (4 * i + 3))
    let done (t : State) (sgn sat : Bool) (f : Int → Int → Int) : Prop :=
      VectorWrites s t [g.a, g.b] 4 g.d 12 32 (s.lanes 32) (s.masked g.k) (fun i => narrowed 32 sgn sat (sum sgn f i))
        (fun i => satMet 32 sgn sat (sum sgn f i)) []
    Runs (.vdot4I8 g) s (fun t => done t true g.sat (· * ·)) ∧
    Runs (.vdot4N8 g) s (fun t => done t false g.sat (· * ·)) ∧
    Runs (.vtacc g) s (fun t => done t true false fun a b => if a > 0 then b else if a < 0 then -b else 0))

/-- R142: the data movements; `l` is the lane count L. VSEL writes every lane below L. They complete. -/
def Obligations.VectorMoves : Prop :=
  (∀ (s : State) (g : MoveArgs), SlotsGood s [g.a, g.b] →
    Runs (.vsel g) s fun t =>
      let w := laneW g.w
      VectorWrites s t [g.a, g.b] 3 g.d (s.vtag g.a) w (s.lanes w) (fun _ => true)
        (fun i => if s.masked g.k i then lane (s.vread g.a) w i else lane (s.vread g.b) w i) (fun _ => 0) []) ∧
  MoveOp .vperm (fun l i a b _ => if b i < l then a (b i) else 0) ∧
  MoveOp .vshuf (fun l i a b d => if b i < l then a (b i) else if b i < 2 * l then d (b i - l) else 0) ∧
  MoveOp .vzip0 (fun l i a b _ => if l ≤ i / 2 then 0 else if i % 2 = 0 then a (i / 2) else b (i / 2)) ∧
  MoveOp .vzip1 (fun l i a b _ =>
    let k := (l + 1) / 2 + i / 2
    if l ≤ k then 0 else if i % 2 = 0 then a k else b k) ∧
  MoveOp .vuzp0 (fun l i a b _ => if 2 * i < l then a (2 * i) else b (2 * i - l)) ∧
  MoveOp .vuzp1 (fun l i a b _ => if 2 * i + 1 < l then a (2 * i + 1) else if 2 * i + 1 < 2 * l then b (2 * i + 1 - l) else 0) ∧
  MoveOp .vslide0 (fun _ i a b _ => if b 0 ≤ i then a (i - b 0) else 0) ∧
  MoveOp .vslide1 (fun l i a b _ => if i + b 0 < l then a (i + b 0) else 0)

/-- R146, R147: VMOV, VIDX, VSETVL, VNEG, VABS and VNOT. That VNEG and VABS give the canonical NaN
for a NaN under .raw too is the model's choice between R147 and R83 (log 52). They complete. -/
def Obligations.VectorOneSource : Prop :=
  (∀ (s : State) (g : VmovArgs), SlotsGood s [g.a] → (g.tag ≠ 0 → s.tagOk g.a g.tag = true) →
    Runs (.vmov g) s fun t => VectorWrites s t [g.a] 2 g.d (if g.tag = 0 then s.vtag g.a else g.tag) 8 (s.lanes 8) (s.masked g.k)
      (fun i => lane (s.vread g.a) 8 i) (fun _ => 0) []) ∧
  (∀ (s : State) (q9 : Bool) (a : VSrc), SlotsGood s [a] → s.mySeat.qRoom (if q9 then 9 else 8) s.now 1 = true →
    Runs (.vmovQ q9 a) s fun t => VectorWent s t [a] [⟨s.mySeat.c.clock + 2, .queue (if q9 then 9 else 8) (s.vread a)⟩]) ∧
  (∀ (s : State) (d : Fin 32) (w : LaneW) (k : Fin 8),
    Runs (.vidx d w k) s fun t => VectorWrites s t [] 2 d (laneTag w) (laneW w) (s.lanes (laneW w)) (s.masked k) (fun i => i) (fun _ => 0) []) ∧
  (∀ (s : State) (d : Fin 32) (a : SSpec) (w : LaneW), Ready s [a] [] →
    let n := min ((s.peek a).toInt.toNat * laneW w / 8) 256
    Runs (.vsetvl d a w) s fun t => VectorWent (s.take a) t []
      [⟨s.mySeat.c.clock + 2, .vlen (BitVec.ofNat 64 n)⟩, ⟨s.mySeat.c.clock + 2, .xreg d (BitVec.ofNat 64 (n * 8 / laneW w))⟩]) ∧
  (∀ (s : State) (g : UnArgs) (t : FpType) (raw : Bool), g.ty = .fp t raw → SlotsGood s [g.a] →
    (raw = true ∨ s.tagOk g.a (fpTag t) = true) →
    let w := fpW t
    let b (i : Nat) := lane (s.vread g.a) w i
    let nan (i : Nat) : Bool := (fpFmt t).dec false (b i) = .nan
    let done (u : State) (f : Nat → Nat) : Prop :=
      VectorWrites s u [g.a] 2 g.d (fpTag t) w (s.lanes w) (s.masked g.k) (fun i => if nan i then (fpFmt t).qnan else f i) (fun _ => 0) []
    Runs (.vneg g) s (fun u => done u fun i => b i ^^^ 2 ^ (w - 1)) ∧ Runs (.vabs g) s (fun u => done u fun i => b i % 2 ^ (w - 1))) ∧
  (∀ (s : State) (g : UnArgs) (lw : LaneW) (sat : Bool), g.ty = .int lw sat → SlotsGood s [g.a] → s.tagOk g.a (laneTag lw) = true →
    let w := laneW lw
    let x (i : Nat) := s.elem g.a w true i
    let done (u : State) (f : Nat → Int) : Prop :=
      VectorWrites s u [g.a] 2 g.d (laneTag lw) w (s.lanes w) (s.masked g.k) (fun i => narrowed w true sat (f i))
        (fun i => satMet w true sat (f i)) []
    Runs (.vneg g) s (fun u => done u fun i => -x i) ∧ Runs (.vabs g) s (fun u => done u fun i => |x i|)) ∧
  ∀ (s : State) (d : Fin 32) (a : VSrc) (lw : LaneW) (k : Fin 8), SlotsGood s [a] →
    let w := laneW lw
    Runs (.vnot d a lw k) s fun t => VectorWrites s t [a] 2 d (s.vtag a) w (s.lanes w) (s.masked k)
      (fun i => 2 ^ w - 1 - lane (s.vread a) w i) (fun _ => 0) []

/-- R149, R150: the reductions write lane 0 alone; VBCAST and VEXTR move one value. The floating sum is the tree of R149 with its padding of
−0, and the greatest and least are in the order of R138. They complete. -/
def Obligations.VectorReductionsAndBroadcasts : Prop :=
  (∀ (s : State) (g : VredArgs) (t : FpType) (r : Rnd) (raw : Bool), g.ty = .fp t r raw → SlotsGood s [g.a] →
    (raw = true ∨ s.tagOk g.a (fpTag t) = true) →
    let done (u : State) (x : Nat × FFlags) : Prop :=
      VectorWrites s u [g.a] 6 g.d (fpTag t) (fpW t) 1 (fun _ => true) (fun _ => x.1) (fun _ => x.2) []
    let best (mx : Bool) : Nat × FFlags := (match s.activeLanes g.a (fpW t) g.k with
      | [] => (fpFmt t).infinity mx
      | x :: l => l.foldl (fMinMax (fpFmt t) mx) (fMinMax (fpFmt t) mx x x), 0)
    Runs (.vredadd g) s (fun u => done u (s.fpSum g.a g.k t r)) ∧
    Runs (.vredmax g) s (fun u => done u (best true)) ∧ Runs (.vredmin g) s (fun u => done u (best false))) ∧
  (∀ (s : State) (g : VredArgs) (lw : LaneW) (un sat raw : Bool), g.ty = .int lw un sat raw → SlotsGood s [g.a] →
    (raw = true ∨ s.tagOk g.a (laneTag lw) = true) →
    let w := laneW lw
    let act : List Nat := (List.range (s.lanes w)).filter fun i => s.masked g.k i
    let xs : List Int := act.map fun i => s.elem g.a w (!un) i
    let done (u : State) (v : Nat) (fl : FFlags) : Prop :=
      VectorWrites s u [g.a] 6 g.d (laneTag lw) w 1 (fun _ => true) (fun _ => v) (fun _ => fl) []
    Runs (.vredadd g) s (fun u => done u (narrowed w (!un) sat xs.sum) (satMet w (!un) sat xs.sum)) ∧
    Runs (.vredmax g) s (fun u => done u (narrowed w (!un) false (xs.foldl max (intRange w (!un)).1)) 0) ∧
    Runs (.vredmin g) s (fun u => done u (narrowed w (!un) false (xs.foldl min (intRange w (!un)).2)) 0)) ∧
  (∀ (s : State) (d : Fin 32) (a : VSrc) (lw : LaneW) (j : Fin 16) (k : Fin 8), SlotsGood s [a] →
    let w := laneW lw
    Runs (.vbcast d a lw j k) s fun t => VectorWrites s t [a] 3 d (s.vtag a) w (s.lanes w) (s.masked k)
      (fun _ => lane (s.vread a) w j.val) (fun _ => 0) []) ∧
  (∀ (s : State) (d : Fin 32) (a : SSpec) (tag : Fin 16) (k : Fin 8), Ready s [a] [] →
    let w := tagWidth tag
    Runs (.vbcastScalar d a tag k) s fun t => VectorWrites (s.take a) t [] 3 d tag w (s.lanes w) (s.masked k)
      (fun _ => (s.peek a).toNat) (fun _ => 0) []) ∧
  ∀ (s : State) (g : VextrArgs), SlotsGood s [g.a] →
    Runs (.vextr g) s fun t => VectorWent s t [g.a]
      [⟨s.mySeat.c.clock + 3, .xreg g.d (BitVec.ofInt 64 (s.elem g.a (laneW g.w) g.sgn g.j.val))⟩]

/-- R120: in C the names v16 to v31 denote rotating registers, and a value's name moves by one with every trip. R36, R99, R181, for VMOV: a
VMOV whose source carries another tag raises TAG with nothing changed before; one that names a PENDING slot freezes the core in place; one
that names a FULL slot with an error raises POISON with the slot in its detail, and the error is taken from the slot. -/
def Obligations.VectorNamesAndSourceChecks : Prop := (
  ∀ (rrb : BitVec 4) (n : Fin 32),
    (n.val < 16 → physV rrb n = n) ∧
    (16 ≤ n.val → ((physV rrb n).val : Int) = 16 + ((n.val : Int) - 16 - rrb.toNat) % 16 ∧
      physV (rrb + 1) (Fin.ofNat 32 (16 + (n.val - 15) % 16)) = physV rrb n)) ∧ (
  ∀ (s : State) (g : VmovArgs),
    (g.tag ≠ 0 → s.tagOk g.a g.tag = false →
      exec (.vmov g) s = .next (s.takeFault s.turn.ref ⟨.tag, 0, 0, false⟩ s.turn.stream.idx.val)) ∧
    ∀ n, g.a = .ln n → 
      (s.mySeat.ln[n].state = 1 → Runs (.vmov g) s fun t =>
        t = s.setCore s.turn.ref.core { s.myCore with freeze := some (.slot s.turn.ref.seat n none), frozeAt := s.myCore.cycle }) ∧
      (s.mySeat.ln[n].state = 2 → s.mySeat.ln[n].err = true → ∃ u, OnlySeat s.turn.ref s u ∧ u.mySeat.str = s.mySeat.str ∧
        u.mySeat.vec = s.mySeat.vec ∧ u.mySeat.c = s.mySeat.c ∧ u.mySeat.ln[n] = { s.mySeat.ln[n] with data := 0, err := false, drst := false } ∧
        exec (.vmov g) s = .next (u.takeFault s.turn.ref
          ⟨.poison, (if s.mySeat.ln[n].drst then 0x200 else 0x100) + n.val, 0, false⟩ s.turn.stream.idx.val)))

/-! ## Memory -/

/-- R197, R202: the checks of an access, in order: alignment, then (for a window address) the window rights; a core has every right to its
own slice. Beside TLBs, the page note of the stream, the errors a walk meets and what its reads acquire (R348) nothing changes, and no byte
of memory. R212: a load on a
missing page is held, with its slot PENDING; LOAD_REPLAY lets it go on once its page is there, or gives it up: the load is withdrawn, its
slot FREE again, and PAGE raised precisely at the load. An access of another kind that is held issues again, or PAGE is raised. R213: a
logged store is sent once its page is mapped, no earlier entry of the page is left and its orders hold. LOAD_REPLAY and SIDE_LOG_REPLAY
complete. -/
def Obligations.AccessChecksAndMissingPages : Prop := (
  ∀ (s : State) (w : Who) (va : Word) (size : Nat) (r : Right) (skew write : Bool),
    let c := s.check w va size r skew write
    (va.toNat % size ≠ 0 → c = (.fault ⟨.align, 0, va, false⟩, s)) ∧
    (va.toNat % size = 0 → isWindow va = true → s.dieUsable (windowHome va.toNat).die = true →
      (windowHome va.toNat).pkg = Config.thisPackage → ownSlice w.ref = some (sliceIndex va.toNat) →
      c = (.ok { key := va.toNat, home := windowHome va.toNat, slot := none, skew := skew }, s)) ∧
    (va.toNat % size = 0 → isWindow va = true → s.dieUsable (windowHome va.toNat).die = true →
      (windowHome va.toNat).pkg = Config.thisPackage → ownSlice w.ref ≠ some (sliceIndex va.toNat) → w.isY = false →
      (s.getSeat w.ref).winGrants (sliceIndex va.toNat) r = false → c = (.fault ⟨.perm, 32, va, false⟩, s)) ∧
    OnlySeat w.ref s { c.2 with stack := s.stack } ∧ SameStacks s c.2 ∧ SameBytes s c.2 ∧
    { c.2.getSeat w.ref with
        str := (s.getSeat w.ref).str, tlbK := (s.getSeat w.ref).tlbK, tlbL := (s.getSeat w.ref).tlbL,
        tlbS := (s.getSeat w.ref).tlbS } = s.getSeat w.ref ∧
    ∀ j, let a := (s.getSeat w.ref).getStr j
      { (c.2.getSeat w.ref).getStr j with lastPage := a.lastPage, fwd := a.fwd, heard := a.heard } = a) ∧ (
  (∀ (s : State) (n : Fin 64) (b y : Fin 32) (z : Fin 4) (o : BitVec 8) (d : Nat), Ready s [.x b] [] → s.gated = false →
    s.mySeat.ln[n].state = 0 → let va := s.me.rdX b + BitVec.ofInt 64 (o.toInt * 2 ^ z.val)
    (s.check s.turn va (2 ^ z.val) .rd false false).1 = .missing d →
    Runs (.ld n b y z o) s fun t => t.me.wait = .held va d ∧ t.me.pc = s.me.pc ∧ t.mySeat.ln[n].state = 1 ∧ SameBytes s t ∧ SameRegs s t) ∧
  (∀ (s : State) (w : Who) (l : LoadReq), (s.getSeat w.ref).heldReq w.stream = some l →
    (Runs (.loadReplay w true) s fun t => SameBytes s t ∧ t.turn = s.turn ∧
      (t.getSeat w.ref).loads = (s.getSeat w.ref).loads.filter (fun m => decide (m.seq ≠ l.seq)) ∧
      (∀ n, l.kind = .slot n → (t.getSeat w.ref).ln[n].state = 0) ∧
      ((s.getSeat w.ref).trap.active = false →
        fld (t.getSeat w.ref).trap.info 16 5 = 7 ∧ (t.getSeat w.ref).trap.addr = l.va ∧
        (t.getSeat w.ref).trap.pc[w.stream.idx] = l.site.pc ∧ (t.getSeat w.ref).inst.phase = .faulted)) ∧
    ∀ p : Place, (s.check w l.va l.size .rd false false).1 = .ok p →
      Runs (.loadReplay w false) s fun t => t.turn = s.turn ∧ SameBytes s t ∧ (t.getStr w).x = (s.getStr w).x ∧
        (∀ va d, (s.getStr w).wait = .held va d → (t.getStr w).wait = .none ∧ (t.getStr w).pc = (s.getStr w).advance.1.pc) ∧
        (∀ m, m.seq ≠ l.seq → (m ∈ (t.getSeat w.ref).loads ↔ m ∈ (s.getSeat w.ref).loads)) ∧
        (t.getSeat w.ref).loads.length = (s.getSeat w.ref).loads.length ∧
        ∀ m ∈ (t.getSeat w.ref).loads, m.seq = l.seq → m.kind = l.kind ∧ m.va = l.va ∧ m.place = p ∧ m.missing = none) ∧
  (∀ (s : State) (w : Who) (va : Word) (d : Nat), (s.getSeat w.ref).heldReq w.stream = none → (s.getStr w).wait = .held va d →
    exec (.loadReplay w true) s =
      .next ((s.modStr w fun t => { t with wait := .none }).takeFault w.ref ⟨.page, d, va, true⟩ w.stream.idx.val) ∧
    ∀ e z, s.walk (s.getSeat w.ref).sys.xlatRoot va.toNat = .leaf e z →
      exec (.loadReplay w false) s = .next (s.modStr w fun t => { t with wait := .none })) ∧
  ∀ (s : State) (r : SeatRef) (i : Nat) (e : LogEntry) (p : Place), (s.getSeat r).sideLog[i]? = some e →
    (s.check ⟨r, e.src⟩ e.va e.size (if e.kind = 0 then .wr else .at') false true).1 = .ok p → s.logFirst r i e p = true →
    s.conjSMet r e.src e.conj = true →
    (s.modSeat r fun st => { st with sideLog := dropAt i st.sideLog }).releaseMet r e.src e.rel e.seq = true →
    Runs (.sideLogReplay r i) s fun t => SameBytes s t ∧
      ((s.getSeat r).elems = [] → (t.getSeat r).sideLog = dropAt i (s.getSeat r).sideLog) ∧
      ∃ f, t.flights = s.flights ++ [f] ∧ f.place = p ∧ f.data = e.data ∧ f.size = e.size ∧ f.id = e.seq ∧
        f.src = .stream ⟨r, e.src⟩ ∧ f.kind = (if e.kind = 0 then .store else .red e.op))

/-- R35, R206, R207, R210: LD, LD.v, and LDX and LDA into a landing slot that is FREE. They complete. -/
def Obligations.LandingLoads : Prop :=
  ∀ (s : State) (n : Fin 64) (b y : Fin 32), Ready s [.x b] [] → s.gated = false → s.mySeat.ln[n].state = 0 →
    (∀ (z : Fin 4) (o : BitVec 8) (p : Place),
      (let va := s.me.rdX b + BitVec.ofInt 64 (o.toInt * 2 ^ z.val)
       (s.check s.turn va (2 ^ z.val) .rd false false).1 = .ok p →
        Runs (.ld n b y z o) s fun t => LandingIssued s t n p va (2 ^ z.val) y false none) ∧
      (let va := s.me.rdX b + BitVec.ofInt 64 (o.toInt * (32 * 2 ^ z.val))
       (s.check s.turn va (32 * 2 ^ z.val) .rd false false).1 = .ok p →
        Runs (.ldV n b y z o) s fun t => LandingIssued s t n p va (32 * 2 ^ z.val) y true none)) ∧
    (∀ (g : LdxArgs) (p : Place), g.dest = .slot n → g.base = b → g.sym = y →
      let size : Nat := if g.vec then 32 * 2 ^ g.size.val else 2 ^ g.size.val
      (s.check s.turn (s.me.rdX b) size .rd g.skew false).1 = .ok p →
        Runs (.ldx g) s fun t => LandingIssued s t n p (s.me.rdX b) size y g.vec none) ∧
    ∀ (g : LdaArgs) (p : Place), g.dest = .slot n → g.base = b → g.sym = y →
      let size : Nat := if g.vec then 32 * 2 ^ g.size.val else 2 ^ g.size.val
      (s.check s.turn (s.me.rdX b) size .rd g.skew false).1 = .ok p →
        Runs (.lda g) s fun t => LandingIssued s t n p (s.me.rdX b) size y g.vec (some g.scope)

/-- R208, R209, R210, R211: scalar LDX and LDA, of which at most 16 are in flight, and PREF, which never faults after decode. They
complete. -/
def Obligations.ScalarLoadsAndPrefetches : Prop :=
  (∀ (s : State) (d : SSpec) (b : Fin 32) (p : Place), Ready s [.x b] [d] → s.gated = false → s.mySeat.scalarLoads < 16 →
    (∀ g : LdxArgs, g.dest = .scalar d → g.base = b → (s.check s.turn (s.me.rdX b) (2 ^ g.size.val) .rd g.skew false).1 = .ok p →
      Runs (.ldx g) s fun t => ScalarLoadIssued s t d p (s.me.rdX b) (2 ^ g.size.val) none) ∧
    ∀ g : LdaArgs, g.dest = .scalar d → g.base = b → (s.check s.turn (s.me.rdX b) (2 ^ g.size.val) .rd g.skew false).1 = .ok p →
      Runs (.lda g) s fun t => ScalarLoadIssued s t d p (s.me.rdX b) (2 ^ g.size.val) (some g.scope)) ∧
  ∀ (s : State) (b y : Fin 32) (z : Fin 4) (o : BitVec 8), Ready s [.x b] [] → s.gated = false →
    let size : Nat := 32 * 2 ^ z.val
    let va := s.me.rdX b + BitVec.ofInt 64 (o.toInt * size)
    Runs (.pref b y z o) s fun t => AccessWent s t [] ∧ t.mySeat.ln = s.mySeat.ln ∧
      match (s.check s.turn va size .rd false false).1 with
      | .ok p => if isWindow va then t.mySeat.loads = s.mySeat.loads else Requested s t .pref p va size y none none
      | _ => t.mySeat.loads = s.mySeat.loads

/-- R206, R209, R210, R213, R220: ST, STX, STL and RED complete: with their operands ready, no order to wait for and room in the store
queue and in the side log, each goes on, and an entry of the store queue holds what it writes: ST, STX and STL the low bytes of their
operand, RED its low 4 or 8. When the side log already holds an entry of the page, or the page is missing, the entry stands in the side
log. RED whose check faults raises that fault. -/
def Obligations.StoresAndReductions : Prop :=
  (∀ (s : State) (d : SSpec) (b : Fin 32), s.storeClass d = true → s.blocked [.x b, d] [] = none → s.gated = false →
    s.mySeat.storeRoom s.myCore.cycle = true → s.mySeat.sideLog.length < 64 →
    let wide : Bool := match d with | .q 8 => true | .q 9 => true | _ => false
    let bits (k : Nat) : Bool := match d with | .x n => (s.me.rdX n).getLsbD k | .q n => (s.mySeat.q[n].head).getLsbD k
    let size (z : Fin 4) : Nat := if wide then 32 * 2 ^ z.val else 2 ^ z.val
    let completes (i : Instr) (va : Word) (n : Nat) (skew : Bool) (rel : Option Scope) (hint : Option (Fin 8)) : Prop :=
      (∀ p, (s.check s.turn va n .wr skew true).1 = .ok p →
        Runs i s fun t => StoreIssued s t [.x b, d] .store 0 va n bits rel hint ((s.check s.turn va n .wr skew true).2.joinsLog va) p) ∧
      ∀ k, (s.check s.turn va n .wr skew true).1 = .missing k →
        Runs i s fun t => StoreIssued s t [.x b, d] .store 0 va n bits rel hint true default
    (∀ (z : Fin 4) (o : BitVec 8),
      completes (.st d b z o) (s.me.rdX b + BitVec.ofInt 64 (o.toInt * size z)) (size z) false none none) ∧
    (∀ g : StxArgs, g.data = d → g.base = b → completes (.stx g) (s.me.rdX b) (size g.size) g.skew none g.hint) ∧
    ∀ g : StlArgs, g.data = d → g.base = b → completes (.stl g) (s.me.rdX b) (size g.size) g.skew (some g.scope) none) ∧
  ∀ (s : State) (g : RedArgs), Ready s [g.a, g.b] [] → s.gated = false → s.mySeat.storeRoom s.myCore.cycle = true →
    s.mySeat.sideLog.length < 64 →
    let n : Nat := if g.dbl then 8 else 4
    let va := (s.two g.a g.b).1
    let issued (t : State) (joins : Bool) (p : Place) : Prop :=
      StoreIssued s t [g.a, g.b] (.red g.op) 1 va n (fun k => (s.two g.a g.b).2.getLsbD k) none none joins p
    (∀ p, (s.check s.turn va n .at' false true).1 = .ok p → Runs (.red g) s fun t => issued t ((s.check s.turn va n .at' false true).2.joinsLog va) p) ∧
    (∀ k, (s.check s.turn va n .at' false true).1 = .missing k → Runs (.red g) s fun t => issued t true default) ∧
    ∀ f, (s.check s.turn va n .at' false true).1 = .fault f → exec (.red g) s =
      .next ((s.check s.turn va n .at' false true).2.takeFault s.turn.ref f s.turn.stream.idx.val)

/-- R180, R207: LANDING completes: when the request of a PENDING slot has its answer and the answer may come, the data lands, the slot is
FULL and the request gone; a freeze on that slot ends (R36). R181, R208, R211, R219: SCALAR_ANSWER completes: a scalar load's value
reaches its destination, an error raises POISON precisely at the load, but where another stream has faulted in the same core cycle (R189),
behind one of lower SRC the stream stops before its load, and before one of higher SRC the answer waits (log 51); a prefetch ends; an AMO's old value reaches d, and the error predicate tells
an error answer; in a freeze of the core all but a prefetch's answer wait (R18, log 53). (A value that found its queue full is reported then
by the hazard detector, when it is on: R392.) R218, R219: what an AMO does at its home: the bytes take the operation's result, and its
answer is the old value. -/
def Obligations.LandingsAndScalarAnswers : Prop := (
  ∀ (s : State) (r : SeatRef) (n : Fin 64) (l : LoadReq) (a : Answer),
    ((s.getSeat r).loads.find? fun l => decide (l.kind = .slot n)) = some l → s.answerNow r l = some a →
    Runs (.landing r n) s fun t => SameBytes s t ∧ t.flights = s.flights ∧ t.die = s.die ∧
      (t.getSeat r).ln[n] =
        { (s.getSeat r).ln[n] with data := a.data, err := decide (a.ans ≠ .ok), drst := decide (a.ans = .dieReset), state := 2 } ∧
      (∀ k, k ≠ n → (t.getSeat r).ln[k] = (s.getSeat r).ln[k]) ∧
      (t.getSeat r).loads = (s.getSeat r).loads.filter (fun m => decide (m.seq ≠ l.seq)) ∧
      (t.getSeat r).stores = (s.getSeat r).stores ∧ (t.getSeat r).q = (s.getSeat r).q ∧ (t.getSeat r).vec = (s.getSeat r).vec ∧
      (s.core[r.core].freeze = some (.slot r.seat n none) → t.core[r.core].freeze = none) ∧
      (∀ m, m ≠ n → s.core[r.core].freeze = some (.slot r.seat n (some m)) → (s.getSeat r).ln[m].state = 1 →
        t.core[r.core].freeze = s.core[r.core].freeze) ∧
      ∀ j, ((t.getSeat r).getStr j).x = ((s.getSeat r).getStr j).x ∧ ((t.getSeat r).getStr j).pc = ((s.getSeat r).getStr j).pc) ∧ (
  ∀ (s : State) (w : Who) (i : Nat) (l : LoadReq) (a : Answer), s.nthAnswer w i = some l → s.answerNow w.ref l = some a →
    let left (t : State) : Prop := (t.getSeat w.ref).loads = (s.getSeat w.ref).loads.filter (fun m => decide (m.seq ≠ l.seq))
    let gets (t : State) (d : SSpec) : Prop :=
      (∀ k, (t.getStr w).rdX k = if k ≠ 0 ∧ d = .x k then a.data.setWidth 64 else (s.getStr w).rdX k) ∧
      ∀ k : Fin 16,
        if d = .q k then
          Enqueued (s.getSeat w.ref).q[k].items (t.getSeat w.ref).q[k].items ⟨(a.data.setWidth 64).setWidth 2048, s.core[w.ref.core].live⟩
        else (t.getSeat w.ref).q[k].items = (s.getSeat w.ref).q[k].items
    (l.kind = .pref → Runs (.scalarAnswer w i) s fun t => left t ∧ SameBytes s t ∧ (t.getSeat w.ref).str = (s.getSeat w.ref).str) ∧
    (l.kind ≠ .pref → s.coreHeld w.ref.core = true → exec (.scalarAnswer w i) s = .next s) ∧
    (∀ d, l.kind = .scalar d → s.coreHeld w.ref.core = false → s.queueTurn w.ref l d = true →
      let trap := (s.getSeat w.ref).trap
      let beside : Prop := trap.last.1 = s.core[w.ref.core].cycle + 1 ∧ trap.last.2 ≤ 3
      (a.ans = .ok → Runs (.scalarAnswer w i) s fun v => ∃ t : State, v = t.fullHazard w l.full ∧ SameBytes s t ∧ left t ∧ gets t d ∧
        (t.getStr w).p = (s.getStr w).p ∧ (t.getStr w).pc = (s.getStr w).pc ∧ (t.getSeat w.ref).trap = trap) ∧
      (a.ans ≠ .ok → ¬beside → Runs (.scalarAnswer w i) s fun t => SameBytes s t ∧ left t ∧
        (t.getStr w).x = (s.getStr w).x ∧
        (trap.active = false →
          fld (t.getSeat w.ref).trap.info 16 5 = 9 ∧ (t.getSeat w.ref).trap.addr = l.va ∧
          (t.getSeat w.ref).trap.pc[w.stream.idx] = l.site.pc)) ∧
      (a.ans ≠ .ok → beside →
        if trap.last.2 < w.stream.idx.val ∧ trap.nested = false then
          Runs (.scalarAnswer w i) s fun t => SameBytes s t ∧ left t ∧ (t.getStr w).x = (s.getStr w).x ∧
            (t.getSeat w.ref).trap.pc[w.stream.idx] = l.site.pc ∧ (t.getSeat w.ref).trap.info = trap.info ∧
            (t.getSeat w.ref).inst = (s.getSeat w.ref).inst
        else exec (.scalarAnswer w i) s = .next s)) ∧
    ∀ op d v e pe, l.kind = .amo op d v e pe → s.coreHeld w.ref.core = false → s.queueTurn w.ref l d = true →
      Runs (.scalarAnswer w i) s fun z => ∃ t : State, z = t.fullHazard w l.full ∧ SameBytes s t ∧ left t ∧ gets t d ∧
        (t.getStr w).pc = (s.getStr w).pc ∧
        ∀ m, (t.getStr w).rdP m = if m = 0 then true else if m.val = pe.val then decide (a.ans ≠ .ok) else (s.getStr w).rdP m) ∧ (
  ∀ (s : State) (r : SeatRef) (l : LoadReq) (op : AtomOp) (d : SSpec) (v e : Word) (pe : Fin 8), l.kind = .amo op d v e pe →
    Memory.wf s.mem = true → s.answerReq r l l.place l.size = .ok → l.place.isLocal = true → l.place.key + l.size ≤ physBase →
    l.place.skew = false → l.size ≤ 8 →
    let t := s.homeAct r l
    let old := s.readPlace l.place l.size
    let new := atomApply op (8 * l.size) old v.toNat e.toNat
    (∀ j < l.size, t.byteAt (l.place.key + j) = BitVec.ofNat 8 (new / 256 ^ j)) ∧
    (∀ k, k < l.place.key ∨ l.place.key + l.size ≤ k → t.byteAt k = s.byteAt k) ∧
    ∀ m ∈ (t.getSeat r).loads, m.seq = l.seq → m.got = some ⟨.ok, BitVec.ofNat 2048 old, false⟩)

/-- R209, R251: STORE_DEPART completes: the oldest entry of a store queue leaves it eight core cycles after issue or later, when no order
holds it; no byte of memory changes yet. R201, R205, R218, R251: STORE_PERFORM completes: a write that may be performed leaves its way; at a
home of this package its bytes stand there, those of a store as sent, those of a reduction or accumulation by its operation, and every other
byte of memory is as before (of a stack, every byte outside the 32-byte units it touches); a write that meets an error answer changes no
byte; a write to another package has left. R202, R250: what a store writes at a place of the window, a read of the same bytes gives back. -/
def Obligations.StoresDepartAndArePerformed : Prop := (
  ∀ (s : State) (r : SeatRef) (e : StoreReq) (l : List StoreReq), (s.getSeat r).stores = e :: l →
    e.issued + 8 ≤ s.core[r.core].cycle → s.conjSMet r e.stream e.conj = true → s.releaseMet r e.stream e.rel e.seq = true →
    (∀ m ∈ (s.getSeat r).loads, m.stream = e.stream → m.seq < e.seq → m.way = none → m.got = none → m.missing = none →
      overlap m.place m.size e.place e.size = false) →
    Runs (.storeDepart r) s fun t => SameBytes s t ∧ { t with core := s.core, flights := s.flights, seq := s.seq } = s ∧
      (∀ k, k ≠ r.core → t.core[k] = s.core[k]) ∧
      ((s.getSeat r).elems = [] → (t.getSeat r).stores = l ∧
        { t.getSeat r with stores := (s.getSeat r).stores, left := (s.getSeat r).left } = s.getSeat r) ∧
      ∃ f, t.flights = s.flights ++ [f] ∧ f.id = e.seq ∧ f.src = .stream ⟨r, e.stream⟩ ∧ f.kind = e.kind ∧ f.place = e.place ∧
        f.size = e.size ∧ f.data = e.data ∧ f.conj = e.conj ∧ f.stage = 0 ∧ f.beats = 0 ∧ f.bad = false ∧
        f.born = s.core[r.core].cycle) ∧ (
  ∀ (s : State) (i : Nat) (f : Flight), s.flights[i]? = some f → s.performable f = true →
    (f.place.isLocal = false → exec (.storePerform i) s = .next { s with flights := dropAt i s.flights }) ∧
    (f.place.isLocal = true → f.beats = 0 → f.bad = false → Memory.wf s.mem = true → (∀ op, f.kind = .acc op → f.size % (accWidth op / 8) = 0) →
      (s.writeAnswer f.kind f.place f.size f.src.mayHost = .ok →
        Runs (.storePerform i) s fun t => t.flights = dropAt i s.flights ∧
          (∀ k, k / 32 ∉ f.place.units f.size → t.byteAt k = s.byteAt k) ∧
          (f.place.key + f.size ≤ physBase → f.place.skew = false → f.size ≤ 256 →
            (∀ k, k < f.place.key ∨ f.place.key + f.size ≤ k → t.byteAt k = s.byteAt k) ∧
            ∀ j < f.size, t.byteAt (f.place.key + j) =
              BitVec.ofNat 8 (f.kind.result f.size (s.readPlace f.place f.size) f.data.toNat / 256 ^ j))) ∧
      (s.writeAnswer f.kind f.place f.size f.src.mayHost ≠ .ok → (∀ op, f.kind ≠ .acc op) →
        Runs (.storePerform i) s fun t => t.flights = dropAt i s.flights ∧ SameBytes s t))) ∧ (
  ∀ (s : State) (p : Place) (n v : Nat), Memory.wf s.mem = true → p.key + n ≤ physBase → p.skew = false →
    (s.writePlace p n v).readPlace p n = v % 256 ^ n)

/-- R219: AMO completes: with its operands ready and its address checked, its request is on its way with its operands. R221, R222: VAMO
completes: it applies its elements in order, one at a time, each as a request to its home, under its restart index, and after the answer of
the last goes on; with a return address the old value stands there. VMRED completes: it checks every element first, and then they stand,
in order, in the store queue, or wait for room there. R218: the atomic operations on z bits. -/
def Obligations.AtomicsAndTheirArithmetic : Prop := (
  (∀ (s : State) (g : AmoArgs) (p : Place), s.classOk [g.a, g.b] [g.d] = true →
    s.blocked ([g.a, g.b] ++ match g.op, g.d with | .cas, .x k => [.x k] | _, _ => []) [g.d] = none → s.gated = false →
    s.pFree ⟨g.pe.val, by omega⟩ = true →
    let n : Nat := if g.dbl then 8 else 4
    (s.check s.turn (s.two g.a g.b).1 n .at' false true).1 = .ok p →
    Runs (.amo g) s fun t => AccessWent s t [g.a, g.b] ∧ t.mySeat.ln = s.mySeat.ln ∧
      Requested s t (.amo g.op g.d (s.two g.a g.b).2 (match g.d with | .x k => s.me.rdX k | .q _ => 0) g.pe) p (s.two g.a g.b).1 n 0 none none) ∧
  (∀ (s : State) (g : AmoArgs), Ready s [g.a, g.b, g.d] [] → s.blocked [g.a, g.b, g.d, .q 8, .q 9] [] = none → s.gated = false →
    s.turn.stream = .S → s.me.wait = .none → s.pFree ⟨g.pe.val, by omega⟩ = true →
    let n : Nat := if g.dbl then 8 else 4
    let count := min (s.two g.a g.b).2.toInt.toNat (if g.dbl then 32 else 64)
    let e := s.vamoIndex
    let d := (s.peeks [g.a, g.b, g.d]).getD 2 0
    let done (t : State) : Prop := if count ≤ e + 1 then t.mySeat.vamo = none ∧ t.me.pc = s.me.advance.1.pc
      else t.mySeat.vamo = some (s.me.pc, e + 1) ∧ t.me.pc = s.me.pc
    (s.mySeat.elemReq = none → count ≤ e → Runs (.vamo g) s fun t => SameBytes s t ∧ t.mySeat.vamo = none ∧
      t.me.pc = s.me.advance.1.pc ∧ (∀ k, t.me.rdX k = s.me.rdX k) ∧ Queues s t [g.a, g.b, g.d, .q 8, .q 9] none 0 0) ∧
    (∀ (p : Place) (ret : Option Place), s.mySeat.elemReq = none → e < count →
      let va := (s.two g.a g.b).1 + BitVec.ofInt 64 (s.elem' 9 32 e * n)
      (s.check s.turn va n .at' false true).1 = .ok p → s.returnPlace g.d d e n = .ok ret → s.returnBusy ret n = false →
      Runs (.vamo g) s fun t => SameBytes s t ∧ t.mySeat.vamo = some (s.me.pc, e) ∧ t.me.pc = s.me.pc ∧ SameRegs s t ∧
        Requested s t (.elem g.op (BitVec.ofNat 64 (lane (s.mySeat.q[(8 : Fin 16)].head) (8 * n) e))) p va n 0 none none) ∧
    ∀ (l : LoadReq) (a : Answer), s.mySeat.elemReq = some l → s.answerNow s.turn.ref l = some a →
      (g.d = .x 0 → Runs (.vamo g) s fun t => SameBytes s t ∧ done t ∧ (∀ k, t.me.rdX k = s.me.rdX k) ∧
        t.mySeat.loads = s.mySeat.loads.filter (fun m => decide (m.seq ≠ l.seq)) ∧
        t.me.rdP ⟨g.pe.val, by omega⟩ = (decide (g.pe = 0) || decide (a.ans ≠ .ok) || (decide (e ≠ 0) && s.me.rdP ⟨g.pe.val, by omega⟩))) ∧
      ∀ q : Place, s.returnPlace g.d d e n = .ok (some q) → q.isLocal = true → Memory.wf s.mem = true → q.key + n ≤ physBase →
        q.skew = false → s.writeAnswer .store q n false = .ok →
        Runs (.vamo g) s fun t => done t ∧ (∀ j < n, t.byteAt (q.key + j) = BitVec.ofNat 8 (a.data.toNat / 256 ^ j)) ∧
          ∀ k, k < q.key ∨ q.key + n ≤ k → t.byteAt k = s.byteAt k) ∧
  ∀ (s : State) (g : RedArgs) (l : List (Acc × Word)) (u : State), Ready s [g.a, g.b] [] →
    s.blocked [g.a, g.b, .q 8, .q 9] [] = none → s.gated = false → s.mySeat.sideLog = [] → s.coreHeld s.turn.ref.core = false →
    let n : Nat := if g.dbl then 8 else 4
    let count := min (s.two g.a g.b).2.toInt.toNat (if g.dbl then 32 else 64)
    s.checkElems (s.two g.a g.b).1 s.mySeat.q[(9 : Fin 16)].head n count 0 = .ok (l, u) → (∀ a ∈ l, ∃ p, a.1 = .ok p) →
    Runs (.vmred g) s fun t =>
      AccessWent s (t.modMySeat fun a => { a with elems := s.mySeat.elems }) [g.a, g.b, .q 8, .q 9] ∧ t.mySeat.sideLog = [] ∧
      t.mySeat.loads = s.mySeat.loads ∧ (t.mySeat.elems ≠ [] → t.mySeat.storeRoom s.myCore.cycle = false) ∧
      ∃ es, t.mySeat.stores ++ t.mySeat.elems.map (fun x => x.1) = s.mySeat.stores ++ es ∧ es.length = count ∧
        ∀ i (h : i < es.length), es[i].kind = .red g.op ∧ es[i].size = n ∧ es[i].seq = s.seq + i ∧
          es[i].va = (s.two g.a g.b).1 + BitVec.ofInt 64 (s.elem' 9 32 i * n) ∧
          es[i].data = BitVec.ofNat 2048 (lane (s.mySeat.q[(8 : Fin 16)].head) (8 * n) i)) ∧ (
  ∀ (z : Nat) (m v e : BitVec z), 0 < z →
    let f (op : AtomOp) : BitVec z := BitVec.ofNat z (atomApply op z m.toNat v.toNat e.toNat)
    f .add = m + v ∧ f .and = m &&& v ∧ f .or = m ||| v ∧ f .xor = m ^^^ v ∧
    f .min = (if v.toInt < m.toInt then v else m) ∧ f .max = (if m.toInt < v.toInt then v else m) ∧
    f .minn = (if v.toNat < m.toNat then v else m) ∧ f .maxn = (if m.toNat < v.toNat then v else m) ∧
    f .swap = v ∧ f .cas = (if m = e then v else m))

/-- R214 to R217, R253, R255, R256: FENCE goes on when its condition holds, an sc fence first waits for its order event, which its core's
slot gives and, at domain scope, for 64 timebase ns after it, while the timebase is synchronised (R389, R402); in a freeze of its core the
stream goes on only afterwards (R18, log 53). A release fence stands for the stream's earlier writes, an acquire fence takes up what its reads
have met. CONJ is counted; XFENCE goes on once the stores issued before it are performed, and stands for what S and L have acquired. FENCE,
SC_ORDER_EVENT, DOMAIN_FENCE_SETTLE, CONJ and XFENCE complete. -/
def Obligations.FencesAndConjunctions : Prop :=
  (∀ (s : State) (c : Scope) (k : FenceKind), s.me.wait = .none → s.fenceMet c k = true →
    let back : Stream → Stream := fun a => { a with fwd := s.me.fwd, heard := s.me.heard, fenced := s.me.fenced }
    Runs (.fence c k) s fun t =>
      (if k = .sc then t.modMe back = s.modMe (fun a => { a with wait := .scEvent c })
       else MovedBut back s t [] s.me.advance.1 s.me.advance.2) ∧
      (k ≠ .acq → ∃ ids, (c, ids) ∈ t.me.fenced ∧ ∀ f ∈ s.flights, f.src = .stream s.turn → f.id < s.seq → f.id ∈ ids) ∧
      (k ≠ .rel → ∀ h ∈ s.me.heard, syncs h.src h.scope s.turn c = true → ∀ i ∈ h.ids, (∃ f ∈ s.flights, f.id = i) → i ∈ t.me.fwd)) ∧
  (∀ (s : State) (c : Fin 904) (k : Nat), k < 6 →
    let turn := s.timebase.toNat / 1024 + 1
    let at' (m : Nat) : Fin 6 := Fin.ofNat 6 (s.core[c].wheel.val + 1 + m)
    let w := wheelStream c (at' k)
    s.timebase.toNat % 1024 = c.val → s.core[c].wheelTurn ≠ turn → s.atWheel w = true →
    (∀ m < k, s.atWheel (wheelStream c (at' m)) = false) →
    let s1 := s.setCore c { s.core[c] with wheel := at' k, wheelTurn := turn }
    ∀ x, (s.getStr w).wait = .scEvent x → Runs (.scOrderEvent c) s fun t =>
      ∃ fwd past, let s2 : State := { s1.modStr w (fun a => { a with fwd := fwd }) with scPast := past }
        (∀ f ∈ s.flights, f.src = .stream w → f.id < s.seq → ∃ h ∈ past, h.src = .stream w ∧ h.scope = x ∧ f.id ∈ h.ids) ∧
        if x = .domain then t = s2.modStr w (fun a => { a with wait := .scTaken (s.timebase.toNat + 64) })
        else if s.coreHeld c = true then t = s2.modStr w (fun a => { a with wait := .scDone })
        else MovedAs w s2 t []) ∧
  (∀ (s : State) (w : Who) (d : Nat), (s.getStr w).wait = .scTaken d →
    if d ≤ s.timebase.toNat ∧ s.synced = true ∧ s.coreHeld w.ref.core = false then
      Runs (.domainFenceSettle w) s fun t => MovedAs w s t []
    else exec (.domainFenceSettle w) s = .next s) ∧
  (∀ (s : State) (c : Scope) (k : FenceKind), s.me.wait = .scDone →
    Runs (.fence c k) s fun t => Moved s t [] s.me.advance.1 s.me.advance.2) ∧
  (∀ (s : State) (n : Fin 64), ∃ t, Moved s t [] s.me.advance.1 s.me.advance.2 ∧
    exec (.conj n) s = .next (t.modMySeat fun st => match s.turn.stream with
      | .L => { st with conjL := st.conjL + 1, tagsL := st.tagsL ++ [n] }
      | .S => { st with conjS := st.conjS + 1, tagsS := st.tagsS ++ [n] }
      | _ => st)) ∧
  ∀ s : State, s.me.wait = .none →
    if s.xfenceMet s.myCore.cycle then Runs .xfence s fun t =>
      MovedBut (fun a => { a with fwd := s.me.fwd }) s t [] s.me.advance.1 s.me.advance.2 ∧
      ∀ k, k = .S ∨ k = .L → ∀ i ∈ (s.mySeat.getStr k).fwd, (∃ f ∈ s.flights, f.id = i) → i ∈ t.me.fwd
    else exec .xfence s = .next (s.modMe fun a => { a with wait := .xfence s.myCore.cycle })

/-- R223: MWAIT sends a request to the home and waits; there the compare and the arming of a monitor are one step: a monitor is armed when
the word is as expected and one is free. Its answer ends the wait with pn = 1 when the word differs, with pn = 0 when no monitor was free;
otherwise the monitor keeps it waiting, and a latched cut, or MWAIT_TIMEOUT at the deadline and not before, ends it with pn = 0. In a freeze
of its core the wait is over, and the instruction ends when its stream next runs (R18, log 53). MWAIT and MWAIT_TIMEOUT complete. -/
def Obligations.MonitorWait : Prop :=
  (∀ (s : State) (g : MwaitArgs) (p : Place), Ready s [g.a, g.b] [] → s.gated = false → s.me.wait = .none → s.pFree g.p = true →
    (s.check s.turn (s.two g.a g.b).1 8 .rd false false).1 = .ok p →
    Runs (.mwait g) s fun t => SameBytes s t ∧ t.me.pc = s.me.pc ∧ SameRegs s t ∧ t.mySeat.q = s.mySeat.q ∧
      t.me.wait = .mwait p.key (s.two g.a g.b).2 g.p (s.mySeat.sched + s.mySeat.lex[g.sym].hi.toNat) [g.a, g.b] ∧
      ∃ l ∈ t.mySeat.loads, l.kind = .mwait (s.two g.a g.b).2 ∧ l.place = p ∧ l.size = 8 ∧ l.stream = s.turn.stream ∧ l.got = none) ∧
  (∀ (s : State) (r : SeatRef) (l : LoadReq) (e : Word), l.kind = .mwait e →
    s.answerReq r l l.place l.size = .ok →
    let t := s.homeAct r l
    let v := s.dataAt l.place l.size
    SameBytes s t ∧ (∀ m ∈ (t.getSeat r).loads, m.seq = l.seq → m.got = some ⟨.ok, BitVec.ofNat 2048 v, false⟩) ∧
    if BitVec.ofNat 64 v = e ∧ s.monitorFree l = true then ⟨⟨r, l.stream⟩, l.place⟩ ∈ t.monitors else t.monitors = s.monitors) ∧
  (∀ (s : State) (w : Who) (i : Nat) (l : LoadReq) (a : Answer) (x e : Word) (k : Nat) (p : Fin 16) (due : Nat) (srcs : List SSpec),
    s.nthAnswer w i = some l → s.answerNow w.ref l = some a → l.kind = .mwait x → (s.getStr w).wait = .mwait k e p due srcs →
    a.ans = .ok → s.coreHeld w.ref.core = false →
    let armed := s.monitors.any fun m => decide (m.who = w) && decide (m.place.key = l.place.key)
    if a.data.setWidth 64 ≠ e ∨ armed = false then
      Runs (.scalarAnswer w i) s fun t => WaitEnds w s t srcs p (decide (a.data.setWidth 64 ≠ e))
    else exec (.scalarAnswer w i) s = .next (s.dropLoad w.ref l)) ∧
  (∀ (s : State) (g : MwaitArgs) (k : Nat) (e : Word) (p : Fin 16) (due : Nat) (srcs : List SSpec), Ready s [g.a, g.b] [] →
    s.me.wait = .mwait k e p due srcs → s.mySeat.arming s.turn.stream = false →
    if s.mySeat.cut.latch.isNone then exec (.mwait g) s = s.stall none
    else if s.coreHeld s.turn.ref.core = true then
      exec (.mwait g) s = .next ((s.disarm s.turn).modStr s.turn fun t => { t with wait := .woken g.p [g.a, g.b] false })
    else Runs (.mwait g) s fun t => WaitEnds s.turn s t [g.a, g.b] g.p false) ∧
  (∀ (s : State) (g : MwaitArgs) (p : Fin 16) (v : Bool) (srcs : List SSpec), Ready s [g.a, g.b] [] → s.me.wait = .woken p srcs v →
    Runs (.mwait g) s fun t => PredResult s t srcs p v) ∧
  ∀ (s : State) (w : Who) (key : Nat) (e : Word) (p : Fin 16) (due : Nat) (srcs : List SSpec),
    (s.getStr w).wait = .mwait key e p due srcs →
    if (s.getSeat w.ref).sched < due then exec (.mwaitTimeout w) s = .next s
    else if s.coreHeld w.ref.core = true then
      exec (.mwaitTimeout w) s = .next ((s.disarm w).modStr w fun t => { t with wait := .woken p srcs false })
    else Runs (.mwaitTimeout w) s fun t => WaitEnds w s t srcs p false

/-! ## Engines -/

/-- R75, R76, R158, R159: the words of the parameter stack, whose 8 entries are never exceeded; QPOP takes the head of its queue register,
and waits while it is empty. R160, R161, R280: LOOPW, ENDW and STOPW, and the attribute words WAITF and SIGF. They complete. -/
def Obligations.EngineStackLoopAndAttributeWords : Prop := (
  ∀ s : State, s.myEng.stack.length ≤ 8 →
    (∀ v : BitVec 15, s.myEng.stack.length < 8 → exec (.lit v) s = .next (s.stackIs (BitVec.ofNat 64 v.toNat :: s.myEng.stack))) ∧
    (s.myEng.stack.length < 8 → let n := popQueue s.turnE
      if s.mySeat.q[n].avail s.now = 0 then exec .qpop s = .next s
      else exec .qpop s = .next ((s.stackIs (s.mySeat.q[n].head.setWidth 64 :: s.myEng.stack)).modMySeat fun a => a.modQ n fun f => f.pop s.now)) ∧
    (∀ (a : Word) (l : List Word), s.myEng.stack = a :: l →
      (∀ w : EWord, bit w 15 = true → exec (.litx w) s = .next (s.modMyEng fun c =>
        { c with stack := BitVec.ofNat 64 (a.toNat * 2 ^ 15 + w.toNat % 2 ^ 15) :: l, pc := c.pc + 2, stepped := s.now + 1 })) ∧
      (s.myEng.stack.length < 8 → exec .dup s = .next (s.stackIs (a :: a :: l))) ∧
      exec .drop s = .next (s.stackIs l) ∧
      (∀ n : Fin 64, exec (.shlw n) s = .next (s.stackIs (BitVec.ofNat 64 (a.toNat * 2 ^ n.val) :: l)))) ∧
    ∀ (t u : Word) (l : List Word), s.myEng.stack = t :: u :: l →
      exec .swap s = .next (s.stackIs (u :: t :: l)) ∧
      (s.myEng.stack.length < 8 → exec .over s = .next (s.stackIs (u :: t :: u :: l))) ∧
      exec .addw s = .next (s.stackIs (BitVec.ofNat 64 (u.toNat + t.toNat) :: l)) ∧
      exec .subw s = .next (s.stackIs (BitVec.ofInt 64 (u.toInt - t.toInt) :: l)) ∧
      exec .mulw s = .next (s.stackIs (BitVec.ofNat 64 (u.toNat * t.toNat) :: l))) ∧ (
  ∀ s : State,
    (∀ (d : BitVec 10) (c : Word) (l : List Word), s.myEng.stack = c :: l →
      let stop := s.stepsOn s.turn.ref s.turnE d.toNat s.myEng.pc
      if c.toInt ≤ 0 then exec (.loopw d) s = .next (s.modMyEng fun x =>
        { x with stack := l, pc := s.stepsOn s.turn.ref s.turnE 1 stop, stepped := s.now + 1 })
      else if 2 ≤ s.myEng.loops.length then WordFaults (.loopw d) s .engineStack 8
      else exec (.loopw d) s = .next (s.modMyEng fun x =>
        { x with stack := l, loops := ⟨s.myEng.pc + 1, min c.toInt.toNat (2 ^ 32 - 1), stop⟩ :: x.loops, pc := x.pc + 1, stepped := s.now + 1 })) ∧
    (∀ (f : LoopFrame) (l : List LoopFrame), s.myEng.loops = f :: l → f.stop = s.myEng.pc →
      exec .endw s = .next (s.modMyEng fun x =>
        if 1 < f.left then { x with loops := { f with left := f.left - 1 } :: l, pc := f.start, stepped := s.now + 1 }
        else { x with loops := l, pc := x.pc + 1, stepped := s.now + 1 })) ∧
    (if s.myEng.attrs.hasW || s.myEng.attrs.hasS then WordFaults .stopw s .undefOp 48
     else exec .stopw s = .next (s.modMyEng fun x => { x with running := false, pc := x.pc + 1, stepped := s.now + 1 })) ∧
    (∀ (acq : Option Scope) (n : Fin 64) (a : Word) (l : List Word), s.myEng.stack = a :: l →
      if s.myEng.attrs.hasW then WordFaults (.waitf acq n) s .undefOp 48
      else exec (.waitf acq n) s = .next (s.modMyEng fun x =>
        { x with stack := l, attrs := { x.attrs with hasW := true, w := true, wflag := n, wacc := a.setWidth 32, acq := acq },
                 pc := x.pc + 1, stepped := s.now + 1 })) ∧
    ∀ (note : Bool) (f : Fin 64) (rel : Option Scope),
      if s.myEng.attrs.hasS then WordFaults (.sigf note (.flag f rel)) s .undefOp 48 ∧ WordFaults (.sigf note (.none rel)) s .undefOp 48
      else
        exec (.sigf note (.flag f rel)) s = .next (s.modMyEng fun x =>
          { x with attrs := { x.attrs with hasS := true, note := note, s := true, sflag := f, rel := rel }, pc := x.pc + 1, stepped := s.now + 1 }) ∧
        exec (.sigf note (.none rel)) s = .next (s.modMyEng fun x =>
          { x with attrs := { x.attrs with hasS := true, note := note, s := false, rel := rel }, pc := x.pc + 1, stepped := s.now + 1 }))

/-- R165 to R173, R277 to R280, R290, R291, R237 to R241: the launch words and the number of values each pops; those of a unit that the part
lacks (R1) raise UNDEF_OP, detail ABSENT. R162, R175, R296, R297, R411: ENGINE_COMMAND_START: the head command of a seat's queue starts when
it may, with what its start read (`p`, and of the copy engine `list`, is the outcome of its checks and reads); its side is noted as served,
and the next command reaches the head. A copy command starts at its own progress record, and one of no bytes has moved; a query command sends
its jobs to their controllers. They complete. -/
def Obligations.LaunchWordsAndCommandStarts : Prop := (
  let mx (p : Part) : Bool := decide (p ≠ .mz5a)
  let attention (p : Part) : Bool := decide (p ≠ .mz9s)
  (∀ (b : Fin 8) (side half : Bool), Places (.mldt b side half) (fun _ => 1) (fun _ => 0) ∧ Places (.mstt b side half) (fun _ => 1) (fun _ => 0)) ∧
  (∀ (a : Fin 4) (f : Bool), Places (.mma a f) (fun _ => 2) (fun _ => 0) ∧ Places (.mzero a f) (fun _ => 0) (fun _ => 0)) ∧
  (∀ (b : Fin 8) (z : Fin 4), if z = 0 then Places (.mhad b z) (fun _ => 0) (fun _ => 0) else PlacesOn mx (.mhad b z) (fun _ => 0) (fun _ => 0)) ∧
  (∀ g : DrainArgs, Places (.mdrain g) (fun _ => 1 + (if g.rs then 1 else 0) + (if g.cs then 1 else 0)) (fun _ => 0)) ∧
  (∀ side : Bool, PlacesOn mx (.msrec side true) (fun _ => 1) (fun _ => 0) ∧ Places (.msrec side false) (fun _ => 0) (fun _ => 0)) ∧
  (∀ (a b : Fin 16) (sa sb : Bool), Places (.mgeom a b sa sb) (fun _ => 1) (fun _ => 0)) ∧
  (∀ g : CopyArgs, let y := if g.sync then 1 else 0
    Places (.copy g) (fun _ => 3 + g.dims.val + y) (fun _ => 0) ∧ Places (.cremote g) (fun _ => 3 + g.dims.val + y) (fun _ => 0) ∧
    Places (.cacc g) (fun _ => 3 + g.dims.val + y) (fun _ => 0) ∧ Places (.cgath g) (fun _ => 4 + y) (fun _ => 0) ∧
    Places (.cscat g) (fun _ => 4 + y) (fun _ => 0) ∧ Places (.cbcast g) (fun _ => 4 + y) (fun _ => 0) ∧
    Places (.cfill g) (fun _ => 3 + y) (fun _ => 0)) ∧
  (∀ (e4m3 : Bool) (hd : Fin 3) (y : Fin 32), PlacesOn attention (.afolio e4m3 hd) (fun _ => 1) (fun _ => 0) ∧
    PlacesOn attention (.aquery e4m3 hd y) (fun _ => 6) (fun s => s.mySeat.lex[y].b.toNat)) ∧
  PlacesOn attention .aappend (fun _ => 4) (fun _ => 0) ∧ Places .astat (fun _ => 2) (fun _ => 0)) ∧ (
  ∀ (s : State) (r : SeatRef) (e : EngineId) (i : Nat) (x y : Cmd) (j : Instr), s.engineHeld r.core = false →
    s.startable r e = some (i, x) → s.otherFirst r e x = false → x.instr e = some j →
    let live := s.core[r.core].live
    let begun (u t : State) (k : Fin 4) (z : Cmd) : Prop :=
      let q := ((u.getSeat r).getEng e).queue
      let q' := ((t.getSeat r).getEng e).queue
      q'.length = q.length ∧ q'[i]? = some { z with started := true, sent := 0 } ∧ (∀ k, k ≠ i → k ≠ i + 1 → q'[k]? = q[k]?) ∧
      q'[i + 1]? = q[i + 1]?.map (fun c => { c with headAt := u.core[r.core].cycle }) ∧ t.core[r.core].served[k] = r.seat
    let starts (P : State → Prop) : Prop := Runs (.engineCommandStart r.core e r.seat) s P
    (e = .matrix → ∀ p : Start, s.matrixStart r j x.args = .ok p → ((p.st.getSeat r).getEng e).queue[i]? = some y → starts fun t =>
      begun p.st t (servedIndex .matrix x) { y with data := p.data, todo := p.todo, dest := p.dest, due := live + p.cost } ∧
      { t with core := p.st.core } = p.st) ∧
    (e = .copy → ∀ k g, copyKind j = some (k, g) → let p := copyPlan k g x.args
      ∀ list u, s.copyStart r p = .ok (list, u) → ((u.getSeat r).getEng e).queue[i]? = some y → starts fun t =>
        let pr := ((s.getSeat r).getEng .copy).progress
        let own : Bool := pr.valid && decide (pr.acc = x.acc)
        begun u t 2 { y with data := list, due := live + 4, moved := decide (p.len = 0), i2 := if own then pr.i2 else 0,
                             i1 := if own then pr.i1 else 0, k := if own then pr.k else 0 } ∧
        { t with core := u.core, arrivals := u.arrivals } = u ∧ (p.len ≠ 0 → t.arrivals = u.arrivals)) ∧
    (e = .query → s.core[r.core].queryAt ≠ live + 1 → ∀ p : QStart, s.queryStart r j x = .ok p →
      ((p.st.getSeat r).getEng e).queue[i]? = some y → starts fun t =>
        begun p.st t 3 { y with data := p.data, dest := p.dest, due := live + p.cost } ∧ t.jobs = p.st.jobs ++ p.jobs ∧
        t.core[r.core].queryAt = p.st.core[r.core].live + 1 ∧ { t with core := p.st.core, jobs := p.st.jobs } = p.st))

/-- R253, R254, R257, R283: a command with S set signals its flag when it completes, after the work of its release when REL names a scope
(its own writes, and those it has taken up): DONE becomes its accession number when that follows DONE. A command without S signals nothing. -/
def Obligations.CommandsSignalTheirFlags : Prop :=
  ∀ (s : State) (core : Fin 904) (e : EngineId) (seat : Fin 2) (i : Nat) (x : Cmd),
    ((s.getSeat ⟨core, seat⟩).getEng e).queue[i]? = some x → x.started = true → x.moved = true →
    s.engineHeld core = false →
    let held : Prop := ∃ sc, x.attr.rel = some sc ∧ ∃ f ∈ s.flights, (f.src = .engine core e seat x.acc ∨ f.id ∈ x.fwd) ∧ f.performedAt sc = false
    (held → exec (.engineCommandComplete core e seat i) s = .next s) ∧
    (¬held → Runs (.engineCommandComplete core e seat i) s fun t => SameBytes s t ∧ { t with core := s.core } = s ∧
      ((t.getSeat ⟨core, seat⟩).getEng e).queue = dropAt i ((s.getSeat ⟨core, seat⟩).getEng e).queue ∧
      ∀ f, { t.core[core].flags[f] with heard := s.core[core].flags[f].heard } =
        if x.attr.s = true ∧ f = x.attr.sflag ∧ 1 ≤ (x.acc - s.core[core].flags[f].done).toNat ∧ (x.acc - s.core[core].flags[f].done).toNat < 2 ^ 31
        then { s.core[core].flags[f] with done := x.acc } else s.core[core].flags[f])

/-- R169: MZERO's word, its 4 core cycles, and its effect: every cell 0, MODE as given, HNORM and B 0, tag 15, and its RANGE_RISK bit 0;
nothing else of the tiles changes. MZERO and ENGINE_COMMAND_COMPLETE complete. -/
def Obligations.MzeroClearsItsAccumulator : Prop :=
  (∀ (a : Fin 4) (m : Bool), encode (.mzero a m) = 20 * 2 ^ 10 + a.val * 2 ^ 8 + (if m then 2 ^ 7 else 0)) ∧
  encode (.mzero 0 true) = 0x5080 ∧
  (∀ (s : State) (r : SeatRef) (a : Fin 4) (m : Bool) (l : List Word), s.matrixStart r (.mzero a m) l = .ok ⟨[], [], [], 4, s⟩) ∧
  ∀ (s : State) (r : SeatRef) (i : Nat) (x : Cmd) (a : Fin 4) (m : Bool), ((s.getSeat r).getEng .matrix).queue[i]? = some x →
    x.started = true → x.moved = false → x.todo = [] → x.due ≤ s.core[r.core].live → x.instr .matrix = some (.mzero a m) → x.attr.rel = none →
    s.engineHeld r.core = false →
    Runs (.engineCommandComplete r.core .matrix r.seat i) s fun t => SameBytes s t ∧
      let u := (s.getSeat r).tile
      let v := (t.getSeat r).tile
      v.a[a] = { data := 0, tag := 15, fp36 := m, hnorm := 0, budget := 0 } ∧ (∀ k, k ≠ a → v.a[k] = u.a[k]) ∧ v.b = u.b ∧
      v.matgeom = u.matgeom ∧ v.srec = u.srec ∧ (∀ k < 64, bit v.mstat k = (bit u.mstat k && decide (k ≠ a.val)))

/-- R165, R166, R168, R170: the effects of MGEOM, MSREC with on and off, MHAD, MLDT and MSTT at their completion. R87 to R94, R172: MMA: each
cell takes the product of its rows, channel by channel in the integer family and rounded in the two others, with the budget, RANGE_RISK,
HNORM, the scale indexes and T5_ILLEGAL. R173, R174: MDRAIN: each output of a cell, its scales and HNORM, to memory or to a row's vector
register, and the flags. What goes to memory is stored place by place: at once in the own slice, as a write on its way elsewhere.
ENGINE_COMMAND_COMPLETE completes for them. -/
def Obligations.MatrixRegisterCommands : Prop :=
  (∀ (s : State) (core : Fin 904) (src : Source) (p : Place) (n v : Nat), let t := s.engStore core src p n v
    (pathLen (standOf core) p.home = 0 → p.isLocal = true → Memory.wf s.mem = true → s.writeAnswer .store p n false = .ok →
      p.key + n ≤ physBase → (∀ k < n, t.byteAt (p.keyOf k) = BitVec.ofNat 8 (v / 256 ^ k)) ∧
        ∀ q, (∀ k < n, q ≠ p.keyOf k) → t.byteAt q = s.byteAt q) ∧
    (pathLen (standOf core) p.home ≠ 0 → SameBytes s t ∧ ∃ f, t.flights = s.flights ++ [f] ∧ f.src = src ∧ f.kind = .store ∧
      f.place = p ∧ f.size = n ∧ f.data = BitVec.ofNat 2048 v ∧ f.bad = false)) ∧
  ∀ (s : State) (r : SeatRef) (i : Nat) (x : Cmd), ((s.getSeat r).getEng .matrix).queue[i]? = some x →
    x.started = true → x.moved = false → x.todo = [] → x.due ≤ s.core[r.core].live → x.attr.rel = none → s.engineHeld r.core = false →
    let runs (P : State → Prop) : Prop := Runs (.engineCommandComplete r.core .matrix r.seat i) s P
    let done (P : TileFile → Prop) : Prop := runs fun t =>
      SameBytes s t ∧ (t.getSeat r).vec = (s.getSeat r).vec ∧ (t.getSeat r).tile.a = (s.getSeat r).tile.a ∧ P (t.getSeat r).tile
    let st := s.getSeat r
    let u := st.tile
    let src := x.source r .matrix
    let top := x.args.headD 0
    let row (k : Nat) : Nat := x.data.getD k 0
    let stored (t : State) (v : Nat) : Prop :=
      t.mem = (s.engStores r.core src v x.dest).mem ∧ t.flights = (s.engStores r.core src v x.dest).flights
    (∀ ta tb sa sb, x.instr .matrix = some (.mgeom ta tb sa sb) → done fun v =>
      v.b = u.b ∧ v.srec = u.srec ∧ v.mstat = u.mstat ∧ fld v.matgeom 6 4 = ta.val ∧ fld v.matgeom 2 4 = tb.val ∧ bit v.matgeom 1 = sa ∧
      bit v.matgeom 0 = sb ∧ fld v.matgeom 16 48 = fld top 0 48) ∧
    (∀ side on, x.instr .matrix = some (.msrec side on) → done fun v => v.b = u.b ∧ v.matgeom = u.matgeom ∧
      (∀ k : Fin 2, k.val = side.toNat → bit v.srec[k] 7 = on ∧ fld v.srec[k] 0 6 = 0 ∧
        fld v.srec[k] 8 56 = if on then fld top 8 56 else fld u.srec[k] 8 56) ∧
      ∀ k : Fin 2, k.val ≠ side.toNat → v.srec[k] = u.srec[k]) ∧
    (∀ b z, x.instr .matrix = some (.mhad b z) → done fun v => v.matgeom = u.matgeom ∧ v.srec = u.srec ∧
      v.b[b] = { u.b[b] with had := z } ∧ ∀ k, k ≠ b → v.b[k] = u.b[k]) ∧
    (∀ b side half, x.instr .matrix = some (.mldt b side half) → x.data.length = (if half then 64 else 128) → done fun v =>
      v.matgeom = u.matgeom ∧ v.b[b].tag.val = geoFmt u.matgeom side ∧ v.b[b].had = 0 ∧ (∀ k, k ≠ b → v.b[k] = u.b[k]) ∧
      (∀ k (h : k < x.data.length), lane v.b[b].data 512 k = x.data[k] % 2 ^ 512) ∧
      ∀ k, x.data.length ≤ k → lane v.b[b].data 512 k = lane u.b[b].data 512 k) ∧
    (∀ b side half, x.instr .matrix = some (.mstt b side half) → runs fun t =>
      stored t u.b[b].data.toNat ∧ (t.getSeat r).tile = u ∧ (t.getSeat r).vec = st.vec) ∧
    (∀ n raw, x.instr .matrix = some (.mma n raw) →
      let ta := geoFmt u.matgeom false
      let tb := geoFmt u.matgeom true
      let fam := geomFamily ta
      let ks := kStep ta tb
      let ha := st.operandHad (x.args.getD 1 0)
      let hb := st.operandHad top
      let dot (f g : List Int) : Int := ((List.range ks).map fun k => f.getD k 0 * g.getD k 0).sum
      let ints (i j : Nat) : Int :=
        dot (transform (hadSize ha) (rowEntries ta ks (row i))) (transform (hadSize hb) (rowEntries tb ks (row (64 + j))))
      let ga (i : Nat) : Group := alignRow ta (row i)
      let gb (j : Nat) : Group := alignRow tb (row (64 + j))
      let mants (i j : Nat) : Int := dot (transform (hadSize ha) (ga i).mant) (transform (hadSize hb) (gb j).mant)
      let sa (i : Nat) : Nat := row (192 + i)
      let sb (j : Nat) : Nat := row (256 + j)
      fam ≠ 0 → geomFamily tb = fam → x.data.length = (if fam = 2 then 384 else 192) → runs fun t =>
        let v := (t.getSeat r).tile
        let old (i j : Nat) : Nat := lane u.a[n].data 36 (128 * i + j)
        let new (i j : Nat) : Nat := lane v.a[n].data 36 (128 * i + j)
        let channel (c m : Nat) (i j : Nat) : Prop :=
          ((new i j / 2 ^ (12 * c) % 4096 : Nat) : Int) = ((old i j / 2 ^ (12 * c) % 4096 : Nat) + ints i j) % m
        SameBytes s t ∧ (t.getSeat r).vec = st.vec ∧ v.b = u.b ∧ v.matgeom = u.matgeom ∧ (∀ k, k ≠ n → v.a[k] = u.a[k]) ∧
        v.a[n].tag = 15 ∧ v.a[n].fp36 = u.a[n].fp36 ∧ v.a[n].hnorm.val = hadLog ha + hadLog hb ∧
        (fam = 3 → ∀ i < 64, ∀ j < 128, channel 0 4096 i j ∧ channel 1 4095 i j ∧ channel 2 4093 i j) ∧
        (fam = 2 → ∀ i < 64, ∀ j < 128, new i j = fpAdd36 (old i j) (if sa i = 255 ∨ sb j = 255 then fp36.qnan
          else fpTerm (ints i j) ((sa i : Int) + sb j - 254 - entryShift ta - entryShift tb)) % 2 ^ 36) ∧
        (fam = 1 → ∀ i < 64, ∀ j < 128, new i j = fpAdd36 (old i j) (match groupSpecial (ga i).vals (gb j).vals with
          | some y => (fp36.round .rn false y).1
          | none => fpTerm (mants i j) ((ga i).exp + (gb j).exp - 20)) % 2 ^ 36) ∧
        v.a[n].budget.toNat = (if fam = 3 then
          min (u.a[n].budget.toNat + ks * entryMax ta * max 1 (hadSize ha) * (entryMax tb * max 1 (hadSize hb))) (2 ^ 64 - 1)
          else u.a[n].budget.toNat) ∧
        (∀ k < 64, bit v.mstat k = (bit u.mstat k ||
          (decide (k = n.val) && decide (fam = 3) && decide (34326190079 < v.a[n].budget.toNat)) ||
          (decide (k = 7) && ((List.range 64).any (fun i => t5Bad ta (row i)) || (List.range 128).any fun j => t5Bad tb (row (64 + j)))))) ∧
        ∀ k : Fin 2, if fam = 2 ∧ bit u.srec[k] 7 = true then
            fld v.srec[k] 0 6 = (fld u.srec[k] 0 6 + 1) % 64 ∧ fld v.srec[k] 6 58 = fld u.srec[k] 6 58
          else v.srec[k] = u.srec[k]) ∧
    ∀ g, x.instr .matrix = some (.mdrain g) → x.data.length = 192 →
      let w := 8 * drainBytes g.ty
      let acc := u.a[g.a]
      let cell (i j : Nat) : FVal :=
        let c := lane acc.data 36 (128 * i + j)
        if acc.fp36 then fp36.dec false c else FVal.ofInt (crt36 c)
      let out (i j : Nat) : Nat × Word := drainOut g.ty
        ((((cell i j).mul (fp32.dec false (row i))).mul (fp32.dec false (row (64 + j)))).mul (hnormFactor acc.hnorm.val))
      let after (t : State) (rows : List Nat) : Prop :=
        let v := (t.getSeat r).tile
        v.b = u.b ∧ v.matgeom = u.matgeom ∧ v.srec = u.srec ∧ (∀ k, k ≠ g.a → v.a[k] = u.a[k]) ∧
        v.a[g.a] = (if g.clr then { data := 0, tag := 15, fp36 := acc.fp36, hnorm := 0, budget := 0 } else acc) ∧
        ∀ k < 64, bit v.mstat k =
          ((bit u.mstat k || rows.any fun i => (List.range 128).any fun j => bit (out i j).2 k) && !(g.clr && decide (k = g.a.val)))
      (g.vec = false → runs fun t => after t (List.range 64) ∧ (t.getSeat r).vec = st.vec ∧
        ∃ y : Nat, stored t y ∧ ∀ i < 64, ∀ j < 128, y / 2 ^ (w * (128 * i + j)) % 2 ^ w = (out i j).1 % 2 ^ w) ∧
      (g.vec = true → w ≤ 16 → let n : Fin 32 := Fin.ofNat 32 (fld top 0 5)
        (∀ z ∈ st.c.landed, ∀ d m q, z ≠ .vreg n d m q) → runs fun t =>
          let v := (t.getSeat r).vec
          after t [fld top 8 6] ∧ SameBytes s t ∧ v.tag[n] = drainTag g.ty ∧
          (∀ j < 128, lane v.v[n] w j = (out (fld top 8 6) j).1 % 2 ^ w) ∧ (∀ k, 128 * w ≤ k → v.v[n].getLsbD k = false) ∧
          ∀ m, m ≠ n → v.v[m] = st.vec.v[m] ∧ v.tag[m] = st.vec.tag[m])

/-- R287, R288: FORK starts a program at its index with an empty stack, and raises UNDEF_OP, detail NEST, while one runs; JOIN waits until the program has ended and the queue is empty, and raises UNDEF_OP, detail 18, after a program that
faulted; it takes up what the commands have released (R257). R285: FLAG_WAIT_MET: the wait of the next command is met when DONE equals the
awaited number or follows it, or the number is 0; before, nothing happens. (With no wait record ring; R286, R386.) FORK, JOIN and
FLAG_WAIT_MET complete. -/
def Obligations.ForkJoinAndFlagWaits : Prop := (
  ∀ (s : State) (e : EngineId),
    let c := s.mySeat.getEng e
    (∀ i : BitVec 16, if c.running then exec (.fork e i) s = .next (s.takeFault s.turn.ref ⟨.undefOp, 1, 0, false⟩ s.turn.stream.idx.val)
      else ∃ t, Moved s t [] s.me.advance.1 s.me.advance.2 ∧ exec (.fork e i) s = .next (t.modMySeat fun st => st.modEng e fun c =>
        { c with stack := [], loops := [], attrs := Attrs.reset, pc := i.toNat, running := true, faulted := false, forked := true,
                 packets := [], stepped := s.now + 1, full := false })) ∧
    (c.forked = true → c.faulted = true →
      exec (.join e) s = .next (s.takeFault s.turn.ref ⟨.undefOp, 18, 0, false⟩ s.turn.stream.idx.val)) ∧
    (c.forked = true → c.faulted = false → (c.running = true ∨ c.queue ≠ []) → s.me.wait = .none →
      exec (.join e) s = .next (s.modMe fun t => { t with wait := .join s.myCore.cycle })) ∧
    (c.forked = false ∨ (c.faulted = false ∧ c.running = false ∧ c.queue = []) → fld s.myCore.wrecBase 0 4 < 4 →
      s.myCore.mayMeet 0 = true →
      Runs (.join e) s fun t => (∀ i ∈ c.heard, (∃ f ∈ s.flights, f.id = i) → i ∈ t.me.fwd) ∧
        MovedBut (fun a => { a with fwd := s.me.fwd }) s (s.unmet t s.turn.ref.core) [] s.me.advance.1 s.me.advance.2)) ∧ (
  ∀ (s : State) (core : Fin 904) (e : EngineId) (seat : Fin 2) (i : Nat) (x : Cmd),
    let c := (s.getSeat ⟨core, seat⟩).getEng e
    let done := s.core[core].flags[x.attr.wflag].done
    c.head = some (i, x) → x.attr.w = true → x.met = false → c.frozen = false → s.engineHeld core = false →
    (¬(x.attr.wacc = 0 ∨ done = x.attr.wacc ∨ accFollows x.attr.wacc done = true) → exec (.flagWaitMet core e seat) s = .next s) ∧
    (x.attr.wacc = 0 ∨ done = x.attr.wacc ∨ accFollows x.attr.wacc done = true → fld s.core[core].wrecBase 0 4 < 4 →
      s.core[core].mayMeet (4 + e.idx.val) = true → Runs (.flagWaitMet core e seat) s fun t => ∃ fwd, s.unmet t core =
        s.modSeat ⟨core, seat⟩ fun st => st.modEng e fun c => { c with queue := c.queue.modify i fun x => { x with met := true, fwd := fwd } }))

/-- R298, R299, R300: SARM writes TARGET, FE and FLAG of its sync word and leaves COUNT and GEN to the loop of R299; with a flag it takes an
accession number, which the flag's PUSHED and d receive. SYNC_ARRIVAL counts bytes. (While no monitor is armed.) R301: SWAIT sends a request
to the home and waits; there the compare and the arming of a monitor are one step. Its answer ends the wait unless a monitor is armed; a
latched cut ends it too; d receives the generation. (With no wait record ring; R385.) SARM with and without a flag, SWAIT and SYNC_ARRIVAL
complete. -/
def Obligations.SyncWordsAndSwait : Prop := (
  (∀ w bytes : Nat, let r := syncAdvance w bytes
    let c := (syncCount w + bytes) % 2 ^ 32
    syncTarget r.1 = syncTarget w ∧ r.1 / 2 ^ 96 = w / 2 ^ 96 ∧ syncGen r.1 = (syncGen w + r.2) % 2 ^ 32 ∧
    (syncTarget w = 0 → r.2 = 0 ∧ syncCount r.1 = c) ∧
    (0 < syncTarget w → syncCount r.1 < syncTarget w ∧ c = r.2 * syncTarget w + syncCount r.1)) ∧
  (∀ (s : State) (a b : SSpec) (p : Place), Ready s [a, b] [.x 0] → s.gated = false → s.me.wait = .none → s.monitors = [] →
    s.syncOperand (s.peek a) .wr true = .ok p → s.drained p (s.peek a) 16 = true → s.answer p 16 true = .ok → p.isLocal = true →
    Memory.wf s.mem = true → p.key + 16 ≤ physBase → p.skew = false →
    Runs (.sarm a b) s fun t =>
      let old := s.readPlace p 16
      let armed := old / 2 ^ 104 * 2 ^ 104 + old / 2 ^ 102 % 2 * 2 ^ 102 + old / 2 ^ 32 % 2 ^ 64 * 2 ^ 32 + (s.two a b).2.toNat % 2 ^ 32
      t.readPlace p 16 = (syncAdvance armed 0).1 ∧ (∀ k, k < p.key ∨ p.key + 16 ≤ k → t.byteAt k = s.byteAt k) ∧
      t.me.pc = s.me.advance.1.pc ∧ (∀ k, t.me.rdX k = s.me.rdX k) ∧ Queues s t [a, b] none 0 0 ∧
      t.myCore.flags = s.myCore.flags ∧ t.myCore.accNext = s.myCore.accNext) ∧
  (∀ (s : State) (d a b : SSpec) (f : Fin 64) (p : Place), Ready s [a, b] [d] → s.gated = false → s.me.wait = .none → s.monitors = [] →
    s.syncOperand (s.peek a) .wr true = .ok p → inOwn s.turn.ref (s.peek a) = true → s.drained p (s.peek a) 16 = true → s.answer p 16 true = .ok →
    p.isLocal = true → Memory.wf s.mem = true → p.key + 16 ≤ physBase → p.skew = false → s.isC = false →
    Runs (.sarmFlag d a b f) s fun t =>
      let old := s.readPlace p 16
      let n : BitVec 32 := s.myCore.nextAcc.setWidth 32
      let armed := old / 2 ^ 104 * 2 ^ 104 + old / 2 ^ 102 % 2 * 2 ^ 102 + 2 ^ 103 + f.val * 2 ^ 96 + old / 2 ^ 32 % 2 ^ 64 * 2 ^ 32 +
        (s.two a b).2.toNat % 2 ^ 32
      t.readPlace p 16 = (syncAdvance armed 0).1 ∧
      (∀ k, k < p.key ∨ p.key + 16 ≤ k → t.byteAt k = s.byteAt k) ∧ t.me.pc = s.me.advance.1.pc ∧
      (∀ k, t.me.rdX k = if k ≠ 0 ∧ d = .x k then n.setWidth 64 else s.me.rdX k) ∧
      t.myCore.accNext = s.myCore.nextAcc + 1 ∧ assoc p.key t.armed = some n ∧
      (∀ k, t.myCore.flags[k] = if k = f then
          { s.myCore.flags[k] with
            kind := 3, pushed := n,
            done := if 0 < (syncAdvance armed 0).2 ∧ accFollows s.myCore.flags[k].done n = true then n else s.myCore.flags[k].done }
        else s.myCore.flags[k])) ∧
  ∀ (s : State) (i : Nat) (a : Arrival), s.arrivals[i]? = some a → (windowHome a.key).pkg = Config.thisPackage → s.monitors = [] →
    a.key + 16 ≤ physBase → Memory.wf s.mem = true → s.answer (windowPlace a.key false) 16 true = .ok →
    Runs (.syncArrival i) s fun t =>
      let p := windowPlace a.key false
      t.arrivals = dropAt i s.arrivals ∧ t.readPlace p 16 = (syncAdvance (s.readPlace p 16) a.bytes).1 % 2 ^ 128 ∧
      ∀ k, k < a.key ∨ a.key + 16 ≤ k → t.byteAt k = s.byteAt k) ∧ (
  (∀ (s : State) (d a b : SSpec) (p : Place), Ready s [a, b] [d] → s.gated = false → s.me.wait = .none →
    s.syncOperand (s.peek a) .rd false = .ok p →
    Runs (.swait d a b) s fun t => SameBytes s t ∧ t.me.pc = s.me.pc ∧ SameRegs s t ∧ t.mySeat.q = s.mySeat.q ∧
      t.me.wait = .swait p.key (s.two a b).2 d [a, b] s.myCore.cycle ∧
      ∃ l ∈ t.mySeat.loads, l.kind = .swait (s.two a b).2 ∧ l.place = p ∧ l.size = 16 ∧ l.stream = s.turn.stream ∧ l.got = none) ∧
  (∀ (s : State) (r : SeatRef) (l : LoadReq) (e : Word), l.kind = .swait e → s.answerReq r l l.place l.size = .ok →
    let t := s.homeAct r l
    let v := s.dataAt l.place l.size
    let gap := ((syncGen v : Int) - e.toNat) % 2 ^ 32
    let passed : Bool := decide (1 ≤ gap) && decide (gap < 2 ^ 31)
    SameBytes s t ∧ (∀ m ∈ (t.getSeat r).loads, m.seq = l.seq → m.got = some ⟨.ok, BitVec.ofNat 2048 v, false⟩) ∧
    if passed = false ∧ s.monitorFree l = true then ⟨⟨r, l.stream⟩, l.place⟩ ∈ t.monitors else t.monitors = s.monitors) ∧
  (∀ (s : State) (w : Who) (i : Nat) (l : LoadReq) (a : Answer) (x e : Word) (k since : Nat) (d : SSpec) (srcs : List SSpec),
    s.nthAnswer w i = some l → s.answerNow w.ref l = some a → l.kind = .swait x → (s.getStr w).wait = .swait k e d srcs since →
    a.ans = .ok → s.coreHeld w.ref.core = false →
    let armed := s.monitors.any fun m => decide (m.who = w) && decide (m.place.key = l.place.key)
    exec (.scalarAnswer w i) s = .next (if armed then s.dropLoad w.ref l
      else (s.dropLoad w.ref l).modStr w fun t => { t with wait := .passed (syncGen a.data.toNat) d srcs since })) ∧
  ∀ (s : State) (d a b d' : SSpec) (srcs : List SSpec) (since : Nat), s.classOk [a, b] [d] = true →
    (s.turn.isY = true ∨ s.myCore.mayMeet 1 = true ∧ fld s.myCore.wrecBase 0 4 < 4) →
    let ends (gen : Nat) : Prop := Runs (.swait d a b) s fun t => ScalarResult s
      (State.modMySeat { s.unmet t s.turn.ref.core with monitors := s.monitors } fun x => { x with loads := s.mySeat.loads })
      srcs d 1 2 (BitVec.ofNat 64 gen)
    (∀ gen, s.me.wait = .passed gen d' srcs since → ends gen) ∧
    ∀ k e, s.me.wait = .swait k e d' srcs since → s.mySeat.cut.latch.isSome = true → s.mySeat.arming s.turn.stream = false →
      ends (syncGen (s.dataAt (windowPlace k false) 16)))

/-- R228, R230, R233, R238 to R240, R242 to R245, R247: slices, appends and AFOLIO at their folio's controller, and ASTAT. A slice of a
stack that is shut down, in band 3 or of a retired quad scans nothing and takes no time; another begins on its unit, reads its header, and
then, unit by unit in acts of its own (log 32), the K and V rows of its tokens below the fill mark; its record stands when the unit's time
has passed, and 4 core cycles later it is performed where the command asked. An append reads its sources and writes its rows, unit by unit
(log 32), and 40 ns after it began advances FILL; its status and token are written 4 core cycles later. AFOLIO writes its header, ASTAT
its stack's record. ATTENTION_SLICE, APPEND_AT_CONTROLLER and ENGINE_COMMAND_COMPLETE complete. -/
def Obligations.StackControllerJobs : Prop :=
  (∀ (x : SliceScan) (code start : Nat), x.acc.m < 2 ^ 32 → x.acc.s < 2 ^ 32 → x.scanned < 2 ^ 8 → x.excl < 2 ^ 8 → x.first < 2 ^ 8 →
    x.bank < 2 ^ 10 → code < 2 ^ 8 → start < 2 ^ 8 → let z := recordBytes x code start
    z % 2 ^ 32 = x.acc.m ∧ z / 2 ^ 32 % 2 ^ 32 = x.acc.s ∧ z / 2 ^ 64 % 2 ^ 8 = start ∧ z / 2 ^ 72 % 2 ^ 8 = x.scanned ∧
    z / 2 ^ 80 % 2 ^ 16 = x.excl ∧ z / 2 ^ 96 % 2 ^ 14 = x.first ∧ z / 2 ^ 110 % 2 ^ 10 = x.bank ∧ z / 2 ^ 120 % 2 ^ 8 = code ∧
    z / 2 ^ 128 % 2 ^ 384 = 0 ∧ ∀ d < x.acc.acc.length, z / 2 ^ (512 + 32 * d) % 2 ^ 32 = x.acc.acc.getD d 0 % 2 ^ 32) ∧
  (∀ (s : State) (i : Nat) (j : CtlJob) (c : Cmd) (e4m3 : Bool) (hd : Fin 3) (y : Fin 32) (d : Place), s.jobs[i]? = some j →
    j.append = false → j.head = none → s.jobCmd j = some c → c.instr .query = some (.aquery e4m3 hd y) → j.dest = some d →
    let now := s.timebase.toNat
    let cyc := s.core[j.core].cycle
    let dim : Nat := 64 * 2 ^ hd.val
    let nb : Nat := if e4m3 then dim else 2 * dim
    let nothing : SliceScan := ⟨⟨0xFF800000, 0, List.replicate dim 0⟩, 0, 0, 255, 0⟩
    let code : Nat := if s.stackDown j.folio then 5 else if s.stackBand j.folio = 3 then 1 else if s.quadRetired j.folio then 2 else 0
    let stands (t : State) (o : JobOut) : Prop :=
      SameBytes s t ∧ t.flights = s.flights ∧ t.jobs[i]? = some { j with out := some o } ∧ ∀ k, k ≠ i → t.jobs[k]? = s.jobs[k]?
    let timed (t : State) (since ns z : Nat) : Prop := stands t (.running (since + ns) z) ∧
      assoc (unitOf j.folio) t.unitFree = some (since + ns + if s.stackBand j.folio = 2 then ns else 0)
    (j.out = none → code ≠ 0 → j.at' ≤ cyc →
      exec (.attentionSlice i) s = .next (s.setOut i (.leaving cyc (recordBytes nothing code j.first)))) ∧
    (j.out = none → code = 0 → s.jobReady i j = true → s.unitReady (unitOf j.folio) = true →
      let h := s.dataAt j.folio 8
      let fits : Prop := headerValid h = true ∧ (h / 2 ^ 4 % 2 = if e4m3 then 1 else 0) ∧ h / 2 ^ 7 % 4 = hd.val
      (s.answer j.folio 8 true ≠ .ok → Runs (.attentionSlice i) s fun t => timed t now 64 (recordBytes nothing 3 j.first)) ∧
      (s.answer j.folio 8 true = .ok → ¬fits → Runs (.attentionSlice i) s fun t => timed t now 64 (recordBytes nothing 4 j.first)) ∧
      (s.answer j.folio 8 true = .ok → fits → Runs (.attentionSlice i) s fun t =>
        stands t (.scanning now j.first (min (j.first + j.len) (h / 2 ^ 9 % 128)) [] nothing))) ∧
    (∀ since n stop us x, j.out = some (.scanning since n stop us x) → let t := s.jobRowAct i
      if s.stackDown j.folio then stands t (.leaving cyc (recordBytes nothing 5 j.first))
      else if stop ≤ n then
        timed t since (64 + (x.scanned + x.excl) * (nb / 16 + 8) + 12 * x.excl) (recordBytes x 0 j.first)
      else
        let at' : Nat := if us.length < nb / 32 then 0x400 + 0x400 * n + 32 * us.length
          else 0x600 + 0x400 * n + 32 * (us.length - nb / 32)
        let l := us ++ [s.readUnit (folioAt j.folio at')]
        if l.length < 2 * (nb / 32) then stands t (.scanning since n stop l x)
        else ∃ z : SliceScan, stands t (.scanning since (n + 1) stop [] z) ∧
          (∀ o, unitError l = some o → z.acc = x.acc ∧ z.scanned = x.scanned ∧ z.excl = x.excl + 1 ∧
            z.first = (if x.first = 255 then n else x.first) ∧ z.bank = if x.first = 255 then bankId o else x.bank) ∧
          (unitError l = none → c.data.length = dim → x.acc.acc.length = dim →
            let q (d : Nat) := mul32 (c.data.getD d 0) (fld (c.args.getD 2 0) 0 32)
            let key (d : Nat) := rowElem e4m3 (joinUnits ((unitData l).take (nb / 32))) d
            let val (d : Nat) := rowElem e4m3 (joinUnits ((unitData l).drop (nb / 32))) d
            let score := (List.range dim).foldl (fun sc d => fma32 (q d) (key d) sc) 0
            let mn := max32 x.acc.m score
            let a := if x.acc.m = 0xFF800000 then 0 else exp2S (sub32 x.acc.m mn)
            let p := exp2S (sub32 score mn)
            z.scanned = x.scanned + 1 ∧ z.excl = x.excl ∧ z.first = x.first ∧ z.bank = x.bank ∧ z.acc.m = mn ∧
            z.acc.s = fma32 x.acc.s a p ∧ z.acc.acc.length = dim ∧
            ∀ d < dim, z.acc.acc.getD d 0 = fma32 p (val d) (mul32 (x.acc.acc.getD d 0) a))) ∧
    (∀ u x, j.out = some (.running u x) →
      exec (.attentionSlice i) s = .next (if u ≤ now then s.setOut i (.leaving cyc x) else s)) ∧
    ∀ u x, j.out = some (.leaving u x) → let n := 64 + 4 * dim
      (cyc < u + 4 → exec (.attentionSlice i) s = .next s) ∧
      (u + 4 ≤ cyc → Memory.wf s.mem = true → s.writeAnswer .store d n false = .ok → d.isLocal = true → d.key + n ≤ physBase →
        d.skew = false → Runs (.attentionSlice i) s fun t => t.jobs = dropAt i s.jobs ∧
          (∀ k < n, t.byteAt (d.key + k) = BitVec.ofNat 8 (x / 256 ^ k)) ∧
          ∀ k, k < d.key ∨ d.key + n ≤ k → t.byteAt k = s.byteAt k)) ∧
  (∀ (s : State) (i : Nat) (j : CtlJob) (c : Cmd), s.jobs[i]? = some j → j.append = true → j.head = none → s.jobCmd j = some c →
    let now := s.timebase.toNat
    let cyc := s.core[j.core].cycle
    let p := j.folio
    let stands (t : State) (o : JobOut) : Prop :=
      SameBytes s t ∧ t.flights = s.flights ∧ t.jobs[i]? = some { j with out := some o } ∧ ∀ k, k ≠ i → t.jobs[k]? = s.jobs[k]?
    let moved (t : State) (o : JobOut) : Prop :=
      t.flights = s.flights ∧ t.jobs[i]? = some { j with out := some o } ∧ ∀ k, k ≠ i → t.jobs[k]? = s.jobs[k]?
    let homely : Prop := p.isLocal = true ∧ p.skew = false ∧ physBase ≤ p.key ∧ kindOf p.key = 0 ∧ p.key % 2 ^ 17 = 0 ∧
      Memory.wf s.mem = true
    let wrote (t : State) (at' n : Nat) (v : Nat) : Prop := t.readPlace (folioAt p at') n = v % 2 ^ (8 * n) ∧
      ∀ k, k < p.key + at' ∨ p.key + at' + n ≤ k → t.readKeyed p.slot k = s.readKeyed p.slot k
    (j.out = none → s.jobReady i j = true → s.appendFree j = true → Runs (.appendAtController i) s fun t =>
      if s.stackDown p then stands t (.running (now + 40) (3 * 2 ^ 32))
      else if s.answer p 8 true ≠ .ok then stands t (.running (now + 40) (4 * 2 ^ 32))
      else stands t (.moving (now + 40) (s.dataAt p 8) [] 0)) ∧
    (∀ u h rd wr, j.out = some (.moving u h rd wr) → s.stackDown p = false →
      let n : Nat := if headerValid h then 64 * 2 ^ (h / 2 ^ 7 % 4) * (if h / 2 ^ 4 % 2 = 1 then 1 else 2) / 32 else 2
      let fill := h / 2 ^ 9 % 128
      let t := s.jobRowAct i
      (rd.length < 2 * n →
        let va : Word := if rd.length < n then c.args.getD 2 0 + BitVec.ofNat 64 (32 * rd.length)
          else c.args.getD 1 0 + BitVec.ofNat 64 (32 * (rd.length - n))
        let q := windowPlace va.toNat false
        if inOwn ⟨j.core, j.seat⟩ va = true ∧ s.answer q 32 false = .ok then stands t (.moving u h (rd ++ [s.dataAt q 32]) wr)
        else stands t (.running u (4 * 2 ^ 32))) ∧
      (2 * n ≤ rd.length → headerValid h = false → stands t (.running u (2 * 2 ^ 32))) ∧
      (2 * n ≤ rd.length → headerValid h = true → fill = 64 → stands t (.running u (2 ^ 32))) ∧
      (2 * n ≤ rd.length → headerValid h = true → fill < 64 → wr < 2 * n → s.folioScanned j = false → homely →
        let at' : Nat := if wr < n then 0x400 + 0x400 * fill + 32 * wr else 0x600 + 0x400 * fill + 32 * (wr - n)
        s.writeAnswer .store (folioAt p at') 32 true = .ok → moved t (.moving u h rd (wr + 1)) ∧ wrote t at' 32 (rd.getD wr 0)) ∧
      (2 * n ≤ rd.length → headerValid h = true → fill < 64 → 2 * n ≤ wr → u ≤ now → s.fwdDone c = true → homely →
        s.writeAnswer .store p 8 true = .ok →
        let old := s.dataAt p 8
        Runs (.appendAtController i) s fun t => moved t (.leaving cyc fill) ∧
          wrote t 0 8 (old % 2 ^ 9 + 2 ^ 9 * (fill + 1) + 2 ^ 16 * (old / 2 ^ 16)))) ∧
    (∀ u h rd wr, j.out = some (.moving u h rd wr) → now < u ∨ s.stackDown p = true → exec (.appendAtController i) s = .next s) ∧
    (∀ u h rd wr, j.out = some (.moving u h rd wr) → s.stackDown p = true → stands (s.jobRowAct i) (.running u (3 * 2 ^ 32))) ∧
    (∀ u y, j.out = some (.running u y) → exec (.appendAtController i) s = .next (if u ≤ now then s.setOut i (.leaving cyc y) else s)) ∧
    ∀ u x, j.out = some (.leaving u x) →
      (cyc < u + 4 → exec (.appendAtController i) s = .next s) ∧
      (u + 4 ≤ cyc → j.dest = none → exec (.appendAtController i) s = .next { s with jobs := dropAt i s.jobs }) ∧
      ∀ d, u + 4 ≤ cyc → j.dest = some d → Memory.wf s.mem = true → s.writeAnswer .store d 8 false = .ok → d.isLocal = true →
        d.key + 8 ≤ physBase → d.skew = false → Runs (.appendAtController i) s fun t => t.jobs = dropAt i s.jobs ∧
          (∀ k < 8, t.byteAt (d.key + k) = BitVec.ofNat 8 (x / 256 ^ k)) ∧
          ∀ k, k < d.key ∨ d.key + 8 ≤ k → t.byteAt k = s.byteAt k) ∧
  (∀ (s u : State) (r : SeatRef) (e4m3 : Bool) (hd : Fin 3) (c : Cmd) (p : Place), s.folioCheck r (c.args.getD 0 0) .wr = .ok (p, u) →
    let h : Nat := 10 + 16 * e4m3.toNat + 128 * hd.val
    ∃ j, s.queryStart r (.afolio e4m3 hd) c = .ok ⟨[], [], [j], 0, u⟩ ∧ j.core = r.core ∧ j.seat = r.seat ∧ j.acc = c.acc ∧
      j.head = some h ∧ j.folio = p ∧ j.at' = s.core[r.core].cycle + (s.latency (standOf r.core) p false - 4) ∧ j.out = none) ∧
  (∀ (s : State) (i : Nat) (j : CtlJob) (c : Cmd) (h : Nat), s.jobs[i]? = some j → s.jobCmd j = some c → j.head = some h →
    let p := j.folio
    let cyc := s.core[j.core].cycle
    let t := s.jobRowAct i
    (j.out = none → s.jobReady i j = true → s.appendFree j = true →
      t.jobs[i]? = some { j with out := some (.leaving cyc 0) } ∧ (s.stackDown p = true → SameBytes s t) ∧
      (s.stackDown p = false → p.isLocal = true → p.skew = false → physBase ≤ p.key → kindOf p.key = 0 → p.key % 2 ^ 17 = 0 →
        Memory.wf s.mem = true → s.writeAnswer .store p 64 true = .ok → t.readPlace p 64 = h % 2 ^ 512 ∧
        ∀ k, k < p.key ∨ p.key + 64 ≤ k → t.readKeyed p.slot k = s.readKeyed p.slot k)) ∧
    (j.out = none → s.jobReady i j = false ∨ s.appendFree j = false → t = s) ∧
    ∀ u x, j.out = some (.leaving u x) → t = if u + 4 ≤ cyc then { s with jobs := dropAt i s.jobs } else s) ∧
  ∀ (s : State) (r : SeatRef) (i : Nat) (x : Cmd) (p : Place), ((s.getSeat r).getEng .query).queue[i]? = some x →
    x.started = true → x.moved = false → x.due ≤ s.core[r.core].live → s.queryEnded r x = true →
    (s.getSeat r).mayCount s.core[r.core].cycle = true → x.attr.rel = none → s.engineHeld r.core = false →
    x.instr .query = some .astat → x.dest = [(p, 64)] → p.isLocal = true → p.key + 64 ≤ physBase → p.skew = false →
    Memory.wf s.mem = true → s.writeAnswer .store p 64 false = .ok →
    Runs (.engineCommandComplete r.core .query r.seat i) s fun t => ∃ v : Nat,
      (∀ k < 64, t.byteAt (p.key + k) = BitVec.ofNat 8 (v / 256 ^ k)) ∧
      (∀ k, k < p.key ∨ p.key + 64 ≤ k → t.byteAt k = s.byteAt k) ∧
      let n := (x.args.getD 1 0).toNat
      (n < 24 → s.stackHere n = false → v = 2 * 2 ^ 32) ∧
      ∀ h : n < 24, s.stackHere n = true → let k := s.stack[n]
        k.refi < 2 ^ 16 → v % 2 ^ 16 = k.refi ∧ v / 2 ^ 16 % 2 ^ 16 = ((List.range 256).countP fun b => k.retired.getLsbD b) ∧
          v / 2 ^ 32 % 2 ^ 4 = (if k.down then 1 else 0) ∧ v / 2 ^ 36 % 2 ^ 4 = k.band.val ∧
          v / 2 ^ 40 % 2 ^ 8 = (BitVec.ofInt 8 k.reading).toNat ∧ v / 2 ^ 48 % 2 ^ 16 = 0 ∧
          v / 2 ^ 64 % 2 ^ 32 = k.ueCount % 2 ^ 32 ∧ v / 2 ^ 96 % 2 ^ 32 = k.ceCount % 2 ^ 32 ∧ v / 2 ^ 128 = 0

/-! ## System -/

/-- R182 to R185, R357: SRR and SRW reach the registers their stream may reach, raise UNDEF_OP for an undefined number and PERM, detail
SYSREG, for another; in C a write happens two schedule cycles later. HUB_DATA (0x08F2) stands for the register that the hub register
window selects, for SRR, SRW and HUB_DATA_ACCESS alike. QCNT counts entries, QCNT.free what is left of the depth. Events counted in the
core cycle of a write to PERF_CNT are added to what it writes (R383). The values that registers keep of
a write are those of R5, R30, R50, R129, R188, R342 and R405; that COMMA_LIMIT keeps the low 32 bits of a value from 2^32 up is the model's
choice (log 19). SRR, SRW, QCNT, QCNT.free and HUB_DATA_ACCESS complete. -/
def Obligations.SystemRegisters : Prop :=
  (∀ (s : State) (i : BitVec 16) (a : SSpec),
    let perm : Flt := ⟨.perm, 16, 0, false⟩
    let faults (j : Instr) (f : Flt) : Prop := exec j s = .next (s.takeFault s.turn.ref f s.turn.stream.idx.val)
    let hub := s.hubSelect (coreDie s.turn.ref.core)
    (sysregDefined i.toNat = false → faults (.srr a i) ⟨.undefOp, 0, 0, false⟩ ∧ faults (.srw a i) ⟨.undefOp, 0, 0, false⟩) ∧
    (sysregDefined i.toNat = true → Ready s [] [a] →
      if srrAllowed s.turn.isY i.toNat = false then faults (.srr a i) perm
      else if i = 0x08F2 then match hub with
        | none => faults (.srr a i) perm
        | some h => Runs (.srr a i) s fun t => ScalarResult s t [] a 1 2 (s.hubDataRead h)
      else Runs (.srr a i) s fun t => ScalarResult s t [] a 1 2 (s.sysRead s.turn i.toNat)) ∧
    (sysregDefined i.toNat = true → Ready s [a] [] →
      if s.srwAllowed s.turn i.toNat = false then faults (.srw a i) perm
      else if i = 0x08F2 then match hub with
        | some (.reg w n) => if s.hubWritable (coreDie s.turn.ref.core) (.reg w n) then
              Runs (.srw a i) s fun t => t.turn = s.turn ∧ t.me.pc = (s.sysWrite w n (s.peek a)).me.advance.1.pc ∧
                t.sysRead w n = (s.sysWrite w n (s.peek a)).sysRead w n
            else faults (.srw a i) perm
        | _ => faults (.srw a i) perm
      else if s.isC then Runs (.srw a i) s fun t => Keeps s t ∧ WentOn s t ∧ SameRegs s t ∧ Queues s t [a] none 0 0 ∧
        t.mySeat.c.pipe = s.mySeat.c.pipe ++ [⟨s.mySeat.c.clock + 2, .sysreg i (s.peek a)⟩]
      else Runs (.srw a i) s fun t => Moved (s.sysWrite s.turn i.toNat (s.peek a)) t [a] s.me.advance.1 s.me.advance.2)) ∧
  (∀ (s : State) (d : Fin 8), let perm : Flt := ⟨.perm, 16, 0, false⟩
    let refused : State := s.takeFault (sysRef d) perm 0
    match s.hubSelect d with
    | none => exec (.hubDataAccess d none) s = .next refused ∧ ∀ v, exec (.hubDataAccess d (some v)) s = .next refused
    | some (.reg w n) => exec (.hubDataAccess d none) s = .next s ∧
        ∀ v, exec (.hubDataAccess d (some v)) s = .next (if s.hubWritable d (.reg w n) then s.sysWrite w n v else refused)
    | some _ => exec (.hubDataAccess d none) s = .next s ∧ ∀ v, exec (.hubDataAccess d (some v)) s = .next refused) ∧
  (∀ (s : State) (w : Who) (v : Word), let rd (n : Nat) : Word := (s.sysWrite w n v).sysRead w n
    rd 0x0400 = v &&& ~~~3 ∧ rd 0x0108 = v &&& ~~~3 ∧ rd 0x0109 = (if v.toNat < 1024 then 1024 else v &&& 0xFFFFFFFF) ∧
    rd 0x0408 = v ∧ rd 0x0409 = v ∧ rd 0x0302 = v &&& 0xFF ∧ rd 0x0403 = v &&& 0x3F03 ∧ rd 0x0300 = (if v.toNat ≤ 256 then v else 256) ∧
    rd 0x0301 = v &&& 127 ∧ rd 0x0002 = BitVec.ofNat 64 (min (max v.toNat 8) 1024) ∧ rd 0x0800 = v &&& ~~~0xF0000000000#64 ∧
    (∀ k : Fin 16, rd (0x0500 + k.val) = v + (s.getSeat w.ref).sys.perfNow[k] ∧ rd (0x0510 + k.val) = v &&& 0x800FFFFF) ∧ rd 0x0900 &&& 0xF00 = BitVec.ofNat 64 (256 * min (v.toNat / 256) 12) ∧
    rd 0x0901 = v &&& 0xFFFF) ∧
  ∀ (s : State) (d : SSpec) (n : Fin 16), Ready s [] [d] →
    Runs (.qcnt d n) s (fun t => ScalarResult s t [] d 1 2 (BitVec.ofNat 64 (s.mySeat.q[n].avail s.now))) ∧
    Runs (.qcntFree d n) s (fun t => ScalarResult s t [] d 1 2 (BitVec.ofNat 64 (qDepth n - s.mySeat.q[n].avail s.now)))

/-- R321, R325: SYMRD reads a doubleword of a symbol's entry; SYMSET leaves what it sets for the next cut (R324), which it makes pending.
SYMRD, SYMSET.b, SYMSET.pol and SYMSET.clr complete. -/
def Obligations.LexiconInstructions : Prop :=
  (∀ (s : State) (d : SSpec) (y : Fin 32) (w : Fin 8), Ready s [] [d] →
    let e := s.mySeat.lex[y]
    ∃ v, Runs (.symrd d y w) s (fun t => ScalarResult s t [] d 2 2 v) ∧
      (w = 0 → fld v 40 24 = e.hi.toNat ∧ fld v 16 24 = e.lo.toNat ∧ fld v 14 2 = e.npol.toNat ∧ bit v 10 = e.setc ∧ bit v 9 = e.setp ∧
        bit v 8 = e.setb ∧ fld v 6 2 = e.policy.toNat ∧ fld v 3 3 = e.state.toNat ∧ fld v 0 3 = 0) ∧
      (w = 1 → fld v 40 24 = e.b.toNat ∧ fld v 16 24 = e.p.toNat ∧ fld v 0 16 = 0) ∧
      (w = 2 → fld v 40 24 = e.p1.toNat ∧ fld v 16 24 = e.sb.toNat ∧ fld v 0 8 = e.samples.toNat) ∧
      (w = 3 → fld v 32 32 = e.span0.toNat ∧ fld v 0 32 = e.frozen.toNat) ∧
      (w = 4 → fld v 32 32 = e.late.toNat ∧ fld v 0 32 = e.early.toNat) ∧
      (w = 5 → fld v 40 24 = e.fvalue.toNat ∧ fld v 0 24 = e.maxs.toNat) ∧
      (w = 6 → ∀ k < 8, fld v (8 * k) 8 = (e.bkt[k]?.getD 0).toNat) ∧
      (w = 7 → ∀ k < 8, fld v (8 * k) 8 = (e.bkt[8 + k]?.getD 0).toNat)) ∧
  (∀ (s : State) (a : SSpec) (y : Fin 32), Ready s [a] [] →
    let done (t : State) (f : LexEntry → LexEntry) : Prop :=
      Moved (s.modMySeat fun st => ({ st with lex := vmod st.lex y f } : Seat).latchCut) t [a] s.me.advance.1 s.me.advance.2
    Runs (.symsetB a y) s (fun t => done t fun e =>
      { e with sb := BitVec.ofNat 24 (min (max (s.peek a).toNat e.lo.toNat) e.hi.toNat), setb := true }) ∧
    if 2 < (s.peek a).toNat then
      exec (.symsetPol a y) s = .next (s.takeFault s.turn.ref ⟨.undefOp, 60, 0, false⟩ s.turn.stream.idx.val)
    else Runs (.symsetPol a y) s fun t => done t fun e => { e with npol := (s.peek a).setWidth 2, setp := true }) ∧
  ∀ (s : State) (y : Fin 32), Runs (.symsetClr y) s fun t =>
    Moved (s.modMySeat fun st => ({ st with lex := vmod st.lex y fun e => { e with setc := true } } : Seat).latchCut) t []
      s.me.advance.1 s.me.advance.2

/-- R349 to R351, R360, R370: the translation, key, catalogue and code instructions. A TLBI is on its way when its stream goes on, and
takes the entries it names from every TLB it reaches; TLBFENCE ends once the TLBIs of its die are complete (which may be longer
than R350 asks: log 28); KEYLD (here with no monitor
armed and no slice running under the slot's key) takes a key record from the hub SRAM, which it zeroes; CODESYNC has XFENCE's conditions,
then waits for the fills begun before. TLBI.page, TLBI.asid, TLBI.all, TLBI.va, TLBFENCE, KEYLD, KEYLD.clr, CAPQ and CODESYNC complete. -/
def Obligations.TranslationKeysAndCode : Prop :=
  (∀ (s : State) (a b : SSpec),
    let done (i : Instr) (srcs : List SSpec) (page : Option Nat) (asid : Option (BitVec 16)) : Prop := Ready s srcs [] → Runs i s fun t =>
      Moved { s with shoots := s.shoots ++ [⟨coreDie s.turn.ref.core, page, asid, none⟩], seq := s.seq + 1 } t srcs s.me.advance.1
        s.me.advance.2
    done (.tlbiPage a b) [a, b] (some (s.two a b).1.toNat) (some ((s.two a b).2.setWidth 16)) ∧
    done (.tlbiAsid b) [b] none (some ((s.peek b).setWidth 16)) ∧ done .tlbiAll [] none none ∧
    done (.tlbiVa a) [a] (some (s.peek a).toNat) none) ∧
  (∀ (s : State) (i : Nat) (x : Shoot) (c : Fin 904) (k : Fin 2) (e : TlbEntry), s.shoots[i]? = some x →
    let named : Prop := (∀ va, x.page = some va → e.base ≤ va ∧ va < e.base + e.size) ∧ ∀ a, x.asid = some a → e.asid = a
    let old := s.core[c].seat[k]
    let new := (s.shootCore i c).core[c].seat[k]
    (e ∈ new.tlbK ↔ e ∈ old.tlbK ∧ ¬named) ∧ (e ∈ new.tlbL ↔ e ∈ old.tlbL ∧ ¬named) ∧ (e ∈ new.tlbS ↔ e ∈ old.tlbS ∧ ¬named)) ∧
  (∀ s : State, let d := coreDie s.turn.ref.core
    if ∀ x ∈ s.shoots, x.die = d → s.shootDone x = true then
      Runs .tlbfence s fun t => Moved { s with shoots := s.shoots.filter fun x => decide (x.die ≠ d) } t [] s.me.advance.1 s.me.advance.2
    else exec .tlbfence s = s.stall none) ∧
  (∀ (s : State) (a b : SSpec), Ready s [a, b] [] →
    let va := s.peek a
    let k : Fin 64 := Fin.ofNat 64 (fld (s.two a b).2 0 6)
    let p := windowPlace va.toNat false
    let faults (f : Flt) : Prop := exec (.keyld a b) s = .next (s.takeFault s.turn.ref f s.turn.stream.idx.val)
    (va.toNat % 64 ≠ 0 → faults ⟨.align, 0, va, false⟩) ∧
    (va.toNat % 64 = 0 → inHubOf (coreDie s.turn.ref.core) va = false → faults ⟨.perm, 14, va, false⟩) ∧
    (va.toNat % 64 = 0 → inHubOf (coreDie s.turn.ref.core) va = true → s.drained p va 64 = true → s.answer p 64 true = .ok →
      let r : BitVec 512 := BitVec.ofNat 512 (s.dataAt p 64)
      (r.extractLsb' 0 256 = r.extractLsb' 256 256 → faults ⟨.perm, 74, va, false⟩) ∧
      (r.extractLsb' 0 256 ≠ r.extractLsb' 256 256 → s.keyBusy k = true → exec (.keyld a b) s = s.stall none) ∧
      (r.extractLsb' 0 256 ≠ r.extractLsb' 256 256 → s.keyBusy k = false → s.monitors = [] → Memory.wf s.mem = true →
          Runs (.keyld a b) s fun t =>
        t.keys = s.keys.set k r ∧ (∀ n < 64, bit t.keyStat n = (bit s.keyStat n || decide (n = k.val))) ∧
        (∀ n, t.byteAt n = if va.toNat ≤ n ∧ n < va.toNat + 64 then 0 else s.byteAt n) ∧
        Moved { s.noteCorr (some s.turn.ref) (windowPlace va.toNat false) 64 with
          keys := t.keys, keyStat := t.keyStat, mem := t.mem, poison := t.poison, corr := t.corr, carried := t.carried } t [a, b]
          s.me.advance.1 s.me.advance.2))) ∧
  (∀ (s : State) (b : SSpec), Ready s [b] [] → s.keyBusy (Fin.ofNat 64 (fld (s.peek b) 0 6)) = false → Runs (.keyldClr b) s fun t =>
    (∀ n < 64, bit t.keyStat n = (bit s.keyStat n && decide (n ≠ fld (s.peek b) 0 6))) ∧
    Moved { s with keyStat := t.keyStat } t [b] s.me.advance.1 s.me.advance.2) ∧
  (∀ (s : State) (d : SSpec) (i : BitVec 16) (p : Fin 8), Ready s [] [d] → s.pFree ⟨p.val, by omega⟩ = true →
    let v := (s.catEntry i.toNat).getD 0
    let found := (s.catEntry i.toNat).isSome
    (i.toNat = 13 → v = s.secctr) ∧ (found = decide (i.toNat ≤ 13)) ∧
    Runs (.capq d i p) s fun t => Keeps s t ∧ WentOn s t ∧ t.me.t = s.me.t ∧ Queues s t [] (some d) 1 (v.setWidth 2048) ∧
      (∀ n, t.me.rdX n = if !s.isC && decide (d = .x n) && decide (n ≠ 0) then v else s.me.rdX n) ∧
      (∀ n, t.me.rdP n = if !s.isC && decide (n.val = p.val) && decide (n ≠ 0) then found else s.me.rdP n) ∧
      t.mySeat.c.pipe = s.mySeat.c.pipe ++ if s.isC then pipeEntry s.mySeat.c.clock 2 d v ++
        (if p = 0 then [] else [⟨s.mySeat.c.clock + 2, .preg ⟨p.val, by omega⟩ found⟩]) else []) ∧
  ∀ s : State,
    (∀ t l n, s.me.wait = .codesync t l (some n) →
      if s.codeAcquired n then Runs .codesync s fun u => Moved s u [] s.me.advance.1 s.me.advance.2 else exec .codesync s = s.stall none) ∧
    (∀ t l, (s.me.wait = .codesync t l none ∨ (s.me.wait = .none ∧ t = s.myCore.cycle ∧ l = s.mySeat.cmds)) →
      ∃ f, exec .codesync s = .next (s.modMe fun a => { a with wait := .codesync t l f }) ∧
      (f = none ∨ f = some s.seq) ∧ (f ≠ none → s.xfenceMet t = true ∧ ∀ c ∈ l, c ∉ s.mySeat.cmds)) ∧
    (s.me.wait = .none → s.xfenceMet s.myCore.cycle = true → s.mySeat.cmds = [] →
      exec .codesync s = .next (s.modMe fun a => { a with wait := .codesync s.myCore.cycle [] (some s.seq) }))

/-! ## Boards -/

/-- R331, R332: PVIEW posts and waits; BOARD_ROUND processes the posts that have arrived at one board. Here one post has arrived (and no
monitor is armed): a free slot is taken at the next level, a slot already posted answers with its own level and BSTATUS 1; the view holds
the slots posted at that level or below. PVIEW completes with its post sent; BOARD_ROUND completes with the answer. -/
def Obligations.PviewAndRounds : Prop :=
  (∀ (s : State) (g : PviewArgs) (p : Place), s.classOk [g.a, g.b] [g.d] = true → s.blocked [g.a, g.b, .x g.k] [g.d] = none →
    s.gated = false → s.me.wait = .none →
    let va := (s.two g.a g.b).1
    s.check s.turn va 64 .at' false false = (.ok p, s) → isWindow va = true → inBoardRegion va.toNat = true → p.isLocal = true →
    s.drained p va 64 = true → s.answer p 64 true = .ok →
    let u := s.noteCorr (some s.turn.ref) p 64
    let d1 : Word := BitVec.ofNat 64 (s.dataAt p 64 / 2 ^ 64 % 2 ^ 64)
    (boardValid d1 = false → exec (.pview g) s = .next (u.takeFault s.turn.ref ⟨.board, 64, va, false⟩ s.turn.stream.idx.val)) ∧
    (boardValid d1 = true → s.relMet s.turn (boardScope d1) s.seq = true →
      exec (.pview g) s = .next (State.modMe
        { u with posts := s.posts ++ [⟨s.seq, some s.turn, Config.thisPackage, callRank s.turn, va.toNat, s.me.rdX g.k, (s.two g.a g.b).2, d1,
                                   s.relIds s.turn.ref s.turn.stream s.seq, false⟩], seq := s.seq + 1 }
        fun t => { t with wait := .board s.seq g.d g.n [g.a, g.b] }))) ∧
  ∀ (s : State) (a : Nat) (late : List Nat) (p : Post) (w : Who) (d : SSpec) (vm : Fin 4) (srcs : List SSpec),
    s.arrivedPosts a late = [p] → p.who = some w → (s.getStr w).wait = .board p.id d vm srcs → w.stream ≠ .C →
    s.monitors = [] → Memory.wf s.mem = true → HomeUp s a → a % 64 = 0 → a + 2 ^ 15 ≤ 2 ^ 41 →
    a % 2 ^ 22 + 2 ^ 15 ≤ 2 ^ 22 → s.coreHeld w.ref.core = false → p.full = false →
    let h := s.boardHdr a
    let ends (k : Nat) : Prop := ∃ t : State, t.posts = s.posts.filter (fun q => decide (q ≠ p)) ∧ t = { s with posts := t.posts } ∧
      exec (.boardRound a late) s = .next ((t.modStr w fun x => { x with wait := .none }).takeFault w.ref
        ⟨.board, k, BitVec.ofNat 64 p.board, false⟩ w.stream.idx.val)
    let refusal := h.refuses (some (callerDie w))
    (∀ k, refusal = some k → ends k) ∧
    (refusal = none → h.slots ≤ p.slot → ends 65) ∧
    (refusal = none → p.slot < h.slots → p.edition ≠ h.edition → ends 66) ∧
    (refusal = none → p.slot < h.slots → p.edition = h.edition → h.level + 1 < 2 ^ 32 → h.posted + 1 < 2 ^ 11 →
      let old := s.slotState a p.slot
      let lvl := if old.1 then old.2 else h.level + 1
      Runs (.boardRound a late) s fun t =>
        t.posts = s.posts.filter (fun q => decide (q ≠ p)) ∧ t.turn = s.turn ∧
        (t.getStr w).wait = .none ∧ (t.getStr w).pc = (s.getStr w).advance.1.pc ∧
        (∀ k, (t.getStr w).rdX k = if k ≠ 0 ∧ d = .x k then BitVec.ofNat 64 lvl else (s.getStr w).rdX k) ∧
        fld (t.getSeat w.ref).sys.bstatus 0 3 = (if old.1 then 1 else 0) ∧
        (∀ u < 1024, (t.getSeat w.ref).vm[vm].getLsbD u =
          (decide (u < h.slots) && (t.slotState a u).1 && decide ((t.slotState a u).2 ≤ lvl))) ∧
        if old.1 then SameBytes s t
        else
          (t.boardHdr a).edition = h.edition ∧ (t.boardHdr a).level = lvl ∧ (t.boardHdr a).posted = h.posted + 1 ∧
          t.slotState a p.slot = (true, lvl) ∧ t.homeWord (a + 72 + 16 * p.slot) = p.value ∧
          ∀ k, (k < a ∨ a + 8 ≤ k) → (k < a + 16 ∨ a + 24 ≤ k) → (k < a + 64 + 16 * p.slot ∨ a + 80 + 16 * p.slot ≤ k) →
            t.byteAt k = s.byteAt k)

/-- R335, R336: BREAD, BREAD.lvl and BINFO read a board; BRESET clears it and gives it the next edition, unless the edition differs
(BSTATUS 2), slots are left (3) or, with .force, the caller does not own it (4). BINFO.vm reads a doubleword of a view. A BREAD of a posted
slot and a BRESET acquire what the posts release (R258). Words that the reads found corrected count as event 16 (R384). BREAD, BREAD.lvl,
BINFO, BINFO.vm, BRESET and BRESET.force complete. -/
def Obligations.BoardReadsAndResets : Prop :=
  (∀ (s : State) (d a b : SSpec) (p : Place), BoardReady s [a, b] d .rd p →
    let h := s.boardHdr (s.two a b).1.toNat
    let slot := fld (s.two a b).2 0 32
    let x := s.slotState h.at' slot
    let place := windowPlace (h.at' + 64 + 16 * slot) false
    let u := s.noteCorr (some s.turn.ref) p 64
    let faults (v : State) (f : Flt) : Prop :=
      let out : State := v.takeFault s.turn.ref f s.turn.stream.idx.val
      exec (.bread d a b) s = .next out ∧ exec (.breadLvl d a b) s = .next out
    if slot < h.slots then
      let got := u.noteCorr (some s.turn.ref) place 16
      let heard : State := if x.1 then got.acquireView s.turn h (BitVec.ofNat 1024 (2 ^ slot)) else got
      let takes (t : State) (v : Word) : Prop :=
        BoardResult got (s.unheard t) [a, b] d (if x.1 then 0 else 5) v ∧ t.me.fwd = heard.me.fwd ∧ t.me.heard = heard.me.heard
      if s.answer place 16 true = .ok then
        Runs (.bread d a b) s (fun t => takes t (if x.1 then s.homeWord (h.at' + 72 + 16 * slot) else 0)) ∧
        Runs (.breadLvl d a b) s (fun t => ∃ v : Word, takes t v ∧ fld v 32 32 = h.edition ∧ bit v 31 = x.1 ∧ fld v 0 31 = x.2 % 2 ^ 31)
      else faults heard ⟨.poison, 0, (s.two a b).1, false⟩
    else faults u ⟨.board, 65, (s.two a b).1, false⟩) ∧
  (∀ (s : State) (d a : SSpec) (p : Place), BoardReady s [a] d .rd p →
    let h := s.boardHdr (s.peek a).toNat
    Runs (.binfo d a) s fun t => ∃ v : Word, BoardResult (s.noteCorr (some s.turn.ref) p 64) t [a] d 0 v ∧ fld v 32 32 = h.edition ∧
      fld v 21 11 = h.posted ∧ fld v 10 11 = h.level % 2 ^ 11 ∧ fld v 2 2 = h.scope ∧ fld v 0 2 = h.size) ∧
  (∀ (s : State) (d : SSpec) (n : Fin 4) (w : Fin 16), Ready s [] [d] →
    Runs (.binfoVm d n w) s fun t => ScalarResult s t [] d 1 2 (s.mySeat.vm[n].extractLsb' (64 * w.val) 64)) ∧
  ∀ (s : State) (d a b : SSpec) (p : Place), BoardReady s [a, b] d .at' p → s.monitors = [] → Memory.wf s.mem = true →
    let va := (s.two a b).1.toNat
    let h := s.boardHdr va
    let u := s.noteCorr (some s.turn.ref) p 64
    HomeUp s va → va % 64 = 0 → va % 2 ^ 22 + 2 ^ 15 ≤ 2 ^ 22 →
    let now : Word := BitVec.ofNat 64 h.edition
    let cleared (t : State) : Prop :=
      let e := (h.edition + 1) % 2 ^ 32
      (t.boardHdr va).edition = e ∧ (t.boardHdr va).level = 0 ∧ (t.boardHdr va).posted = 0 ∧ (t.boardHdr va).d1 = h.d1 ∧
      (∀ k < h.slots, t.slotState va k = (false, 0)) ∧ (∀ k, k < va ∨ va + 64 + 16 * h.slots ≤ k → t.byteAt k = s.byteAt k) ∧
      BoardResult { u with mem := t.mem, poison := t.poison, corr := t.corr, carried := t.carried } (s.unheard t) [a, b] d 0
        (BitVec.ofNat 64 e) ∧
      t.me.fwd = (u.acquireView s.turn h (BitVec.allOnes 1024)).me.fwd ∧ t.me.heard = (u.acquireView s.turn h (BitVec.allOnes 1024)).me.heard
    if fld (s.two a b).2 0 32 ≠ h.edition then
      Runs (.breset d a b) s (fun t => BoardResult u t [a, b] d 2 now) ∧ Runs (.bresetForce d a b) s (fun t => BoardResult u t [a, b] d 2 now)
    else
      Runs (.breset d a b) s (fun t => if h.posted < h.slots then BoardResult u t [a, b] d 3 now else cleared t) ∧
      Runs (.bresetForce d a b) s (fun t =>
        if fld h.d1 55 9 = Config.thisPackage ∧ (s.turn.isY = true ∨ s.mySeat.inst.q.val = fld h.d1 46 9) then cleared t
        else BoardResult u t [a, b] d 4 now)

/-! ## Launches and instances -/

/-- R309, R312: LAUNCH of a packet of either form, once its release holds, completes: the packet's slots and TAIL, or 0 in d when the ring
has no room. The slot that a basic packet fills holds its 64 bytes. -/
def Obligations.LaunchEnqueues : Prop :=
  (∀ (s u : State) (d a b : SSpec) (p : Place) (q : Fin 512) (dw : List Word), Ready s [a, b] [d] → s.gated = false →
    let va := (s.two a b).1
    let slotRead (s : State) (v : Word) (p : Place) : Prop :=
      s.check s.turn v 64 .rd false false = (.ok p, s) ∧ s.drained p v 64 = true ∧ s.answer p 64 s.turn.isY = .ok
    let after (s : State) (p : Place) : State := (s.noteCorr (some s.turn.ref) p 64).hear s.turn none (s.heardAt p 64)
    slotRead s va p →
    q.val = fld (s.two a b).2 6 3 * 64 + fld (s.two a b).2 0 6 →
    let x := s.dataAt p 64
    let n := if x % 256 = 2 then 2 else 1
    (if x % 256 = 2 then ∃ p2, slotRead (after s p) (va + 64) p2 ∧ dw = packetWords x ++ packetWords (s.dataAt p2 64) ∧ u = after (after s p) p2
      else dw = packetWords x ∧ u = after s p) →
    let l := s.lq q
    let desc := x / 2 ^ 70 % 2 ^ 58 * 64
    let faults (t : State) (f : Flt) : Prop := exec (.launch d a b) s = .next (t.takeFault s.turn.ref f s.turn.stream.idx.val)
    let lost (k : Nat) : Bool := (decide (k = q.val / 64) || (x / 2 ^ 16).testBit k) && !s.dieUsable k
    (q.val % 64 = 63 → s.turn.isY = false → faults u ⟨.perm, 56, 0, false⟩) ∧
    (q.val % 64 ≠ 63 ∨ s.turn.isY = true →
      (∀ k < 8, lost k = true → (∀ m < k, lost m = false) → faults u ⟨.dieAbsent, k, 0, false⟩) ∧
      ((∀ k < 8, lost k = false) →
        (∀ c, u.revoked (qDie q) desc = some c → faults ((u.descNote q desc).clearEntry (qDie q) c) ⟨.codeRevoked, 0, 0, false⟩) ∧
        (u.revoked (qDie q) desc = none →
          if u.launchReleased s.launchSince then Runs (.launch d a b) s fun t =>
            if l.sizeOk ∧ l.used + n ≤ 2 ^ l.size then
              ScalarResult ((u.descNote q desc).enqueue q dw) t [a, b] d 1 2 (BitVec.ofNat 64 (l.tail % 2 ^ l.size + 1))
            else ScalarResult (u.descNote q desc) t [a, b] d 1 2 0
          else exec (.launch d a b) s = .next (u.modMe fun t => { t with wait := .xfence s.launchSince }))))) ∧
  ∀ (s : State) (q : Fin 512) (x : Nat), s.monitors = [] → Memory.wf s.mem = true →
    let l := s.lq q
    let a := l.slot l.tail
    HomeUp s a → a + 64 ≤ 2 ^ 41 →
    let t := s.enqueue q (packetWords x)
    (t.lq q).ring = l.ring ∧ (t.lq q).ctl = l.ctl ∧ (t.lq q).head' = l.head' ∧ (t.lq q).tail = (l.tail + 1) % 2 ^ 32 ∧
    (∀ r, r ≠ q → t.lq r = s.lq r) ∧ (∀ k < 64, t.byteAt (a + k) = BitVec.ofNat 8 (x / 256 ^ k)) ∧
    ∀ k, k < a ∨ a + 64 ≤ k → t.byteAt k = s.byteAt k

/-- R22, R317: BAR of level 0 is 1 at once; of a greater level it arrives once its release holds, and ends when the generation of its group
has come, with what the arrivals released acquired, or with 0 at a latched cut; issued again after such a 0 it waits on its arrival while
that is not opened; BARRIER_OPEN gives the next generation once every member has arrived or retired. BAR and BARRIER_OPEN complete. -/
def Obligations.LevelBarriers : Prop :=
  (∀ (s : State) (d : SSpec), Ready s [] [d] → Runs (.bar d 0) s fun t => ScalarResult s t [] d 1 2 1) ∧
  (∀ (s : State) (d : SSpec) (j : Fin 7) (l : Launch), Ready s [] [d] → j ≠ 0 → s.launchOf s.mySeat.inst.q = some l →
    let fs := headerFields l.dw
    let n := min j.val fs.length
    let q := s.mySeat.inst.q
    let key := levelKey fs n s.mySeat.sys.wid
    let gen : BitVec 32 := ((s.barrierOf q n key).map (·.gen)).getD 0
    let come (g : BitVec 32) : Prop := (gen - g).toNat < 2 ^ 31
    let mine (g : BitVec 32) : Prop := s.barArrival q n key = some g
    let cut : Bool := s.mySeat.cut.latch.isSome
    if 65536 < levelSize' fs n then
      exec (.bar d j) s = .next (s.takeFault s.turn.ref ⟨.undefOp, 57, 0, false⟩ s.turn.stream.idx.val)
    else
      (∀ g, s.me.wait = .bar n g → mine g) ∧
      (s.me.wait = .none → ∀ g, mine g ↔ (s.mySeat.bars.find? fun b => decide (b.level = n) && !decide (come b.gen)).map (·.gen) = some g) ∧
      (∀ g, mine g →
        (come g → Runs (.bar d j) s fun t =>
          ScalarResult (s.modMySeat fun st => { st with bars := st.bars.filter fun b => decide (b.level ≠ n) }) (s.unheard t) [] d 1 2
            (g.setWidth 64) ∧ t.me.heard = s.me.heard ∧
          ∀ b, s.barrierOf q n key = some b → t.me.fwd = s.onWay (s.me.fwd ++ b.opened)) ∧
        (¬come g → if cut then Runs (.bar d j) s fun t => ScalarResult s t [] d 1 2 0
          else exec (.bar d j) s = (s.modMe fun t => { t with wait := .bar n g }).stall none)) ∧
      (s.barArrival q n key = none →
        if s.launchReleased s.launchSince then Runs (.bar d j) s fun t =>
          (∃ b, t.barrierOf q n key = some b ∧ b.gen = gen ∧
            b.arrived = s.mySeat.sys.wid :: ((s.barrierOf q n key).map (·.arrived)).getD []) ∧
          ⟨n, gen + 1⟩ ∈ t.mySeat.bars ∧ SameBytes s t ∧
          if cut then t.me.pc = s.me.advance.1.pc ∧ ∀ k, t.me.rdX k = if !s.isC && decide (d = .x k) then 0 else s.me.rdX k
          else t.me.pc = s.me.pc ∧ t.me.wait = .bar n (gen + 1) ∧ SameRegs s t ∧ t.mySeat.q = s.mySeat.q
        else exec (.bar d j) s = .next (s.modMe fun t => { t with wait := .xfence s.launchSince }))) ∧
  ∀ (s : State) (i : Nat) (b : Barrier) (l : Launch), s.barriers[i]? = some b → s.launchOf b.q = some l →
    let gone := l.retired.countP fun w => decide (levelKey (headerFields l.dw) b.level w = b.key ∧ w ∉ b.arrived)
    exec (.barrierOpen i) s = .next
      (if b.arrived ≠ [] ∧ levelSize' (headerFields l.dw) b.level ≤ b.arrived.length + gone then
        { s with barriers := s.barriers.set i { b with gen := b.gen + 1, arrived := [], opened := b.ids, ids := [] } } else s)

/-- R306, R307, R309, R311: the checks of the packet at the head of a queue, in order; its activation once its waits are met, or FORWARD for
a wait on a number not yet pushed; a packet for no die completes at once; the restart of a queue and the clearing of ABORTED. Of the
stacks the head's reads change the error tables alone. PACKET_AT_HEAD, LAUNCH_ACTIVATION, LQ_RESTART and ABORTED_CLEAR complete. -/
def Obligations.QueueHeads : Prop :=
  (∀ (s : State) (q : Fin 512) (dw : List Word), s.queueFree q = true → (s.lq q).head = none → s.headPacket q = some dw →
    let known : Prop := pktType dw = 1 ∨ pktType dw = 2
    let wellFormed : Prop := reservedOk dw = true ∧ rolesOk s.fuse.part dw = true
    let dies : Prop := ∀ k < 8, (pktMask dw).testBit k = true → s.dieUsable k = true
    let desc := s.hubWords (qDie q) (fld (dw.getD 1 0) 6 58 * 64) 32
    let good (w : List Word) : Prop := fld (w.getD 17 0) 0 32 = 0x4D5A5444
    let stops (e : Nat) : Prop := Runs (.packetAtHead q) s fun t =>
      Stopped q e { s with stack := t.stack } t ∧ SameStacks s t ∧ (t.lq q).head = none
    (¬known → stops 2) ∧ (known → ¬wellFormed → stops 1) ∧ (known → wellFormed → ¬dies → stops 3) ∧
    (known → wellFormed → dies → (∀ w, desc = some w → ¬good w) → stops 5) ∧
    ∀ w, known → wellFormed → dies → desc = some w → good w → Runs (.packetAtHead q) s fun t =>
      OnlyQueue q { s with stack := t.stack } t ∧ SameStacks s t ∧ t.lq q = { s.lq q with
        head := some (dw, w), wait := some ⟨false, s.waitCycle (pktWait dw 8), s.waitCycle (pktWait dw 9), false, false⟩ }) ∧
  (∀ (s : State) (q : Fin 512) (dw desc : List Word), s.queueFree q = true → (s.lq q).head = some (dw, desc) →
    let acquired := s.codeAcquired (s.lq q).done
    let active (t : State) : Prop := ∃ l : Launch, t.launches = s.launches ++ [l] ∧ l.q = q ∧ l.dw = dw ∧ l.desc = desc ∧ l.placed = [] ∧
      l.retired = [] ∧ l.aborted = false ∧ (t.lq q).active = true ∧ (t.lq q).ptr = (s.lq q).ptr
    (pktExt dw = false → acquired = true → pktMask dw ≠ 0 → Runs (.launchActivation q) s fun t =>
      active t ∧ OnlyQueue q { s with launches := t.launches } t) ∧
    (pktExt dw = false → acquired = true → pktMask dw = 0 → Runs (.launchActivation q) s fun t =>
      (t.lq q).head' = ((s.lq q).head' + 1) % 2 ^ 32 ∧ (t.lq q).tail = (s.lq q).tail ∧ (t.lq q).active = false ∧ (t.lq q).head = none ∧
      SameBytes s t ∧ t.core = s.core) ∧
    (pktExt dw = true → (∀ w, (s.lq q).wait = some w → w.seen = false ∧ w.met8 = false ∧ w.met9 = false) →
      let w8 := dw.getD 8 0
      let w9 := dw.getD 9 0
      let met (w : Word) : Prop := s.waitMet w = true ∧ (bit w 31 = true → s.waitTurn w = true)
      if s.waitForward w8 ∨ s.waitForward w9 then Runs (.launchActivation q) s fun t => Stopped q 4 s t
      else acquired = true → pktMask dw ≠ 0 → Runs (.launchActivation q) s fun t =>
        if met w8 ∧ met w9 ∧ s.syncMet q dw then active t
        else t.launches = s.launches ∧ (t.lq q).ctl = (s.lq q).ctl ∧ (t.lq q).ptr = (s.lq q).ptr)) ∧
  ∀ (s : State) (q : Fin 512),
    let only (t : State) (n : Nat) : Prop := OnlyQueue q s t ∧ (t.lq q).ring = (s.lq q).ring ∧ (t.lq q).ptr = (s.lq q).ptr ∧
      ∀ k < 64, bit (t.lq q).ctl k = (bit (s.lq q).ctl k && decide (k ≠ n))
    Runs (.lqRestart q) s (fun t => only t 11 ∧ (t.lq q).head = none) ∧
    Runs (.abortedClear q) s (fun t => only t 19 ∧ (t.lq q).head = (s.lq q).head)

/-- R25, R26, R315, R316: SEAT_GRANT dispatches a group of the winning launch to the first free seat that it can take; LAUNCH_ABORT gives up
every seat of a launch of which one stands Faulted, and completes it with ABORTED. That an abort drops the seat's loads and keeps its store queue is the model's
choice (log 38), as is that every symbol has LEX_PARAM at the dispatch (log 27). Both complete. -/
def Obligations.SeatsAreGrantedAndGivenUp : Prop :=
  (∀ (s : State) (die : Fin 8) (r : SeatRef) (l : Launch) (v k n : Nat), s.dieUsable die.val = true → s.dieInReset die.val = false →
    s.freeSeat die = some r → s.seatWinner die r = some (l, v) → l.groupFor r = some (k, n) →
    Runs (.seatGrant die) s fun t =>
      let u := t.getSeat r
      let w (i : Nat) : Word := l.desc.getD i 0
      u.inst.phase = .dispatched ∧ u.inst.q = l.q ∧ u.inst.key = k ∧ u.inst.free = n ∧ u.inst.serial = 0 ∧
      (∀ j : Fin 4, u.inst.entry[j] = w j.val) ∧ (∀ j : Fin 3, u.inst.ebase[j] = w (4 + j.val)) ∧
      u.trap.vec = w 10 &&& ~~~3 ∧ u.trap.info = 0 ∧ u.trap.saveBase = (s.getSeat r).trap.saveBase ∧
      u.cut.retimeVec = w 9 &&& ~~~3 ∧ u.cut.commaLimit = BitVec.ofNat 64 (max 1024 (fld (w 11) 0 32)) ∧ u.cut.latch = none ∧
      u.sys.schedTime = 0 ∧ u.sys.roles = (if qIndex l.q = 63 then 0 else BitVec.ofNat 64 (fld (l.dw.getD 0 0) 24 8)) ∧
      u.sys.perfSel = Vector.replicate 16 0 ∧ (w 13 = 0 → u.sys.win = Vector.replicate 8 0) ∧
      (w 7 = 0 → ∀ y : Fin 32, u.lex[y] = { LexEntry.reset with par := s.core[r.core].lexParam }) ∧
      u.str = (s.getSeat r).str ∧ SameBytes s t ∧ (∀ x, x ≠ r → t.getSeat x = s.getSeat x) ∧
      fld (t.lq l.q).ctl 13 3 = v % 8 ∧ (∀ h : v < 8, t.die[die].arbPtr[v] = BitVec.ofNat 9 (l.q.val + 1)) ∧
      ∀ x ∈ t.launches, x.q = l.q → assoc k x.placed = some (n + 1) ∧ x.ready[die] = s.timebase.toNat) ∧
  ∀ (s : State) (q : Fin 512) (l : Launch) (f : SeatRef), s.launchOf q = some l → f.isSys = false → (s.getSeat f).inst.phase = .faulted →
    (s.getSeat f).inst.q = q → Runs (.launchAbort q) s fun t =>
      t.launches = s.launches.filter (fun x => decide (x.q ≠ q)) ∧ (t.lq q).active = false ∧ bit (t.lq q).ctl 19 = true ∧
      (t.lq q).head' = ((s.lq q).head' + if l.ext then 2 else 1) % 2 ^ 32 ∧ SameBytes s t ∧ t.flights = s.flights ∧
      ∀ r : SeatRef, if r.isSys = false ∧ (s.getSeat r).inst.phase ≠ .free ∧ (s.getSeat r).inst.q = q then
          (t.getSeat r).inst.phase = .free ∧ (t.getSeat r).loads = [] ∧ (t.getSeat r).sideLog = [] ∧
          (t.getSeat r).stores = (s.getSeat r).stores ∧ ∀ e : Fin 3, (t.getSeat r).eng[e].queue = []
        else t.getSeat r = s.getSeat r

/-- R25, R26, R131, R311: INSTANCE_START puts the seat in the state of an instance that starts, each stream behind the writes that the met
waits of its launch acquired; RETIREMENT ends an instance whose streams have
halted and whose seat has drained: the seat takes the next of its group or becomes free, and the last instance completes the launch, once
the writes of its commands are performed at device scope. Both complete. -/
def Obligations.InstancesStartAndRetire : Prop :=
  (∀ (s : State) (r : SeatRef) (l : Launch), (s.getSeat r).inst.phase = .dispatched → s.dieInReset (coreDie r.core).val = false →
    s.launchOf (s.getSeat r).inst.q = some l → Runs (.instanceStart r) s fun t =>
      let a := s.getSeat r
      let u := t.getSeat r
      OnlySeat r s t ∧ SameBytes s t ∧ u.inst = { a.inst with phase := .running, port := a.inst.port.map fun _ => ⟨0, [], [], []⟩ } ∧
      (∀ j, (u.getStr j).fwd = s.onWay (acquired ⟨r, j⟩ .device l.heard)) ∧
      u.sys = { a.sys with wid := l.wid a.inst.key a.inst.free a.inst.serial, larg := a.inst.arg, bstatus := 0 } ∧
      (∀ j : Fin 4, u.str[j].pc = a.inst.entry[j] &&& ~~~3 ∧ u.str[j].halted = false ∧ (∀ n, u.str[j].rdX n = 0) ∧ u.str[j].p = 1 ∧
        (∀ n : Fin 8, u.str[j].t[n] = 0) ∧ u.str[j].lc = 0 ∧ u.str[j].passes = 0) ∧
      u.vec.vlen = 256 ∧ u.vec.vstat = 0 ∧ u.vec.rrb = 0 ∧ (∀ n : Fin 16, u.q[n].items = []) ∧ (∀ n : Fin 64, u.ln[n].state = 0) ∧
      u.loads = [] ∧ (∀ n : Fin 4, u.vm[n] = 0) ∧ u.lex = a.lex ∧ u.trap = a.trap ∧ u.stores = a.stores) ∧
  ∀ (s : State) (r : SeatRef) (l : Launch), s.mayRetire r = true → s.launchOf (s.getSeat r).inst.q = some l →
    let a := s.getSeat r
    (a.cut.latch = none → a.cutPending = false → s.completionHeld r l = true → exec (.retirement r) s = .next s) ∧
    (a.cut.latch = none → a.cutPending = false → s.completionHeld r l = false → Runs (.retirement r) s fun t =>
      let u := t.getSeat r
      u = { a with inst := { a.inst with phase := if a.inst.serial + 1 < l.serials then .dispatched else .free, serial := a.inst.serial + 1 },
                   bars := [] } ∧
      (∀ x, x ≠ r → t.getSeat x = s.getSeat x) ∧ SameBytes s t ∧
      if l.retired.length + 1 = l.instances then
        t.launches = s.launches.filter (fun x => decide (x.q ≠ l.q)) ∧ (t.lq l.q).active = false ∧
        (t.lq l.q).head' = ((s.lq l.q).head' + if l.ext then 2 else 1) % 2 ^ 32
      else t.die = s.die ∧ t.launches = s.launches.map fun x =>
        if x.q = l.q then { l with retired := a.sys.wid :: l.retired, owed := s.onWay l.owed ++ s.engineOwed r } else x) ∧
    (a.cut.latch ≠ none ∨ a.cutPending = true → a.lexAt.1 ≠ s.core[r.core].cycle + 1 → Runs (.retirement r) s fun t =>
      let u := t.getSeat r
      u.cut.latch = none ∧ u.cut.preempt = false ∧ u.cut.atRetire = true ∧ SameBytes s t ∧
      (∀ y : Fin 32, u.lex[y].b = if a.lex[y].setb then a.lex[y].sb else if a.lex[y].state = 2 then a.lex[y].p else a.lex[y].b) ∧
      if a.boundDue ∨ a.joined.2 = true then u.trap.src = 7 ∧ bit u.trap.info 0 = true else u.trap = a.trap ∧ u.inst = a.inst)

/-! ## Cuts -/

/-- R44, R47, R48, R193, R324, R390: the cut of a seat whose streams all stand at their comma, in a core cycle in which no sample has been
counted: the cut registers, the lexicon's new bindings, and then LATENCY_BOUND, PREEMPT, BOOKMARK or the re-timing handler, or nothing more.
PREEMPT and BOOKMARK are those that joined the cut before its drain; one that is pending beside it latches the next. Later than COMMA_LIMIT
the cut is HANG; commas that differ are COMMA_TIMEOUT, detail 2. That COMMA_TIMEOUT clears the latch and the streams'
commas is the model's choice (log 37), as is HANG once all streams have stopped too late (log 48). CUT completes. -/
def Obligations.CutsAtCommas : Prop :=
  ∀ (s : State) (r : SeatRef) (l : Latch), (s.getSeat r).cut.latch = some l → s.cutMayRun r = true → (s.getSeat r).allReached = true →
    (s.getSeat r).allHalted = false → (s.getSeat r).c.pipe = [] → (s.getSeat r).lexAt.1 ≠ s.core[r.core].cycle + 1 →
    let a := s.getSeat r
    let timeout (d : Nat) : Prop := exec (.cut r) s = .next ((s.takeFault r ⟨.commaTimeout, d, 0, true⟩ 7).modSeat r fun st =>
      { st with cut := { st.cut with latch := none }, str := st.str.map fun (t : Stream) => { t with comma := none } })
    if a.cut.commaLimit.toNat ≤ l.age then timeout 3
    else if a.commasAgree then a.landingsDrained = true →
      let c := a.commas.headD (0, 0)
      let bound (e : LexEntry) : BitVec 24 := if e.setb then e.sb else if e.state = 2 then e.p else e.b
      let rebound : Prop := ∃ y : Fin 32, bound a.lex[y] ≠ a.lex[y].b
      let retime : Prop := a.retimeDue = true ∨ rebound
      let applied (t : State) : Prop :=
        let u := (t.getSeat r).cut
        fld u.info 32 32 = l.n.toNat ∧ fld u.info 22 10 = c.1.toNat ∧ fld u.info 16 6 = c.2.toNat ∧
        (bit u.info 3 = true ↔ retime) ∧ bit u.info 2 = l.preempt ∧ bit u.info 1 = l.bookmark ∧ bit u.info 0 = a.boundDue ∧
        (∀ j : Fin 4, u.pc[j] = a.str[j].pc &&& ~~~3 ∧ (t.getSeat r).str[j].comma = none) ∧ ∀ y : Fin 32, (t.getSeat r).lex[y].b = bound a.lex[y]
      let stays (t : State) : Prop := SameBytes s t ∧ (t.getSeat r).vec = a.vec ∧ (t.getSeat r).q = a.q ∧ (t.getSeat r).tile = a.tile ∧
        ∀ j : Fin 4, (t.getSeat r).str[j].x = a.str[j].x ∧ (t.getSeat r).str[j].p = a.str[j].p ∧ (t.getSeat r).str[j].t = a.str[j].t
      let done (t : State) : Prop := (t.getSeat r).cut.latch = none
      (a.boundDue = true → Runs (.cut r) s fun t => applied t ∧ done t ∧ stays t ∧ (t.getSeat r).trap.src = 7 ∧
        fld (t.getSeat r).trap.info 16 5 = 10 ∧ (∃ y : Fin 32, a.lex[y].state = 3 ∧ fld (t.getSeat r).trap.info 32 32 = y.val) ∧
        (∀ j : Fin 4, (t.getSeat r).trap.pc[j] = a.str[j].pc &&& ~~~3) ∧
        if a.trap.vec = 0 then (t.getSeat r).inst.phase = .faulted else ((t.getSeat r).getStr .K).pc = a.trap.vec) ∧
      (a.boundDue = false → l.preempt = true → a.enginesStand = true → a.scalarsDrained = true → Runs (.cut r) s fun t =>
        applied t ∧ done t ∧ (t.getSeat r).inst.phase = .preempted ∧ (t.getSeat r).cut.preempt = false) ∧
      (a.boundDue = false → l.preempt = false → l.bookmark = true → a.enginesStand = true → Runs (.cut r) s fun t =>
        applied t ∧ done t ∧ stays t ∧ (t.getSeat r).inst.phase = .faulted ∧ fld (t.getSeat r).trap.info 16 5 = Cause.bookmark.code ∧
        (t.getSeat r).cut.bookmark = false ∧ bit (t.getSeat r).sys.bmark 0 = false ∧
        ∀ e : Fin 3, (t.getSeat r).sys.bmHead[e] = match a.eng[e].queue.find? fun x => !x.started with
          | some x => x.acc.setWidth 64
          | none => 0x100000000) ∧
      (a.boundDue = false → l.preempt = false → l.bookmark = false → Runs (.cut r) s fun t => applied t ∧ stays t ∧
        (a.cut.preempt = false → a.cut.bookmark = false → done t) ∧
        (t.getSeat r).inst = a.inst ∧ (∀ j : Fin 4, j ≠ 0 → (t.getSeat r).str[j].pc = a.str[j].pc) ∧
        (retime → a.cut.retimeVec ≠ 0 → done t ∧ ((t.getSeat r).getStr .K).pc = a.cut.retimeVec ∧ (t.getSeat r).trap.active = true ∧
          (t.getSeat r).trap.kind = true) ∧
        (¬retime ∨ a.cut.retimeVec = 0 → (t.getSeat r).trap = a.trap ∧ ((t.getSeat r).getStr .K).pc = (a.getStr .K).pc ∧
          (a.cut.preempt = true ∨ a.cut.bookmark = true →
            (t.getSeat r).cut.latch = some ⟨BitVec.ofNat 32 (a.topPass + 1), 0, a.cut.preempt, a.cut.bookmark⟩)))
    else timeout 2

/-- R47, R50, R390: the requests for a cut: PREEMPT_REQUEST and BMARK_ARM; COMMA_TIMEOUT, with detail HANG (3) or HANDLER (4), and not
before COMMA_LIMIT schedule cycles. A request joins a latched cut until all its streams have stopped (the model's choice:
log 48); COMMA_TIMEOUT clears the latch and the streams' commas (the model's choice: log 37). The instances of translated objects,
which COMMA_TIMEOUT leaves alone (log 50), are not covered. PREEMPT_REQUEST, BMARK_ARM and COMMA_TIMEOUT complete. -/
def Obligations.CutRequestsAndTimeouts : Prop :=
  (∀ (s : State) (r : SeatRef), let a := s.getSeat r
    if a.inst.phase = .running ∨ a.inst.phase = .faulted ∨ a.inst.phase = .retiring then Runs (.preemptRequest r) s fun t =>
      OnlySeat r s t ∧ SameBytes s t ∧ t.getSeat r = { a with cut := { a.cut with preempt := true, latch := (t.getSeat r).cut.latch } } ∧
      (t.getSeat r).cut.latch = match a.cut.latch with
        | none => if a.trap.active && a.trap.kind then none else some ⟨BitVec.ofNat 32 (a.topPass + 1), 0, true, a.cut.bookmark⟩
        | some l => some (if a.allReached then l else { l with preempt := true, bookmark := a.cut.bookmark })
    else exec (.preemptRequest r) s = .next s) ∧
  (∀ (s : State) (r : SeatRef) (n : BitVec 32), let a := s.getSeat r
    Runs (.bmarkArm r n) s fun t => OnlySeat r s t ∧ SameBytes s t ∧ fld (t.getSeat r).sys.bmark 32 32 = n.toNat ∧
      bit (t.getSeat r).sys.bmark 0 = true ∧ fld (t.getSeat r).sys.bmark 1 31 = 0 ∧
      (t.getSeat r).cut.bookmark = (a.cut.bookmark || decide (n.toNat ≤ a.topPass + 1)) ∧
      t.getSeat r = { a with sys := { a.sys with bmark := (t.getSeat r).sys.bmark },
                             cut := { a.cut with bookmark := (t.getSeat r).cut.bookmark, latch := (t.getSeat r).cut.latch } }) ∧
  ∀ (s : State) (r : SeatRef), s.engineHeld r.core = false → (s.getSeat r).inst.phase = .running → (s.getSeat r).inst.port = none →
    let a := s.getSeat r
    let ends (d : Nat) : Prop := exec (.commaTimeout r) s = .next ((s.takeFault r ⟨.commaTimeout, d, 0, true⟩ 7).modSeat r fun st =>
      { st with cut := { st.cut with latch := none }, str := st.str.map fun (t : Stream) => { t with comma := none } })
    (a.trap.active = true → a.trap.kind = true → if a.cut.commaLimit.toNat ≤ a.cut.handlerAge then ends 4
      else exec (.commaTimeout r) s = .next s) ∧
    (a.trap.active = false → ∀ l, a.cut.latch = some l → if a.cut.commaLimit.toNat ≤ l.age ∧ a.allReached = false then ends 3
      else exec (.commaTimeout r) s = .next s) ∧
    (a.trap.active = false → a.cut.latch = none → exec (.commaTimeout r) s = .next s)

/-- R25, R191, R194: FAULT_SERVICE_RESUME resumes a Faulted seat at FAULT_PC, after a second fault K at NEST_PC, after the cut at retirement
in place; and a pre-empted seat with the registers of its save area. C's pipeline is released from the next core cycle on. It completes. -/
def Obligations.FaultServiceResumes : Prop :=
  ∀ (s : State) (r : SeatRef), let a := s.getSeat r
    (a.inst.phase = .faulted → Runs (.faultServiceResume r) s fun t => let u := t.getSeat r
      OnlySeat r s t ∧ SameBytes s t ∧ u.inst = { a.inst with phase := .running } ∧ u.vec = a.vec ∧ u.q = a.q ∧ u.tile = a.tile ∧
      u.lex = a.lex ∧ u.sys = a.sys ∧ u.loads = a.loads ∧ u.stores = a.stores ∧ u.trap.pc = a.trap.pc ∧
      (∀ j : Fin 4, u.str[j].x = a.str[j].x ∧ u.str[j].p = a.str[j].p ∧ u.str[j].t = a.str[j].t) ∧
      (a.trap.nested = true → (u.getStr .K).pc = a.trap.nestPc ∧ (∀ j : Fin 4, j ≠ 0 → u.str[j].pc = a.str[j].pc) ∧
        u.trap.nested = false ∧ bit u.trap.nestInfo 0 = false ∧ u.trap.active = a.trap.active) ∧
      (a.trap.nested = false → a.resumeOwesRetime = false → ¬(a.cut.atRetire = true ∧ a.trap.src = 7) →
        (∀ j : Fin 4, u.str[j].pc = a.trap.pc[j] ∧ u.str[j].halted = false ∧ u.str[j].wait = .none) ∧ u.c.held = true ∧ u.c.release = true ∧
        bit u.trap.info 0 = false ∧ u.trap.active = false) ∧
      (a.trap.nested = false → a.resumeOwesRetime = false → a.cut.atRetire = true → a.trap.src = 7 →
        (∀ j : Fin 4, u.str[j].pc = a.str[j].pc ∧ u.str[j].halted = a.str[j].halted) ∧ u.c.held = false ∧ bit u.trap.info 0 = false) ∧
      (a.trap.nested = false → a.resumeOwesRetime = true → (u.getStr .K).pc = a.cut.retimeVec ∧ u.cut.pc = a.trap.pc ∧
        u.trap.active = true ∧ u.trap.kind = true)) ∧
    (a.inst.phase = .preempted → Runs (.faultServiceResume r) s fun t => let u := t.getSeat r
      OnlySeat r { s with stack := t.stack } t ∧ SameStacks s t ∧ SameBytes s t ∧ u.inst = { a.inst with phase := .running } ∧
      u.sys.wid = s.saveWord r 0 ∧ u.vec.vlen = s.saveWord r 0x48 ∧
      u.vec.vstat = s.saveWord r 0x50 ∧ u.trap.vec = s.saveWord r 0x90 ∧ u.cut.info = s.saveWord r 0x18 ∧
      (∀ j : Fin 4, u.str[j].passes = BitVec.ofNat 32 (s.saveRead r (0xA0 + 4 * j.val) 4)) ∧
      (∀ n : Fin 64, u.ln[n].data = BitVec.ofNat 2048 (s.saveRead r (0x2200 + 256 * n.val) 256)) ∧
      if bit (s.saveWord r 0x18) 3 ∧ s.saveWord r 0x80 ≠ 0 then (u.getStr .K).pc = s.saveWord r 0x80 ∧ u.trap.kind = true
      else ∀ j : Fin 4, u.str[j].pc = s.saveWord r (0x28 + 8 * j.val)) ∧
    (a.inst.phase ≠ .faulted → a.inst.phase ≠ .preempted → exec (.faultServiceResume r) s = .next s)

/-! ## Fetch and pipes -/

/-- R78, R79, R116, R133, R318: FETCH_FILL delivers a packet to every seat that subscribes to it and ends the fetch freezes it serves;
PIPE_GRANT grants a pipe to one of its requesters: of those that have waited AGE_LIMIT core cycles one that has waited longest, else one of
the highest role. Both complete. -/
def Obligations.FillsAndGrants : Prop :=
  (∀ (s : State) (die : Fin 8) (i : Nat) (f : Fill), s.die[die].fills[i]? = some f → Runs (.fetchFill die i) s fun t =>
    SameBytes s t ∧ t.die[die].fills = dropAt i s.die[die].fills ∧ (∀ d, d ≠ die → t.die[d] = s.die[d]) ∧
    (∀ r : SeatRef, t.getSeat r = if coreDie r.core = die ∧ f.sys = r.isSys ∧ (s.getSeat r).subscribes f f.sys = true then
      (s.getSeat r).accept f.pkt else s.getSeat r) ∧
    ∀ c : Fin 904, t.core[c].freeze = match s.core[c].freeze with
      | some (.fetch k) => if coreDie c = die ∧ f.sys = decide (896 ≤ c.val) ∧ ((t.getSeat ⟨c, k⟩).getStr .C).hasPacket = true then none
          else some (.fetch k)
      | x => x) ∧
  (∀ (a : Stream) (more : Word → Bool) (p : Packet), { a.accept more p with packets := a.packets } = a ∧
    (p.addr = a.pc &&& ~~~63 → (a.accept more p).hasPacket = true)) ∧
  ∀ (s : State) (c : Fin 904) (vector : Bool),
    let pipe (t : State) : Pipe := if vector then t.core[c].vpipe else t.core[c].port
    let p := s.core[c].ready (pipe s)
    let wait (x : Fin 2 × StreamId × Nat) : Nat := s.core[c].live - x.2.2
    p.decided = false → s.core[c].freeze = none → p.reqs ≠ [] → Runs (.pipeGrant c vector) s fun t => ∃ g ∈ p.reqs,
      (pipe t).granted = some (g.1, g.2.1) ∧ (pipe t).decided = true ∧ (pipe t).reqs = p.reqs.filter (fun x => decide (x ≠ g)) ∧
      (pipe t).last = (g.1, g.2.1) ∧
      (if ∃ x ∈ p.reqs, s.core[c].ageLimit.toNat ≤ wait x then
        s.core[c].ageLimit.toNat ≤ wait g ∧ ∀ x ∈ p.reqs, wait x ≤ wait g
       else ∀ x ∈ p.reqs, s.core[c].role x.1 x.2.1 ≤ s.core[c].role g.1 g.2.1) ∧
      { t with core := s.core } = s ∧ (∀ k, k ≠ c → t.core[k] = s.core[k]) ∧
      { t.core[c] with seat := s.core[c].seat, vpipe := s.core[c].vpipe, port := s.core[c].port } = s.core[c] ∧
      (if vector then t.core[c].port = s.core[c].port else t.core[c].vpipe = s.core[c].vpipe) ∧
      ∀ k : Fin 2, { t.core[c].seat[k] with
        sys := { t.core[c].seat[k].sys with perfCnt := s.core[c].seat[k].sys.perfCnt, perfNow := s.core[c].seat[k].sys.perfNow },
        c := { t.core[c].seat[k].c with done := s.core[c].seat[k].c.done } } = s.core[c].seat[k]

/-! ## Power, heat and links -/

/-- R49, R228 to R230, R323, R404 to R407: a clock-plan tick gives its die the group step and every lexicon of a placed seat its
proposals; the management controller's requests; a stack's reading, band and shutdown; REFRESH blocks a bank for a time alone; SCRUB counts
and rewrites a correctable unit; a junction overtemperature stops the package. A stack is read once a microsecond, and its first reading gives
its band at once. That an event of a die or stack
that the part lacks changes nothing, and from where MGMT's 100 µs and 1 ms count, is the model's choice (logs 35, 57). CLOCK_PLAN_TICK, MGMT_RAISE, MGMT_LOWER, TEMPERATURE_READING, REFRESH, SCRUB and JUNCTION_OVERTEMP complete. -/
def Obligations.ClockAndHeat : Prop :=
  (∀ (s : State) (die : Fin 8), let old := fld s.die[die].clkPlan 0 4
    let new := s.tickStep die
    if s.timebase.toNat % 50000 = 0 ∧ new ≠ old then Runs (.clockPlanTick die) s fun t =>
      SameBytes s t ∧ fld t.die[die].clkPlan 0 4 = new % 16 ∧ fld t.die[die].clkPlan 24 4 = new % 16 ∧
      fld t.die[die].clkPlan 4 20 = fld s.die[die].clkPlan 4 20 ∧ t.die[die].haltTo = s.timebase.toNat + 200 ∧
      (∀ d, d ≠ die → t.die[d] = s.die[d]) ∧
      ∀ r : SeatRef, let a := s.getSeat r
        let u := t.getSeat r
        if r.isSys = false ∧ coreDie r.core = die ∧ a.inst.phase ≠ .free ∧ a.inst.phase ≠ .preempted then
          { u with lex := a.lex, lexAt := a.lexAt, cut := { u.cut with latch := a.cut.latch } } = a ∧
          u.lexAt = (a.lexAt.1, s.core[r.core].cycle + 1) ∧ ∀ y : Fin 32, let e := a.lex[y]
            u.lex[y].samples = 0 ∧ u.lex[y].span0 = BitVec.ofNat 32 a.sched ∧ u.lex[y].b = e.b ∧
            if e.policy ≠ 2 ∧ e.state ≠ 3 then
              let v := 8 * ((e.b.toNat * (1800 - 75 * new) + 8 * (1800 - 75 * old) - 1) / (8 * (1800 - 75 * old)))
              u.lex[y].state = 2 ∧ u.lex[y].p.toNat = min (max v e.lo.toNat) e.hi.toNat
            else u.lex[y].state = e.state ∧ u.lex[y].p = e.p
        else u = a
    else exec (.clockPlanTick die) s = .next s) ∧
  (∀ (s : State) (die : Fin 8), let m := fld s.die[die].clkPlan 16 4
    let now := s.timebase.toNat
    let c := s.die[die].junction
    let became (t : State) (n : Nat) : Prop := { t with die := s.die, port := s.port } = s ∧ fld t.die[die].clkPlan 16 4 = n ∧
      (s.die[die].group = 0 → t.port = s.port) ∧ t.die[die].mgmtAt = now ∧
      fld t.die[die].clkPlan 0 16 = fld s.die[die].clkPlan 0 16 ∧ fld t.die[die].clkPlan 20 44 = fld s.die[die].clkPlan 20 44 ∧
      ∀ d, { t.die[d] with steps := s.die[d].steps, clkPlan := s.die[d].clkPlan, mgmtAt := s.die[d].mgmtAt } = s.die[d] ∧
        (d ≠ die → t.die[d].clkPlan = s.die[d].clkPlan ∧ t.die[d].mgmtAt = s.die[d].mgmtAt)
    (if s.diePresent die.val = true ∧ (100 ≤ c ∨ 4800 < s.power) ∧ s.die[die].mgmtAt + 100000 ≤ now then
      Runs (.mgmtRaise die) s fun t => became t (min (m + 1) 12) else exec (.mgmtRaise die) s = .next s) ∧
    if s.diePresent die.val = true ∧ c < 92 ∧ s.power < 4560 ∧ s.die[die].mgmtAt + 1000000 ≤ now then
      Runs (.mgmtLower die) s fun t => became t (m - 1) else exec (.mgmtLower die) s = .next s) ∧
  (∀ (s : State) (n : Fin 24) (c : Int), s.stackHere n.val = true → s.stack[n].down = false → s.stack[n].band.val ≤ 4 →
    let us := s.timebase.toNat / 1000
    s.stack[n].readAt ≠ us + 1 → Runs (.temperatureReading n c) s fun t =>
    let bound (b : Nat) : Int := if b = 1 then 85 else if b = 2 then 95 else if b = 3 then 105 else 110
    let old := s.stack[n].band.val
    let new := t.stack[n].band.val
    { t with stack := s.stack, devError := s.devError } = s ∧ (t.devError = true ↔ s.devError = true ∨ new = 4) ∧
    (∀ k, k ≠ n → t.stack[k] = s.stack[k]) ∧
    { t.stack[n] with
      reading := s.stack[n].reading, band := s.stack[n].band, readAt := s.stack[n].readAt, refi := s.stack[n].refi,
      down := false } = s.stack[n] ∧
    t.stack[n].reading = c ∧ t.stack[n].readAt = us + 1 ∧ t.stack[n].down = decide (new = 4) ∧ new ≤ 4 ∧
    t.stack[n].refi = (if new = 0 then 3900 else if new = 1 then 1950 else if new ≤ 3 then 975 else 0) ∧
    (s.stack[n].readAt ≠ 0 → (new ≠ 0 → bound new - 3 < c) ∧ (∀ b, new < b → b ≤ 4 → c < bound b ∧ (b ≤ old → c ≤ bound b - 3)) ∧
      (old < new → bound new ≤ c)) ∧
    (s.stack[n].readAt = 0 → (new ≠ 0 → bound new ≤ c) ∧ ∀ b, new < b → b ≤ 4 → c < bound b)) ∧
  (∀ (s : State) (n : Fin 24) (c : Int), s.stackHere n.val = false ∨ s.stack[n].readAt = s.timebase.toNat / 1000 + 1 →
    exec (.temperatureReading n c) s = .next s) ∧
  (∀ (s : State) (n : Fin 24) (b : Fin 1024), exec (.refresh n b) s = .next s) ∧
  (∀ (s : State) (n : Fin 24) (u : Nat), let key := stackUnit n u
    Runs (.scrub n u) s fun t => SameBytes s t ∧ t.badUnits = s.badUnits ∧ t.core = s.core ∧ (∀ k, k ≠ n → t.stack[k] = s.stack[k]) ∧
      t.corr = s.corr.filter (fun w => decide (w ≠ 4 * key)) ∧
      t.stack[n].ceCount = s.stack[n].ceCount + (if 4 * key ∈ s.corr then 1 else 0) ∧
      t.stack[n].ueCount = s.stack[n].ueCount + (if s.stackHere n.val = true ∧ s.stack[n].down = false ∧ key ∈ s.badUnits then 1 else 0)) ∧
  ∀ (s : State) (die : Fin 8), if s.diePresent die.val then
      ∃ t, exec (.junctionOvertemp die) s = .next t ∧ t = { s with stopped := true, devError := true } ∧
        (isReset t.nextAct = false → step t = .fault .deviceError)
    else exec (.junctionOvertemp die) s = .next s

/-- R205, R259, R295, R319, R333, R335, R336, R347, R400 to R402: a flit is taken only on a link that is up, with its CRC right, its number
next and a credit of its channel; its requests, at most three with 192 bytes, are served in order (what a
flit carries, and the channels of what R319 does not name: log 8): a write is performed and has landed with
its last part, a notice arrives, a release-marked flag waits until as many writes have landed as it counts, a board post waits for its round,
a board instruction and an atomic act at their home; a write, a reduction, a read, an atomic and a board instruction are answered by a flit of
the response channel, an error answer where they were refused or failed; 64 refusals in a row retrain the link. Training that fails for 1 ms
takes the port down and moves its queues to another port, the first one that is up (log 8; which ports the part lacks: log 35); a request
lost there has its error answer. A marker within 32 ns keeps the package synchronised. FLIT_RECEIVE, LINK_TRAINING_TIMEOUT,
LINK_RETRAIN_COMPLETE, TIMEBASE_MARKER and LOST_REQUEST_TIMEOUT complete. -/
def Obligations.FabricLinks : Prop :=
  (∀ (s : State) (n : Fin 64) (g : FlitArgs), let p := s.port[n]
    let on : Prop := p.up = true ∧ n.val < (if s.fuse.part = .mz5a then 32 else 64)
    let ch := flitChannel g
    let credits : Nat := if ch = 0 then 64 else if ch = 1 then 16 else if ch = 2 then 128 else 64
    (¬on ∨ p.training = true → exec (.flitReceive n g) s = .next s) ∧
    (on → p.training = false → g.crcOk = false → Runs (.flitReceive n g) s fun t =>
      { t with port := s.port, life := s.life } = s ∧ (∀ k, k ≠ n → t.port[k] = s.port[k]) ∧
      t.port[n] = { p with refusals := p.refusals + 1, training := decide (64 ≤ p.refusals + 1),
                           trainAt := if 64 ≤ p.refusals + 1 then s.timebase.toNat else p.trainAt } ∧
      t.life.replays[n] = s.life.replays[n] + 1) ∧
    (on → p.training = false → g.crcOk = true → g.seq % 4096 ≠ p.rxSeq.toNat ∨ credits ≤ p.owed[ch] → exec (.flitReceive n g) s = .next s) ∧
    (on → p.training = false → g.crcOk = true → g.seq % 4096 = p.rxSeq.toNat → p.owed[ch] < credits → ∃ u : State,
      { u with port := s.port } = s ∧ (∀ k, k ≠ n → u.port[k] = s.port[k]) ∧
      { u.port[n] with rxSeq := p.rxSeq, refusals := p.refusals, owed := p.owed } = p ∧ u.port[n].rxSeq = p.rxSeq + 1 ∧
      u.port[n].refusals = 0 ∧ u.port[n].owed[ch] = p.owed[ch] + 1 ∧ (∀ k, k ≠ ch → u.port[n].owed[k] = p.owed[k]) ∧
      exec (.flitReceive n g) s = .next
        (if g.dst = Config.thisPackage ∧ g.reqs.length ≤ 3 ∧ (g.reqs.map fun q => q.bytes.length).sum ≤ 192 then
          g.reqs.foldl (fun s q => s.takeReq n g.src q) u else u))) ∧
  (∀ (s : State) (n : Fin 64) (src : Nat) (q : FlitReq), s.portUp n = true → let p := s.port[n]
    let t := s.takeReq n src q
    let data := packLanes 8 (q.bytes.map fun b => b.toNat)
    let notice : Arrival := ⟨q.addr, data, .hub (Fin.ofNat 8 (windowHome q.addr).die), none⟩
    let mine : Prop := q.addr < 2 ^ 41 ∧ (windowHome q.addr).pkg = Config.thisPackage
    let here : Prop := mine ∧ inBoardRegion q.addr = false
    let board : Prop := mine ∧ inBoardRegion q.addr = true
    let place := windowPlace q.addr false
    let answered (e : Bool) (v : Nat) : Prop :=
      ∃ k : Fin 64, t.port[k].queue[(0 : Fin 4)] = s.port[k].queue[(0 : Fin 4)] ++ [⟨src, 0, none, false, false, 0, e, v, 0⟩]
    let landed : Prop := t.port[n].landedFrom src = if q.more then p.landedFrom src else p.landedFrom src + 1
    let wrote (v z : Nat) : Prop := (∀ k < z, t.byteAt (q.addr + k) = BitVec.ofNat 8 (v / 256 ^ k)) ∧
      ∀ k, k < q.addr ∨ q.addr + z ≤ k → t.byteAt k = s.byteAt k
    let hdr := s.boardHdr q.addr
    let reached : Prop := board ∧ HomeUp s q.addr ∧ s.answer place 64 true = .ok
    (∀ k, k ≠ n → { t.port[k] with queue := s.port[k].queue } = s.port[k]) ∧
    match q.load with
    | .response => t = s
    | .notice => SameBytes s t ∧ (here → t.arrivals = s.arrivals ++ [notice])
    | .post rank xk v => SameBytes s t ∧ t.arrivals = s.arrivals ∧ (board →
        ∃ x : Post, t.posts = s.posts ++ [x] ∧ x.who = none ∧ x.pkg = src ∧ x.rank = rank ∧ x.board = q.addr ∧ x.xk = xk ∧ x.value = v)
    | .write => landed ∧ (q.more = false → mine → inBoardRegion q.addr = true → answered true 0 ∧ SameBytes s t) ∧
        (here → HomeUp s q.addr → Memory.wf s.mem = true → q.addr % 2 ^ 22 + q.bytes.length ≤ 2 ^ 22 →
          (q.more = false → answered false 0) ∧ wrote data q.bytes.length)
    | .reduce op => landed ∧ (q.more = false → here →
        answered (decide (s.writeAnswer (.red op) place q.bytes.length false ≠ .ok)) 0)
    | .flag _ => here → p.held = [] → SameBytes s t ∧
        if p.flagDue (src, q) then t.arrivals = s.arrivals ++ [notice] ∧ t.port[n].held = []
        else t.arrivals = s.arrivals ∧ t.port[n].held = [(src, q)]
    | .read z => SameBytes s t ∧ t.arrivals = s.arrivals ∧
        (mine → answered (decide (s.answer place z false ≠ .ok)) (s.dataAt place z))
    | .atomic op z v e => t.arrivals = s.arrivals ∧
        (here → s.answer place z false = .ok → Memory.wf s.mem = true → answered false (s.dataAt place z) ∧
          wrote (atomApply op (8 * z) (s.dataAt place z) v.toNat e.toNat) z)
    | .bread lvl v => SameBytes s t ∧ (reached → match hdr.refuses none with
        | some k => answered true k
        | none =>
          let slot := fld v 0 32
          let x := s.slotState q.addr slot
          if hdr.slots ≤ slot then answered true 65
          else s.answer (windowPlace (q.addr + 64 + 16 * slot) false) 16 true = .ok →
            answered false ((if lvl then hdr.edition * 2 ^ 32 + (if x.1 then 2 ^ 31 else 0) + x.2 % 2 ^ 31
              else if x.1 then (s.homeWord (q.addr + 72 + 16 * slot)).toNat else 0) + (if x.1 then 0 else 5) * 2 ^ 64))
    | .breset force k v => reached → match hdr.refuses none with
        | some d => answered true d ∧ SameBytes s t
        | none =>
          let owns : Prop := fld hdr.d1 55 9 = src ∧ ∀ i, k = some i → i = fld hdr.d1 46 9
          let stays (c : Nat) : Prop := answered false (hdr.edition + c * 2 ^ 64) ∧ SameBytes s t
          if fld v 0 32 ≠ hdr.edition then stays 2
          else if force = true ∧ ¬owns then stays 4
          else if force = false ∧ hdr.posted < hdr.slots then stays 3
          else Memory.wf s.mem = true → q.addr % 64 = 0 → q.addr % 2 ^ 22 + 2 ^ 15 ≤ 2 ^ 22 → s.monitors = [] →
            let e := (hdr.edition + 1) % 2 ^ 32
            answered false e ∧ (t.boardHdr q.addr).edition = e ∧ (t.boardHdr q.addr).level = 0 ∧ (t.boardHdr q.addr).posted = 0 ∧
            (∀ u < hdr.slots, t.slotState q.addr u = (false, 0)) ∧
            ∀ k, k < q.addr ∨ q.addr + 64 + 16 * hdr.slots ≤ k → t.byteAt k = s.byteAt k
    | .binfo => SameBytes s t ∧ (reached → match hdr.refuses none with
        | some k => answered true k
        | none => answered false (hdr.edition * 2 ^ 32 + hdr.posted * 2 ^ 21 + hdr.level % 2 ^ 11 * 2 ^ 10 + hdr.scope * 4 + hdr.size))) ∧
  (∀ (s : State) (n : Fin 64), let others (t : State) : Prop := ∀ k, k ≠ n → t.port[k] = s.port[k]
    (s.port[n].training = true → s.port[n].trainAt + 1000000 ≤ s.timebase.toNat →
      Runs (.linkTrainingTimeout n) s fun t => { t with port := s.port, synced := s.synced, devError := s.devError } = s ∧
        (∀ k, k ≠ n → { t.port[k] with queue := s.port[k].queue } = s.port[k]) ∧
        { t.port[n] with queue := s.port[n].queue } = { s.port[n] with up := false, training := false } ∧
        (∀ k : Fin 64, k ≠ n → s.portUp k = true → (∀ j, j < k → j ≠ n → s.portUp j = false) → ∀ c : Fin 4,
          t.port[k].queue[c] = s.port[k].queue[c] ++ s.port[n].queue[c] ∧ t.port[n].queue[c] = []) ∧
        let left : Prop := ∃ k : Fin 64, t.portUp k = true
        (t.synced = true ↔ s.synced = true ∧ left) ∧ (t.devError = true ↔ s.devError = true ∨ ¬left)) ∧
    (s.port[n].training = false ∨ s.timebase.toNat < s.port[n].trainAt + 1000000 → exec (.linkTrainingTimeout n) s = .next s) ∧
    Runs (.linkRetrainComplete n) s (fun t => if s.port[n].training then { t with port := s.port } = s ∧ others t ∧
      t.port[n] = { s.port[n] with training := false, refusals := 0 } else t = s) ∧
    ∀ d : Int, if s.port[n].up = true ∧ s.port[n].training = false ∧ n.val < (if s.fuse.part = .mz5a then 32 else 64) then
      exec (.timebaseMarker n d) s = .next { s with synced := decide (d.natAbs ≤ 32), devError := s.devError || decide (32 < d.natAbs) }
      else exec (.timebaseMarker n d) s = .next s) ∧
  ∀ (s : State) (i : Nat), let lost : Prop := (∃ n : Fin 64, s.port[n].up = false ∧ ∃ x ∈ s.port[n].replay, x.id = some i ∧
      x.at' + 2000000 ≤ s.timebase.toNat) ∨ ∀ n : Fin 64, s.portUp n = false
    let write := s.flights.find? fun f => decide (f.id = i) && !f.place.isLocal
    (¬lost → exec (.lostRequestTimeout i) s = .next s) ∧
    (lost → ∀ f, write = some f → Runs (.lostRequestTimeout i) s fun t => SameBytes s t ∧
      t.flights = s.flights.filter (fun g => decide (g.id ≠ i)) ∧ { t with flights := s.flights, core := s.core } = s) ∧
    (lost → write = none → ∀ r l, s.remoteReq i = some (r, l) →
      exec (.lostRequestTimeout i) s = .next (s.setReq r { l with got := some ⟨.uncorrectable, 0, true⟩ }))

/-! ## Resets and boot -/

/-- R282, R403: a die reset aborts the launches on the die, stops its queues with DIE_LOST, clears its memories and flags and stops its
stream Y (its seat then is as at reset: logs 36 and 5), until die 0 has brought it up again or quarantined it (log 36; nothing happens on a
die that the part lacks: log 35); the other dies keep their memory and flags. DIE_RESET_START and DIE_RESET_DONE complete. -/
def Obligations.DieResets : Prop :=
  (∀ (s : State) (d : Fin 8), Memory.wf s.mem = true →
    if s.dieInReset d.val then exec (.dieResetStart d) s = .next s
    else Runs (.dieResetStart d) s fun t =>
      t.die[d].inReset = true ∧ (∀ e, e ≠ d → t.die[e].inReset = s.die[e].inReset) ∧
      (∀ k < 64, bit t.dieRst k = (bit s.dieRst k || decide (k = 8 + d.val))) ∧
      (∀ k, t.byteAt k = if inDie d k then 0 else s.byteAt k) ∧
      (∀ q : Fin 512, q.val / 64 = d.val → (t.lq q).stopped = true ∧ fld (t.lq q).ctl 20 4 = 3) ∧
      (∀ c : Fin 904, if coreDie c = d then t.core[c].flags = Vector.replicate 64 ⟨0, 0, 0, []⟩ ∧ t.core[c].freeze = none
        else t.core[c].flags = s.core[c].flags) ∧
      t.getSeat (sysRef d) = Seat.reset ∧
      ∀ (r : SeatRef) (l : Launch), l ∈ s.launches → r.isSys = false → coreDie r.core = d → (s.getSeat r).inst.q = l.q →
        (t.getSeat r).inst.phase = .free ∧ ((s.getSeat r).inst.phase ≠ .free → ∀ m ∈ t.launches, m.q ≠ l.q)) ∧
  ∀ (s : State) (d : Fin 8), if s.die[d].inReset ∧ s.diePresent d.val then Runs (.dieResetDone d) s fun t =>
      t.die[d] = { s.die[d] with inReset := false } ∧ (∀ e, e ≠ d → t.die[e] = s.die[e]) ∧
      (∀ k < 64, bit t.dieRst k = (bit s.dieRst k && decide (k ≠ 8 + d.val))) ∧ SameBytes s t ∧ t.launches = s.launches ∧
      (∀ r, r ≠ sysRef d → t.getSeat r = s.getSeat r) ∧
      (∀ k < 64, bit t.quar k = (bit s.quar k || (decide (k = d.val) && !s.bringsUp d.val))) ∧
      if s.bringsUp d.val = true ∧ s.dieUsable d.val = true then ((t.getSeat (sysRef d)).getStr .K).halted = false ∧
        ∀ n, ((t.getSeat (sysRef d)).getStr .K).rdX n = 0
      else t.getSeat (sysRef d) = s.getSeat (sysRef d)
    else exec (.dieResetDone d) s = .next s

/-- R388, R389, R395, R408, R409, R412: PACKAGE_RESET and POWER_UP leave every core at reset and slices and hubs at 0 (stack and host memory
keep what they hold over a package reset, host memory over a loss of power: log 3), keep the security counter from falling and the life
records, and start the stream Y of every usable die when the boot succeeds; the freeze line, at whose release links that dropped, which ones
is free (log 8), retrain; a request that is not supported is completed as such; the hourly life record, which carries the digest of the one
before, of 16 KiB (its layout and what the digest covers: log 15). PACKAGE_RESET, POWER_UP, FREEZE_LINE_ASSERT, FREEZE_LINE_RELEASE,
UNSUPPORTED_REQUEST and LIFE_RECORD complete. -/
def Obligations.PackageResets : Prop :=
  (∀ (s : State) (i : Instr), Memory.wf s.mem = true → i = .packageReset ∨ i = .powerUp → Runs i s fun t =>
    (∀ k, t.byteAt k = if physBase ≤ k ∧ (i = .packageReset ∨ kindOf k = 1) then s.byteAt k else 0) ∧
    t.fuse = s.fuse ∧ t.poison = [] ∧ t.launches = [] ∧ t.flights = [] ∧ t.images = [] ∧ t.timebase = 0 ∧ t.stopped = false ∧
    s.secctr.toNat ≤ t.secctr.toNat ∧ t.life = s.life ∧ t.lifeRing = s.lifeRing ∧
    (∀ c : Fin 904, c.val < 896 → t.core[c] = State.reset.core[c]) ∧
    (t.bootStat = 1 → t.keyStat = 1 ∧ ∀ d : Fin 8, t.dieUsable d.val = true →
      ((t.getSeat (sysRef d)).getStr .K).halted = false ∧ (t.die[d].lq[(63 : Fin 64)]).en = true) ∧
    (t.bootStat ≠ 1 → ∀ d, t.getSeat (sysRef d) = State.reset.getSeat (sysRef d))) ∧
  (∀ s : State, exec .freezeLineAssert s = .next { s with freezeN := true } ∧
    (if s.freezeN then Runs .freezeLineRelease s fun t => t.freezeN = false ∧ t.synced = false ∧
        { t with freezeN := true, synced := s.synced, port := s.port } = s ∧ ∀ n : Fin 64, t.port[n] = s.port[n] ∨
          s.portUp n = true ∧ s.port[n].training = false ∧
            t.port[n] = { s.port[n] with training := true, trainAt := s.timebase.toNat }
      else exec .freezeLineRelease s = .next s) ∧
    exec .unsupportedRequest s = .next { s with hostOut := s.hostOut ++ [.unsupported] }) ∧
  (∀ l : LifeRec, l.bytes.length = 16384) ∧
  ∀ s : State, let hour := s.timebase.toNat / 3600000000000
    if hour ≤ s.lifeHour then exec .lifeRecord s = .next s
    else s.lifeRing.length ≤ 65536 → Runs .lifeRecord s fun t => { t with lifeRing := s.lifeRing, lifeHour := s.lifeHour } = s ∧
      t.lifeHour = hour ∧ ∃ r : LifeRec, t.lifeRing = (s.lifeRing ++ [r]).drop (if s.lifeRing.length = 65536 then 1 else 0) ∧
        ∀ l, s.lifeRing.getLast? = some l → r.number = l.number + 1 ∧ r.digest = Config.sha512 l.bytes

/-! ## The host port -/

/-- R314, R395 to R397, R399: the mailbox of a die, the task-graph runner and BAR2. A refused message is completed with 0x100 + ERR and an
MSI-X; a graph whose records are all launched and done, with 0 or, when one was aborted, 1; an image load waits until the operating system's
choices fit it (log 49); a graph taken while a record is refused is marked aborted, and an image load or an attestation raises no MSI-X (log 30).
A BAR2 access that fails its walk or check, or crosses its page (log 42), or meets an error answer, is completed as Completer Abort; a read is
completed with its data. BAR0 (R396, R408, R409): the mailbox pages, BOOT_STAT, the reset doubleword; every other offset reads 0 and ignores
writes, as does the page of a die that the part lacks (log 35). DOORBELL, LOST_CLEAR,
MAILBOX_MESSAGE_WRITE, MAILBOX_TAKE, GRAPH_COMPLETION and HOST_BAR2_ACCESS complete. -/
def Obligations.HostPort : Prop :=
  (∀ (s : State) (d : Fin 8),
    let box (t : State) (f : Nat → Bool) : Prop := OnlyDie d s t ∧ { t.die[d] with mbox := s.die[d].mbox } = s.die[d] ∧
      ∀ k < 64, bit t.die[d].mbox k = f k
    let m := s.die[d].mbox
    if s.diePresent d.val then
    Runs (.doorbell d) s (fun t => box t fun k => bit m k || decide (k = if bit m 0 then 1 else 0)) ∧
    Runs (.lostClear d) s (fun t => box t fun k => bit m k && decide (k ≠ 1)) ∧
    ∀ (k : Fin 8) (v : Word), Runs (.mailboxMessageWrite d k v) s fun t => OnlyDie d s t ∧
      t.die[d] = if bit m 0 then s.die[d] else { s.die[d] with msg := s.die[d].msg.set k v }
    else exec (.doorbell d) s = .next s ∧ exec (.lostClear d) s = .next s ∧ ∀ (k : Fin 8) (v : Word), exec (.mailboxMessageWrite d k v) s = .next s) ∧
  (∀ (s : State) (d : Fin 8), let at' (o : Nat) : Nat := 0x1000 * d.val + o
    let reads (o : Nat) (v : Word) : Prop := s.bar0ReadAct o = { s with hostOut := s.hostOut ++ [.data v] }
    (∀ k : Fin 8, reads (at' (8 * k.val)) (if s.diePresent d.val then s.die[d].msg[k] else 0) ∧
      ∀ v, s.bar0WriteAct (at' (8 * k.val)) v = exec (.mailboxMessageWrite d k v) s) ∧
    reads (at' 0x40) 0 ∧ (∀ v, s.bar0WriteAct (at' 0x40) v = exec (.doorbell d) s) ∧
    reads (at' 0x48) (if s.diePresent d.val then s.die[d].mbox else 0) ∧
    (∀ v, s.bar0WriteAct (at' 0x48) v = if bit v 1 then exec (.lostClear d) s else .next s) ∧
    reads 0x80000 s.bootStat ∧ (∀ v, s.bar0WriteAct 0x80100 v = if fld v 0 32 = 1 then exec .packageReset s else .next s) ∧
    ∀ o, (o < 0x8000 ∧ 0x50 ≤ o % 0x1000) ∨ (0x8000 ≤ o ∧ o < 0x80000) ∨ 0x81000 ≤ o →
      reads o 0 ∧ ∀ v, s.bar0WriteAct o v = .next s) ∧
  (∀ (s : State) (d : Fin 8), Memory.wf s.mem = true →
    let m (k : Nat) : Word := s.die[d].msg[k]?.getD 0
    let g := fld (m 1) 0 16
    let posted : Prop := bit s.die[d].mbox 0 = true ∧ s.dieUsable d.val = true ∧ s.dieInReset d.val = false ∧ s.bootStat = 1
    let taken (t : State) (e : Nat) : Prop := bit t.die[d].mbox 0 = false ∧ fld t.die[d].mbox 8 8 = e ∧
      fld t.die[d].mbox 32 32 = (fld s.die[d].mbox 32 32 + 1) % 2 ^ 32 ∧ t.die[d].msg = s.die[d].msg
    let word (t : State) (v : Nat) : Prop := let a := hostKey (m 3).toNat
      (∀ k < 8, t.byteAt (a + k) = BitVec.ofNat 8 (v / 256 ^ k)) ∧ ∀ k, k < a ∨ a + 8 ≤ k → t.byteAt k = s.byteAt k
    let refused (e : Nat) : Prop := Runs (.mailboxTake d) s fun t => taken t e ∧ word t (0x100 + e) ∧ t.graphs = s.graphs ∧
      ∀ k < 64, t.msix.getLsbD k = (s.msix.getLsbD k || decide (k = d.val))
    let zeros : Prop := fld (m 1) 16 48 = 0 ∧ m 4 = 0 ∧ m 5 = 0 ∧ m 6 = 0 ∧ m 7 = 0
    let image := s.images.find? fun i => decide (m 0 ≠ 0) && decide (i.handle.setWidth 64 = m 0)
    (¬posted → exec (.mailboxTake d) s = .next s) ∧
    (posted → ¬zeros → refused 3) ∧
    (posted → zeros → g < 0xFFFE → image = none → refused 1) ∧
    (posted → zeros → g < 0xFFFE → ∀ i, image = some i → i.graphs[g]? = none → refused 2) ∧
    (posted → zeros → g < 0xFFFE → ∀ i recs, image = some i → i.graphs[g]? = some recs →
      Runs (.mailboxTake d) s fun t => taken t 0 ∧ ∃ x : Graph, t.graphs = s.graphs ++ [x] ∧ x.die = d ∧ x.graph = g ∧ x.compl = m 3 ∧
        x.left <:+ recs ∧ x.pending.length + x.left.length ≤ recs.length ∧
        (x.aborted = true ↔ x.pending.length + x.left.length < recs.length) ∧ t.msix = s.msix) ∧
    (posted → zeros → g = 0xFFFE →
      if s.loadDue d (m 2).toNat then Runs (.mailboxTake d) s fun t => taken t 0 ∧ ∃ v : Nat,
        ∀ k < 8, t.byteAt (hostKey (m 3).toNat + k) = BitVec.ofNat 8 (v / 256 ^ k)
      else exec (.mailboxTake d) s = .next s) ∧
    (posted → zeros → g = 0xFFFF → Runs (.mailboxTake d) s fun t => taken t 0 ∧ t.graphs = s.graphs ∧ t.images = s.images ∧ t.msix = s.msix)) ∧
  (∀ (s : State) (i : Nat) (g : Graph), s.graphs[i]? = some g → Memory.wf s.mem = true →
    (g.left ≠ [] ∨ g.pending ≠ [] ∨ s.dieUsable g.die.val = false ∨ s.dieInReset g.die.val = true → exec (.graphCompletion i) s = .next s) ∧
    (g.left = [] → g.pending = [] → s.dieUsable g.die.val = true → s.dieInReset g.die.val = false → Runs (.graphCompletion i) s fun t =>
      let a := hostKey g.compl.toNat
      t.graphs = dropAt i s.graphs ∧ (∀ k < 64, t.msix.getLsbD k = (s.msix.getLsbD k || decide (k = g.die.val))) ∧
      t.byteAt a = (if g.aborted then 1 else 0) ∧ (∀ k, a < k → k < a + 8 → t.byteAt k = 0) ∧
      ∀ k, k < a ∨ a + 8 ≤ k → t.byteAt k = s.byteAt k)) ∧
  ∀ (s : State) (g : Bar2Args) (tl : Tlb), Memory.wf s.mem = true → let va := s.hbarVa.toNat + g.off % 2 ^ 36
    let n := 2 ^ g.size.val
    let rt : Right := if g.write then .wr else .rd
    let x := s.xlat s.hostRoot s.hostTlb 64 false va rt
    let walked := s.noteWalk (s.xlatReads s.hostRoot s.hostTlb false va rt)
    let aborts (tl : Tlb) : Prop := exec (.hostBar2Access g) s = .next { walked with hostTlb := tl, hostOut := s.hostOut ++ [.abort] }
    (∀ leaf base z, x = (.ok leaf base z, tl) →
      let p := leafPlace leaf base z va
      if z < va % z + n then aborts tl
      else (g.write = false → p.isLocal = true → Runs (.hostBar2Access g) s fun t => SameBytes s t ∧ t.hostTlb = tl ∧ t.core = s.core ∧
          t.hostOut = s.hostOut ++ [if s.answer p n true = .ok then .data (BitVec.ofNat 64 (s.dataAt p n)) else .abort]) ∧
        (p.isLocal = false → (∃ k : Fin 64, s.portUp k = true) → Runs (.hostBar2Access g) s fun t => SameBytes s t ∧ t.hostTlb = tl ∧
          t.core = s.core ∧ ∃ k : Fin 64, let c : Fin 4 := if g.write then 2 else 3
            ∃ f : OutFlit, t.port[k].queue[c] = s.port[k].queue[c] ++ [f] ∧ f.pkg = p.home.pkg ∧ f.write = g.write ∧
              (g.write = true → f.data = g.data.toNat % 2 ^ (8 * n))) ∧
        (g.write = true → p.isLocal = true → s.writeAnswer .store p n true = .ok → s.monitors = [] →
          Runs (.hostBar2Access g) s fun t => t.hostTlb = tl ∧ t.core = s.core ∧ t.hostOut = s.hostOut ∧
            (∀ k < n, t.byteAt (p.key + k) = BitVec.ofNat 8 (g.data.toNat / 256 ^ k)) ∧
            ∀ k, k / 32 ∉ p.units n → t.byteAt k = s.byteAt k)) ∧
    ((∀ leaf base z, x.1 ≠ .ok leaf base z) → aborts x.2)

/-! ## The machine -/

/-- No instruction of the opcode table ends a run: in every state each has its effect, takes its exception, or leaves its stream waiting. A
device error ends every step but a reset (R407); with the freeze line asserted only its release and the resets do anything (R389). -/
def Obligations.NoInstructionStopsButAStoppedPackage : Prop := (
  ∀ (i : Instr) (s : State), ∃ t, exec i s = .next t) ∧ (
  ∀ s : State, isReset s.nextAct = false →
    (s.stopped = true → step s = .fault .deviceError) ∧
    (s.stopped = false → s.freezeN = true → s.nextAct ≠ .event .freezeLineRelease → step s = .next s.turnPage))

/-- R73, R119, R158: a step runs the decoded instruction: of the stream whose turn it is (here one that needs no shared pipe, its hazard
detector off), of the engine program whose turn it is (a LITX with operand 0 and the word after it), or the event that happens, logged in
record mode when it comes from outside, and in replay mode then left to the log (R393; log 41); a word no encoding defines runs as such. -/
def Obligations.StepRunsTheDecodedInstruction : Prop :=
  ∀ s : State, s.stopped = false → s.freezeN = false →
    (∀ i, s.nextAct = .event i → let u := s.turnPage.record (.event i)
      if s.recCtl = 2 ∧ s.turnPage.arrives (.event i) = true then step s = .next s.turnPage
      else if happens i = true ∧ u.eventDue i = true then step s = exec i u else step s = .next u) ∧
    (∀ (w : Who) (x : IWord), s.nextAct = .issue w → s.turnPage.mayIssue w = true →
      let u : State := { s.turnPage with turn := w }
      u.me.fetch = .word x → u.me.enabled = true → bit u.mySeat.sys.dbgCtl 0 = false →
      (∀ i, decodeWord x.toNat = some i → majorReserved (fld x 26 6) = false → majorAccepts (fld x 26 6) (sclass w) = true →
        narrowAccepts i (sclass w) = true → u.forgetVamo.pipeNeeded x.toNat i = none →
        ∃ v, exec i u.forgetVamo = .next v ∧ step s = .next (v.countIssue u)) ∧
      (decodeWord x.toNat = none → majorReserved (fld x 26 6) = true ∨ majorAccepts (fld x 26 6) (sclass w) = true →
        ∃ v, exec (.undefinedEncoding x) u = .next v ∧ step s = .next (v.countIssue u)) ∧
      (majorReserved (fld x 26 6) = false → majorAccepts (fld x 26 6) (sclass w) = false →
        step s = .next ((u.takeFault w.ref ⟨.streamClass, 0, 0, false⟩ w.stream.idx.val).countIssue u))) ∧
    ∀ (c : Fin 904) (e : EngineId) (k : Fin 2) (x : IWord), s.nextAct = .word c e k → s.turnPage.mayWord ⟨c, k⟩ e = true →
      let u : State := { s.turnPage with turn := ⟨⟨c, k⟩, .K⟩, turnE := e }
      u.mySeat.fetchWord e u.myEng.pc = .word x → bit u.mySeat.sys.dbgCtl 0 = false →
      (∀ i, u.pairs x = false → decodeEngine e x.toNat 0 = some i → step s = exec i u) ∧
      (u.pairs x = false → decodeEngine e x.toNat 0 = none → step s = exec (.undefinedEngineWord (x.setWidth 16)) u) ∧
      ∀ y, u.pairs x = true → u.mySeat.fetchWord e (u.myEng.pc + 1) = .word y →
        step s = exec ((decodeEngine e x.toNat y.toNat).getD (.undefinedEngineWord (x.setWidth 16))) u

/-- R105, and the words that R111, R169, R192 and R317 give: the words the spec writes out decode to what they stand for. -/
def Obligations.DecodeWordsOfTheSpec : Prop :=
  decodeWord 0x00514601 = some (.sub (.x 5) (.x 5) (.x 6)) ∧ decodeWord 0x0E400000 = some (.addi (.q 4) (.x 0) 0) ∧
  decodeWord 0x2431400A = some (.cmpi 3 (.x 5) 1 .lt) ∧ decodeWord 0xC8001010 = some (.comma 4 1) ∧
  decodeWord 0x7450C081 = some (.bar (.x 5) 3) ∧
  decodeEngine .matrix 0x5080 0 = some (.mzero 0 true) ∧ decodeEngine .copy 0x5080 0 ≠ some (.mzero 0 true)

/-- R65 to R68, R75, R76, R290: decoding what `encode` gives back is the instruction, for every well-formed stream instruction and engine
word. -/
def Obligations.DecodeInvertsEncode : Prop :=
  ∀ i : Instr, i.wf = true →
    (i.isStream = true → encode i < 2 ^ 32 ∧ decodeWord (encode i) = some i) ∧
    ∀ e, i.engine = some e → encode i < 2 ^ 16 ∧ decodeEngine e (encode i) (encodeNext i) = some i ∧
      (encode i / 2 ^ 10 < 16 ∨ 2 ^ 15 ≤ encode i → ∀ e', decodeEngine e' (encode i) (encodeNext i) = some i)

/-- Memory keeps its canonical form in every step: addresses strictly rising, and no byte listed that an unlisted address reads as. -/
def Obligations.MemoryStaysCanonical : Prop :=
  ∀ s t : State, Memory.wf s.mem = true → step s = .next t → Memory.wf t.mem = true

/-- What State.reset leaves (R30, R48, R129, R182, R195, R228, R321, R322, R408; the values of its seats are those of R26 and of log 20; that
stack and host memory read 0 too is the model's choice: log 3). -/
def Obligations.ResetState : Prop :=
  let s := State.reset
  Memory.wf s.mem = true ∧ (∀ k, s.byteAt k = 0) ∧ s.bootStat = 0 ∧ s.timebase = 0 ∧ s.synced = true ∧ s.stopped = false ∧
  (∀ c : Fin 904, s.core[c].ageLimit = 64 ∧ s.core[c].freeze = none ∧ ∀ k : Fin 2, let u := s.core[c].seat[k]
    u.inst.phase = .free ∧ u.vec.vlen = 256 ∧ u.cut.commaLimit = 65536 ∧ u.trap.info = 0 ∧ u.vec.vstat = 0 ∧ u.sys.roles = 0 ∧
    u.loads = [] ∧ u.stores = [] ∧ (∀ n : Fin 64, u.ln[n].state = 0) ∧ (∀ y : Fin 32, u.lex[y].state = 0) ∧
    ∀ j : Fin 4, u.str[j].halted = true ∧ u.str[j].p.getLsbD 0 = true ∧ u.str[j].lc = 0) ∧
  (∀ n : Fin 24, s.stack[n].down = false ∧ s.stack[n].band = 0) ∧
  ∀ d : Fin 8, s.die[d].inReset = false ∧ ∀ q : Fin 64, (s.die[d].lq[q]).en = false

/-! ## The copy engine -/

/-- R291 to R293, R295, R296: the runs of the copy commands; the piece that a moving copy command moves next: it reads at most the bytes up
to the end of the run, of the aligned 256-byte block of its destination and, where the seat is to be pre-empted, of its 256-byte boundary
(R297), and its write leaves with what it read, a word poisoned where the read met an error; the command stands at the next position, and
CREMOTE's notice follows its last piece. Not a byte of memory changes yet. One piece moves in a core cycle. -/
def Obligations.CopiesMoveTheirPieces : Prop :=
  (∀ (g : CopyArgs) (args l : List Word) (i2 i1 : Nat), let a := if g.sync then args.tail else args
    let w (i : Nat) : Word := a.getD i 0
    let dim (i : Nat) : Nat × Int × Int := match if i < g.dims.val then a[3 + i]? else none with
      | some v => (fld v 48 16, (BitVec.ofNat 24 (fld v 24 24)).toInt, (BitVec.ofNat 24 (fld v 0 24)).toInt)
      | none => (1, 0, 0)
    let at' (v : Word) (d : Int) : Word := v + BitVec.ofInt 64 d
    let entries : List Nat := l.map fun v => v.toNat
    let entry : Int := (l.getD i1 0).toInt
    let z : Nat := 64 * 4 ^ g.sub.val
    let laid (k : CopyKind) (n2 n1 len : Nat) (src dst : Word) : Prop := let p := copyPlan k g args
      p.runs = (n2, n1) ∧ p.len = len ∧ p.run entries i2 i1 = (src, dst) ∧ p.sync = if g.sync then args.head? else none
    (∀ k, k = .copy ∨ k = .remote ∨ k = .acc → laid k (dim 1).1 (dim 0).1 (w 1).toNat
      (at' (w 0) (i1 * (dim 0).2.1 + i2 * (dim 1).2.1)) (at' (w 2) (i1 * (dim 0).2.2 + i2 * (dim 1).2.2))) ∧
    laid .gather 1 (w 2).toNat z (at' (w 0) (entry * z)) (at' (w 3) (i1 * z)) ∧
    laid .scatter 1 (w 2).toNat z (at' (w 0) (i1 * z)) (at' (w 3) (entry * z)) ∧
    laid .fill 1 1 (w 1).toNat (w 0) (w 2) ∧
    (i1 < l.length → laid .bcast 1 (w 3).toNat (w 1).toNat (w 0) (l.getD i1 0))) ∧
  (∀ (pattern : Word) (k n b : Nat), b < n → fillBytes pattern k n / 256 ^ b % 256 = fld pattern (8 * ((k + b) % 8)) 8) ∧
  (∀ (s u : State) (r : SeatRef) (hint : Option (Fin 8)) (va : Word) (n elem : Nat) (p : Place), 0 < elem →
    s.engCheck r .copy va .rd false false = .ok (p, u) →
    let most := min n (65536 - va.toNat % 65536)
    let m := max elem (s.evenPrefix p most / elem * elem)
    let gives (data size : Nat) (bad : Bool) : Prop := ∃ v, s.readPiece r hint va n elem = .ok ⟨data, size, bad, v⟩ ∧ v.flights = s.flights
    (∀ f, s.engMeet r .copy (s.curIndex r .copy) p most = .forward f → gives (covered f.place f.data p most).toNat most false) ∧
    (s.engMeet r .copy (s.curIndex r .copy) p most = .clear →
      if s.answer p m false = .ok then gives (s.dataAt p m) m false else gives 0 m true)) ∧
  ∀ (s : State) (core : Fin 904) (seat : Fin 2) (i : Nat) (x : Cmd) (j : Instr) (kind : CopyKind) (g : CopyArgs),
    let r : SeatRef := ⟨core, seat⟩
    let live := s.core[core].live
    ((s.getSeat r).getEng .copy).moving = some (i, x) → x.instr .copy = some j → copyKind j = some (kind, g) → s.engineHeld core = false →
    s.core[core].pieceAt ≠ live + 1 → x.due ≤ live → (s.pieceMoves (otherSeat r) = true → s.core[core].served[(2 : Fin 4)] ≠ seat) →
    let p := copyPlan kind g x.args
    let src := (p.run x.data x.i2 x.i1).1 + BitVec.ofNat 64 x.k
    let dst := (p.run x.data x.i2 x.i1).2 + BitVec.ofNat 64 x.k
    let n := min (p.len - x.k) (min (256 - dst.toNat % 256) (if s.copyStopping r then 256 - x.k % 256 else 256))
    let t := s.pieceAct core seat
    (s.copyStopping r = true → x.k % 256 = 0 → t = s) ∧
    (¬(s.copyStopping r = true ∧ x.k % 256 = 0) → ∀ (got : PieceRead) (q : Place) (u : State),
      (if kind = .fill then got = ⟨fillBytes p.src x.k n, n, false, s⟩ else s.readPiece r g.hint src n p.elem = .ok got) →
      got.st.engCheck r .copy dst (if kind = .acc then .at' else .wr) false true = .ok (q, u) → q.isLocal = decide (kind ≠ .remote) →
      let m := got.size
      let last : Prop := ¬(x.k + m < p.len) ∧ ¬(x.i1 + 1 < p.runs.2) ∧ ¬(x.i2 + 1 < p.runs.1)
      SameBytes s t ∧ t.core[core].pieceAt = live + 1 ∧ t.core[core].served[(2 : Fin 4)] = seat ∧
      (∃ f, t.flights = s.flights ++ [f] ∧ f.src = .engine core .copy seat x.acc ∧ f.kind = (if kind = .acc then .acc g.sub else .store) ∧
        f.place = q ∧ f.size = m ∧ f.data = BitVec.ofNat 2048 got.data ∧ f.bad = got.bad ∧
        f.sync = if kind = .remote then none else (p.syncOf x.data x.i1).map fun w => w.toNat) ∧
      (∃ y, ((t.getSeat r).getEng .copy).queue[i]? = some y ∧ y.acc = x.acc ∧ y.data = x.data ∧ y.args = x.args ∧
        (x.k + m < p.len → y.k = x.k + m ∧ y.i1 = x.i1 ∧ y.i2 = x.i2 ∧ y.moved = false) ∧
        (¬(x.k + m < p.len) → x.i1 + 1 < p.runs.2 → y.k = 0 ∧ y.i1 = x.i1 + 1 ∧ y.i2 = x.i2 ∧ y.moved = false) ∧
        (¬(x.k + m < p.len) → ¬(x.i1 + 1 < p.runs.2) → x.i2 + 1 < p.runs.1 → y.k = 0 ∧ y.i1 = 0 ∧ y.i2 = x.i2 + 1 ∧ y.moved = false) ∧
        (last → y.moved = true)) ∧
      (last → kind = .remote → ∀ a, p.sync = some a → t.arrivals = s.arrivals ++ [⟨a.toNat, p.len * p.d1.n * p.d2.n,
        .engine core .copy seat x.acc, if x.attr.rel.isSome then some x.acc else none⟩]) ∧
      (¬last ∨ kind ≠ .remote ∨ p.sync = none → t.arrivals = s.arrivals))
end

