-- ==== Sys2Proof/Laws/State.lean ====
section
/-!
SUPPORT. What each update of a part of the state does to each field: one lemma per field, true by rfl, so that no proof unfolds a
record update; and what it does to the part itself.
-/
namespace Sys2Proof.Machine

/-! ## setCore -/

@[simp] theorem State.setCore_die (s : State) (c : Fin 904) (v : Core) : (s.setCore c v).die = s.die := rfl
@[simp] theorem State.setCore_mem (s : State) (c : Fin 904) (v : Core) : (s.setCore c v).mem = s.mem := rfl
@[simp] theorem State.setCore_poison (s : State) (c : Fin 904) (v : Core) : (s.setCore c v).poison = s.poison := rfl
@[simp] theorem State.setCore_corr (s : State) (c : Fin 904) (v : Core) : (s.setCore c v).corr = s.corr := rfl
@[simp] theorem State.setCore_badUnits (s : State) (c : Fin 904) (v : Core) : (s.setCore c v).badUnits = s.badUnits := rfl
@[simp] theorem State.setCore_unitKey (s : State) (c : Fin 904) (v : Core) : (s.setCore c v).unitKey = s.unitKey := rfl
@[simp] theorem State.setCore_flights (s : State) (c : Fin 904) (v : Core) : (s.setCore c v).flights = s.flights := rfl
@[simp] theorem State.setCore_monitors (s : State) (c : Fin 904) (v : Core) : (s.setCore c v).monitors = s.monitors := rfl
@[simp] theorem State.setCore_arrivals (s : State) (c : Fin 904) (v : Core) : (s.setCore c v).arrivals = s.arrivals := rfl
@[simp] theorem State.setCore_posts (s : State) (c : Fin 904) (v : Core) : (s.setCore c v).posts = s.posts := rfl
@[simp] theorem State.setCore_jobs (s : State) (c : Fin 904) (v : Core) : (s.setCore c v).jobs = s.jobs := rfl
@[simp] theorem State.setCore_armed (s : State) (c : Fin 904) (v : Core) : (s.setCore c v).armed = s.armed := rfl
@[simp] theorem State.setCore_shoots (s : State) (c : Fin 904) (v : Core) : (s.setCore c v).shoots = s.shoots := rfl
@[simp] theorem State.setCore_launches (s : State) (c : Fin 904) (v : Core) : (s.setCore c v).launches = s.launches := rfl
@[simp] theorem State.setCore_barriers (s : State) (c : Fin 904) (v : Core) : (s.setCore c v).barriers = s.barriers := rfl
@[simp] theorem State.setCore_images (s : State) (c : Fin 904) (v : Core) : (s.setCore c v).images = s.images := rfl
@[simp] theorem State.setCore_carried (s : State) (c : Fin 904) (v : Core) : (s.setCore c v).carried = s.carried := rfl
@[simp] theorem State.setCore_scPast (s : State) (c : Fin 904) (v : Core) : (s.setCore c v).scPast = s.scPast := rfl
@[simp] theorem State.setCore_unitFree (s : State) (c : Fin 904) (v : Core) : (s.setCore c v).unitFree = s.unitFree := rfl
@[simp] theorem State.setCore_transl (s : State) (c : Fin 904) (v : Core) : (s.setCore c v).transl = s.transl := rfl
@[simp] theorem State.setCore_badObjs (s : State) (c : Fin 904) (v : Core) : (s.setCore c v).badObjs = s.badObjs := rfl
@[simp] theorem State.setCore_graphs (s : State) (c : Fin 904) (v : Core) : (s.setCore c v).graphs = s.graphs := rfl
@[simp] theorem State.setCore_keys (s : State) (c : Fin 904) (v : Core) : (s.setCore c v).keys = s.keys := rfl
@[simp] theorem State.setCore_keyStat (s : State) (c : Fin 904) (v : Core) : (s.setCore c v).keyStat = s.keyStat := rfl
@[simp] theorem State.setCore_hostRoot (s : State) (c : Fin 904) (v : Core) : (s.setCore c v).hostRoot = s.hostRoot := rfl
@[simp] theorem State.setCore_domRoot (s : State) (c : Fin 904) (v : Core) : (s.setCore c v).domRoot = s.domRoot := rfl
@[simp] theorem State.setCore_quar (s : State) (c : Fin 904) (v : Core) : (s.setCore c v).quar = s.quar := rfl
@[simp] theorem State.setCore_dieRst (s : State) (c : Fin 904) (v : Core) : (s.setCore c v).dieRst = s.dieRst := rfl
@[simp] theorem State.setCore_hbarVa (s : State) (c : Fin 904) (v : Core) : (s.setCore c v).hbarVa = s.hbarVa := rfl
@[simp] theorem State.setCore_recCtl (s : State) (c : Fin 904) (v : Core) : (s.setCore c v).recCtl = s.recCtl := rfl
@[simp] theorem State.setCore_recSent (s : State) (c : Fin 904) (v : Core) : (s.setCore c v).recSent = s.recSent := rfl
@[simp] theorem State.setCore_replayLog (s : State) (c : Fin 904) (v : Core) : (s.setCore c v).replayLog = s.replayLog := rfl
@[simp] theorem State.setCore_dbgToken (s : State) (c : Fin 904) (v : Core) : (s.setCore c v).dbgToken = s.dbgToken := rfl
@[simp] theorem State.setCore_hostOut (s : State) (c : Fin 904) (v : Core) : (s.setCore c v).hostOut = s.hostOut := rfl
@[simp] theorem State.setCore_power (s : State) (c : Fin 904) (v : Core) : (s.setCore c v).power = s.power := rfl
@[simp] theorem State.setCore_devError (s : State) (c : Fin 904) (v : Core) : (s.setCore c v).devError = s.devError := rfl
@[simp] theorem State.setCore_recLog (s : State) (c : Fin 904) (v : Core) : (s.setCore c v).recLog = s.recLog := rfl
@[simp] theorem State.setCore_bootStat (s : State) (c : Fin 904) (v : Core) : (s.setCore c v).bootStat = s.bootStat := rfl
@[simp] theorem State.setCore_measured (s : State) (c : Fin 904) (v : Core) : (s.setCore c v).measured = s.measured := rfl
@[simp] theorem State.setCore_timebase (s : State) (c : Fin 904) (v : Core) : (s.setCore c v).timebase = s.timebase := rfl
@[simp] theorem State.setCore_secctr (s : State) (c : Fin 904) (v : Core) : (s.setCore c v).secctr = s.secctr := rfl
@[simp] theorem State.setCore_stack (s : State) (c : Fin 904) (v : Core) : (s.setCore c v).stack = s.stack := rfl
@[simp] theorem State.setCore_port (s : State) (c : Fin 904) (v : Core) : (s.setCore c v).port = s.port := rfl
@[simp] theorem State.setCore_hostTlb (s : State) (c : Fin 904) (v : Core) : (s.setCore c v).hostTlb = s.hostTlb := rfl
@[simp] theorem State.setCore_portTlb (s : State) (c : Fin 904) (v : Core) : (s.setCore c v).portTlb = s.portTlb := rfl
@[simp] theorem State.setCore_msix (s : State) (c : Fin 904) (v : Core) : (s.setCore c v).msix = s.msix := rfl
@[simp] theorem State.setCore_life (s : State) (c : Fin 904) (v : Core) : (s.setCore c v).life = s.life := rfl
@[simp] theorem State.setCore_lifeRing (s : State) (c : Fin 904) (v : Core) : (s.setCore c v).lifeRing = s.lifeRing := rfl
@[simp] theorem State.setCore_lifeHour (s : State) (c : Fin 904) (v : Core) : (s.setCore c v).lifeHour = s.lifeHour := rfl
@[simp] theorem State.setCore_freezeN (s : State) (c : Fin 904) (v : Core) : (s.setCore c v).freezeN = s.freezeN := rfl
@[simp] theorem State.setCore_synced (s : State) (c : Fin 904) (v : Core) : (s.setCore c v).synced = s.synced := rfl
@[simp] theorem State.setCore_stopped (s : State) (c : Fin 904) (v : Core) : (s.setCore c v).stopped = s.stopped := rfl
@[simp] theorem State.setCore_seq (s : State) (c : Fin 904) (v : Core) : (s.setCore c v).seq = s.seq := rfl
@[simp] theorem State.setCore_turn (s : State) (c : Fin 904) (v : Core) : (s.setCore c v).turn = s.turn := rfl
@[simp] theorem State.setCore_turnE (s : State) (c : Fin 904) (v : Core) : (s.setCore c v).turnE = s.turnE := rfl
@[simp] theorem State.setCore_agenda (s : State) (c : Fin 904) (v : Core) : (s.setCore c v).agenda = s.agenda := rfl
@[simp] theorem State.setCore_tick (s : State) (c : Fin 904) (v : Core) : (s.setCore c v).tick = s.tick := rfl

/-! ## setSeat -/

@[simp] theorem State.setSeat_die (s : State) (r : SeatRef) (v : Seat) : (s.setSeat r v).die = s.die := rfl
@[simp] theorem State.setSeat_mem (s : State) (r : SeatRef) (v : Seat) : (s.setSeat r v).mem = s.mem := rfl
@[simp] theorem State.setSeat_poison (s : State) (r : SeatRef) (v : Seat) : (s.setSeat r v).poison = s.poison := rfl
@[simp] theorem State.setSeat_corr (s : State) (r : SeatRef) (v : Seat) : (s.setSeat r v).corr = s.corr := rfl
@[simp] theorem State.setSeat_badUnits (s : State) (r : SeatRef) (v : Seat) : (s.setSeat r v).badUnits = s.badUnits := rfl
@[simp] theorem State.setSeat_unitKey (s : State) (r : SeatRef) (v : Seat) : (s.setSeat r v).unitKey = s.unitKey := rfl
@[simp] theorem State.setSeat_flights (s : State) (r : SeatRef) (v : Seat) : (s.setSeat r v).flights = s.flights := rfl
@[simp] theorem State.setSeat_monitors (s : State) (r : SeatRef) (v : Seat) : (s.setSeat r v).monitors = s.monitors := rfl
@[simp] theorem State.setSeat_arrivals (s : State) (r : SeatRef) (v : Seat) : (s.setSeat r v).arrivals = s.arrivals := rfl
@[simp] theorem State.setSeat_posts (s : State) (r : SeatRef) (v : Seat) : (s.setSeat r v).posts = s.posts := rfl
@[simp] theorem State.setSeat_jobs (s : State) (r : SeatRef) (v : Seat) : (s.setSeat r v).jobs = s.jobs := rfl
@[simp] theorem State.setSeat_armed (s : State) (r : SeatRef) (v : Seat) : (s.setSeat r v).armed = s.armed := rfl
@[simp] theorem State.setSeat_shoots (s : State) (r : SeatRef) (v : Seat) : (s.setSeat r v).shoots = s.shoots := rfl
@[simp] theorem State.setSeat_launches (s : State) (r : SeatRef) (v : Seat) : (s.setSeat r v).launches = s.launches := rfl
@[simp] theorem State.setSeat_barriers (s : State) (r : SeatRef) (v : Seat) : (s.setSeat r v).barriers = s.barriers := rfl
@[simp] theorem State.setSeat_images (s : State) (r : SeatRef) (v : Seat) : (s.setSeat r v).images = s.images := rfl
@[simp] theorem State.setSeat_carried (s : State) (r : SeatRef) (v : Seat) : (s.setSeat r v).carried = s.carried := rfl
@[simp] theorem State.setSeat_scPast (s : State) (r : SeatRef) (v : Seat) : (s.setSeat r v).scPast = s.scPast := rfl
@[simp] theorem State.setSeat_unitFree (s : State) (r : SeatRef) (v : Seat) : (s.setSeat r v).unitFree = s.unitFree := rfl
@[simp] theorem State.setSeat_transl (s : State) (r : SeatRef) (v : Seat) : (s.setSeat r v).transl = s.transl := rfl
@[simp] theorem State.setSeat_badObjs (s : State) (r : SeatRef) (v : Seat) : (s.setSeat r v).badObjs = s.badObjs := rfl
@[simp] theorem State.setSeat_graphs (s : State) (r : SeatRef) (v : Seat) : (s.setSeat r v).graphs = s.graphs := rfl
@[simp] theorem State.setSeat_keys (s : State) (r : SeatRef) (v : Seat) : (s.setSeat r v).keys = s.keys := rfl
@[simp] theorem State.setSeat_keyStat (s : State) (r : SeatRef) (v : Seat) : (s.setSeat r v).keyStat = s.keyStat := rfl
@[simp] theorem State.setSeat_hostRoot (s : State) (r : SeatRef) (v : Seat) : (s.setSeat r v).hostRoot = s.hostRoot := rfl
@[simp] theorem State.setSeat_domRoot (s : State) (r : SeatRef) (v : Seat) : (s.setSeat r v).domRoot = s.domRoot := rfl
@[simp] theorem State.setSeat_quar (s : State) (r : SeatRef) (v : Seat) : (s.setSeat r v).quar = s.quar := rfl
@[simp] theorem State.setSeat_dieRst (s : State) (r : SeatRef) (v : Seat) : (s.setSeat r v).dieRst = s.dieRst := rfl
@[simp] theorem State.setSeat_hbarVa (s : State) (r : SeatRef) (v : Seat) : (s.setSeat r v).hbarVa = s.hbarVa := rfl
@[simp] theorem State.setSeat_recCtl (s : State) (r : SeatRef) (v : Seat) : (s.setSeat r v).recCtl = s.recCtl := rfl
@[simp] theorem State.setSeat_recSent (s : State) (r : SeatRef) (v : Seat) : (s.setSeat r v).recSent = s.recSent := rfl
@[simp] theorem State.setSeat_replayLog (s : State) (r : SeatRef) (v : Seat) : (s.setSeat r v).replayLog = s.replayLog := rfl
@[simp] theorem State.setSeat_dbgToken (s : State) (r : SeatRef) (v : Seat) : (s.setSeat r v).dbgToken = s.dbgToken := rfl
@[simp] theorem State.setSeat_hostOut (s : State) (r : SeatRef) (v : Seat) : (s.setSeat r v).hostOut = s.hostOut := rfl
@[simp] theorem State.setSeat_power (s : State) (r : SeatRef) (v : Seat) : (s.setSeat r v).power = s.power := rfl
@[simp] theorem State.setSeat_devError (s : State) (r : SeatRef) (v : Seat) : (s.setSeat r v).devError = s.devError := rfl
@[simp] theorem State.setSeat_recLog (s : State) (r : SeatRef) (v : Seat) : (s.setSeat r v).recLog = s.recLog := rfl
@[simp] theorem State.setSeat_bootStat (s : State) (r : SeatRef) (v : Seat) : (s.setSeat r v).bootStat = s.bootStat := rfl
@[simp] theorem State.setSeat_measured (s : State) (r : SeatRef) (v : Seat) : (s.setSeat r v).measured = s.measured := rfl
@[simp] theorem State.setSeat_timebase (s : State) (r : SeatRef) (v : Seat) : (s.setSeat r v).timebase = s.timebase := rfl
@[simp] theorem State.setSeat_secctr (s : State) (r : SeatRef) (v : Seat) : (s.setSeat r v).secctr = s.secctr := rfl
@[simp] theorem State.setSeat_stack (s : State) (r : SeatRef) (v : Seat) : (s.setSeat r v).stack = s.stack := rfl
@[simp] theorem State.setSeat_port (s : State) (r : SeatRef) (v : Seat) : (s.setSeat r v).port = s.port := rfl
@[simp] theorem State.setSeat_hostTlb (s : State) (r : SeatRef) (v : Seat) : (s.setSeat r v).hostTlb = s.hostTlb := rfl
@[simp] theorem State.setSeat_portTlb (s : State) (r : SeatRef) (v : Seat) : (s.setSeat r v).portTlb = s.portTlb := rfl
@[simp] theorem State.setSeat_msix (s : State) (r : SeatRef) (v : Seat) : (s.setSeat r v).msix = s.msix := rfl
@[simp] theorem State.setSeat_life (s : State) (r : SeatRef) (v : Seat) : (s.setSeat r v).life = s.life := rfl
@[simp] theorem State.setSeat_lifeRing (s : State) (r : SeatRef) (v : Seat) : (s.setSeat r v).lifeRing = s.lifeRing := rfl
@[simp] theorem State.setSeat_lifeHour (s : State) (r : SeatRef) (v : Seat) : (s.setSeat r v).lifeHour = s.lifeHour := rfl
@[simp] theorem State.setSeat_freezeN (s : State) (r : SeatRef) (v : Seat) : (s.setSeat r v).freezeN = s.freezeN := rfl
@[simp] theorem State.setSeat_synced (s : State) (r : SeatRef) (v : Seat) : (s.setSeat r v).synced = s.synced := rfl
@[simp] theorem State.setSeat_stopped (s : State) (r : SeatRef) (v : Seat) : (s.setSeat r v).stopped = s.stopped := rfl
@[simp] theorem State.setSeat_seq (s : State) (r : SeatRef) (v : Seat) : (s.setSeat r v).seq = s.seq := rfl
@[simp] theorem State.setSeat_turn (s : State) (r : SeatRef) (v : Seat) : (s.setSeat r v).turn = s.turn := rfl
@[simp] theorem State.setSeat_turnE (s : State) (r : SeatRef) (v : Seat) : (s.setSeat r v).turnE = s.turnE := rfl
@[simp] theorem State.setSeat_agenda (s : State) (r : SeatRef) (v : Seat) : (s.setSeat r v).agenda = s.agenda := rfl
@[simp] theorem State.setSeat_tick (s : State) (r : SeatRef) (v : Seat) : (s.setSeat r v).tick = s.tick := rfl

/-! ## modSeat -/

@[simp] theorem State.modSeat_die (s : State) (r : SeatRef) (f : Seat → Seat) : (s.modSeat r f).die = s.die := rfl
@[simp] theorem State.modSeat_mem (s : State) (r : SeatRef) (f : Seat → Seat) : (s.modSeat r f).mem = s.mem := rfl
@[simp] theorem State.modSeat_poison (s : State) (r : SeatRef) (f : Seat → Seat) : (s.modSeat r f).poison = s.poison := rfl
@[simp] theorem State.modSeat_corr (s : State) (r : SeatRef) (f : Seat → Seat) : (s.modSeat r f).corr = s.corr := rfl
@[simp] theorem State.modSeat_badUnits (s : State) (r : SeatRef) (f : Seat → Seat) : (s.modSeat r f).badUnits = s.badUnits := rfl
@[simp] theorem State.modSeat_unitKey (s : State) (r : SeatRef) (f : Seat → Seat) : (s.modSeat r f).unitKey = s.unitKey := rfl
@[simp] theorem State.modSeat_flights (s : State) (r : SeatRef) (f : Seat → Seat) : (s.modSeat r f).flights = s.flights := rfl
@[simp] theorem State.modSeat_monitors (s : State) (r : SeatRef) (f : Seat → Seat) : (s.modSeat r f).monitors = s.monitors := rfl
@[simp] theorem State.modSeat_arrivals (s : State) (r : SeatRef) (f : Seat → Seat) : (s.modSeat r f).arrivals = s.arrivals := rfl
@[simp] theorem State.modSeat_posts (s : State) (r : SeatRef) (f : Seat → Seat) : (s.modSeat r f).posts = s.posts := rfl
@[simp] theorem State.modSeat_jobs (s : State) (r : SeatRef) (f : Seat → Seat) : (s.modSeat r f).jobs = s.jobs := rfl
@[simp] theorem State.modSeat_armed (s : State) (r : SeatRef) (f : Seat → Seat) : (s.modSeat r f).armed = s.armed := rfl
@[simp] theorem State.modSeat_shoots (s : State) (r : SeatRef) (f : Seat → Seat) : (s.modSeat r f).shoots = s.shoots := rfl
@[simp] theorem State.modSeat_launches (s : State) (r : SeatRef) (f : Seat → Seat) : (s.modSeat r f).launches = s.launches := rfl
@[simp] theorem State.modSeat_barriers (s : State) (r : SeatRef) (f : Seat → Seat) : (s.modSeat r f).barriers = s.barriers := rfl
@[simp] theorem State.modSeat_images (s : State) (r : SeatRef) (f : Seat → Seat) : (s.modSeat r f).images = s.images := rfl
@[simp] theorem State.modSeat_carried (s : State) (r : SeatRef) (f : Seat → Seat) : (s.modSeat r f).carried = s.carried := rfl
@[simp] theorem State.modSeat_scPast (s : State) (r : SeatRef) (f : Seat → Seat) : (s.modSeat r f).scPast = s.scPast := rfl
@[simp] theorem State.modSeat_unitFree (s : State) (r : SeatRef) (f : Seat → Seat) : (s.modSeat r f).unitFree = s.unitFree := rfl
@[simp] theorem State.modSeat_transl (s : State) (r : SeatRef) (f : Seat → Seat) : (s.modSeat r f).transl = s.transl := rfl
@[simp] theorem State.modSeat_badObjs (s : State) (r : SeatRef) (f : Seat → Seat) : (s.modSeat r f).badObjs = s.badObjs := rfl
@[simp] theorem State.modSeat_graphs (s : State) (r : SeatRef) (f : Seat → Seat) : (s.modSeat r f).graphs = s.graphs := rfl
@[simp] theorem State.modSeat_keys (s : State) (r : SeatRef) (f : Seat → Seat) : (s.modSeat r f).keys = s.keys := rfl
@[simp] theorem State.modSeat_keyStat (s : State) (r : SeatRef) (f : Seat → Seat) : (s.modSeat r f).keyStat = s.keyStat := rfl
@[simp] theorem State.modSeat_hostRoot (s : State) (r : SeatRef) (f : Seat → Seat) : (s.modSeat r f).hostRoot = s.hostRoot := rfl
@[simp] theorem State.modSeat_domRoot (s : State) (r : SeatRef) (f : Seat → Seat) : (s.modSeat r f).domRoot = s.domRoot := rfl
@[simp] theorem State.modSeat_quar (s : State) (r : SeatRef) (f : Seat → Seat) : (s.modSeat r f).quar = s.quar := rfl
@[simp] theorem State.modSeat_dieRst (s : State) (r : SeatRef) (f : Seat → Seat) : (s.modSeat r f).dieRst = s.dieRst := rfl
@[simp] theorem State.modSeat_hbarVa (s : State) (r : SeatRef) (f : Seat → Seat) : (s.modSeat r f).hbarVa = s.hbarVa := rfl
@[simp] theorem State.modSeat_recCtl (s : State) (r : SeatRef) (f : Seat → Seat) : (s.modSeat r f).recCtl = s.recCtl := rfl
@[simp] theorem State.modSeat_recSent (s : State) (r : SeatRef) (f : Seat → Seat) : (s.modSeat r f).recSent = s.recSent := rfl
@[simp] theorem State.modSeat_replayLog (s : State) (r : SeatRef) (f : Seat → Seat) : (s.modSeat r f).replayLog = s.replayLog := rfl
@[simp] theorem State.modSeat_dbgToken (s : State) (r : SeatRef) (f : Seat → Seat) : (s.modSeat r f).dbgToken = s.dbgToken := rfl
@[simp] theorem State.modSeat_hostOut (s : State) (r : SeatRef) (f : Seat → Seat) : (s.modSeat r f).hostOut = s.hostOut := rfl
@[simp] theorem State.modSeat_power (s : State) (r : SeatRef) (f : Seat → Seat) : (s.modSeat r f).power = s.power := rfl
@[simp] theorem State.modSeat_devError (s : State) (r : SeatRef) (f : Seat → Seat) : (s.modSeat r f).devError = s.devError := rfl
@[simp] theorem State.modSeat_recLog (s : State) (r : SeatRef) (f : Seat → Seat) : (s.modSeat r f).recLog = s.recLog := rfl
@[simp] theorem State.modSeat_bootStat (s : State) (r : SeatRef) (f : Seat → Seat) : (s.modSeat r f).bootStat = s.bootStat := rfl
@[simp] theorem State.modSeat_measured (s : State) (r : SeatRef) (f : Seat → Seat) : (s.modSeat r f).measured = s.measured := rfl
@[simp] theorem State.modSeat_timebase (s : State) (r : SeatRef) (f : Seat → Seat) : (s.modSeat r f).timebase = s.timebase := rfl
@[simp] theorem State.modSeat_secctr (s : State) (r : SeatRef) (f : Seat → Seat) : (s.modSeat r f).secctr = s.secctr := rfl
@[simp] theorem State.modSeat_stack (s : State) (r : SeatRef) (f : Seat → Seat) : (s.modSeat r f).stack = s.stack := rfl
@[simp] theorem State.modSeat_port (s : State) (r : SeatRef) (f : Seat → Seat) : (s.modSeat r f).port = s.port := rfl
@[simp] theorem State.modSeat_hostTlb (s : State) (r : SeatRef) (f : Seat → Seat) : (s.modSeat r f).hostTlb = s.hostTlb := rfl
@[simp] theorem State.modSeat_portTlb (s : State) (r : SeatRef) (f : Seat → Seat) : (s.modSeat r f).portTlb = s.portTlb := rfl
@[simp] theorem State.modSeat_msix (s : State) (r : SeatRef) (f : Seat → Seat) : (s.modSeat r f).msix = s.msix := rfl
@[simp] theorem State.modSeat_life (s : State) (r : SeatRef) (f : Seat → Seat) : (s.modSeat r f).life = s.life := rfl
@[simp] theorem State.modSeat_lifeRing (s : State) (r : SeatRef) (f : Seat → Seat) : (s.modSeat r f).lifeRing = s.lifeRing := rfl
@[simp] theorem State.modSeat_lifeHour (s : State) (r : SeatRef) (f : Seat → Seat) : (s.modSeat r f).lifeHour = s.lifeHour := rfl
@[simp] theorem State.modSeat_freezeN (s : State) (r : SeatRef) (f : Seat → Seat) : (s.modSeat r f).freezeN = s.freezeN := rfl
@[simp] theorem State.modSeat_synced (s : State) (r : SeatRef) (f : Seat → Seat) : (s.modSeat r f).synced = s.synced := rfl
@[simp] theorem State.modSeat_stopped (s : State) (r : SeatRef) (f : Seat → Seat) : (s.modSeat r f).stopped = s.stopped := rfl
@[simp] theorem State.modSeat_seq (s : State) (r : SeatRef) (f : Seat → Seat) : (s.modSeat r f).seq = s.seq := rfl
@[simp] theorem State.modSeat_turn (s : State) (r : SeatRef) (f : Seat → Seat) : (s.modSeat r f).turn = s.turn := rfl
@[simp] theorem State.modSeat_turnE (s : State) (r : SeatRef) (f : Seat → Seat) : (s.modSeat r f).turnE = s.turnE := rfl
@[simp] theorem State.modSeat_agenda (s : State) (r : SeatRef) (f : Seat → Seat) : (s.modSeat r f).agenda = s.agenda := rfl
@[simp] theorem State.modSeat_tick (s : State) (r : SeatRef) (f : Seat → Seat) : (s.modSeat r f).tick = s.tick := rfl

/-! ## modStr -/

@[simp] theorem State.modStr_die (s : State) (w : Who) (f : Stream → Stream) : (s.modStr w f).die = s.die := rfl
@[simp] theorem State.modStr_mem (s : State) (w : Who) (f : Stream → Stream) : (s.modStr w f).mem = s.mem := rfl
@[simp] theorem State.modStr_poison (s : State) (w : Who) (f : Stream → Stream) : (s.modStr w f).poison = s.poison := rfl
@[simp] theorem State.modStr_corr (s : State) (w : Who) (f : Stream → Stream) : (s.modStr w f).corr = s.corr := rfl
@[simp] theorem State.modStr_badUnits (s : State) (w : Who) (f : Stream → Stream) : (s.modStr w f).badUnits = s.badUnits := rfl
@[simp] theorem State.modStr_unitKey (s : State) (w : Who) (f : Stream → Stream) : (s.modStr w f).unitKey = s.unitKey := rfl
@[simp] theorem State.modStr_flights (s : State) (w : Who) (f : Stream → Stream) : (s.modStr w f).flights = s.flights := rfl
@[simp] theorem State.modStr_monitors (s : State) (w : Who) (f : Stream → Stream) : (s.modStr w f).monitors = s.monitors := rfl
@[simp] theorem State.modStr_arrivals (s : State) (w : Who) (f : Stream → Stream) : (s.modStr w f).arrivals = s.arrivals := rfl
@[simp] theorem State.modStr_posts (s : State) (w : Who) (f : Stream → Stream) : (s.modStr w f).posts = s.posts := rfl
@[simp] theorem State.modStr_jobs (s : State) (w : Who) (f : Stream → Stream) : (s.modStr w f).jobs = s.jobs := rfl
@[simp] theorem State.modStr_armed (s : State) (w : Who) (f : Stream → Stream) : (s.modStr w f).armed = s.armed := rfl
@[simp] theorem State.modStr_shoots (s : State) (w : Who) (f : Stream → Stream) : (s.modStr w f).shoots = s.shoots := rfl
@[simp] theorem State.modStr_launches (s : State) (w : Who) (f : Stream → Stream) : (s.modStr w f).launches = s.launches := rfl
@[simp] theorem State.modStr_barriers (s : State) (w : Who) (f : Stream → Stream) : (s.modStr w f).barriers = s.barriers := rfl
@[simp] theorem State.modStr_images (s : State) (w : Who) (f : Stream → Stream) : (s.modStr w f).images = s.images := rfl
@[simp] theorem State.modStr_carried (s : State) (w : Who) (f : Stream → Stream) : (s.modStr w f).carried = s.carried := rfl
@[simp] theorem State.modStr_scPast (s : State) (w : Who) (f : Stream → Stream) : (s.modStr w f).scPast = s.scPast := rfl
@[simp] theorem State.modStr_unitFree (s : State) (w : Who) (f : Stream → Stream) : (s.modStr w f).unitFree = s.unitFree := rfl
@[simp] theorem State.modStr_transl (s : State) (w : Who) (f : Stream → Stream) : (s.modStr w f).transl = s.transl := rfl
@[simp] theorem State.modStr_badObjs (s : State) (w : Who) (f : Stream → Stream) : (s.modStr w f).badObjs = s.badObjs := rfl
@[simp] theorem State.modStr_graphs (s : State) (w : Who) (f : Stream → Stream) : (s.modStr w f).graphs = s.graphs := rfl
@[simp] theorem State.modStr_keys (s : State) (w : Who) (f : Stream → Stream) : (s.modStr w f).keys = s.keys := rfl
@[simp] theorem State.modStr_keyStat (s : State) (w : Who) (f : Stream → Stream) : (s.modStr w f).keyStat = s.keyStat := rfl
@[simp] theorem State.modStr_hostRoot (s : State) (w : Who) (f : Stream → Stream) : (s.modStr w f).hostRoot = s.hostRoot := rfl
@[simp] theorem State.modStr_domRoot (s : State) (w : Who) (f : Stream → Stream) : (s.modStr w f).domRoot = s.domRoot := rfl
@[simp] theorem State.modStr_quar (s : State) (w : Who) (f : Stream → Stream) : (s.modStr w f).quar = s.quar := rfl
@[simp] theorem State.modStr_dieRst (s : State) (w : Who) (f : Stream → Stream) : (s.modStr w f).dieRst = s.dieRst := rfl
@[simp] theorem State.modStr_hbarVa (s : State) (w : Who) (f : Stream → Stream) : (s.modStr w f).hbarVa = s.hbarVa := rfl
@[simp] theorem State.modStr_recCtl (s : State) (w : Who) (f : Stream → Stream) : (s.modStr w f).recCtl = s.recCtl := rfl
@[simp] theorem State.modStr_recSent (s : State) (w : Who) (f : Stream → Stream) : (s.modStr w f).recSent = s.recSent := rfl
@[simp] theorem State.modStr_replayLog (s : State) (w : Who) (f : Stream → Stream) : (s.modStr w f).replayLog = s.replayLog := rfl
@[simp] theorem State.modStr_dbgToken (s : State) (w : Who) (f : Stream → Stream) : (s.modStr w f).dbgToken = s.dbgToken := rfl
@[simp] theorem State.modStr_hostOut (s : State) (w : Who) (f : Stream → Stream) : (s.modStr w f).hostOut = s.hostOut := rfl
@[simp] theorem State.modStr_power (s : State) (w : Who) (f : Stream → Stream) : (s.modStr w f).power = s.power := rfl
@[simp] theorem State.modStr_devError (s : State) (w : Who) (f : Stream → Stream) : (s.modStr w f).devError = s.devError := rfl
@[simp] theorem State.modStr_recLog (s : State) (w : Who) (f : Stream → Stream) : (s.modStr w f).recLog = s.recLog := rfl
@[simp] theorem State.modStr_bootStat (s : State) (w : Who) (f : Stream → Stream) : (s.modStr w f).bootStat = s.bootStat := rfl
@[simp] theorem State.modStr_measured (s : State) (w : Who) (f : Stream → Stream) : (s.modStr w f).measured = s.measured := rfl
@[simp] theorem State.modStr_timebase (s : State) (w : Who) (f : Stream → Stream) : (s.modStr w f).timebase = s.timebase := rfl
@[simp] theorem State.modStr_secctr (s : State) (w : Who) (f : Stream → Stream) : (s.modStr w f).secctr = s.secctr := rfl
@[simp] theorem State.modStr_stack (s : State) (w : Who) (f : Stream → Stream) : (s.modStr w f).stack = s.stack := rfl
@[simp] theorem State.modStr_port (s : State) (w : Who) (f : Stream → Stream) : (s.modStr w f).port = s.port := rfl
@[simp] theorem State.modStr_hostTlb (s : State) (w : Who) (f : Stream → Stream) : (s.modStr w f).hostTlb = s.hostTlb := rfl
@[simp] theorem State.modStr_portTlb (s : State) (w : Who) (f : Stream → Stream) : (s.modStr w f).portTlb = s.portTlb := rfl
@[simp] theorem State.modStr_msix (s : State) (w : Who) (f : Stream → Stream) : (s.modStr w f).msix = s.msix := rfl
@[simp] theorem State.modStr_life (s : State) (w : Who) (f : Stream → Stream) : (s.modStr w f).life = s.life := rfl
@[simp] theorem State.modStr_lifeRing (s : State) (w : Who) (f : Stream → Stream) : (s.modStr w f).lifeRing = s.lifeRing := rfl
@[simp] theorem State.modStr_lifeHour (s : State) (w : Who) (f : Stream → Stream) : (s.modStr w f).lifeHour = s.lifeHour := rfl
@[simp] theorem State.modStr_freezeN (s : State) (w : Who) (f : Stream → Stream) : (s.modStr w f).freezeN = s.freezeN := rfl
@[simp] theorem State.modStr_synced (s : State) (w : Who) (f : Stream → Stream) : (s.modStr w f).synced = s.synced := rfl
@[simp] theorem State.modStr_stopped (s : State) (w : Who) (f : Stream → Stream) : (s.modStr w f).stopped = s.stopped := rfl
@[simp] theorem State.modStr_seq (s : State) (w : Who) (f : Stream → Stream) : (s.modStr w f).seq = s.seq := rfl
@[simp] theorem State.modStr_turn (s : State) (w : Who) (f : Stream → Stream) : (s.modStr w f).turn = s.turn := rfl
@[simp] theorem State.modStr_turnE (s : State) (w : Who) (f : Stream → Stream) : (s.modStr w f).turnE = s.turnE := rfl
@[simp] theorem State.modStr_agenda (s : State) (w : Who) (f : Stream → Stream) : (s.modStr w f).agenda = s.agenda := rfl
@[simp] theorem State.modStr_tick (s : State) (w : Who) (f : Stream → Stream) : (s.modStr w f).tick = s.tick := rfl

/-! ## modMySeat -/

@[simp] theorem State.modMySeat_die (s : State) (f : Seat → Seat) : (s.modMySeat f).die = s.die := rfl
@[simp] theorem State.modMySeat_mem (s : State) (f : Seat → Seat) : (s.modMySeat f).mem = s.mem := rfl
@[simp] theorem State.modMySeat_poison (s : State) (f : Seat → Seat) : (s.modMySeat f).poison = s.poison := rfl
@[simp] theorem State.modMySeat_corr (s : State) (f : Seat → Seat) : (s.modMySeat f).corr = s.corr := rfl
@[simp] theorem State.modMySeat_badUnits (s : State) (f : Seat → Seat) : (s.modMySeat f).badUnits = s.badUnits := rfl
@[simp] theorem State.modMySeat_unitKey (s : State) (f : Seat → Seat) : (s.modMySeat f).unitKey = s.unitKey := rfl
@[simp] theorem State.modMySeat_flights (s : State) (f : Seat → Seat) : (s.modMySeat f).flights = s.flights := rfl
@[simp] theorem State.modMySeat_monitors (s : State) (f : Seat → Seat) : (s.modMySeat f).monitors = s.monitors := rfl
@[simp] theorem State.modMySeat_arrivals (s : State) (f : Seat → Seat) : (s.modMySeat f).arrivals = s.arrivals := rfl
@[simp] theorem State.modMySeat_posts (s : State) (f : Seat → Seat) : (s.modMySeat f).posts = s.posts := rfl
@[simp] theorem State.modMySeat_jobs (s : State) (f : Seat → Seat) : (s.modMySeat f).jobs = s.jobs := rfl
@[simp] theorem State.modMySeat_armed (s : State) (f : Seat → Seat) : (s.modMySeat f).armed = s.armed := rfl
@[simp] theorem State.modMySeat_shoots (s : State) (f : Seat → Seat) : (s.modMySeat f).shoots = s.shoots := rfl
@[simp] theorem State.modMySeat_launches (s : State) (f : Seat → Seat) : (s.modMySeat f).launches = s.launches := rfl
@[simp] theorem State.modMySeat_barriers (s : State) (f : Seat → Seat) : (s.modMySeat f).barriers = s.barriers := rfl
@[simp] theorem State.modMySeat_images (s : State) (f : Seat → Seat) : (s.modMySeat f).images = s.images := rfl
@[simp] theorem State.modMySeat_carried (s : State) (f : Seat → Seat) : (s.modMySeat f).carried = s.carried := rfl
@[simp] theorem State.modMySeat_scPast (s : State) (f : Seat → Seat) : (s.modMySeat f).scPast = s.scPast := rfl
@[simp] theorem State.modMySeat_unitFree (s : State) (f : Seat → Seat) : (s.modMySeat f).unitFree = s.unitFree := rfl
@[simp] theorem State.modMySeat_transl (s : State) (f : Seat → Seat) : (s.modMySeat f).transl = s.transl := rfl
@[simp] theorem State.modMySeat_badObjs (s : State) (f : Seat → Seat) : (s.modMySeat f).badObjs = s.badObjs := rfl
@[simp] theorem State.modMySeat_graphs (s : State) (f : Seat → Seat) : (s.modMySeat f).graphs = s.graphs := rfl
@[simp] theorem State.modMySeat_keys (s : State) (f : Seat → Seat) : (s.modMySeat f).keys = s.keys := rfl
@[simp] theorem State.modMySeat_keyStat (s : State) (f : Seat → Seat) : (s.modMySeat f).keyStat = s.keyStat := rfl
@[simp] theorem State.modMySeat_hostRoot (s : State) (f : Seat → Seat) : (s.modMySeat f).hostRoot = s.hostRoot := rfl
@[simp] theorem State.modMySeat_domRoot (s : State) (f : Seat → Seat) : (s.modMySeat f).domRoot = s.domRoot := rfl
@[simp] theorem State.modMySeat_quar (s : State) (f : Seat → Seat) : (s.modMySeat f).quar = s.quar := rfl
@[simp] theorem State.modMySeat_dieRst (s : State) (f : Seat → Seat) : (s.modMySeat f).dieRst = s.dieRst := rfl
@[simp] theorem State.modMySeat_hbarVa (s : State) (f : Seat → Seat) : (s.modMySeat f).hbarVa = s.hbarVa := rfl
@[simp] theorem State.modMySeat_recCtl (s : State) (f : Seat → Seat) : (s.modMySeat f).recCtl = s.recCtl := rfl
@[simp] theorem State.modMySeat_recSent (s : State) (f : Seat → Seat) : (s.modMySeat f).recSent = s.recSent := rfl
@[simp] theorem State.modMySeat_replayLog (s : State) (f : Seat → Seat) : (s.modMySeat f).replayLog = s.replayLog := rfl
@[simp] theorem State.modMySeat_dbgToken (s : State) (f : Seat → Seat) : (s.modMySeat f).dbgToken = s.dbgToken := rfl
@[simp] theorem State.modMySeat_hostOut (s : State) (f : Seat → Seat) : (s.modMySeat f).hostOut = s.hostOut := rfl
@[simp] theorem State.modMySeat_power (s : State) (f : Seat → Seat) : (s.modMySeat f).power = s.power := rfl
@[simp] theorem State.modMySeat_devError (s : State) (f : Seat → Seat) : (s.modMySeat f).devError = s.devError := rfl
@[simp] theorem State.modMySeat_recLog (s : State) (f : Seat → Seat) : (s.modMySeat f).recLog = s.recLog := rfl
@[simp] theorem State.modMySeat_bootStat (s : State) (f : Seat → Seat) : (s.modMySeat f).bootStat = s.bootStat := rfl
@[simp] theorem State.modMySeat_measured (s : State) (f : Seat → Seat) : (s.modMySeat f).measured = s.measured := rfl
@[simp] theorem State.modMySeat_timebase (s : State) (f : Seat → Seat) : (s.modMySeat f).timebase = s.timebase := rfl
@[simp] theorem State.modMySeat_secctr (s : State) (f : Seat → Seat) : (s.modMySeat f).secctr = s.secctr := rfl
@[simp] theorem State.modMySeat_stack (s : State) (f : Seat → Seat) : (s.modMySeat f).stack = s.stack := rfl
@[simp] theorem State.modMySeat_port (s : State) (f : Seat → Seat) : (s.modMySeat f).port = s.port := rfl
@[simp] theorem State.modMySeat_hostTlb (s : State) (f : Seat → Seat) : (s.modMySeat f).hostTlb = s.hostTlb := rfl
@[simp] theorem State.modMySeat_portTlb (s : State) (f : Seat → Seat) : (s.modMySeat f).portTlb = s.portTlb := rfl
@[simp] theorem State.modMySeat_msix (s : State) (f : Seat → Seat) : (s.modMySeat f).msix = s.msix := rfl
@[simp] theorem State.modMySeat_life (s : State) (f : Seat → Seat) : (s.modMySeat f).life = s.life := rfl
@[simp] theorem State.modMySeat_lifeRing (s : State) (f : Seat → Seat) : (s.modMySeat f).lifeRing = s.lifeRing := rfl
@[simp] theorem State.modMySeat_lifeHour (s : State) (f : Seat → Seat) : (s.modMySeat f).lifeHour = s.lifeHour := rfl
@[simp] theorem State.modMySeat_freezeN (s : State) (f : Seat → Seat) : (s.modMySeat f).freezeN = s.freezeN := rfl
@[simp] theorem State.modMySeat_synced (s : State) (f : Seat → Seat) : (s.modMySeat f).synced = s.synced := rfl
@[simp] theorem State.modMySeat_stopped (s : State) (f : Seat → Seat) : (s.modMySeat f).stopped = s.stopped := rfl
@[simp] theorem State.modMySeat_seq (s : State) (f : Seat → Seat) : (s.modMySeat f).seq = s.seq := rfl
@[simp] theorem State.modMySeat_turn (s : State) (f : Seat → Seat) : (s.modMySeat f).turn = s.turn := rfl
@[simp] theorem State.modMySeat_turnE (s : State) (f : Seat → Seat) : (s.modMySeat f).turnE = s.turnE := rfl
@[simp] theorem State.modMySeat_agenda (s : State) (f : Seat → Seat) : (s.modMySeat f).agenda = s.agenda := rfl
@[simp] theorem State.modMySeat_tick (s : State) (f : Seat → Seat) : (s.modMySeat f).tick = s.tick := rfl

/-! ## modMe -/

@[simp] theorem State.modMe_die (s : State) (f : Stream → Stream) : (s.modMe f).die = s.die := rfl
@[simp] theorem State.modMe_mem (s : State) (f : Stream → Stream) : (s.modMe f).mem = s.mem := rfl
@[simp] theorem State.modMe_poison (s : State) (f : Stream → Stream) : (s.modMe f).poison = s.poison := rfl
@[simp] theorem State.modMe_corr (s : State) (f : Stream → Stream) : (s.modMe f).corr = s.corr := rfl
@[simp] theorem State.modMe_badUnits (s : State) (f : Stream → Stream) : (s.modMe f).badUnits = s.badUnits := rfl
@[simp] theorem State.modMe_unitKey (s : State) (f : Stream → Stream) : (s.modMe f).unitKey = s.unitKey := rfl
@[simp] theorem State.modMe_flights (s : State) (f : Stream → Stream) : (s.modMe f).flights = s.flights := rfl
@[simp] theorem State.modMe_monitors (s : State) (f : Stream → Stream) : (s.modMe f).monitors = s.monitors := rfl
@[simp] theorem State.modMe_arrivals (s : State) (f : Stream → Stream) : (s.modMe f).arrivals = s.arrivals := rfl
@[simp] theorem State.modMe_posts (s : State) (f : Stream → Stream) : (s.modMe f).posts = s.posts := rfl
@[simp] theorem State.modMe_jobs (s : State) (f : Stream → Stream) : (s.modMe f).jobs = s.jobs := rfl
@[simp] theorem State.modMe_armed (s : State) (f : Stream → Stream) : (s.modMe f).armed = s.armed := rfl
@[simp] theorem State.modMe_shoots (s : State) (f : Stream → Stream) : (s.modMe f).shoots = s.shoots := rfl
@[simp] theorem State.modMe_launches (s : State) (f : Stream → Stream) : (s.modMe f).launches = s.launches := rfl
@[simp] theorem State.modMe_barriers (s : State) (f : Stream → Stream) : (s.modMe f).barriers = s.barriers := rfl
@[simp] theorem State.modMe_images (s : State) (f : Stream → Stream) : (s.modMe f).images = s.images := rfl
@[simp] theorem State.modMe_carried (s : State) (f : Stream → Stream) : (s.modMe f).carried = s.carried := rfl
@[simp] theorem State.modMe_scPast (s : State) (f : Stream → Stream) : (s.modMe f).scPast = s.scPast := rfl
@[simp] theorem State.modMe_unitFree (s : State) (f : Stream → Stream) : (s.modMe f).unitFree = s.unitFree := rfl
@[simp] theorem State.modMe_transl (s : State) (f : Stream → Stream) : (s.modMe f).transl = s.transl := rfl
@[simp] theorem State.modMe_badObjs (s : State) (f : Stream → Stream) : (s.modMe f).badObjs = s.badObjs := rfl
@[simp] theorem State.modMe_graphs (s : State) (f : Stream → Stream) : (s.modMe f).graphs = s.graphs := rfl
@[simp] theorem State.modMe_keys (s : State) (f : Stream → Stream) : (s.modMe f).keys = s.keys := rfl
@[simp] theorem State.modMe_keyStat (s : State) (f : Stream → Stream) : (s.modMe f).keyStat = s.keyStat := rfl
@[simp] theorem State.modMe_hostRoot (s : State) (f : Stream → Stream) : (s.modMe f).hostRoot = s.hostRoot := rfl
@[simp] theorem State.modMe_domRoot (s : State) (f : Stream → Stream) : (s.modMe f).domRoot = s.domRoot := rfl
@[simp] theorem State.modMe_quar (s : State) (f : Stream → Stream) : (s.modMe f).quar = s.quar := rfl
@[simp] theorem State.modMe_dieRst (s : State) (f : Stream → Stream) : (s.modMe f).dieRst = s.dieRst := rfl
@[simp] theorem State.modMe_hbarVa (s : State) (f : Stream → Stream) : (s.modMe f).hbarVa = s.hbarVa := rfl
@[simp] theorem State.modMe_recCtl (s : State) (f : Stream → Stream) : (s.modMe f).recCtl = s.recCtl := rfl
@[simp] theorem State.modMe_recSent (s : State) (f : Stream → Stream) : (s.modMe f).recSent = s.recSent := rfl
@[simp] theorem State.modMe_replayLog (s : State) (f : Stream → Stream) : (s.modMe f).replayLog = s.replayLog := rfl
@[simp] theorem State.modMe_dbgToken (s : State) (f : Stream → Stream) : (s.modMe f).dbgToken = s.dbgToken := rfl
@[simp] theorem State.modMe_hostOut (s : State) (f : Stream → Stream) : (s.modMe f).hostOut = s.hostOut := rfl
@[simp] theorem State.modMe_power (s : State) (f : Stream → Stream) : (s.modMe f).power = s.power := rfl
@[simp] theorem State.modMe_devError (s : State) (f : Stream → Stream) : (s.modMe f).devError = s.devError := rfl
@[simp] theorem State.modMe_recLog (s : State) (f : Stream → Stream) : (s.modMe f).recLog = s.recLog := rfl
@[simp] theorem State.modMe_bootStat (s : State) (f : Stream → Stream) : (s.modMe f).bootStat = s.bootStat := rfl
@[simp] theorem State.modMe_measured (s : State) (f : Stream → Stream) : (s.modMe f).measured = s.measured := rfl
@[simp] theorem State.modMe_timebase (s : State) (f : Stream → Stream) : (s.modMe f).timebase = s.timebase := rfl
@[simp] theorem State.modMe_secctr (s : State) (f : Stream → Stream) : (s.modMe f).secctr = s.secctr := rfl
@[simp] theorem State.modMe_stack (s : State) (f : Stream → Stream) : (s.modMe f).stack = s.stack := rfl
@[simp] theorem State.modMe_port (s : State) (f : Stream → Stream) : (s.modMe f).port = s.port := rfl
@[simp] theorem State.modMe_hostTlb (s : State) (f : Stream → Stream) : (s.modMe f).hostTlb = s.hostTlb := rfl
@[simp] theorem State.modMe_portTlb (s : State) (f : Stream → Stream) : (s.modMe f).portTlb = s.portTlb := rfl
@[simp] theorem State.modMe_msix (s : State) (f : Stream → Stream) : (s.modMe f).msix = s.msix := rfl
@[simp] theorem State.modMe_life (s : State) (f : Stream → Stream) : (s.modMe f).life = s.life := rfl
@[simp] theorem State.modMe_lifeRing (s : State) (f : Stream → Stream) : (s.modMe f).lifeRing = s.lifeRing := rfl
@[simp] theorem State.modMe_lifeHour (s : State) (f : Stream → Stream) : (s.modMe f).lifeHour = s.lifeHour := rfl
@[simp] theorem State.modMe_freezeN (s : State) (f : Stream → Stream) : (s.modMe f).freezeN = s.freezeN := rfl
@[simp] theorem State.modMe_synced (s : State) (f : Stream → Stream) : (s.modMe f).synced = s.synced := rfl
@[simp] theorem State.modMe_stopped (s : State) (f : Stream → Stream) : (s.modMe f).stopped = s.stopped := rfl
@[simp] theorem State.modMe_seq (s : State) (f : Stream → Stream) : (s.modMe f).seq = s.seq := rfl
@[simp] theorem State.modMe_turn (s : State) (f : Stream → Stream) : (s.modMe f).turn = s.turn := rfl
@[simp] theorem State.modMe_turnE (s : State) (f : Stream → Stream) : (s.modMe f).turnE = s.turnE := rfl
@[simp] theorem State.modMe_agenda (s : State) (f : Stream → Stream) : (s.modMe f).agenda = s.agenda := rfl
@[simp] theorem State.modMe_tick (s : State) (f : Stream → Stream) : (s.modMe f).tick = s.tick := rfl

/-! ## The part itself -/

@[simp] theorem vmod_self {α : Type} {n : Nat} (v : Vector α n) (i : Fin n) (f : α → α) : (vmod v i f)[i.val]'i.isLt = f (v[i.val]'i.isLt) := by simp [vmod]

theorem vmod_ne {α : Type} {n : Nat} (v : Vector α n) {i j : Fin n} (f : α → α) (h : j ≠ i) : (vmod v i f)[j.val]'j.isLt = v[j.val]'j.isLt := by
  have : i.val ≠ j.val := fun e => h (Fin.ext e.symm)
  simp [vmod, this]

@[simp] theorem State.setCore_self (s : State) (c : Fin 904) (v : Core) : (s.setCore c v).core[c.val]'c.isLt = v := by simp [State.setCore]

theorem State.setCore_ne (s : State) {c k : Fin 904} (v : Core) (h : k ≠ c) : (s.setCore c v).core[k.val]'k.isLt = s.core[k.val]'k.isLt := by
  have : c.val ≠ k.val := fun e => h (Fin.ext e.symm)
  simp [State.setCore, this]

@[simp] theorem State.setSeat_getSeat (s : State) (r : SeatRef) (v : Seat) : (s.setSeat r v).getSeat r = v := by
  simp [State.setSeat, State.getSeat]

@[simp] theorem State.modSeat_getSeat (s : State) (r : SeatRef) (f : Seat → Seat) : (s.modSeat r f).getSeat r = f (s.getSeat r) := by
  simp [State.modSeat]

@[simp] theorem State.modMySeat_mySeat (s : State) (f : Seat → Seat) : (s.modMySeat f).mySeat = f s.mySeat := by
  simp [State.modMySeat, State.mySeat]

@[simp] theorem Seat.modStr_getStr (st : Seat) (i : StreamId) (f : Stream → Stream) : (st.modStr i f).getStr i = f (st.getStr i) := by
  simp [Seat.modStr, Seat.getStr]

theorem StreamId.idx_inj {i j : StreamId} (h : i.idx = j.idx) : i = j := by cases i <;> cases j <;> simp_all [StreamId.idx]

theorem Seat.modStr_getStr_ne (st : Seat) {i j : StreamId} (f : Stream → Stream) (h : j ≠ i) :
    (st.modStr i f).getStr j = st.getStr j := by
  simp only [Seat.modStr, Seat.getStr]
  exact vmod_ne _ _ fun e => h (StreamId.idx_inj e)

@[simp] theorem State.modMe_me (s : State) (f : Stream → Stream) : (s.modMe f).me = f s.me := by
  simp [State.modMe, State.me, State.modStr, State.getStr]

@[simp] theorem State.modMySeat_me (s : State) (f : Seat → Seat) : (s.modMySeat f).me = (f s.mySeat).getStr s.turn.stream := by
  simp [State.me, State.getStr, State.modMySeat, State.mySeat]

@[simp] theorem State.modMe_mySeat (s : State) (f : Stream → Stream) : (s.modMe f).mySeat = s.mySeat.modStr s.turn.stream f := by
  simp [State.modMe, State.modStr, State.mySeat]

@[simp] theorem Seat.modStr_q (st : Seat) (i : StreamId) (f : Stream → Stream) : (st.modStr i f).q = st.q := rfl
@[simp] theorem Seat.modStr_c (st : Seat) (i : StreamId) (f : Stream → Stream) : (st.modStr i f).c = st.c := rfl
@[simp] theorem Seat.modStr_vec (st : Seat) (i : StreamId) (f : Stream → Stream) : (st.modStr i f).vec = st.vec := rfl
@[simp] theorem Seat.modStr_ln (st : Seat) (i : StreamId) (f : Stream → Stream) : (st.modStr i f).ln = st.ln := rfl
@[simp] theorem Seat.modStr_sys (st : Seat) (i : StreamId) (f : Stream → Stream) : (st.modStr i f).sys = st.sys := rfl
@[simp] theorem Seat.modStr_trap (st : Seat) (i : StreamId) (f : Stream → Stream) : (st.modStr i f).trap = st.trap := rfl
@[simp] theorem Seat.modStr_cut (st : Seat) (i : StreamId) (f : Stream → Stream) : (st.modStr i f).cut = st.cut := rfl
@[simp] theorem Seat.modStr_eng (st : Seat) (i : StreamId) (f : Stream → Stream) : (st.modStr i f).eng = st.eng := rfl
@[simp] theorem Seat.modStr_loads (st : Seat) (i : StreamId) (f : Stream → Stream) : (st.modStr i f).loads = st.loads := rfl
@[simp] theorem Seat.modStr_stores (st : Seat) (i : StreamId) (f : Stream → Stream) : (st.modStr i f).stores = st.stores := rfl
@[simp] theorem Seat.modStr_inst (st : Seat) (i : StreamId) (f : Stream → Stream) : (st.modStr i f).inst = st.inst := rfl
@[simp] theorem Seat.modQ_str (st : Seat) (n : Fin 16) (f : Fifo → Fifo) : (st.modQ n f).str = st.str := rfl
@[simp] theorem Seat.modQ_c (st : Seat) (n : Fin 16) (f : Fifo → Fifo) : (st.modQ n f).c = st.c := rfl
@[simp] theorem Seat.modQ_vec (st : Seat) (n : Fin 16) (f : Fifo → Fifo) : (st.modQ n f).vec = st.vec := rfl
@[simp] theorem Seat.modQ_getStr (st : Seat) (n : Fin 16) (f : Fifo → Fifo) (i : StreamId) : (st.modQ n f).getStr i = st.getStr i := rfl

theorem State.modSeat_only (s : State) (r : SeatRef) (f : Seat → Seat) : { s.modSeat r f with core := s.core } = s := rfl

end Sys2Proof.Machine
end

