-- ==== Sys2Proof/Laws/Frames.lean ====
section
/-!
SUPPORT. Frames of the operations that change one seat: they compose, and each named operation of the scalar instructions has one lemma
that says what it leaves alone.
-/
namespace Sys2Proof.Machine

theorem onlySeat_modSeat (s : State) (r : SeatRef) (f : Seat → Seat) : OnlySeat r s (s.modSeat r f) := by
  refine ⟨⟨rfl, fun k h => State.setCore_ne _ _ h⟩, ?_, fun k h => ?_⟩
  · simp [State.modSeat, State.setSeat]
  · have : r.seat.val ≠ k.val := fun e => h (Fin.ext e.symm)
    simp [State.modSeat, State.setSeat, this]

theorem State.modSeat_modSeat (s : State) (r : SeatRef) (f g : Seat → Seat) :
    (s.modSeat r f).modSeat r g = s.modSeat r fun st => g (f st) := by
  simp [State.modSeat, State.setSeat, State.getSeat, State.setCore]

theorem State.modMySeat_modMySeat (s : State) (f g : Seat → Seat) :
    (s.modMySeat f).modMySeat g = s.modMySeat fun st => g (f st) := State.modSeat_modSeat s s.turn.ref f g

/-- Changing the running stream is changing its seat. -/
theorem State.modMe_eq (s : State) (f : Stream → Stream) : s.modMe f = s.modMySeat fun st => st.modStr s.turn.stream f := rfl

theorem State.modMySeat_congr (s : State) {f g : Seat → Seat} (h : f s.mySeat = g s.mySeat) : s.modMySeat f = s.modMySeat g := by
  simp only [State.modMySeat, State.modSeat]
  exact congrArg _ h

@[simp] theorem State.modMySeat_now (s : State) (f : Seat → Seat) : (s.modMySeat f).now = s.now := by
  simp [State.now, State.myCore, State.modMySeat, State.modSeat, State.setSeat]

@[simp] theorem State.modMySeat_isC (s : State) (f : Seat → Seat) : (s.modMySeat f).isC = s.isC := rfl

theorem keeps_modMySeat (s : State) (f : Seat → Seat) (h : KeepsSeat s.turn.stream s.mySeat (f s.mySeat)) :
    Keeps s (s.modMySeat f) := ⟨onlySeat_modSeat _ _ _, fun _ => rfl, by simpa using h⟩

theorem keepsStream_refl (a : Stream) : KeepsStream a a := by constructor <;> rfl

theorem keepsStream_trans {a b c : Stream} (h : KeepsStream a b) (k : KeepsStream b c) : KeepsStream a c :=
  ⟨k.1.trans h.1, k.2.trans h.2, k.3.trans h.3, k.4.trans h.4, k.5.trans h.5, k.6.trans h.6, k.7.trans h.7, k.8.trans h.8,
   k.9.trans h.9, k.10.trans h.10, k.11.trans h.11⟩

theorem keepsSeat_refl (i : StreamId) (a : Seat) : KeepsSeat i a a := ⟨rfl, rfl, fun _ _ => rfl, keepsStream_refl _⟩

theorem keepsSeat_trans {i : StreamId} {a b c : Seat} (h : KeepsSeat i a b) (k : KeepsSeat i b c) : KeepsSeat i a c :=
  ⟨by rw [← h.rest, ← k.rest], by rw [← h.pipe, ← k.pipe], fun j hj => (k.others j hj).trans (h.others j hj),
   keepsStream_trans h.mine k.mine⟩

theorem keepsSeat_modQ (i : StreamId) (st : Seat) (n : Fin 16) (f : Fifo → Fifo) : KeepsSeat i st (st.modQ n f) :=
  ⟨rfl, rfl, fun _ _ => rfl, keepsStream_refl _⟩

theorem keepsSeat_pipe (i : StreamId) (st : Seat) (p : List CPend) : KeepsSeat i st { st with c := { st.c with pipe := p } } :=
  ⟨rfl, rfl, fun _ _ => rfl, keepsStream_refl _⟩

theorem keepsSeat_c (i : StreamId) (st : Seat) (r : Nat) (d : Bool) :
    KeepsSeat i st { st with c := { st.c with ready := r, done := d } } := ⟨rfl, rfl, fun _ _ => rfl, keepsStream_refl _⟩

theorem keepsSeat_turn (i : StreamId) (st : Seat) (t : Bool) : KeepsSeat i st (st.turnRrb i t) := by
  unfold Seat.turnRrb
  split
  · exact ⟨rfl, rfl, fun _ _ => rfl, keepsStream_refl _⟩
  · exact keepsSeat_refl i st

theorem keepsSeat_modStr (i : StreamId) (st : Seat) (f : Stream → Stream) (h : KeepsStream (st.getStr i) (f (st.getStr i))) :
    KeepsSeat i st (st.modStr i f) :=
  ⟨rfl, rfl, fun _ hj => Seat.modStr_getStr_ne st f hj, by simpa using h⟩

theorem tripEnd_keeps (a : Stream) : KeepsStream a a.tripEnd := by
  unfold Stream.tripEnd
  dsimp only
  split <;> split <;> constructor <;> rfl

theorem goSeq_keeps (a : Stream) (p : Word) : KeepsStream a (a.goSeq p).1 := by
  unfold Stream.goSeq
  split
  · exact tripEnd_keeps a
  · constructor <;> rfl

theorem advance_keeps (a : Stream) : KeepsStream a a.advance.1 := by
  unfold Stream.advance
  split
  · exact keepsStream_trans (by constructor <;> rfl) (goSeq_keeps { a with repStage := none } _)
  · split
    · exact keepsStream_trans (by constructor <;> rfl) (goSeq_keeps { a with repLeft := 0, repStage := none } _)
    · constructor <;> rfl

theorem keepsSeat_goOn (i : StreamId) (st : Seat) (now : Nat) (r : Stream × Bool) (h : KeepsStream (st.getStr i) r.1) :
    KeepsSeat i st (st.goOn i now r) := by
  have h1 : KeepsSeat i st ((st.modStr i fun _ => { r.1 with issued := now + 1, wait := .none, waiting := none }).turnRrb i r.2) :=
    keepsSeat_trans (keepsSeat_modStr i st _ ⟨h.1, h.2, h.3, h.4, h.5, h.6, h.7, h.8, h.9, h.10, h.11⟩) (keepsSeat_turn i _ _)
  unfold Seat.goOn
  dsimp only
  split
  · exact keepsSeat_trans h1 (keepsSeat_c i _ _ _)
  · exact h1

end Sys2Proof.Machine
end

