-- ==== Sys2Proof/Laws/Memory.lean ====
section
/-!
SUPPORT. Memory: reads after writes, and that every operation that stores keeps the canonical form.
-/
namespace Sys2Proof.Machine

/-! ## Cells -/

theorem Cells.above_mono {j k : Nat} {m : Cells} (h : Cells.above k m = true) (hj : j ≤ k) : Cells.above j m = true := by
  cases m with
  | nil => rfl
  | cons c r => obtain ⟨a, b⟩ := c; simp [Cells.above] at h ⊢; omega

theorem Cells.wf_tail {c : Host.Cell} {r : Cells} (h : Memory.wf (c :: r) = true) :
    c.2 ≠ unlisted ∧ Cells.above c.1 r = true ∧ Memory.wf r = true := by
  obtain ⟨a, b⟩ := c
  simpa [Memory.wf, and_assoc] using h

theorem Cells.above_tail {k : Nat} {c : Host.Cell} {r : Cells} (h : Cells.above k (c :: r) = true) (hw : Memory.wf (c :: r) = true) :
    Cells.above k r = true := by
  obtain ⟨a, b⟩ := c
  exact Cells.above_mono (Cells.wf_tail hw).2.1 (by simp [Cells.above] at h; omega)

theorem Cells.above_write {j k : Nat} {v : Byte} (m : Cells) (h : Cells.above j m = true) (hw : Memory.wf m = true) (hj : j < k) :
    Cells.above j (Cells.write m k v) = true := by
  cases m with
  | nil => simp only [Cells.write]; split <;> simp [Cells.above, hj]
  | cons c r =>
    obtain ⟨a, b⟩ := c
    have ha : j < a := by simpa [Cells.above] using h
    simp only [Cells.write]
    split
    · split <;> simp [Cells.above, ha, hj]
    · split
      · split
        · exact Cells.above_tail h hw
        · simp [Cells.above, hj]
      · simp [Cells.above, ha]

/-- A write of a byte keeps the canonical form. -/
theorem Cells.write_wf (m : Cells) (k : Nat) (v : Byte) (h : Memory.wf m = true) : Memory.wf (Cells.write m k v) = true := by
  induction m with
  | nil => simp only [Cells.write]; split <;> simp_all [Memory.wf, Cells.above]
  | cons c r ih =>
    obtain ⟨a, b⟩ := c
    obtain ⟨hb, ha, hr⟩ := Cells.wf_tail h
    simp only [Cells.write]
    split
    · split
      · exact h
      · simp_all [Memory.wf, Cells.above]
    · split
      · split
        · exact hr
        · simp_all [Memory.wf, Cells.above]
      · have : Cells.above a (Cells.write r k v) = true := Cells.above_write r ha hr (by omega)
        simp_all [Memory.wf]

/-- Below the first address nothing is listed. -/
theorem Cells.read_above {k : Nat} (m : Cells) (h : Cells.above k m = true) : Cells.read m k = unlisted := by
  cases m with
  | nil => rfl
  | cons c r => obtain ⟨a, b⟩ := c; simp [Cells.above] at h; simp [Cells.read, h]; omega

/-- A byte written is the byte read. -/
theorem Cells.read_write_same (m : Cells) (k : Nat) (v : Byte) (h : Memory.wf m = true) : Cells.read (Cells.write m k v) k = v := by
  induction m with
  | nil => simp only [Cells.write]; split <;> simp_all [Cells.read]
  | cons c r ih =>
    obtain ⟨a, b⟩ := c
    obtain ⟨hb, ha, hr⟩ := Cells.wf_tail h
    simp only [Cells.write]
    split
    · rename_i hk
      split
      · rename_i hv; simp [Cells.read, hk, hv]; omega
      · simp [Cells.read]
    · rename_i hk
      split
      · rename_i hka
        subst hka
        split
        · rename_i hv; rw [hv]; exact Cells.read_above r ha
        · simp [Cells.read]
      · rename_i hka
        simp [Cells.read, hka, hk, ih hr]

/-- Every other byte reads as before. -/
theorem Cells.read_write_ne (m : Cells) (k j : Nat) (v : Byte) (h : Memory.wf m = true) (hj : j ≠ k) :
    Cells.read (Cells.write m k v) j = Cells.read m j := by
  induction m with
  | nil => simp only [Cells.write]; split <;> simp [Cells.read, hj]
  | cons c r ih =>
    obtain ⟨a, b⟩ := c
    obtain ⟨hb, ha, hr⟩ := Cells.wf_tail h
    simp only [Cells.write]
    split
    · split
      · rfl
      · simp only [Cells.read, hj, if_false]
        split
        · rename_i hk _ hjk
          have h1 : ¬ j = a := by omega
          have h2 : j < a := by omega
          simp [h1, h2]
        · rfl
    · split
      · rename_i hka
        subst hka
        split
        · simp only [Cells.read, hj, if_false]
          split
          · exact Cells.read_above r (Cells.above_mono ha (by omega))
          · rfl
        · simp [Cells.read, hj]
      · simp only [Cells.read]
        split
        · rfl
        · split
          · rfl
          · exact ih hr

/-! ## Writes of an access -/

theorem rekeyBytes_wf (v : BitVec 256) (k n : Nat) (m : Cells) (h : Memory.wf m = true) : Memory.wf (rekeyBytes v k n m) = true := by
  induction n generalizing k m with
  | zero => exact h
  | succ n ih => simp only [rekeyBytes]; exact ih _ _ (Cells.write_wf _ _ _ h)

theorem State.rekey_wf (s : State) (kw : BitVec 512) (u : Nat) (h : Memory.wf s.mem = true) : Memory.wf (s.rekey kw u).mem = true := by
  unfold State.rekey
  split
  · exact h
  · split
    · exact h
    · dsimp only; exact rekeyBytes_wf _ _ _ _ h

theorem State.writeKeyed_wf (s : State) (slot : Option (Fin 64)) (k : Nat) (b : Byte) (h : Memory.wf s.mem = true) :
    Memory.wf (s.writeKeyed slot k b).mem = true := by
  unfold State.writeKeyed
  split
  · exact Cells.write_wf _ _ _ (State.rekey_wf _ _ _ h)
  · exact Cells.write_wf _ _ _ h

theorem State.writeFrom_wf (s : State) (p : Place) (v i n : Nat) (h : Memory.wf s.mem = true) :
    Memory.wf (s.writeFrom p v i n).mem = true := by
  induction n generalizing s v i with
  | zero => rw [State.writeFrom]; exact h
  | succ n ih => rw [State.writeFrom]; exact ih _ _ _ (State.writeKeyed_wf _ _ _ _ h)

/-- A write of an access keeps the canonical form. -/
theorem State.writePlace_wf (s : State) (p : Place) (n v : Nat) (h : Memory.wf s.mem = true) :
    Memory.wf (s.writePlace p n v).mem = true := State.writeFrom_wf _ _ _ _ _ h

/-! ## A write performed at its home -/

@[simp] theorem State.take_mem (s : State) (a : SSpec) : (s.take a).mem = s.mem := by cases a <;> rfl

/-- A fold of steps that leave memory leaves memory. -/
theorem foldl_keeps_mem {α : Type} (g : State → α → State) (l : List α) (s : State) (h : ∀ t a, (g t a).mem = t.mem) :
    (l.foldl g s).mem = s.mem := by
  induction l generalizing s with
  | nil => rfl
  | cons a r ih => exact (ih _).trans (h s a)

@[simp] theorem State.takeAll_mem (s : State) (l : List SSpec) : (l.foldl State.take s).mem = s.mem := by
  induction l generalizing s with
  | nil => rfl
  | cons a r ih => exact (ih _).trans (by simp)

@[simp] theorem State.wrPred_mem (s : State) (n : Fin 16) (v : Bool) : (s.wrPred n v).mem = s.mem := by
  unfold State.wrPred
  split
  · rfl
  · split <;> rfl

@[simp] theorem State.closeMwait_mem (s : State) (w : Who) (p : Fin 16) (l : List SSpec) (v : Bool) : (s.closeMwait w p l v).mem = s.mem := by
  show ((l.foldl State.take { s with turn := w }).wrPred p v).mem = s.mem
  rw [State.wrPred_mem, State.takeAll_mem]

@[simp] theorem State.endMwait_mem (s : State) (w : Who) (p : Fin 16) (l : List SSpec) (v : Bool) : (s.endMwait w p l v).mem = s.mem := by
  unfold State.endMwait
  split
  · rfl
  · exact State.closeMwait_mem _ _ _ _ _

@[simp] theorem State.hear_mem (s : State) (w : Who) (acq : Option Scope) (l : List Heard) : (s.hear w acq l).mem = s.mem := by
  unfold State.hear; split <;> rfl

@[simp] theorem State.wakeMonitors_mem (s : State) (ws : List Nat) : (s.wakeMonitors ws).mem = s.mem := by
  unfold State.wakeMonitors
  refine foldl_keeps_mem _ _ _ fun t m => ?_
  split
  · split
    · exact (State.endMwait_mem _ _ _ _ _).trans (State.hear_mem _ _ _ _)
    · rfl
  · dsimp only
    split <;> rfl
  · rfl

@[simp] theorem State.afterWrite_mem (s : State) (p : Place) (n : Nat) (store bad : Bool) : (s.afterWrite p n store bad).mem = s.mem := by
  unfold State.afterWrite
  dsimp only
  rw [State.wakeMonitors_mem]
  simp only [apply_ite State.mem, ite_self]

@[simp] theorem State.modStack_mem (s : State) (k : Nat) (f : Stack → Stack) : (s.modStack k f).mem = s.mem := by
  unfold State.modStack; split <;> rfl

/-- Stack changes made one after another leave memory. -/
theorem State.foldl_modStack_mem (a : Nat → Nat) (f : Nat → State → Stack → Stack) (l : List Nat) (s : State) :
    (l.foldl (fun s u => s.modStack (a u) (f u s)) s).mem = s.mem :=
  foldl_keeps_mem _ _ _ fun _ _ => State.modStack_mem _ _ _

@[simp] theorem State.noteBad_mem (s : State) (p : Place) (n : Nat) (b : Bool) : (s.noteBad p n b).mem = s.mem := by
  unfold State.noteBad
  generalize h : (2 : Nat) ^ 36 = m
  split
  · rfl
  · exact State.foldl_modStack_mem (fun u => stackOf (32 * u))
      (fun u s k => k.logError s.timebase.toNat (physOf (32 * u) % m) b) _ _

@[simp] theorem State.noteCorr_mem (s : State) (src : Option SeatRef) (p : Place) (n : Nat) : (s.noteCorr src p n).mem = s.mem := by
  unfold State.noteCorr
  generalize (2 : Nat) ^ 36 = m
  split
  · exact State.foldl_modStack_mem (fun u => stackOf (32 * u))
      (fun u _ k => k.countCorr (physOf (32 * u) % m)) _ _
  · dsimp only
    split
    · split <;> rfl
    · rfl

@[simp] theorem State.dropWrite_mem (s : State) (src : Source) : (s.dropWrite src).mem = s.mem := by
  unfold State.dropWrite; split <;> rfl

/-- A part of a write performed at its home keeps the canonical form: the one way by which bytes of memory change. -/
theorem State.performOne_wf (s : State) (src : Source) (k : WKind) (p : Place) (n data : Nat) (bad host : Bool)
    (h : Memory.wf s.mem = true) : Memory.wf (s.performOne src k p n data bad host).mem = true := by
  unfold State.performOne
  split
  · exact h
  · split
    · split
      · simpa using h
      · rw [State.afterWrite_mem]; exact State.writePlace_wf _ _ _ _ (by split <;> simpa using h)
    · simpa using h

/-- The parts of a write keep the canonical form one after another. -/
theorem State.performParts_wf (s : State) (src : Source) (k : WKind) (p : Place) (n data : Nat) (bad host : Bool)
    (h : Memory.wf s.mem = true) : Memory.wf (s.performParts src k p n data bad host).mem = true := by
  unfold State.performParts
  generalize writeParts k p n data = l
  induction l generalizing s with
  | nil => exact h
  | cons x r ih => exact ih _ (State.performOne_wf _ _ _ _ _ _ _ _ h)

@[simp] theorem State.overwrite_mem (s : State) (k : WKind) (p : Place) (n : Nat) (host : Bool) : (s.overwrite k p n host).mem = s.mem := by
  unfold State.overwrite; split <;> rfl

/-- A write performed at its home keeps the canonical form. -/
theorem State.performWrite_wf (s : State) (src : Source) (k : WKind) (p : Place) (n data : Nat) (bad host : Bool)
    (h : Memory.wf s.mem = true) : Memory.wf (s.performWrite src k p n data bad host).mem = true :=
  State.performParts_wf _ _ _ _ _ _ _ _ (by simpa using h)

/-- What stays listed after some entries are dropped keeps the canonical form: what a reset keeps of memory (R409). -/
theorem Cells.filter_wf (q : Host.Cell → Bool) (m : Cells) (h : Memory.wf m = true) : Memory.wf (m.filter q) = true := by
  have above : ∀ (k : Nat) (l : Cells), Memory.wf l = true → Cells.above k l = true → Cells.above k (l.filter q) = true := by
    intro k l
    induction l with
    | nil => intro _ _; rfl
    | cons c r ih =>
      intro hw hk
      have hr : Cells.above k (r.filter q) = true := ih (Cells.wf_tail hw).2.2 (Cells.above_tail hk hw)
      obtain ⟨a, b⟩ := c
      rw [List.filter_cons]
      split
      · simpa [Cells.above] using hk
      · exact hr
  induction m with
  | nil => rfl
  | cons c r ih =>
    obtain ⟨hb, ha, hr⟩ := Cells.wf_tail h
    rw [List.filter_cons]
    split
    · obtain ⟨a, b⟩ := c
      have := above a r hr ha
      simp_all [Memory.wf]
    · exact ih hr

/-- Nothing is listed after reset. -/
theorem reset_mem : State.reset.mem = [] := by simp only [State.reset]

end Sys2Proof.Machine
end

