-- ==== Sys2Proof/Laws/Scalar.lean ====
section
/-!
SUPPORT. What reading scalar operands, delivering a scalar result and going on do, once for every instruction built of them (R65, R102,
R103): `alu2_result`, `alu1_result` and `alu0_result` say all of it.
-/
namespace Sys2Proof.Machine

theorem State.setCore_same (s : State) (c : Fin 904) : s.setCore c s.core[c] = s := by
  have h : s.core.set c s.core[c] = s.core := by simp
  unfold State.setCore
  rw [h]

theorem State.setSeat_same (s : State) (r : SeatRef) : s.setSeat r (s.getSeat r) = s := by
  have h : s.core[r.core].seat.set r.seat (s.getSeat r) = s.core[r.core].seat := by simp [State.getSeat]
  unfold State.setSeat
  rw [h]
  exact s.setCore_same r.core

theorem State.modMySeat_id (s : State) : (s.modMySeat fun st => st) = s := s.setSeat_same s.turn.ref

/-! ## Reading sources -/

/-- The seat after its sources have been read. -/
def Seat.takeSrc (st : Seat) (now : Nat) : SSpec → Seat
  | .x _ => st
  | .q n => st.modQ n fun f => f.pop now

theorem State.take_eq (s : State) (a : SSpec) : s.take a = s.modMySeat fun st => st.takeSrc s.now a := by
  cases a with
  | x n => exact s.modMySeat_id.symm
  | q n => rfl

theorem Seat.takeSrc_keeps (i : StreamId) (st : Seat) (now : Nat) (a : SSpec) : KeepsSeat i st (st.takeSrc now a) := by
  cases a with
  | x n => exact keepsSeat_refl i st
  | q n => exact keepsSeat_modQ i st n _

@[simp] theorem Seat.takeSrc_getStr (st : Seat) (now : Nat) (a : SSpec) (i : StreamId) : (st.takeSrc now a).getStr i = st.getStr i := by
  cases a <;> rfl

@[simp] theorem Seat.takeSrc_c (st : Seat) (now : Nat) (a : SSpec) : (st.takeSrc now a).c = st.c := by cases a <;> rfl

@[simp] theorem Seat.takeSrc_rrb (st : Seat) (now : Nat) (a : SSpec) : (st.takeSrc now a).vec = st.vec := by cases a <;> rfl

theorem Seat.takeSrc_items (st : Seat) (now : Nat) (a : SSpec) (n : Fin 16) :
    (st.takeSrc now a).q[n].items = st.q[n].items.drop (qCount n [a]) := by
  cases a with
  | x m => simp [Seat.takeSrc, qCount]
  | q m =>
    by_cases h : n = m
    · subst h; simp [Seat.takeSrc, qCount, Seat.modQ, Fifo.pop]
    · have h' : ¬ m = n := fun e => h e.symm
      simp only [Seat.takeSrc, Seat.modQ, Fin.getElem_fin]
      rw [vmod_ne _ _ h]
      simp [qCount, h']

/-! ## Delivering a result -/

/-- The seat after a scalar result: stream i delivers `v` to `d` in live core cycle `now`. -/
def Seat.wrDest (st : Seat) (i : StreamId) (now : Nat) (d : SSpec) (lat latC : Nat) (v : Word) : Seat :=
  match d with
  | .x n =>
    if n = 0 then st
    else if i = .C then { st with c := { st.c with pipe := st.c.pipe ++ [⟨st.c.clock + latC, .xreg n v⟩] } }
    else st.modStr i fun t =>
      let t := t.wrX n v
      if 1 < lat then { t with busy := ⟨n.val, now + lat⟩ :: t.busy.filter fun b => decide (now < b.ready) } else t
  | .q n =>
    if i = .C then { st with c := { st.c with pipe := st.c.pipe ++ [⟨st.c.clock + latC, .queue n (v.setWidth 2048)⟩] } }
    else st.modQ n fun f => f.push (v.setWidth 2048) (now + lat)

theorem State.wr_eq (s : State) (d : SSpec) (lat latC : Nat) (v : Word) :
    s.wr d lat latC v = s.modMySeat fun st => st.wrDest s.turn.stream s.now d lat latC v := by
  cases d with
  | x n =>
    by_cases h : n = 0
    · simp [State.wr, Seat.wrDest, h, State.modMySeat_id]
    · by_cases hc : s.turn.stream = .C
      · simp [State.wr, Seat.wrDest, h, State.isC, hc, State.pipe]
      · simp [State.wr, Seat.wrDest, h, State.isC, hc, State.modMe_eq]
  | q n =>
    by_cases hc : s.turn.stream = .C
    · simp [State.wr, Seat.wrDest, State.isC, hc, State.pipe]
    · simp [State.wr, Seat.wrDest, State.isC, hc]

theorem wrX_keeps (a : Stream) (n : Fin 32) (v : Word) : KeepsStream a (a.wrX n v) := by
  unfold Stream.wrX
  split <;> constructor <;> rfl

theorem wrX_rdX (a : Stream) (n m : Fin 32) (v : Word) (h : n ≠ 0) : (a.wrX n v).rdX m = if m = n then v else a.rdX m := by
  by_cases hm : m = n
  · subst hm; simp [Stream.wrX, Stream.rdX, h]
  · have : n.val ≠ m.val := fun e => hm (Fin.ext e.symm)
    simp [Stream.wrX, Stream.rdX, h, hm, this]

theorem Seat.wrDest_keeps (st : Seat) (i : StreamId) (now : Nat) (d : SSpec) (lat latC : Nat) (v : Word) :
    KeepsSeat i st (st.wrDest i now d lat latC v) := by
  unfold Seat.wrDest
  split
  · split
    · exact keepsSeat_refl i st
    · split
      · exact keepsSeat_pipe i st _
      · refine keepsSeat_modStr i st _ ?_
        dsimp only
        split
        · have := wrX_keeps (st.getStr i) ‹_› v
          exact ⟨this.1, this.2, this.3, this.4, this.5, this.6, this.7, this.8, this.9, this.10, this.11⟩
        · exact wrX_keeps _ _ _
  · split
    · exact keepsSeat_pipe i st _
    · exact keepsSeat_modQ i st _ _

/-! ## Going on -/

theorem State.retire_eq (s : State) : s.retire = s.modMySeat fun st => st.goOn s.turn.stream s.now (st.getStr s.turn.stream).advance := rfl

@[simp] theorem Seat.turnRrb_getStr (st : Seat) (i j : StreamId) (t : Bool) : (st.turnRrb i t).getStr j = st.getStr j := by
  unfold Seat.turnRrb; split <;> rfl

@[simp] theorem Seat.turnRrb_q (st : Seat) (i : StreamId) (t : Bool) : (st.turnRrb i t).q = st.q := by
  unfold Seat.turnRrb; split <;> rfl

@[simp] theorem Seat.turnRrb_c (st : Seat) (i : StreamId) (t : Bool) : (st.turnRrb i t).c = st.c := by
  unfold Seat.turnRrb; split <;> rfl

theorem Seat.goOn_getStr (st : Seat) (i : StreamId) (now : Nat) (r : Stream × Bool) :
    (st.goOn i now r).getStr i = { r.1 with issued := now + 1, wait := .none, waiting := none } := by
  have : ((st.modStr i fun _ => { r.1 with issued := now + 1, wait := .none, waiting := none }).turnRrb i r.2).getStr i =
      { r.1 with issued := now + 1, wait := .none, waiting := none } := by simp
  unfold Seat.goOn
  dsimp only
  split
  · exact this
  · exact this

theorem Seat.goOn_q (st : Seat) (i : StreamId) (now : Nat) (r : Stream × Bool) : (st.goOn i now r).q = st.q := by
  unfold Seat.goOn
  dsimp only
  split <;> simp

theorem Seat.goOn_pipe (st : Seat) (i : StreamId) (now : Nat) (r : Stream × Bool) : (st.goOn i now r).c.pipe = st.c.pipe := by
  unfold Seat.goOn
  dsimp only
  split <;> simp

theorem Seat.goOn_rrb (st : Seat) (i : StreamId) (now : Nat) (r : Stream × Bool) :
    (st.goOn i now r).vec.rrb = if r.2 && decide (i = .C) then st.vec.rrb + 1 else st.vec.rrb := by
  unfold Seat.goOn Seat.turnRrb
  dsimp only
  split <;> split <;> rfl

/-- The sequencer's part of a stream. -/
def SameSeq (a b : Stream) : Prop :=
  b.pc = a.pc ∧ b.lc = a.lc ∧ b.ps = a.ps ∧ b.repLeft = a.repLeft ∧ b.repStage = a.repStage

/-- A stream's sequencer reads neither its registers nor its interlocks. -/
theorem tripEnd_of_same {a b : Stream} (h : SameSeq a b) (h6 : b.loopPc = a.loopPc) : SameSeq a.tripEnd b.tripEnd := by
  obtain ⟨-, h2, h3, h4, h5⟩ := h
  have e1 : b.lcIter = a.lcIter := by unfold Stream.lcIter; rw [h2]
  have e2 : b.lcStg = a.lcStg := by unfold Stream.lcStg; rw [h2]
  have e3 : b.lcLen = a.lcLen := by unfold Stream.lcLen; rw [h2]
  have e4 : b.bodyEnd = a.bodyEnd := by unfold Stream.bodyEnd; rw [e3, h6]
  unfold Stream.tripEnd
  rw [e1, e2, e3, e4, h3, h6]
  dsimp only
  split
  · split <;> exact ⟨rfl, rfl, rfl, h4, h5⟩
  · split <;> exact ⟨rfl, rfl, rfl, h4, h5⟩

theorem goSeq_of_same {a b : Stream} (p : Word) (h : SameSeq a b) (h6 : b.loopPc = a.loopPc) :
    SameSeq (a.goSeq p).1 (b.goSeq p).1 ∧ (b.goSeq p).2 = (a.goSeq p).2 := by
  have e : b.bodyEnd = a.bodyEnd := by simp only [Stream.bodyEnd, Stream.lcLen, h.2.1, h6]
  have f : b.act = a.act := by simp only [Stream.act, h.2.1]
  simp only [Stream.goSeq, e, f]
  split
  · exact ⟨tripEnd_of_same h h6, rfl⟩
  · exact ⟨⟨rfl, h.2⟩, rfl⟩

theorem advance_of_same {a b : Stream} (h : SameSeq a b) (h6 : b.loopPc = a.loopPc) :
    SameSeq a.advance.1 b.advance.1 ∧ b.advance.2 = a.advance.2 := by
  obtain ⟨h1, h2, h3, h4, h5⟩ := h
  have e : b.pc + 4 = a.pc + 4 := by rw [h1]
  unfold Stream.advance
  by_cases c0 : a.repLeft = 0
  · rw [if_pos c0, if_pos (h4.trans c0), e]
    exact goSeq_of_same (a := { a with repStage := none }) (b := { b with repStage := none }) _ ⟨h1, h2, h3, h4, rfl⟩ h6
  · rw [if_neg c0, if_neg fun k => c0 (h4.symm.trans k)]
    by_cases c1 : a.repLeft = 1
    · rw [if_pos c1, if_pos (h4.trans c1), e]
      exact goSeq_of_same (a := { a with repLeft := 0, repStage := none }) (b := { b with repLeft := 0, repStage := none }) _
        ⟨h1, h2, h3, rfl, rfl⟩ h6
    · rw [if_neg c1, if_neg fun k => c1 (h4.symm.trans k)]
      exact ⟨⟨h1, h2, h3, congrArg (· - 1) h4, h5⟩, rfl⟩

/-! ## The whole -/

/-- What the sources leave, the delivery and the going on of a scalar instruction, as one change of the seat. -/
def Seat.scalarStep (st : Seat) (i : StreamId) (now : Nat) (srcs : List SSpec) (d : SSpec) (lat latC : Nat) (v : Word) : Seat :=
  let st1 := (srcs.foldl (fun st a => st.takeSrc now a) st).wrDest i now d lat latC v
  st1.goOn i now (st1.getStr i).advance

theorem Seat.takeAll_keeps (i : StreamId) (now : Nat) (srcs : List SSpec) (st : Seat) :
    KeepsSeat i st (srcs.foldl (fun st a => st.takeSrc now a) st) := by
  induction srcs generalizing st with
  | nil => exact keepsSeat_refl i st
  | cons a r ih => exact keepsSeat_trans (st.takeSrc_keeps i now a) (ih _)

@[simp] theorem Seat.takeAll_getStr (i : StreamId) (now : Nat) (srcs : List SSpec) (st : Seat) :
    (srcs.foldl (fun st a => st.takeSrc now a) st).getStr i = st.getStr i := by
  induction srcs generalizing st with
  | nil => rfl
  | cons a r ih => exact (ih _).trans (by simp)

@[simp] theorem Seat.takeAll_c (now : Nat) (srcs : List SSpec) (st : Seat) :
    (srcs.foldl (fun st a => st.takeSrc now a) st).c = st.c := by
  induction srcs generalizing st with
  | nil => rfl
  | cons a r ih => exact (ih _).trans (by simp)

@[simp] theorem Seat.takeAll_vec (now : Nat) (srcs : List SSpec) (st : Seat) :
    (srcs.foldl (fun st a => st.takeSrc now a) st).vec = st.vec := by
  induction srcs generalizing st with
  | nil => rfl
  | cons a r ih => exact (ih _).trans (by simp)

theorem qCount_cons (n : Fin 16) (a : SSpec) (r : List SSpec) : qCount n (a :: r) = qCount n [a] + qCount n r := by
  simp only [qCount, List.filter_cons, List.filter_nil]
  split <;> simp [Nat.add_comm]

theorem Seat.takeAll_items (now : Nat) (srcs : List SSpec) (st : Seat) (n : Fin 16) :
    (srcs.foldl (fun st a => st.takeSrc now a) st).q[n].items = st.q[n].items.drop (qCount n srcs) := by
  induction srcs generalizing st with
  | nil => simp [qCount]
  | cons a r ih => rw [List.foldl_cons, ih, Seat.takeSrc_items, List.drop_drop, qCount_cons n a r]

/-- `wrDest` leaves the sequencer. -/
theorem Seat.wrDest_seq (st : Seat) (i : StreamId) (now : Nat) (d : SSpec) (lat latC : Nat) (v : Word) :
    SameSeq (st.getStr i) ((st.wrDest i now d lat latC v).getStr i) := by
  unfold Seat.wrDest
  split
  · split
    · exact ⟨rfl, rfl, rfl, rfl, rfl⟩
    · split
      · exact ⟨rfl, rfl, rfl, rfl, rfl⟩
      · rw [Seat.modStr_getStr]
        dsimp only [Stream.wrX]
        split <;> exact ⟨rfl, rfl, rfl, rfl, rfl⟩
  · split <;> exact ⟨rfl, rfl, rfl, rfl, rfl⟩

theorem Seat.wrDest_rdX (st : Seat) (i : StreamId) (now : Nat) (d : SSpec) (lat latC : Nat) (v : Word) (m : Fin 32) :
    ((st.wrDest i now d lat latC v).getStr i).rdX m =
      if decide (i ≠ .C) && decide (d = .x m) && decide (m ≠ 0) then v else (st.getStr i).rdX m := by
  cases d with
  | q n => unfold Seat.wrDest; dsimp only; split
           · simp; rfl
           · simp
  | x n =>
    unfold Seat.wrDest
    dsimp only
    by_cases h0 : n = 0
    · rw [if_pos h0]
      by_cases hm : m = 0
      · simp [hm]
      · have : ¬ (n = m) := fun e => hm (e.symm.trans h0)
        simp [this]
    · rw [if_neg h0]
      by_cases hc : i = .C
      · rw [if_pos hc]; subst hc; simp; rfl
      · rw [if_neg hc, Seat.modStr_getStr]
        have key : ∀ t' : Stream, t'.x = ((st.getStr i).wrX n v).x → t'.rdX m = if m = n then v else (st.getStr i).rdX m := by
          intro t' ht
          have := wrX_rdX (st.getStr i) n m v h0
          unfold Stream.rdX at this ⊢
          rw [ht]; exact this
        by_cases hm : n = m
        · subst hm
          split <;> exact (key _ rfl).trans (by simp [hc, h0])
        · have hm' : ¬ m = n := fun e => hm e.symm
          split <;> exact (key _ rfl).trans (by simp [hm, hm'])

theorem Seat.wrDest_pt (st : Seat) (i : StreamId) (now : Nat) (d : SSpec) (lat latC : Nat) (v : Word) :
    ((st.wrDest i now d lat latC v).getStr i).p = (st.getStr i).p ∧ ((st.wrDest i now d lat latC v).getStr i).t = (st.getStr i).t := by
  unfold Seat.wrDest
  split
  · split
    · exact ⟨rfl, rfl⟩
    · split
      · exact ⟨rfl, rfl⟩
      · rw [Seat.modStr_getStr]
        dsimp only [Stream.wrX]
        split <;> exact ⟨rfl, rfl⟩
  · split <;> exact ⟨rfl, rfl⟩

theorem Seat.wrDest_busy (st : Seat) (i : StreamId) (now : Nat) (n : Fin 32) (lat latC : Nat) (v : Word) (h0 : n ≠ 0) (hc : i ≠ .C)
    (hl : 1 < lat) : ⟨n.val, now + lat⟩ ∈ ((st.wrDest i now (.x n) lat latC v).getStr i).busy := by
  unfold Seat.wrDest
  dsimp only
  rw [if_neg h0, if_neg hc, Seat.modStr_getStr, if_pos hl]
  exact List.mem_cons_self

/-- Where `insItem` puts an entry (R102, R178). -/
theorem insItem_enqueued (x : QItem) (l : List QItem) : Enqueued l (insItem x l) x := by
  induction l with
  | nil => exact ⟨[], [], rfl, rfl, by simp, by simp⟩
  | cons a r ih =>
    unfold insItem
    split
    · exact ⟨[], a :: r, rfl, rfl, by simp, by simpa using ‹_›⟩
    · obtain ⟨p, q, h1, h2, h3, h4⟩ := ih
      refine ⟨a :: p, q, by rw [h1]; rfl, by rw [h2]; rfl, ?_, h4⟩
      intro i hi
      rcases List.mem_cons.1 hi with rfl | hi
      · omega
      · exact h3 i hi

theorem Seat.wrDest_items (st : Seat) (i : StreamId) (now : Nat) (d : SSpec) (lat latC : Nat) (v : Word) (n : Fin 16) :
    if decide (i ≠ .C) && decide (d = .q n) then
      Enqueued st.q[n].items (st.wrDest i now d lat latC v).q[n].items ⟨v.setWidth 2048, now + lat⟩
    else (st.wrDest i now d lat latC v).q[n].items = st.q[n].items := by
  cases d with
  | x m =>
    have : (st.wrDest i now (.x m) lat latC v).q = st.q := by
      unfold Seat.wrDest; dsimp only; split
      · rfl
      · split <;> rfl
    rw [this]; simp
  | q m =>
    unfold Seat.wrDest
    dsimp only
    by_cases hc : i = .C
    · rw [if_pos hc]; simp [hc]
    · rw [if_neg hc]
      by_cases h : n = m
      · subst h
        simp only [ne_eq, hc, not_false_eq_true, decide_true, Bool.and_self, if_true]
        simpa [Seat.modQ, Fifo.push] using insItem_enqueued ⟨v.setWidth 2048, now + lat⟩ st.q[n].items
      · have h' : ¬ m = n := fun e => h e.symm
        simp only [Seat.modQ, Fin.getElem_fin]
        rw [vmod_ne _ _ h]
        simp [h']

theorem Seat.wrDest_pipe (st : Seat) (i : StreamId) (now : Nat) (d : SSpec) (lat latC : Nat) (v : Word) :
    (st.wrDest i now d lat latC v).c.pipe = st.c.pipe ++ (if decide (i = .C) then pipeEntry st.c.clock latC d v else []) := by
  cases d with
  | x n =>
    unfold Seat.wrDest pipeEntry
    dsimp only
    split
    · simp
    · split
      · simp [*]
      · simp [*]
  | q n =>
    unfold Seat.wrDest pipeEntry
    dsimp only
    split
    · simp [*]
    · simp [*]

theorem Seat.wrDest_rrb (st : Seat) (i : StreamId) (now : Nat) (d : SSpec) (lat latC : Nat) (v : Word) :
    (st.wrDest i now d lat latC v).vec = st.vec := by
  unfold Seat.wrDest
  split
  · split
    · rfl
    · split <;> rfl
  · split <;> rfl

/-- All that a scalar instruction with result `v` does (R102, R103). -/
theorem scalarStep_result (s : State) (srcs : List SSpec) (d : SSpec) (lat latC : Nat) (v : Word) :
    ScalarResult s (s.modMySeat fun st => st.scalarStep s.turn.stream s.now srcs d lat latC v) srcs d lat latC v := by
  let i := s.turn.stream
  let st0 := srcs.foldl (fun st a => st.takeSrc s.now a) s.mySeat
  let st1 := st0.wrDest i s.now d lat latC v
  let st2 := st1.goOn i s.now (st1.getStr i).advance
  have e0 : st0.getStr i = s.me := Seat.takeAll_getStr i s.now srcs s.mySeat
  have k1 : KeepsSeat i s.mySeat st1 := keepsSeat_trans (Seat.takeAll_keeps i s.now srcs s.mySeat) (Seat.wrDest_keeps _ _ _ _ _ _ _)
  have k2 : KeepsSeat i s.mySeat st2 := keepsSeat_trans k1 (keepsSeat_goOn i st1 s.now _ (advance_keeps _))
  have sq : SameSeq s.me (st1.getStr i) := e0 ▸ Seat.wrDest_seq st0 i s.now d lat latC v
  have ad := advance_of_same sq k1.mine.loopPc
  have g : st2.getStr i = { (st1.getStr i).advance.1 with issued := s.now + 1, wait := .none, waiting := none } := Seat.goOn_getStr _ _ _ _
  have hme : (s.modMySeat fun _ => st2).me = st2.getStr i := State.modMySeat_me _ _
  have hs : (s.modMySeat fun _ => st2).mySeat = st2 := State.modMySeat_mySeat _ _
  have ec : (s.modMySeat fun st => st.scalarStep i s.now srcs d lat latC v) = s.modMySeat fun _ => st2 := State.modMySeat_congr s rfl
  have iC : s.isC = decide (i = .C) := rfl
  have nC : (!s.isC) = decide (i ≠ .C) := by simp [iC]
  have regs : ∀ a : Stream, a.advance.1.x = a.x ∧ a.advance.1.p = a.p ∧ a.advance.1.t = a.t ∧ a.advance.1.busy = a.busy := by
    intro a
    unfold Stream.advance Stream.goSeq Stream.tripEnd
    dsimp only
    split
    · split
      · split <;> split <;> exact ⟨rfl, rfl, rfl, rfl⟩
      · exact ⟨rfl, rfl, rfl, rfl⟩
    · split
      · split
        · split <;> split <;> exact ⟨rfl, rfl, rfl, rfl⟩
        · exact ⟨rfl, rfl, rfl, rfl⟩
      · exact ⟨rfl, rfl, rfl, rfl⟩
  have rg := regs (st1.getStr i)
  have pt := Seat.wrDest_pt st0 i s.now d lat latC v
  show ScalarResult s (s.modMySeat fun st => st.scalarStep i s.now srcs d lat latC v) srcs d lat latC v
  rw [ec]
  refine ⟨⟨onlySeat_modSeat _ _ _, fun _ => rfl, by rw [hs]; exact k2⟩, ⟨?_, ?_, ?_, ?_, ?_, ?_, ?_, ?_⟩, ?_, ?_, ?_, ?_, ?_, ?_⟩
  · rw [hme, g]; exact ad.1.1
  · rw [hme, g]; exact ad.1.2.1
  · rw [hme, g]; exact ad.1.2.2.1
  · rw [hme, g]; exact ad.1.2.2.2.1
  · rw [hme, g]; exact ad.1.2.2.2.2
  · rw [hme, g]
  · rw [hme, g]
  · rw [hs, iC, ← ad.2]
    show (st1.goOn i s.now _).vec.rrb = _
    rw [Seat.goOn_rrb, Seat.wrDest_rrb, Seat.takeAll_vec]
  · rw [hme, g]; exact (rg.2.1.trans pt.1).trans (by rw [e0])
  · rw [hme, g]; exact (rg.2.2.1.trans pt.2).trans (by rw [e0])
  · intro n
    rw [hme, g, nC]
    have h : ({ (st1.getStr i).advance.1 with issued := s.now + 1, wait := .none, waiting := none } : Stream).rdX n =
        (st1.getStr i).rdX n := by unfold Stream.rdX; rw [rg.1]
    rw [h, Seat.wrDest_rdX, e0]
  · intro n hc hd h0 hl
    subst hd
    rw [hme, g]
    have hc' : i ≠ .C := by rw [nC] at hc; exact of_decide_eq_true hc
    show _ ∈ (st1.getStr i).advance.1.busy
    rw [rg.2.2.2]
    exact Seat.wrDest_busy st0 i s.now n lat latC v h0 hc' hl
  · intro n
    rw [hs, nC]
    have h := Seat.wrDest_items st0 i s.now d lat latC v n
    rw [Seat.takeAll_items] at h
    have e : (st1.goOn i s.now (st1.getStr i).advance).q = st1.q := Seat.goOn_q _ _ _ _
    show if _ then Enqueued _ (st1.goOn i s.now (st1.getStr i).advance).q[n].items _ else
      (st1.goOn i s.now (st1.getStr i).advance).q[n].items = _
    rw [e]
    simpa using h
  · rw [hs, iC]
    show (st1.goOn i s.now _).c.pipe = _
    rw [Seat.goOn_pipe, Seat.wrDest_pipe, Seat.takeAll_c]

@[simp] theorem State.take_turn (s : State) (a : SSpec) : (s.take a).turn = s.turn := by cases a <;> rfl

@[simp] theorem State.take_now (s : State) (a : SSpec) : (s.take a).now = s.now := by rw [State.take_eq]; simp

theorem State.alu2_eq (s : State) (d a b : SSpec) (lat latC : Nat) (v : Word) :
    (((s.take a).take b).wr d lat latC v).retire =
      s.modMySeat fun st => st.scalarStep s.turn.stream s.now [a, b] d lat latC v := by
  rw [State.retire_eq, State.wr_eq, State.take_eq (s.take a), State.take_eq s]
  simp only [State.modMySeat_modMySeat, State.modMySeat_turn, State.modMySeat_now]
  rfl

theorem State.alu1_eq (s : State) (d a : SSpec) (lat latC : Nat) (v : Word) :
    ((s.take a).wr d lat latC v).retire = s.modMySeat fun st => st.scalarStep s.turn.stream s.now [a] d lat latC v := by
  rw [State.retire_eq, State.wr_eq, State.take_eq s]
  simp only [State.modMySeat_modMySeat, State.modMySeat_turn, State.modMySeat_now]
  rfl

theorem State.alu0_eq (s : State) (d : SSpec) (lat latC : Nat) (v : Word) :
    (s.wr d lat latC v).retire = s.modMySeat fun st => st.scalarStep s.turn.stream s.now [] d lat latC v := by
  rw [State.retire_eq, State.wr_eq]
  simp only [State.modMySeat_modMySeat, State.modMySeat_turn, State.modMySeat_now]
  rfl

/-- An instruction of two scalar sources whose operands the stream may use and that are ready. -/
theorem alu2_result (s : State) (d a b : SSpec) (lat latC : Nat) (f : Word → Word → Word) (hc : s.classOk [a, b] [d] = true)
    (hb : s.blocked [a, b] [d] = none) :
    ∃ t, s.alu2 d a b lat latC f = .next t ∧ ScalarResult s t [a, b] d lat latC (f (s.peek a) ((s.take a).peek b)) := by
  refine ⟨_, ?_, scalarStep_result s [a, b] d lat latC _⟩
  rw [← State.alu2_eq]
  simp [State.alu2, hc, hb]

/-- An instruction of one scalar source. -/
theorem alu1_result (s : State) (d a : SSpec) (lat latC : Nat) (f : Word → Word) (hc : s.classOk [a] [d] = true)
    (hb : s.blocked [a] [d] = none) :
    ∃ t, s.alu1 d a lat latC f = .next t ∧ ScalarResult s t [a] d lat latC (f (s.peek a)) := by
  refine ⟨_, ?_, scalarStep_result s [a] d lat latC _⟩
  rw [← State.alu1_eq]
  simp [State.alu1, hc, hb]

/-- An instruction of no scalar source. -/
theorem alu0_result (s : State) (d : SSpec) (lat latC : Nat) (v : Word) (hc : s.classOk [] [d] = true) (hb : s.blocked [] [d] = none) :
    ∃ t, s.alu0 d lat latC v = .next t ∧ ScalarResult s t [] d lat latC v := by
  refine ⟨_, ?_, scalarStep_result s [] d lat latC _⟩
  rw [← State.alu0_eq]
  simp [State.alu0, hc, hb]

end Sys2Proof.Machine
end

