-- ==== Sys2Proof/Tests/Slice0.lean ====
section
/-!
SUPPORT. Tests: ill-formed terms that the check refuses, words written out from the spec's encodings, single steps whose results the
spec gives, and for each statement with hypotheses a state that meets them.
-/
namespace Sys2Proof.Tests
open Sys2Proof.Machine
set_option Elab.async false

/-! ## Ill-formed terms -/

/-- One term for each check of `wellFormed`. -/
theorem test_ill_formed :
    wellFormed (.ext (.x 1) (.x 2) 1 63) = some .bitField ∧
    wellFormed (.ins (.q 0) (.x 2) 0 0) = some .readWriteQueue ∧
    wellFormed (.loopReg 0 (.x 1) 0) = some .loopBody ∧
    wellFormed (.ldx ⟨.scalar (.x 1), 2, 3, 0, false, false, none⟩) = some .scalarVectorLoad ∧
    wellFormed (.amo ⟨.x 1, .x 2, .x 3, .fadd, true, 0⟩) = some .atomicOp ∧
    wellFormed (.vaddFp ⟨0, .ln 32, .v 0, 0, .fp32, .rn, false, false⟩) = some .slotRange ∧
    wellFormed (.vmov ⟨0, .v 0, 0, 15⟩) = some .tagCode ∧
    wellFormed (.vexp2 ⟨0, .v 0, 0, .fp32, .rz, false, false⟩) = some .unusedMode ∧
    wellFormed (.vcvt ⟨0, .v 0, 0, .i8, .i8, 0⟩) = some .conversion ∧
    wellFormed (.srr (.x 1) 0x0A00) = some .sysreg ∧
    wellFormed (.loopw 0) = some .loopDistance ∧
    wellFormed (.mgeom 3 6 false false) = some .geometry ∧
    wellFormed (.mdrain ⟨0, .fp32, false, false, true, false⟩) = some .drainVec ∧
    wellFormed (.cfill ⟨1, false, none, 0⟩) = some .copyField := by decide +kernel

/-- The terms at the edge of the same checks have an encoding. -/
theorem test_well_formed :
    wellFormed (.ext (.x 1) (.x 2) 0 63) = none ∧ wellFormed (.ins (.x 1) (.q 5) 63 0) = none ∧
    wellFormed (.limm (.q 0) 0xFFFF 0) = none ∧ wellFormed (.srr (.x 1) 0x0910) = none ∧
    wellFormed (.vmov ⟨0, .ln 63, 0, 14⟩) = none := by decide +kernel

/-- Words that the spec leaves undefined have no decoding (R65, R66, R72, R113, R214). -/
theorem test_undefined_words : [0x18000000, 0xE0000000, 0x03000000, 0x08000002, 0x30000006, 0x3100000B, 0x6C600000, 0x78000001].all
    (fun w => (decodeWord w).isNone) = true := by decide +kernel

/-! ## Words of the spec's encodings -/

def allDecode (l : List (Nat × Instr)) : Bool := l.all fun x => decide (decodeWord x.1 = some x.2) && decide (encode x.2 = x.1)

def allEngine (e : EngineId) (l : List (Nat × Instr)) : Bool :=
  l.all fun x => decide (decodeEngine e x.1 0 = some x.2) && decide (encode x.2 = x.1)

/-- Majors 0 to 5 (R104 to R109). -/
theorem test_decode_integer : allDecode [
    (0x00181F00, .add (.x 1) (.q 0) (.x 31)),
    (0x00285E01, .sub (.x 2) (.q 1) (.x 30)),
    (0x00389D02, .mul (.x 3) (.q 2) (.x 29)),
    (0x0048DC03, .mulh (.x 4) (.q 3) (.x 28)),
    (0x00591B04, .and (.x 5) (.q 4) (.x 27)),
    (0x00695A05, .or (.x 6) (.q 5) (.x 26)),
    (0x00799906, .xor (.x 7) (.q 6) (.x 25)),
    (0x0089D807, .andn (.x 8) (.q 7) (.x 24)),
    (0x009A1708, .shl (.x 9) (.q 8) (.x 23)),
    (0x00AA5609, .shr (.x 10) (.q 9) (.x 22)),
    (0x00BA950A, .sra (.x 11) (.q 10) (.x 21)),
    (0x00CAD40B, .rotr (.x 12) (.q 11) (.x 20)),
    (0x00DB130C, .min (.x 13) (.q 12) (.x 19)),
    (0x00EB520D, .max (.x 14) (.q 13) (.x 18)),
    (0x04FB9100, .div (.x 15) (.q 14) (.x 17)),
    (0x050BD001, .rem (.x 16) (.q 15) (.x 16)),
    (0x08778000, .clz (.x 7) (.x 30)),
    (0x0A324001, .popc (.q 3) (.x 9)),
    (0x0851A857, .ext (.x 5) (.x 6) 40 23),
    (0x085BD09F, .ins (.x 5) (.q 15) 16 31),
    (0x0C313FD8, .addi (.x 3) (.x 4) (-5#11)),
    (0x0C391FF9, .andi (.x 3) (.q 4) 1023#11),
    (0x0E11000A, .ori (.q 1) (.x 4) 1#11),
    (0x0DF02003, .xori (.x 31) (.x 0) 1024#11),
    (0x1056B411, .limm (.x 5) 0x6B41#16 1),
    (0x1492AAAE, .scale (.x 9) (.x 10) 1365#11 6)] = true := by decide +kernel

/-- Majors 8 to 10 (R110 to R112). -/
theorem test_decode_compare : allDecode [
    (0x20906208, .cmp 9 (.x 1) (.q 2) .gtn),
    (0x208042DA, .sel (.x 8) (.x 1) (.x 2) 13),
    (0x2431400A, .cmpi 3 (.x 5) 1#11 .lt),
    (0x28108C00, .pand 1 2 12),
    (0x28F0C401, .por 15 3 4),
    (0x28638502, .pxor 6 14 5),
    (0x28A2C003, .pnot 10 11)] = true := by decide +kernel

/-- Majors 12 to 15 (R113 to R123). -/
theorem test_decode_control : allDecode [
    (0x30000000, .nop),
    (0x30000005, .halt),
    (0x3307FFF1, .pbr 6 (-2#16)),
    (0x31180002, .br 2 3),
    (0x33800003, .call 7 0),
    (0x30600004, .ret 12),
    (0x3457FFF8, .pbri 5 (.x 31) (-1#11)),
    (0x38214018, .loopReg 2 (.x 5) 3#11),
    (0x3E103E85, .loopImm 33#6 1000#16 5),
    (0x38098001, .repReg (.q 6)),
    (0x3C010018, .repImm 4097#16),
    (0x3D1012C9, .gap 17 300#16)] = true := by decide +kernel

/-- Majors 16 to 26 (R206, R210, R218). -/
theorem test_decode_memory : allDecode [
    (0x40518A04, .ld 5 3 2 2 4#8),
    (0x47FF87FF, .ldV 63 31 1 3 (-1#8)),
    (0x487203FF, .st (.x 7) 4 3 (-1#8)),
    (0x4C067981, .pref 12 30 1 129#8),
    (0x52108BB4, .ldx ⟨.slot 33, 1, 2, 3, true, false, some 5⟩),
    (0x52148242, .ldx ⟨.scalar (.q 1), 9, 0, 2, false, true, none⟩),
    (0x54818324, .lda ⟨.scalar (.x 8), 3, 0, 3, false, false, .device⟩),
    (0x54819CC8, .lda ⟨.slot 8, 3, 7, 0, true, true, .core⟩),
    (0x5A928168, .stx ⟨.q 9, 5, 1, true, some 2⟩),
    (0x5C638328, .stl ⟨.x 6, 7, 3, false, .domain⟩),
    (0x6010A39C, .amo ⟨.x 1, .x 2, .q 3, .cas, true, 4⟩),
    (0x668A6AA0, .vamo ⟨.q 8, .q 9, .q 10, .fadd, false, 0⟩),
    (0x68008368, .red ⟨.x 2, .x 3, .minn, true⟩),
    (0x680A2934, .vmred ⟨.q 8, .q 9, .xor, false⟩)] = true := by decide +kernel

/-- Majors 27 to 29 (R214, R287, R300, R312, R317). -/
theorem test_decode_order : allDecode [
    (0x6C400004, .fence .device .rel),
    (0x6C008010, .conj 2),
    (0x6C000020, .xfence),
    (0x6C308534, .mwait ⟨3, .x 2, .x 5, 4⟩),
    (0x70100000, .fork .copy 0#16),
    (0x70200001, .join .query),
    (0x74008300, .sarm (.x 2) (.x 3)),
    (0x7440837D, .sarmFlag (.x 4) (.x 2) (.x 3) 61),
    (0x74494601, .swait (.x 4) (.q 5) (.x 6)),
    (0x74414680, .launch (.x 4) (.x 5) (.x 6)),
    (0x7450C081, .bar (.x 5) 3)] = true := by decide +kernel

/-- Majors 30 and 31 (R331 to R336). -/
theorem test_decode_board : allDecode [
    (0x78408532, .pview ⟨.x 4, .x 2, .x 5, 6, 1⟩),
    (0x7C326000, .bread (.x 3) (.x 9) (.q 0)),
    (0x7C42A101, .breadLvl (.x 4) (.x 10) (.q 1)),
    (0x7C52E202, .breset (.x 5) (.x 11) (.q 2)),
    (0x7C632303, .bresetForce (.x 6) (.x 12) (.q 3)),
    (0x7C308004, .binfo (.x 3) (.x 2)),
    (0x7C308B05, .binfoVm (.x 3) 2 11)] = true := by decide +kernel

/-- Majors 32 to 46 (R136). -/
theorem test_decode_vector : allDecode [
    (0x82900600, .vaddFp ⟨20, .ln 0, .v 3, 0, .fp32, .rn, false, false⟩),
    (0x86B08856, .vsubFp ⟨21, .ln 1, .v 4, 1, .fp16, .rz, true, false⟩),
    (0x8AD10AA9, .vmulFp ⟨22, .ln 2, .v 5, 2, .bf16, .rd, false, true⟩),
    (0x8EF18CCF, .vfma ⟨23, .ln 3, .v 6, 3, .fp32, .ru, true, true⟩),
    (0x93120F10, .vfms ⟨24, .ln 4, .v 7, 4, .fp16, .rn, false, false⟩),
    (0x97329166, .vnfma ⟨25, .ln 5, .v 8, 5, .bf16, .rz, true, false⟩),
    (0x9B531389, .vmadd ⟨26, .ln 6, .v 9, 6, .fp32, .rd, false, true⟩),
    (0xBB7395DF, .vscale ⟨27, .ln 7, .v 10, 7, .fp16, .ru, true, true⟩),
    (0x9C210728, .vminFp ⟨1, .v 2, .v 3, 4, .bf16, true⟩),
    (0x9FEF7FD1, .vmaxFp ⟨31, .v 30, .ln 31, 7, .fp16, false⟩),
    (0x9CA1064D, .vcmpFp ⟨5, .v 2, .v 3, 1, .fp32, true, .le⟩),
    (0xA021072C, .vaddInt ⟨1, .v 2, .v 3, 4, .n16, true, false⟩),
    (0xA131061B, .vsubInt ⟨9, .ln 2, .v 3, 0, .i64, false, true⟩),
    (0xA4C390BE, .vmulInt ⟨6, .v 7, .v 8, 2, .n64, true, true⟩),
    (0xA8E084E9, .vcmpInt ⟨7, .v 1, .v 2, 3, .w32, .gen⟩),
    (0xAD665A18, .vminInt ⟨11, .v 12, .ln 13, 0, .i64⟩),
    (0xAD86DC61, .vmaxInt ⟨12, .v 13, .ln 14, 1, .n8⟩),
    (0xADA75EAA, .vshl ⟨13, .v 14, .ln 15, 2, .n16⟩),
    (0xADC7E0F3, .vshr ⟨14, .v 15, .ln 16, 3, .n32⟩),
    (0xADE8633C, .vsra ⟨15, .v 16, .ln 17, 4, .n64⟩),
    (0xAE08E545, .vand ⟨16, .v 17, .ln 18, 5, .i8⟩),
    (0xAE29678E, .vor ⟨17, .v 18, .ln 19, 6, .i16⟩),
    (0xAE49E9D7, .vxor ⟨18, .v 19, .ln 20, 7, .i32⟩),
    (0xB040AC00, .vsel ⟨2, .v 1, .v 22, 0, .w8⟩),
    (0xB0612E51, .vperm ⟨3, .v 2, .v 23, 1, .w16⟩),
    (0xB081B0A2, .vshuf ⟨4, .v 3, .v 24, 2, .w32⟩),
    (0xB0A232F3, .vzip0 ⟨5, .v 4, .v 25, 3, .w64⟩),
    (0xB0C2B504, .vzip1 ⟨6, .v 5, .v 26, 4, .w8⟩),
    (0xB0E33755, .vuzp0 ⟨7, .v 6, .v 27, 5, .w16⟩),
    (0xB103B9A6, .vuzp1 ⟨8, .v 7, .v 28, 6, .w32⟩),
    (0xB1243BF7, .vslide0 ⟨9, .v 8, .v 29, 7, .w64⟩),
    (0xB144BC08, .vslide1 ⟨10, .v 9, .v 30, 0, .w8⟩),
    (0xB4210704, .vdot4I8 ⟨1, .v 2, .v 3, 4, true, false⟩),
    (0xB421074A, .vdot4N8 ⟨1, .v 2, .v 3, 5, false, true⟩),
    (0xB4214792, .vtacc ⟨1, .v 2, .ln 3, 6, false, true⟩)] = true := by decide +kernel

/-- Major 47 (R145 to R152). -/
theorem test_decode_vectorOne : allDecode [
    (0xBC748AA0, .vmov ⟨3, .ln 41, 2, 5⟩),
    (0xBD2AA000, .vmovQ true (.v 21)),
    (0xBC804240, .vidx 4 .w16 1),
    (0xBCD26600, .vsetvl 6 (.q 4) .w64),
    (0xBC2106C1, .vneg ⟨1, .v 2, 3, .fp .fp16 true⟩),
    (0xBC213AC1, .vabs ⟨1, .v 2, 3, .int .w32 true⟩),
    (0xBD1FDC21, .vnot 8 (.ln 63) .w64 0),
    (0xBDC20042, .vrnd ⟨14, .v 4, 1, .fp32, .rn, false, false⟩),
    (0xBDE2AC83, .vrcp ⟨15, .v 5, 2, .fp16, .rz, true, false⟩),
    (0xBE0352C4, .vrsq ⟨16, .v 6, 3, .bf16, .rd, false, true⟩),
    (0xBE239F06, .vlog2 ⟨17, .v 7, 4, .fp32, .ru, true, true⟩),
    (0xBC2146C5, .vexp2 ⟨1, .v 2, 3, .bf16, .rn, true, true⟩),
    (0xBC32A2C7, .vclass ⟨1, .ln 5, 3, .fp16, .rn, false, true⟩),
    (0xBC211EC8, .vredadd ⟨1, .v 2, 3, .fp .fp16 .ru true⟩),
    (0xBC2168C9, .vredmax ⟨1, .v 2, 3, .int .w32 true false false⟩),
    (0xBC2152CA, .vredmin ⟨1, .v 2, 3, .int .w16 false false true⟩),
    (0xBC2156CB, .vbcast 1 (.v 2) .w32 11 3),
    (0xBC2118CC, .vbcastScalar 1 (.x 2) 12 3),
    (0xBCC15A0D, .vextr ⟨6, .v 2, true, .w16, 5⟩),
    (0xBC3002EE, .vtunpk 1 (.ln 32) true 3),
    (0xBC216CD4, .vcvt ⟨1, .v 2, 3, .i32, .e5m2, 2⟩)] = true := by decide +kernel

/-- Majors 48 to 55 (R184 to R192, R349 to R360). -/
theorem test_decode_system : allDecode [
    (0xC0104010, .srr (.x 1) 0x0401#16),
    (0xC4104080, .srw (.x 1) 0x0408#16),
    (0xC8001010, .comma 4#10 1#6),
    (0xCC000070, .trap 7#16),
    (0xCC000001, .eret),
    (0xD0424000, .qcnt (.x 4) 9),
    (0xD0428001, .qcntFree (.x 4) 10),
    (0xD444C028, .symrd (.x 4) 19 5),
    (0xD444C001, .symsetB (.x 4) 19),
    (0xD4450002, .symsetPol (.x 4) 20),
    (0xD4054003, .symsetClr 21),
    (0xD800C400, .tlbiPage (.x 3) (.x 4)),
    (0xD8000401, .tlbiAsid (.x 4)),
    (0xD8000002, .tlbiAll),
    (0xD800C003, .tlbiVa (.x 3)),
    (0xD8000010, .tlbfence),
    (0xD8014620, .keyld (.x 5) (.x 6)),
    (0xD8000621, .keyldClr (.x 6)),
    (0xDC500052, .capq (.x 5) 5#16 2),
    (0xDC000008, .codesync)] = true := by decide +kernel

/-- Words of the matrix engine (R75 to R77 and the rules of each word). -/
theorem test_decode_matrix_words : allEngine .matrix [
    (0x0800, .dup),
    (0x1400, .over),
    (0x2000, .mulw),
    (0x3400, .stopw),
    (0x3E89, .sigf true (.flag 9 (some .cluster))),
    (0x42C0, .mldt 5 true false),
    (0x4720, .mstt 6 false true),
    (0x4B80, .mma 3 true),
    (0x4E40, .mhad 4 2),
    (0x5080, .mzero 0 true),
    (0x565A, .mdrain ⟨2, .e5m2, true, false, true, false⟩),
    (0x5A00, .msrec true false),
    (0x5E7A, .mgeom 9 14 true false)] = true := by decide +kernel

/-- Words of the copy engine (R75 to R77 and the rules of each word). -/
theorem test_decode_copy_words : allEngine .copy [
    (0x9234, .lit 0x1234#15),
    (0x0C00, .drop),
    (0x1800, .addw),
    (0x2421, .shlw 33),
    (0x2800, .qpop),
    (0x38D1, .waitf (some .die) 17),
    (0x3992, .waitf none 18),
    (0x42A8, .copy ⟨2, true, some 2, 0⟩),
    (0x4481, .cgath ⟨0, true, none, 1⟩),
    (0x483F, .cscat ⟨0, false, some 7, 3⟩),
    (0x4CA4, .cfill ⟨0, true, some 1, 0⟩),
    (0x5000, .cbcast ⟨0, false, none, 0⟩),
    (0x5580, .cremote ⟨1, true, none, 0⟩),
    (0x5903, .cacc ⟨1, false, none, 3⟩)] = true := by decide +kernel

/-- Words of the query engine (R75 to R77 and the rules of each word). -/
theorem test_decode_query_words : allEngine .query [
    (0x1000, .swap),
    (0x1C00, .subw),
    (0x2E01, .loopw 513#10),
    (0x3000, .endw),
    (0x3DBF, .sigf false (.flag 63 none)),
    (0x3FC5, .sigf true (.none (some .domain))),
    (0x3DC6, .sigf false (.none none)),
    (0x4300, .afolio true 2),
    (0x4400, .aappend),
    (0x4883, .aquery false 1 3),
    (0x4C00, .astat)] = true := by decide +kernel

/-- LITX takes the value of the literal that follows it (R76). -/
theorem test_decode_litx : decodeEngine .query 0x0400 0x8123 = some (.litx 0x8123) := by decide +kernel

/-! ## States -/

/-- Seat 0 of core 0 of die 0. -/
def seat0 : SeatRef := ⟨0, 0⟩

/-- The booted package with an instance running on core 0, seat 0, 100 core cycles after reset, in which stream i is to issue. -/
def start (i : StreamId) (f : Seat → Seat) : State :=
  { State.reset with
    bootStat := 1, turn := ⟨seat0, i⟩,
    core := State.reset.core.set 0
      { Core.reset with
        cycle := 100, live := 100,
        seat := Core.reset.seat.set 0 (f
          { Seat.reset with
            inst := { Inst.reset with phase := .running },
            str := Vector.replicate 4 { Stream.reset with halted := false, pc := 0x20000001000 } }) } }

/-- Stream i with register xn. -/
def x (i : StreamId) (n : Fin 32) (v : Word) (a : Seat) : Seat := a.modStr i fun t => t.wrX n v

/-- Queue register n with one entry. -/
def queued (n : Fin 16) (v : VData) (a : Seat) : Seat := a.modQ n fun f => f.push v 0

/-- A seat whose C has halted. -/
def noC (a : Seat) : Seat := a.modStr .C fun t => { t with halted := true }

/-- Core 0 in a freeze. -/
def frozen (s : State) : State := s.setCore 0 { s.core[(0 : Fin 904)] with freeze := some (.slot 0 0 none) }

/-- Landing slot n FULL. -/
def landed (n : Fin 64) (v : VData) (a : Seat) : Seat :=
  { a with ln := a.ln.set n { Slot.reset with data := v, state := 2 } }

/-! ## Witnesses: scalar instructions -/

theorem wit_ready_registers : Ready (start .K id) [.x 31, .x 0] [.x 3] := ⟨by decide +kernel, by decide +kernel⟩
theorem wit_ready_queues : Ready (start .K (queued 5 7)) [.q 5, .x 1] [.q 12] := ⟨by decide +kernel, by decide +kernel⟩
theorem wit_ready_twice : Ready (start .K (queued 5 7 ∘ queued 5 8)) [.q 5, .q 5] [.x 1] := ⟨by decide +kernel, by decide +kernel⟩
theorem wit_ready_in_C : Ready (start .C (queued 4 7)) [.q 4] [.q 5] := ⟨by decide +kernel, by decide +kernel⟩

/-- DivisionAndItsDivider: no division in progress; one whose cycles have passed, one whose last cycle has not, and one whose core stands
still. -/
theorem wit_divider : let s (o : DivOp) := start .K fun a => a.modStr .K fun t => { t with div := some o }
    let o : DivOp := ⟨.x 1, 5, 100, false⟩
    let o' : DivOp := ⟨.q 0, 5, 101, true⟩
    (start .K id).me.div = none ∧
    (((s o).getStr ⟨seat0, .K⟩).div = some o ∧ (s o).coreHeld 0 = false ∧ ¬(s o).core[(0 : Fin 904)].live < o.due) ∧
    (((s o').getStr ⟨seat0, .K⟩).div = some o' ∧ (s o').core[(0 : Fin 904)].live < o'.due) ∧
    (frozen (s o)).coreHeld 0 = true := by
  decide +kernel

/-- CompareSelectAndPredicates, ControlTransfers: predicates and x31 without interlock. -/
theorem wit_free : (start .K id).pFree 15 = true ∧ (start .K id).pFree 0 = true ∧ (start .K id).xFree 31 = true := by decide +kernel

/-- ControlTransfers: an address with bits [1:0] nonzero, and one without; a branch taken, and one not taken. -/
theorem wit_targets : (start .K (x .K 1 6)).peek (.x 1) + 4 * BitVec.ofInt 64 (0 : BitVec 11).toInt &&& 3 ≠ 0 ∧
    (start .K (x .K 1 8)).peek (.x 1) + 4 * BitVec.ofInt 64 (-1 : BitVec 11).toInt &&& 3 = 0 ∧
    (start .K id).me.rdP 0 = true ∧ (start .K id).me.rdP 1 = false := by decide +kernel

/-- LoopsRepeatsAndTheirTrips: a LOOP without a stage table, of the longest body; a REP before an instruction it may repeat (here of a packet
of zeros); a LOOP of three stages in its last iteration, and one whose count is spent. -/
theorem wit_loops : ((start .K id).loopChecked 0 (2 ^ 11 - 1)).toOption = some [] ∧
    ((start .K fun a => a.modStr .K fun t => { t with packets := [⟨0x20000001000, 0, none⟩] }).repChecked).toOption = some () ∧
    ({ Stream.reset with lc := mkLc 2 5 1 true, ps := 1 } : Stream).act = true ∧
    ({ Stream.reset with lc := mkLc 2 5 0 true, ps := 4 } : Stream).tripEnd.ps = 0 ∧
    ({ Stream.reset with lc := mkLc 7 5 0 true, ps := 1 } : Stream).tripEnd.ps = 2 := by decide +kernel

/-- CommaCounts: in a body, and outside one. -/
theorem wit_comma : (start .L id).me.act = false ∧
    (start .L fun a => a.modStr .L fun t => { t with lc := mkLc 0 1 1 true }).me.act = true := by decide +kernel

/-- FaultEntries: with TRAP_VEC set and no handler running; with TRAP_VEC 0; while a handler runs; a fault of class S. -/
theorem wit_fault_entries : let h := start .K fun a => { a with trap := { a.trap with vec := 0x20000002000 } }
    let n := start .K fun a => { a with trap := { a.trap with info := 4, vec := 0x20000002000 } }
    ((h.getSeat seat0).trap.active = false ∧ (h.getSeat seat0).trap.vec ≠ 0 ∧ (Flt.mk' .trap 65535).detail < 2 ^ 32 ∧
      (Flt.mk' .trap 65535).sys = false) ∧
    ((start .K id).getSeat seat0).trap.vec = 0 ∧ (n.getSeat seat0).trap.active = true ∧ (⟨.page, 13, 0, true⟩ : Flt).sys = true := by
  decide +kernel

/-- TrapAndReturn: ERET in a trap handler, in a re-timing handler, in a LATENCY_BOUND handler that owes the re-timing handler, and with no
handler running. -/
theorem wit_eret : let h (i : Word) := start .K fun a => { a with trap := { a.trap with info := i } }
    let o := start .K fun a => { a with trap := { a.trap with info := 0xE00005 }, cut := { a.cut with info := 8, retimeVec := 0x20000004000 } }
    ((h 5).mySeat.trap.active = true ∧ (h 5).mySeat.owedRetime = false ∧ (h 5).mySeat.trap.kind = false) ∧
    ((h 12).mySeat.trap.active = true ∧ (h 12).mySeat.owedRetime = false ∧ (h 12).mySeat.trap.kind = true) ∧
    (o.mySeat.trap.active = true ∧ o.mySeat.owedRetime = true) ∧
    (start .K id).mySeat.trap.active = false := by decide +kernel

/-- UndefinedAndFaultingWords: a seat that stands Faulted, one that does not; an empty stack, a full one, no loop. -/
theorem wit_words : (start .K id).mySeat.inst.phase ≠ .faulted ∧
    (start .K fun a => { a with inst := { a.inst with phase := .faulted } }).mySeat.inst.phase = .faulted ∧
    (start .K id).myEng.stack = [] ∧ (start .K id).myEng.loops = [] ∧
    (start .K fun a => a.modEng .matrix fun c => { c with stack := List.replicate 8 1 }).myEng.stack.length = 8 := by decide +kernel

/-! ## Witnesses: vector instructions -/

/-- A landing slot that is FULL without error, and one that is FREE. -/
theorem wit_slots_good : SlotsGood (start .C (landed 31 5)) [.ln 31, .v 2] ∧ SlotsGood (start .C id) [.ln 0, .ln 1] := by
  unfold SlotsGood; decide +kernel

/-- Tags: those of reset fit every type; a register that carries FP32 does, and does not fit INT8. -/
theorem wit_tags : (start .C id).tagOk (.v 31) (fpTag .bf16) = true ∧ (start .C id).tagOk (.ln 7) 10 = true ∧
    (start .C fun a => { a with vec := { a.vec with tag := a.vec.tag.set 2 1 } }).tagOk (.v 2) (fpTag .fp32) = true ∧
    (start .C fun a => { a with vec := { a.vec with tag := a.vec.tag.set 2 1 } }).tagOk (.v 2) 10 = false ∧
    (start .C id).tagOk (.v 2) (cvtTag .i32) = true ∧ (start .C id).tagOk (.v 2) 14 = true := by decide +kernel

/-- Queue q9 has room. -/
theorem wit_q_room : (start .C id).mySeat.qRoom 9 (start .C id).now 1 = true ∧ (start .C id).mySeat.qRoom 8 (start .C id).now 1 = true := by
  decide +kernel

/-- VectorNamesAndSourceChecks: a PENDING slot, and a FULL one with an error. -/
theorem wit_slots_bad : let s (k : Slot) := start .C fun a => { a with ln := a.ln.set 63 k }
    (s { Slot.reset with state := 1 }).mySeat.ln[(63 : Fin 64)].state = 1 ∧
    (s { Slot.reset with state := 2, err := true }).mySeat.ln[(63 : Fin 64)].state = 2 ∧
    (s { Slot.reset with state := 2, err := true }).mySeat.ln[(63 : Fin 64)].err = true := by decide +kernel

/-! ## Witnesses: memory -/

/-- A window access that no check refuses leaves the state as it is. -/
theorem check_window {s : State} {w : Who} {va : Word} {size : Nat} {r : Right} {skew write : Bool} (h1 : va.toNat % size = 0)
    (h2 : isWindow va = true) (h3 : s.windowCheck w.ref va.toNat r = none) (h4 : (write && inBoardRegion va.toNat && !w.isY) = false) :
    s.check w va size r skew write = (.ok (windowPlace va.toNat skew), s) := by
  simp [State.check, h1, h2, h3, h4]

/-- Core 0's slice from 0x100 on. -/
def own : Place := ⟨0x100, ⟨0, 0, some 0⟩, none, false⟩

/-- A table that maps the 1 GiB at 2^41 to stack 0 with every right (R343 to R345). -/
def paged (s : State) : State :=
  ({ s with
      keyStat := 1,
      mem := [(physBase, 1), (physBase + 1, 0x10), (physBase + 0x1020, 1), (physBase + 0x1021, 0x20), (physBase + 0x2000, 0x1F),
        (physBase + 0x2003, 0x40)] } : State).modMySeat fun a => { a with sys := { a.sys with xlatRoot := 0x100000000000 } }

/-- The place of address 2^41 + 0x40 under that table. -/
def page : Place := ⟨physBase + 2 ^ 30 + 0x40, ⟨0, 0, none⟩, some 0, false⟩

/-- A request for 8 bytes of core 0's slice, issued in core cycle 0, its answer still to be fixed. -/
def req (i : StreamId) (k : LoadKind) : LoadReq :=
  { seq := 0, stream := i, kind := k, place := own, va := 0x100, size := 8, sym := 0, b := 0, issued := 0, site := Stream.reset.site,
    inHandler := false, conj := 0, acq := none, way := none, beats := 0, part := ⟨.ok, 0, false⟩, got := none, missing := none, hint := none, full := false }

/-- The same request with its answer fixed: data 5, or an error. -/
def answered (i : StreamId) (k : LoadKind) (a : Ans) : LoadReq := { req i k with got := some ⟨a, 5, false⟩ }

/-- A store of 8 bytes there, issued in core cycle 92 by S. -/
def store : StoreReq :=
  { seq := 0, stream := .S, kind := .store, place := own, va := 0x100, size := 8, data := 5, issued := 92, conj := 0, rel := none, hint := none }

/-- The same store on its way, 99 core cycles ago. -/
def flight : Flight :=
  { id := 0, ent := 0, src := .stream ⟨seat0, .S⟩, kind := .store, place := own, size := 8, data := 5, stage := 0, last := 0, conj := 0,
    sync := none, bad := false, issued := 0, born := 1, beats := 0, rels := [] }

/-- AccessChecksAndMissingPages: a misaligned address, the last doubleword of the own slice, the first of the next slice. -/
theorem wit_access_checks : let s := start .K id
    (3 : Word).toNat % 8 ≠ 0 ∧
    ((0x3FFFF8 : Word).toNat % 8 = 0 ∧ isWindow 0x3FFFF8 = true ∧ s.dieUsable (windowHome 0x3FFFF8).die = true ∧
      (windowHome 0x3FFFF8).pkg = Config.thisPackage ∧ ownSlice seat0 = some (sliceIndex 0x3FFFF8)) ∧
    ((0x400000 : Word).toNat % 8 = 0 ∧ isWindow 0x400000 = true ∧ s.dieUsable (windowHome 0x400000).die = true ∧
      (windowHome 0x400000).pkg = Config.thisPackage ∧ ownSlice seat0 ≠ some (sliceIndex 0x400000) ∧ (⟨seat0, .K⟩ : Who).isY = false ∧
      (s.getSeat seat0).winGrants (sliceIndex 0x400000) .wr = false) := by decide +kernel

/-- AccessChecksAndMissingPages: a load on a missing page. -/
theorem wit_missing_page : let s := paged (start .L (x .L 1 0x20040000000))
    Ready s [.x 1] [] ∧ s.gated = false ∧ s.mySeat.ln[(63 : Fin 64)].state = 0 ∧
    (s.check s.turn (s.me.rdX 1 + BitVec.ofInt 64 ((0 : BitVec 8).toInt * 2 ^ 0)) (2 ^ 0) .rd false false).1 = .missing 13 := by
  refine ⟨⟨?_, ?_⟩, ?_⟩ <;> decide +kernel

/-- AccessChecksAndMissingPages: a load held, whose page is there now, in a seat without a handler; an atomic held, whose page is there. -/
theorem wit_load_replay :
    let l : LoadReq := { req .L (.slot 5) with va := 0x20000000040, missing := some 13 }
    let s (k : List LoadReq) := paged (start .L fun a =>
      { a.modStr .L fun t => { t with wait := .held 0x20000000040 13 } with loads := k })
    (((s [l]).getStr ⟨seat0, .L⟩).wait = .held 0x20000000040 13 ∧ ((s [l]).getSeat seat0).heldReq .L = some l ∧
      ((s [l]).check ⟨seat0, .L⟩ 0x20000000040 8 .rd false false).1 = .ok page ∧ ((s [l]).getSeat seat0).trap.active = false) ∧
    ((s []).getSeat seat0).heldReq .L = none ∧ ((s []).getStr ⟨seat0, .L⟩).wait = .held 0x20000000040 13 ∧
    (s []).walk ((s []).getSeat seat0).sys.xlatRoot (0x20000000040 : Word).toNat = .leaf 0x4000001F (2 ^ 30) := by decide +kernel

/-- AccessChecksAndMissingPages: the oldest store of a side log, whose page is there now. -/
theorem wit_side_log_replay :
    let e : LogEntry :=
      { kind := 0, src := .S, size := 8, op := .add, rel := none, hint := none, elem := 0, trans := false, va := 0x20000000040, data := 5,
        seq := 0, conj := 0, issued := 0 }
    let s := paged (start .S fun a => { a with sideLog := [e] })
    (s.getSeat seat0).sideLog[0]? = some e ∧
    (s.check ⟨seat0, e.src⟩ e.va e.size (if e.kind = 0 then .wr else .at') false true).1 = .ok page ∧
    s.logFirst seat0 0 e page = true ∧ s.conjSMet seat0 e.src e.conj = true ∧
    (s.modSeat seat0 fun st => { st with sideLog := dropAt 0 st.sideLog }).releaseMet seat0 e.src e.rel e.seq = true ∧
    (s.getSeat seat0).elems = [] := by decide +kernel

/-- LandingLoads: a FREE slot; an address of the own slice and one of a page, with every size and layout that reaches it. -/
theorem wit_landing_loads : let s := start .L (x .L 1 0x100)
    let v := paged (start .L (x .L 1 0x20000000040))
    (Ready s [.x 1] [] ∧ s.gated = false ∧ s.mySeat.ln[(0 : Fin 64)].state = 0) ∧
    (s.check s.turn (s.me.rdX 1 + BitVec.ofInt 64 ((0 : BitVec 8).toInt * 2 ^ 3)) (2 ^ 3) .rd false false).1 = .ok own ∧
    (s.check s.turn (s.me.rdX 1 + BitVec.ofInt 64 ((0 : BitVec 8).toInt * (32 * 2 ^ 3))) (32 * 2 ^ 3) .rd false false).1 = .ok own ∧
    (s.check s.turn (s.me.rdX 1) 256 .rd true false).1 = .ok { own with skew := true } ∧
    (Ready v [.x 1] [] ∧ v.gated = false ∧ v.mySeat.ln[(63 : Fin 64)].state = 0) ∧
    (v.check v.turn (v.me.rdX 1) 8 .rd false false).1 = .ok page := by
  refine ⟨⟨⟨?_, ?_⟩, ?_⟩, ?_, ?_, ?_, ⟨⟨?_, ?_⟩, ?_⟩, ?_⟩ <;> decide +kernel

/-- ScalarLoadsAndPrefetches: fifteen scalar loads are on their way. -/
theorem wit_scalar_loads : let s := start .K fun a => x .K 1 0x100 { a with loads := List.replicate 15 (req .K (.scalar (.x 9))) }
    (Ready s [.x 1] [.x 2] ∧ s.gated = false ∧ s.mySeat.scalarLoads < 16) ∧ (s.check s.turn (s.me.rdX 1) 8 .rd false false).1 = .ok own := by
  refine ⟨⟨⟨?_, ?_⟩, ?_⟩, ?_⟩ <;> decide +kernel

/-- StoresAndReductions: the store queue has its last place, an entry having left in the core cycle before; an access that is admitted, a
missing page, and a check that faults. -/
theorem wit_stores :
    let s := start .S fun a => x .S 1 0x100 { a with stores := List.replicate 31 { store with stream := .K }, left := (99, 2) }
    let v := paged (start .S (x .S 1 0x20040000000 ∘ queued 8 9))
    (s.storeClass (.x 2) = true ∧ s.blocked [.x 1, .x 2] [] = none ∧ s.gated = false ∧ s.mySeat.storeRoom s.myCore.cycle = true ∧
      s.mySeat.sideLog.length < 64) ∧
    (v.storeClass (.q 8) = true ∧ v.blocked [.x 1, .q 8] [] = none ∧ v.gated = false ∧ v.mySeat.storeRoom v.myCore.cycle = true ∧
      v.mySeat.sideLog.length < 64) ∧
    (s.check s.turn (s.me.rdX 1) 8 .wr false true).1 = .ok own ∧ (v.check v.turn (v.me.rdX 1) 256 .wr false true).1 = .missing 13 ∧
    (Ready s [.x 1, .x 2] [] ∧ (s.check s.turn (s.two (.x 1) (.x 2)).1 8 .at' false true).1 = .ok own) ∧
    (s.check s.turn (s.two (.x 0) (.x 2)).1 8 .at' false true).1 = .ok { own with key := 0 } ∧
    (let u := start .S (x .S 1 3); (u.check u.turn (u.two (.x 1) (.x 2)).1 4 .at' false true).1 = .fault ⟨.align, 0, 3, false⟩) ∧
    (v.check v.turn (v.two (.x 1) (.x 2)).1 4 .at' false true).1 = .missing 13 := by
  refine ⟨?_, ?_, ?_, ?_, ⟨⟨?_, ?_⟩, ?_⟩, ?_⟩ <;> decide +kernel

/-- LandingsAndScalarAnswers: an answer that may come; the core is frozen on its slot alone, or on another PENDING slot too. -/
theorem wit_landing : let u := start .L fun a => { a with loads := [answered .L (.slot 5) .ok], ln := a.ln.set 6 { Slot.reset with state := 1 } }
    let s (k : Option (Fin 64)) : State := u.setCore 0 { u.core[(0 : Fin 904)] with freeze := some (.slot 0 5 k) }
    let ok (k : Option (Fin 64)) : Bool :=
      decide ((((s k).getSeat seat0).loads.find? fun l => decide (l.kind = .slot 5)) = some (answered .L (.slot 5) .ok)) &&
        decide ((s k).answerNow seat0 (answered .L (.slot 5) .ok) = some ⟨.ok, 5, false⟩)
    ok none = true ∧ ok (some 6) = true ∧ (s none).core[seat0.core].freeze = some (.slot seat0.seat 5 none) ∧
    (s (some 6)).core[seat0.core].freeze = some (.slot seat0.seat 5 (some 6)) ∧ ((s (some 6)).getSeat seat0).ln[(6 : Fin 64)].state = 1 := by
  decide +kernel

/-- LandingsAndScalarAnswers: a prefetch, a scalar load (with its data and with an error, with and without a handler; beside a fault of
another stream in the same core cycle, of lower SRC and of higher) and an AMO; each with its core running, and a scalar load in a freeze. -/
theorem wit_scalar_answer :
    let s (l : LoadReq) (h : Word) : State := start .K fun a => { a with loads := [l], trap := { a.trap with info := h } }
    let b (n : Nat) : State := start .L fun a => { a with loads := [answered .L (.scalar (.x 1)) .uncorrectable], trap := { a.trap with last := (101, n) } }
    let w : Who := ⟨seat0, .K⟩
    let ok (k : LoadKind) (a : Ans) (h : Word) : Bool :=
      let l := answered .K k a
      decide ((s l h).nthAnswer w 0 = some l) && decide ((s l h).answerNow seat0 l = some ⟨a, 5, false⟩) &&
        (match k with | .scalar d => (s l h).queueTurn seat0 l d | .amo _ d _ _ _ => (s l h).queueTurn seat0 l d | _ => true)
    ok .pref .ok 0 = true ∧ ok (.scalar (.q 0)) .ok 0 = true ∧ ok (.scalar (.x 31)) .uncorrectable 0 = true ∧
    ok (.scalar (.x 31)) .dieReset 5 = true ∧ ok (.amo .cas (.x 7) 1 0 7) .ok 0 = true ∧ ok (.amo .add (.q 1) 1 0 0) .uncorrectable 0 = true ∧
    ((s (req .K .pref) 0).getSeat seat0).trap.active = false ∧ (s (req .K .pref) 0).coreHeld 0 = false ∧
    ((s (req .K .pref) 0).getSeat seat0).trap.last.1 ≠ (s (req .K .pref) 0).core[(0 : Fin 904)].cycle + 1 ∧
    (∀ n < 3, (b n).nthAnswer ⟨seat0, .L⟩ 0 = some (answered .L (.scalar (.x 1)) .uncorrectable) ∧ (b n).coreHeld 0 = false ∧
      (b n).answerNow seat0 (answered .L (.scalar (.x 1)) .uncorrectable) = some ⟨.uncorrectable, 5, false⟩ ∧
      ((b n).getSeat seat0).trap.last.1 = (b n).core[(0 : Fin 904)].cycle + 1 ∧ ((b n).getSeat seat0).trap.last.2 = n ∧
      ((b n).getSeat seat0).trap.nested = false) ∧
    (let l := answered .K (.scalar (.x 1)) .ok
     let f := frozen (s l 0)
     f.nthAnswer w 0 = some l ∧ f.answerNow seat0 l = some ⟨.ok, 5, false⟩ ∧ f.coreHeld 0 = true) := by decide +kernel

/-- LandingsAndScalarAnswers: an AMO at its home. -/
theorem wit_amo_home : let l := req .K (.amo .cas (.x 7) 1 0 7)
    let s := start .K fun a => { a with loads := [l] }
    Memory.wf s.mem = true ∧ s.answerReq seat0 l l.place l.size = .ok ∧ l.place.isLocal = true ∧ l.place.key + l.size ≤ physBase ∧
    l.place.skew = false ∧ l.size ≤ 8 ∧ (∃ m ∈ ((s.homeAct seat0 l).getSeat seat0).loads, m.seq = l.seq) := by decide +kernel

/-- StoresDepartAndArePerformed: the oldest store, eight core cycles after issue; one on its way that has arrived, at an own place that
answers, at one that does not, and at another package's. -/
theorem wit_store_departs : let s := start .S fun a => { a with stores := [store], loads := [{ req .K .pref with seq := 9 }] }
    (s.getSeat seat0).stores = [store] ∧ store.issued + 8 ≤ s.core[seat0.core].cycle ∧
    s.conjSMet seat0 store.stream store.conj = true ∧ s.releaseMet seat0 store.stream store.rel store.seq = true ∧
    s.releaseMet seat0 .S (some .device) store.seq = true ∧
    (∀ m ∈ (s.getSeat seat0).loads, m.stream = store.stream → m.seq < store.seq → m.way = none → m.got = none → m.missing = none →
      overlap m.place m.size store.place store.size = false) ∧ (s.getSeat seat0).elems = [] := by decide +kernel

theorem wit_store_performs : let s (f : Flight) : State := { start .S id with flights := [f] }
    let bad : Flight := { flight with place := { own with key := 2 ^ 52 + 2 ^ 43 } }
    let far : Flight := { flight with place := ⟨2 ^ 32, ⟨1, 0, some 0⟩, none, false⟩, last := 4, stage := 4, src := .hub 0 }
    (∀ f ∈ [flight, bad, far], (s f).flights[0]? = some f ∧ (s f).performable f = true ∧ f.beats = 0 ∧ f.bad = false ∧
      Memory.wf (s f).mem = true) ∧
    flight.place.isLocal = true ∧ bad.place.isLocal = true ∧ far.place.isLocal = false ∧
    (s flight).writeAnswer flight.kind flight.place flight.size flight.src.mayHost = .ok ∧
    (s bad).writeAnswer bad.kind bad.place bad.size bad.src.mayHost ≠ .ok ∧
    flight.place.key + flight.size ≤ physBase ∧ flight.place.skew = false ∧ flight.size ≤ 256 ∧ 16 % (accWidth 2 / 8) = 0 := by
  decide +kernel

/-- AtomicsAndTheirArithmetic: an AMO; a VAMO without elements, before its first element, and with the answer of its last but one and of its
last, with and without a return address. -/
theorem wit_atomics :
    let k := start .K (x .K 1 0x100)
    let g (d : SSpec) : AmoArgs := ⟨d, .x 1, .x 2, .add, true, 0⟩
    let l := answered .S (.elem .add 7) .ok
    let v (n : Word) (o : Option (Word × Nat)) (m : List LoadReq) := start .S fun a =>
      x .S 1 0x100 (x .S 2 n (x .S 3 0x200 (queued 8 7 (queued 9 0 { a with vamo := o, loads := m }))))
    let ready (s : State) (d : SSpec) : Bool := s.classOk [.x 1, .x 2, d] [] && decide (s.blocked [.x 1, .x 2, d] [] = none) &&
      decide (s.blocked [.x 1, .x 2, d, .q 8, .q 9] [] = none) && !s.gated && decide (s.turn.stream = .S) && decide (s.me.wait = .none) &&
      s.pFree ⟨(g d).pe.val, by omega⟩
    (Ready k [.x 1, .x 2] [.x 3] ∧ k.gated = false ∧ k.pFree 7 = true ∧
      k.classOk [.x 1, .x 2] [.x 3] = true ∧ k.blocked [.x 1, .x 2, .x 3] [.x 3] = none ∧
      (k.check k.turn (k.two (.x 1) (.x 2)).1 8 .at' false true).1 = .ok own) ∧
    (ready (v 0 none []) (.x 0) = true ∧ (v 0 none []).mySeat.elemReq = none ∧
      min ((v 0 none []).two (.x 1) (.x 2)).2.toInt.toNat 32 ≤ (v 0 none []).vamoIndex) ∧
    (let s := v 1 none []; ready s (.x 3) = true ∧ s.mySeat.elemReq = none ∧ s.vamoIndex < min (s.two (.x 1) (.x 2)).2.toInt.toNat 32 ∧
      (s.check s.turn ((s.two (.x 1) (.x 2)).1 + BitVec.ofInt 64 (s.elem' 9 32 s.vamoIndex * 8)) 8 .at' false true).1 = .ok own ∧
      s.returnPlace (.x 3) ((s.peeks [.x 1, .x 2, .x 3]).getD 2 0) s.vamoIndex 8 = .ok (some { own with key := 0x200 }) ∧
      s.returnBusy (some { own with key := 0x200 }) 8 = false ∧ s.returnBusy none 8 = false) ∧
    (∀ o ∈ [some (0x20000001000, 0), some (0x20000001000, 1)], let s := v 2 o [l]
      ready s (.x 0) = true ∧ ready s (.x 3) = true ∧ s.mySeat.elemReq = some l ∧ s.answerNow s.turn.ref l = some ⟨.ok, 5, false⟩ ∧
      s.returnPlace (.x 3) ((s.peeks [.x 1, .x 2, .x 3]).getD 2 0) s.vamoIndex 8 = .ok (some { own with key := 0x200 + 8 * s.vamoIndex }) ∧
      Memory.wf s.mem = true ∧ 0x208 + 8 ≤ physBase ∧ s.writeAnswer .store { own with key := 0x200 + 8 * s.vamoIndex } 8 false = .ok) := by
  unfold Ready; decide +kernel

/-- AtomicsAndTheirArithmetic: a VMRED of one element. -/
theorem wit_vmred : let s := start .S fun a => x .S 1 0x100 (x .S 2 1 (queued 8 7 (queued 9 0 a)))
    Ready s [.x 1, .x 2] [] ∧ s.blocked [.x 1, .x 2, .q 8, .q 9] [] = none ∧ s.gated = false ∧ s.mySeat.sideLog = [] ∧
    s.coreHeld s.turn.ref.core = false ∧ ∃ l u, s.checkElems (s.two (.x 1) (.x 2)).1 s.mySeat.q[(9 : Fin 16)].head 8 (min (s.two (.x 1) (.x 2)).2.toInt.toNat 32) 0 = .ok (l, u) ∧
      ∀ a ∈ l, ∃ p, a.1 = .ok p := by
  refine ⟨⟨by decide +kernel, by decide +kernel⟩, by decide +kernel, by decide +kernel, by decide +kernel, by decide +kernel, ?_⟩
  generalize hs : (start .S fun a => x .S 1 0x100 (x .S 2 1 (queued 8 7 (queued 9 0 a)))) = s
  have hn : min (s.two (.x 1) (.x 2)).2.toInt.toNat 32 = 1 := by subst hs; decide +kernel
  have hv : elemAddr (s.two (.x 1) (.x 2)).1 s.mySeat.q[(9 : Fin 16)].head 8 0 = 0x100 := by subst hs; decide +kernel
  have hw : s.windowCheck s.turn.ref (0x100 : Word).toNat .at' = none := by subst hs; decide +kernel
  rw [hn]
  simp only [State.checkElems, hv]
  have hb : inBoardRegion (0x100 : Word).toNat = false := by decide +kernel
  rw [check_window (by decide) (by decide) hw (by simp only [hb, Bool.and_false, Bool.false_and])]
  exact ⟨_, _, rfl, by simp⟩

/-- FencesAndConjunctions: a fence of each kind; a release fence with a write of its stream on its way, an acquire fence after a read that
met a release; the slot of core 0, whose first stream waits, and whose last does; a fence that has settled, one that has not,
and one that goes on after a freeze; an XFENCE whose stores are performed, and one whose are not. -/
theorem wit_fences :
    let w (i : StreamId) (f : Wait) := start .K fun a => a.modStr i fun t => { t with wait := f }
    (∀ k ∈ [FenceKind.acq, .rel, .ar, .sc], (start .K id).fenceMet .domain k = true) ∧ (start .K id).me.wait = .none ∧
    (let f : Flight := { flight with src := .stream ⟨seat0, .K⟩, last := 2 }
     let g : Flight := { flight with id := 1, src := .stream ⟨seat0, .S⟩, last := 2 }
     let h : Heard := ⟨.stream ⟨seat0, .S⟩, .core, [1]⟩
     let s : State := { start .K fun a => a.modStr .K fun t => { t with heard := [h] } with flights := [f, g], seq := 2 }
     s.fenceMet .core .rel = true ∧ s.fenceMet .core .acq = true ∧ f ∈ s.flights ∧ f.src = .stream s.turn ∧ f.id < s.seq ∧
       h ∈ s.me.heard ∧ syncs h.src h.scope s.turn .core = true ∧ (1 : Nat) ∈ h.ids ∧ ∃ f ∈ s.flights, f.id = 1) ∧
    (let s := w .K (.scEvent .domain);
      s.timebase.toNat % 1024 = (0 : Fin 904).val ∧ s.core[(0 : Fin 904)].wheelTurn ≠ s.timebase.toNat / 1024 + 1 ∧
      s.atWheel (wheelStream 0 (Fin.ofNat 6 (s.core[(0 : Fin 904)].wheel.val + 1 + 0))) = true) ∧
    (let s : State := { w .S (.scEvent .device) with timebase := 1024 };
      s.timebase.toNat % 1024 = (0 : Fin 904).val ∧ s.core[(0 : Fin 904)].wheelTurn ≠ s.timebase.toNat / 1024 + 1 ∧
      s.atWheel (wheelStream 0 (Fin.ofNat 6 (s.core[(0 : Fin 904)].wheel.val + 1 + 2))) = true ∧
      ∀ m < 2, s.atWheel (wheelStream 0 (Fin.ofNat 6 (s.core[(0 : Fin 904)].wheel.val + 1 + m))) = false) ∧
    (((w .K (.scTaken 0)).getStr ⟨seat0, .K⟩).wait = .scTaken 0 ∧ 0 ≤ (w .K (.scTaken 0)).timebase.toNat ∧
      (w .K (.scTaken 0)).synced = true ∧ (w .K (.scTaken 0)).coreHeld 0 = false ∧ (frozen (w .K (.scTaken 0))).coreHeld 0 = true) ∧
    ((w .K (.scTaken 1)).getStr ⟨seat0, .K⟩).wait = .scTaken 1 ∧ (w .K .scDone).me.wait = .scDone ∧ (start .K id).me.wait = .none ∧
    (start .K id).xfenceMet 100 = true ∧ (start .K fun a => { a with stores := [store] }).xfenceMet 100 = false := by decide +kernel

/-- MonitorWait: a wait to begin. -/
theorem wit_monitor_begins : let s := start .K (x .K 1 0x100)
    Ready s [.x 1, .x 2] [] ∧ s.gated = false ∧ s.me.wait = .none ∧ s.pFree 15 = true ∧
    (s.check s.turn (s.two (.x 1) (.x 2)).1 8 .rd false false).1 = .ok own := by
  unfold Ready; decide +kernel

/-- MonitorWait: the compare at the home, of a word as expected and of another; a free monitor. -/
theorem wit_monitor_compares :
    let s (e : Word) := start .K fun a => { a with loads := [req .K (.mwait e)] }
    (s 0).answerReq seat0 (req .K (.mwait 0)) own 8 = .ok ∧ (s 1).answerReq seat0 (req .K (.mwait 1)) own 8 = .ok ∧
    BitVec.ofNat 64 ((s 0).dataAt own 8) = 0 ∧ (s 0).monitorFree (req .K (.mwait 0)) = true := by decide +kernel

/-- A seat whose K waits with deadline d. -/
def waiting (d : Nat) (a : Seat) : Seat := (x .K 1 0x100 a).modStr .K fun t => { t with wait := .mwait 0x100 0 15 d [.x 1, .x 2] }

/-- MonitorWait: its answer, when its monitor is armed and when not. -/
theorem wit_monitor_answers :
    let l := { req .K (.mwait 0) with got := some ⟨.ok, 0, false⟩ }
    let s (m : List Monitor) : State := { start .K fun a => { waiting 1 a with loads := [l] } with monitors := m }
    let w : Who := ⟨seat0, .K⟩
    let ok (m : List Monitor) : Bool := decide ((s m).nthAnswer w 0 = some l) && decide ((s m).answerNow seat0 l = some ⟨.ok, 0, false⟩) &&
      decide (((s m).getStr w).wait = .mwait 0x100 0 15 1 [.x 1, .x 2]) && !(s m).coreHeld 0
    ok [] = true ∧ ok [⟨w, own⟩] = true := by decide +kernel

/-- MonitorWait: a wait past its deadline, and one before it; with a latched cut, and without; in a freeze; and one that is over. -/
theorem wit_monitor_ends :
    let s (d : Nat) (c : Option Latch) := start .K fun a => { waiting d a with cut := { a.cut with latch := c } }
    (Ready (s 1 none) [.x 1, .x 2] [] ∧ (s 1 none).me.wait = .mwait 0x100 0 15 1 [.x 1, .x 2] ∧ (s 1 none).mySeat.arming .K = false) ∧
    ((s 1 (some ⟨1, 0, false, false⟩)).mySeat.cut.latch.isSome = true ∧ (s 1 (some ⟨1, 0, false, false⟩)).mySeat.arming .K = false) ∧
    (let f := frozen (s 0 (some ⟨1, 0, false, false⟩)); Ready f [.x 1, .x 2] [] ∧ f.coreHeld f.turn.ref.core = true ∧
      f.me.wait = .mwait 0x100 0 15 0 [.x 1, .x 2] ∧ f.mySeat.arming .K = false) ∧
    (let v := start .K fun a => (x .K 1 0x100 a).modStr .K fun t => { t with wait := .woken 15 [.x 1, .x 2] true }
     Ready v [.x 1, .x 2] [] ∧ v.me.wait = .woken 15 [.x 1, .x 2] true) ∧ (s 0 none).coreHeld 0 = false ∧
    ((s 0 none).getStr ⟨seat0, .K⟩).wait = .mwait 0x100 0 15 0 [.x 1, .x 2] ∧ 0 ≤ ((s 0 none).getSeat seat0).sched ∧
    ¬1 ≤ ((s 1 none).getSeat seat0).sched := by
  unfold Ready; decide +kernel

/-! ## Witnesses: engines -/

/-- A seat with a context of an engine, whose C has halted, so that no freeze can begin. -/
def engine (e : EngineId) (f : EngineCtx → EngineCtx) (a : Seat) : Seat := (noC a).modEng e f
def matrix := engine .matrix

/-- A command whose word is opc, opnd, started and due. -/
def cmd (opc : Fin 32) (opnd : BitVec 10) : Cmd :=
  { acc := 1, opc := opc, opnd := opnd, attr := Attrs.reset, args := [0x100], met := false, started := true, stuck := false, headAt := 0,
    placedAt := 0, bind := 0, sent := 0, fwd := [], touched := [], due := 100, data := [], todo := [], dest := [], i2 := 0, i1 := 0, k := 0, moved := false }

/-- EngineStackLoopAndAttributeWords: one value on the stack; eight; two of them; a QPOP whose queue is empty, and one whose is not. -/
theorem wit_engine_stack :
    let s (l : List Word) := start .K (matrix fun c => { c with stack := l })
    ((s [7]).myEng.stack.length < 8 ∧ (s [7]).myEng.stack = 7 :: []) ∧
    ((s [1, 2, 3, 4, 5, 6, 7, 8]).myEng.stack.length ≤ 8 ∧ (s [1, 2, 3, 4, 5, 6, 7, 8]).myEng.stack = 1 :: 2 :: [3, 4, 5, 6, 7, 8]) ∧
    (s []).mySeat.q[popQueue (s []).turnE].avail (s []).now = 0 ∧ bit (0x8000 : EWord) 15 = true ∧
    (start .K (queued 10 7)).mySeat.q[popQueue .matrix].avail (start .K (queued 10 7)).now ≠ 0 := by decide +kernel

/-- EngineStackLoopAndAttributeWords: a count of 0, one above 0, a full loop stack; the ENDW of the innermost loop; attributes pending and
not. -/
theorem wit_engine_loops :
    let s (f : EngineCtx → EngineCtx) := start .K (matrix f)
    (s fun c => { c with stack := [0] }).myEng.stack = 0 :: [] ∧ (0 : Word).toInt ≤ 0 ∧ ¬(1 : Word).toInt ≤ 0 ∧
    2 ≤ (s fun c => { c with stack := [1], loops := [⟨1, 2, 3⟩, ⟨0, 2, 9⟩] }).myEng.loops.length ∧
    (let t := s fun c => { c with loops := [⟨1, 1, 3⟩], pc := 3 }; t.myEng.loops = ⟨1, 1, 3⟩ :: [] ∧ (3 : Nat) = t.myEng.pc) ∧
    (let t := s fun c => { c with loops := [⟨1, 2, 3⟩], pc := 3 }; t.myEng.loops = ⟨1, 2, 3⟩ :: [] ∧ (3 : Nat) = t.myEng.pc) ∧
    (s id).myEng.attrs.hasW = false ∧ (s id).myEng.attrs.hasS = false ∧
    (s fun c => { c with attrs := { c.attrs with hasW := true, hasS := true } }).myEng.attrs.hasS = true := by decide +kernel

/-- A state with the fuses of a part; an MZ5-A hides site 4 and has no logical dies 4 to 7. -/
def onPart (p : Part) (s : State) : State :=
  { s with fuse := { s.fuse with part := p, concDie := if p = .mz5a then 0x14_FFFF_3210 else s.fuse.concDie } }

/-- LaunchWordsAndCommandStarts: a part with the units of the launch words, and parts without them. -/
theorem wit_places_on : let f (p : Part) : Bool × Bool :=
      (decide ((onPart p (start .K id)).fuse.part ≠ .mz5a), decide ((onPart p (start .K id)).fuse.part ≠ .mz9s))
    f .mz9a = (true, true) ∧ f .mz9s = (true, false) ∧ f .mz5a = (false, true) ∧ (start .K id).mySeat.inst.phase ≠ .faulted := by decide +kernel

/-- LaunchWordsAndCommandStarts: the last place of a queue, six arguments, a wait for a number that has been pushed, and a NOTE. -/
theorem wit_places :
    let s := start .K (matrix fun c => { c with
      stack := [1, 2, 3, 4, 5, 6], queue := List.replicate 15 (cmd 20 0),
      attrs := { c.attrs with hasW := true, w := true, wacc := 0, hasS := true, note := true } })
    s.myEng.queue.length < 16 ∧ s.gated = false ∧ 6 ≤ s.myEng.stack.length ∧
    (s.myEng.attrs.w = true → s.myEng.attrs.wacc = 0 ∨ s.myEng.attrs.wacc = s.myCore.flags[s.myEng.attrs.wflag].pushed ∨
      accFollows s.myEng.attrs.wacc s.myCore.flags[s.myEng.attrs.wflag].pushed = true) ∧
    (s.myEng.attrs.note = true → s.mySeat.qRoom (returnQueue s.turnE) s.now 1 = true) := by decide +kernel

/-- LaunchWordsAndCommandStarts: MZERO a0 at the head of seat 0's matrix queue. -/
theorem wit_command_start : let c : Cmd := { cmd 20 0 with started := false, args := [] }
    let s := start .K (matrix fun e => { e with queue := [c] })
    s.engineHeld seat0.core = false ∧ s.startable seat0 .matrix = some (0, c) ∧ s.otherFirst seat0 .matrix c = false ∧
    c.instr .matrix = some (.mzero 0 false) ∧ s.matrixStart seat0 (.mzero 0 false) c.args = .ok ⟨[], [], [], 4, s⟩ ∧
    (((⟨[], [], [], 4, s⟩ : Start).st.getSeat seat0).getEng .matrix).queue[0]? = some c := by
  refine ⟨by decide +kernel, by decide +kernel, by decide +kernel, by decide +kernel, rfl, by decide +kernel⟩

/-- LaunchWordsAndCommandStarts: CFILL at the head of the copy queue, of n bytes, with its own progress record and without; ASTAT at the head
of the query queue. -/
theorem wit_other_starts :
    let c (n : Word) : Cmd := { cmd 19 0 with started := false, args := [7, n, 0x100] }
    let s (n : Word) (pr : Progress) := start .K (engine .copy fun e => { e with queue := [c n], progress := pr })
    let g : CopyArgs := ⟨0, false, none, 0⟩
    let p (n : Word) := copyPlan .fill g (c n).args
    let own : Progress := ⟨true, 1, 0, 0, 32⟩
    let none' : Progress := ⟨false, 0, 0, 0, 0⟩
    let ok (n : Word) (pr : Progress) : Bool := !(s n pr).engineHeld 0 && decide ((s n pr).startable seat0 .copy = some (0, c n)) &&
      !(s n pr).otherFirst seat0 .copy (c n) && decide ((c n).instr .copy = some (.cfill g)) &&
      decide (copyKind (.cfill g) = some (.fill, g)) &&
      match (s n pr).copyStart seat0 (p n) with
      | .ok (l, u) => decide (l = []) && decide (((u.getSeat seat0).getEng .copy).queue[0]? = some (c n))
      | _ => false
    let d : Cmd := { cmd 19 0 with started := false, args := [0x100, 0] }
    let q := start .K (engine .query fun e => { e with queue := [d] })
    (ok 64 none' = true ∧ ok 64 own = true ∧ ok 0 none' = true ∧ (p 64).len ≠ 0 ∧ (p 0).len = 0) ∧
    (q.engineHeld 0 = false ∧ q.startable seat0 .query = some (0, d) ∧ q.otherFirst seat0 .query d = false ∧
      d.instr .query = some .astat ∧ q.core[(0 : Fin 904)].queryAt ≠ q.core[(0 : Fin 904)].live + 1 ∧
      (match q.queryStart seat0 .astat d with
        | .ok p => decide (((p.st.getSeat seat0).getEng .query).queue[0]? = some d)
        | _ => false) = true) := by decide +kernel

/-- CommandsSignalTheirFlags: a command whose release is held by a write on its way, and one whose is not. -/
theorem wit_signals : let c : Cmd := { cmd 16 0 with moved := true, attr := { Attrs.reset with hasS := true, s := true, sflag := 63, rel := some .device } }
    let s : State := start .K (engine .copy fun e => { e with queue := [c] })
    let f : Flight := { flight with src := .engine 0 .copy 0 1 }
    (((s.getSeat ⟨0, 0⟩).getEng .copy).queue[0]? = some c ∧ c.started = true ∧ c.moved = true ∧ s.engineHeld 0 = false) ∧
    c.attr.rel = some .device ∧ f ∈ ({ s with flights := [f] } : State).flights ∧ f.src = .engine 0 .copy 0 c.acc ∧ f.performedAt .device = false ∧
    s.flights = [] := by
  decide +kernel

/-- MzeroClearsItsAccumulator, MatrixRegisterCommands: each of the commands, started and due; an MMA of each family, MDRAIN to a vector
register and to memory, no landed result naming a register; a store to the own slice, and one elsewhere. -/
theorem wit_matrix_commands :
    let g (k : Word) (c : Cmd) := (start .K (matrix fun e => { e with queue := [c] })).modSeat seat0 fun a =>
      { a with tile := { a.tile with matgeom := k } }
    let s (c : Cmd) := g 0 c
    let ok (c : Cmd) (i : Instr) : Bool := decide ((((s c).getSeat seat0).getEng .matrix).queue[0]? = some c) && c.started && !c.moved &&
      c.todo.isEmpty && decide (c.due ≤ (s c).core[seat0.core].live) && decide (c.attr.rel = none) && !(s c).engineHeld seat0.core &&
      decide (c.instr .matrix = some i)
    let rows (n : Nat) (c : Cmd) : Cmd := { c with data := List.replicate n 1 }
    let fam (k : Word) : Nat × Nat := let v := ((g k (cmd 18 0)).getSeat seat0).tile.matgeom; (geomFamily (geoFmt v false), geomFamily (geoFmt v true))
    (ok (cmd 20 0x380) (.mzero 3 true) = true ∧ ok (cmd 23 0x0D2) (.mgeom 3 4 true false) = true ∧ ok (cmd 22 0x300) (.msrec true true) = true ∧
      ok (cmd 22 0x200) (.msrec true false) = true ∧ ok (cmd 19 0x3E0) (.mhad 7 3) = true ∧
      ok (rows 64 (cmd 16 0x360)) (.mldt 6 true true) = true ∧ ok (rows 128 (cmd 16 0)) (.mldt 0 false false) = true) ∧
    (ok (cmd 17 0x320) (.mstt 6 false true) = true ∧ ok (rows 192 (cmd 18 0x380)) (.mma 3 true) = true ∧
      ok (rows 384 (cmd 18 0x380)) (.mma 3 true) = true ∧ ok (rows 192 (cmd 21 0x25A)) (.mdrain ⟨2, .e5m2, true, false, true, false⟩) = true ∧
      ok (rows 192 (cmd 21 0x231)) (.mdrain ⟨2, .bf16, false, false, false, true⟩) = true ∧ 8 * drainBytes .e5m2 ≤ 16) ∧
    (fam 0x3B8 = (3, 3) ∧ fam 0x220 = (2, 2) ∧ fam 0x88 = (1, 1)) ∧
    ((s (cmd 18 0)).getSeat seat0).c.landed = [] ∧
    (pathLen (standOf 0) own.home = 0 ∧ own.isLocal = true ∧ Memory.wf (s (cmd 18 0)).mem = true ∧
      (s (cmd 18 0)).writeAnswer .store own 64 false = .ok ∧ own.key + 64 ≤ physBase) ∧ pathLen (standOf 0) page.home ≠ 0 := by decide +kernel

/-- ForkJoinAndFlagWaits: a program that runs; one that faulted; one that has ended, with and without commands left; none forked. -/
theorem wit_fork_join : let s (f : EngineCtx → EngineCtx) := start .K (matrix f)
    let c (f : EngineCtx → EngineCtx) := (s f).mySeat.getEng .matrix
    (c fun e => { e with running := true }).running = true ∧ (c id).running = false ∧
    (let d := c fun e => { e with forked := true, faulted := true }; d.forked = true ∧ d.faulted = true) ∧
    (let d := c fun e => { e with forked := true, queue := [cmd 20 0] }; d.forked = true ∧ d.faulted = false ∧ d.queue ≠ []) ∧
    (let d := c fun e => { e with forked := true }; d.forked = true ∧ d.faulted = false ∧ d.running = false ∧ d.queue = []) ∧
    (c id).forked = false ∧ fld (s id).myCore.wrecBase 0 4 < 4 ∧ (s id).myCore.mayMeet 0 = true ∧ (s id).me.wait = .none ∧
    (s id).gated = false := by decide +kernel

/-- ForkJoinAndFlagWaits: a command at the head that waits for number 5, which its flag has not reached, and for 0. -/
theorem wit_flag_wait : let c (n : BitVec 32) : Cmd := { cmd 20 0 with started := false, attr := { Attrs.reset with hasW := true, w := true, wacc := n } }
    let s (n : BitVec 32) := start .K (matrix fun e => { e with queue := [c n] })
    let ok (n : BitVec 32) : Bool := decide ((((s n).getSeat ⟨0, 0⟩).getEng .matrix).head = some (0, c n)) && (c n).attr.w && !(c n).met &&
      !(((s n).getSeat ⟨0, 0⟩).getEng .matrix).frozen && !(s n).engineHeld 0 && decide (fld (s n).core[(0 : Fin 904)].wrecBase 0 4 < 4) &&
      (s n).core[(0 : Fin 904)].mayMeet (4 + EngineId.idx .matrix)
    ok 0 = true ∧ ok 5 = true ∧
    ¬((5 : BitVec 32) = 0 ∨ (s 5).core[(0 : Fin 904)].flags[(c 5).attr.wflag].done = 5 ∨
      accFollows 5 (s 5).core[(0 : Fin 904)].flags[(c 5).attr.wflag].done = true) := by decide +kernel

/-- SyncWordsAndSwait: SARM with and without a flag, an arrival, and SWAIT. -/
theorem wit_sync :
    let s := start .K (x .K 1 0x100 ∘ x .K 2 0xFFFFFFFF)
    let q : Place := windowPlace 0x100 false
    let a : Arrival := ⟨0x100, 64, .hub 0, none⟩
    let t : State := { start .K id with arrivals := [a] }
    (Ready s [.x 1, .x 2] [.x 0] ∧ Ready s [.x 1, .x 2] [.x 5] ∧ s.gated = false ∧ s.me.wait = .none ∧ s.monitors = [] ∧
      s.syncOperand (s.peek (.x 1)) .wr true = .ok q ∧ inOwn s.turn.ref (s.peek (.x 1)) = true ∧ s.drained q (s.peek (.x 1)) 16 = true ∧
      s.answer q 16 true = .ok ∧ q.isLocal = true ∧ Memory.wf s.mem = true ∧ q.key + 16 ≤ physBase ∧ q.skew = false ∧ s.isC = false) ∧
    (t.arrivals[0]? = some a ∧ (windowHome a.key).pkg = Config.thisPackage ∧ t.monitors = [] ∧ a.key + 16 ≤ physBase ∧
      Memory.wf t.mem = true ∧ t.answer (windowPlace a.key false) 16 true = .ok) ∧
    s.syncOperand (s.peek (.x 1)) .rd false = .ok q := by
  refine ⟨⟨⟨?_, ?_⟩, ⟨?_, ?_⟩, ?_, ?_, ?_, rfl, ?_⟩, ?_, rfl⟩ <;> decide +kernel

/-- SyncWordsAndSwait: SWAIT at its home, where the generation has passed, or not and a monitor is free; with its answer, its monitor armed
or not; with its generation passed, and cut. -/
theorem wit_swait :
    let q : Place := windowPlace 0x100 false
    let l (a : Option Answer) : LoadReq := { req .K (.swait 0) with place := q, size := 16, got := a }
    let h (g : Byte) : State := { start .K fun a => { a with loads := [l none] } with mem := [(0x108, g)] }
    let s (w : Wait) (m : List Monitor) (a : Answer) (c : Option Latch) : State := { start .K fun st =>
      { st.modStr .K fun t => { t with wait := w } with loads := [l (some a)], cut := { st.cut with latch := c } } with monitors := m }
    let w : Wait := .swait 0x100 0 (.x 5) [.x 1, .x 2] 90
    let me : Who := ⟨seat0, .K⟩
    let ok (m : List Monitor) : Bool := decide ((s w m ⟨.ok, 0, false⟩ none).nthAnswer me 0 = some (l (some ⟨.ok, 0, false⟩))) &&
      decide ((s w m ⟨.ok, 0, false⟩ none).answerNow seat0 (l (some ⟨.ok, 0, false⟩)) = some ⟨.ok, 0, false⟩) &&
      decide (((s w m ⟨.ok, 0, false⟩ none).getStr me).wait = w) && !(s w m ⟨.ok, 0, false⟩ none).coreHeld 0
    let e (w : Wait) (c : Option Latch) : State := start .K fun a => { a.modStr .K fun t => { t with wait := w } with cut := { a.cut with latch := c } }
    ((h 1).answerReq seat0 (l none) q 16 = .ok ∧ ((syncGen ((h 1).dataAt q 16) : Int) - (0 : Word).toNat) % 2 ^ 32 = 1 ∧
      ((syncGen ((h 2).dataAt q 16) : Int) - (2 : Word).toNat) % 2 ^ 32 = 0 ∧ (h 2).monitorFree (l none) = true) ∧
    ok [] = true ∧ ok [⟨me, q⟩] = true ∧
    ((e (.passed 1 (.x 5) [.x 1, .x 2] 90) none).classOk [.x 1, .x 2] [.x 5] = true ∧ (e w none).myCore.mayMeet 1 = true ∧
      fld (e w none).myCore.wrecBase 0 4 < 4 ∧ (e (.passed 1 (.x 5) [.x 1, .x 2] 90) none).me.wait = .passed 1 (.x 5) [.x 1, .x 2] 90) ∧
    (e w (some ⟨1, 0, false, false⟩)).me.wait = w ∧ (e w (some ⟨1, 0, false, false⟩)).mySeat.cut.latch.isSome = true ∧
    (e w (some ⟨1, 0, false, false⟩)).mySeat.arming .K = false := by decide +kernel

/-- A folio of stack 0, a slice of it of one token, and an append to it. -/
def folio : Place := ⟨physBase, ⟨0, 0, none⟩, some 0, false⟩

/-- The query command of an append, or of an AQUERY, with the sources of an append's rows and the query vector of a slice. -/
def jobOf (ap : Bool) : Cmd := { cmd (if ap then 17 else 18) 0 with
  args := if ap then [0x100, 0x200, 0x300, 0] else List.replicate 6 0, data := if ap then [] else List.replicate 64 0 }

/-- A job for it, with what its controller has begun. -/
def job (ap : Bool) (o : Option JobOut) : CtlJob := ⟨0, 0, 1, ap, none, folio, 63, 1, some own, 100, o⟩

/-- A folio's header of FP16 or BF16, D = 64, with a fill mark of n / 2. -/
def header (n : Byte) : List Host.Cell := [(physBase, 10), (physBase + 1, n)]

/-- A seat with that job, its stack up or down. -/
def withJob (ap down : Bool) (o : Option JobOut) : State :=
  { start .K (engine .query fun e => { e with queue := [jobOf ap] }) with
    jobs := [job ap o], keyStat := 1, stack := State.reset.stack.set 0 { Stack.reset with down := down } }

/-- StackControllerJobs: a slice that begins, in a stack that is shut down, with a header in error, with none and with one that fits. -/
theorem wit_slice_begins :
    let c := jobOf false
    let j := job false none
    let ok (s : State) : Bool := decide (s.jobs[0]? = some j) && decide (s.jobCmd j = some c) && decide (j.at' ≤ s.core[j.core].cycle)
    let ready (s : State) : Bool := ok s && s.jobReady 0 j && s.unitReady (unitOf folio) && !s.stackDown folio &&
      decide (s.stackBand folio ≠ 3) && !s.quadRetired folio
    let up := withJob false false none
    let h : State := { up with mem := header 128 }
    (j.append = false ∧ j.head = none ∧ c.instr .query = some (.aquery false 0 0) ∧ j.dest = some own) ∧
    (ok (withJob false true none) = true ∧ (withJob false true none).stackDown folio = true) ∧
    (ready { up with badUnits := [physBase / 32] } = true ∧
      ({ up with badUnits := [physBase / 32] } : State).answer folio 8 true ≠ .ok) ∧
    (ready up = true ∧ up.answer folio 8 true = .ok ∧ headerValid (up.dataAt folio 8) = false) ∧
    (ready h = true ∧ h.answer folio 8 true = .ok ∧ headerValid (h.dataAt folio 8) = true ∧ h.dataAt folio 8 / 2 ^ 4 % 2 = 0 ∧
      h.dataAt folio 8 / 2 ^ 7 % 4 = 0) := by decide +kernel

/-- StackControllerJobs: a slice at work, in a stack that is shut down; past its tokens; at a unit in a token's midst, and at its last, with
an error and without; its time running; its record on its way, too early and in time. -/
theorem wit_slice :
    let x : SliceScan := ⟨⟨0xFF800000, 0, List.replicate 64 0⟩, 0, 0, 255, 0⟩
    let scan (n stop k : Nat) : JobOut := .scanning 0 n stop (List.replicate k (.inl 0)) x
    let ok (down : Bool) (o : JobOut) : Bool := let s := withJob false down (some o)
      decide (s.jobs[0]? = some (job false (some o))) && decide (s.jobCmd (job false (some o)) = some (jobOf false)) &&
        decide (s.stackDown folio = down)
    let last (o : Nat ⊕ Nat) : List (Nat ⊕ Nat) := List.replicate 7 (.inl 0) ++ [o]
    let o : JobOut := .leaving 96 7
    let s := withJob false false (some o)
    (ok true (scan 63 64 0) = true ∧ ok false (scan 64 64 0) = true ∧ ok false (scan 63 64 0) = true ∧ ok false (scan 63 64 7) = true ∧
      ok false (.running 0 7) = true ∧ ok false (.running 101 7) = true ∧ ok false (.leaving 97 7) = true ∧ ok false o = true) ∧
    (unitError (last (.inl 1)) = none ∧ unitError (last (.inr 5)) = some 5 ∧ (jobOf false).data.length = 64 ∧ x.acc.acc.length = 64) ∧
    (s.core[(0 : Fin 904)].cycle < 97 + 4 ∧ 96 + 4 ≤ s.core[(0 : Fin 904)].cycle ∧ Memory.wf s.mem = true ∧
      s.writeAnswer .store own (64 + 4 * (64 * 2 ^ 0)) false = .ok ∧ own.isLocal = true ∧ own.key + (64 + 4 * (64 * 2 ^ 0)) ≤ physBase ∧
      own.skew = false) ∧
    (x.acc.m < 2 ^ 32 ∧ x.acc.s < 2 ^ 32 ∧ x.scanned < 2 ^ 8 ∧ x.excl < 2 ^ 8 ∧ x.first < 2 ^ 8 ∧ x.bank < 2 ^ 10) := by decide +kernel

/-- StackControllerJobs: an append that begins: in a stack that is shut down, at a header in error, and well; one whose time runs, and its
status on its way, too early, and in time with a place for it and without. -/
theorem wit_append_job :
    let ok (s : State) (j : CtlJob) : Bool := decide (s.jobs[0]? = some j) && decide (s.jobCmd j = some (jobOf true)) &&
      j.append && decide (j.head = none)
    let ready (s : State) : Bool := ok s (job true none) && s.jobReady 0 (job true none) && s.appendFree (job true none)
    let up := withJob true false none
    let bad : State := { up with badUnits := [physBase / 32] }
    let o : JobOut := .leaving 96 7
    let s := withJob true false (some o)
    let j : CtlJob := { job true (some o) with dest := none }
    (ready (withJob true true none) = true ∧ (withJob true true none).stackDown folio = true) ∧
    (ready bad = true ∧ bad.answer folio 8 true ≠ .ok ∧ bad.stackDown folio = false) ∧
    (ready up = true ∧ up.answer folio 8 true = .ok ∧ up.stackDown folio = false) ∧
    ok (withJob true false (some (.running 0 7))) (job true (some (.running 0 7))) = true ∧
    ok (withJob true false (some (.leaving 97 7))) (job true (some (.leaving 97 7))) = true ∧
    (ok s (job true (some o)) = true ∧ 96 + 4 ≤ s.core[(0 : Fin 904)].cycle ∧ s.core[(0 : Fin 904)].cycle < 97 + 4 ∧ Memory.wf s.mem = true ∧
      s.writeAnswer .store own 8 false = .ok) ∧
    (ok { s with jobs := [j] } j = true ∧ j.dest = none ∧ own.isLocal = true ∧ own.key + 8 ≤ physBase ∧ own.skew = false) := by decide +kernel

/-- StackControllerJobs: an append at work: a source to read, in the own slice and beyond it; its sources read, with a header that is not
valid, a full folio, a row unit to write, and FILL to advance, after its 40 ns and before; in a stack that is shut down. -/
theorem wit_append :
    let s (down : Bool) (n : Byte) (o : JobOut) : State := { withJob true down (some o) with mem := header n }
    let h (n : Byte) : Nat := (s false n (.running 0 0)).dataAt folio 8
    let src (k : Nat) : List Nat := List.replicate k 5
    let ok (down : Bool) (n : Byte) (o : JobOut) : Bool := decide ((s down n o).jobs[0]? = some (job true (some o))) &&
      decide ((s down n o).jobCmd (job true (some o)) = some (jobOf true)) && decide ((s down n o).stackDown folio = down)
    let units : Nat := 64 * 2 ^ (h 0 / 2 ^ 7 % 4) * (if h 0 / 2 ^ 4 % 2 = 1 then 1 else 2) / 32
    let q (w : Word) : Bool := inOwn seat0 w && decide ((s false 0 (.running 0 0)).answer (windowPlace w.toNat false) 32 false = .ok)
    let row : JobOut := .moving 0 (h 126) (src 8) 0
    let last : JobOut := .moving 0 (h 126) (src 8) 8
    (headerValid (h 0) = true ∧ units = 4 ∧ headerValid (h 128) = true ∧ h 128 / 2 ^ 9 % 128 = 64 ∧ headerValid (h 126) = true ∧
      h 126 / 2 ^ 9 % 128 = 63 ∧ headerValid 0 = false) ∧
    (ok false 126 (.moving 0 (h 126) (src 3) 0) = true ∧ ok false 126 (.moving 0 (h 126) (src 7) 0) = true ∧
      q ((jobOf true).args.getD 2 0 + 96) = true ∧ q ((jobOf true).args.getD 1 0 + 96) = true ∧ q 0x400000 = false) ∧
    ok false 0 (.moving 0 0 (src 4) 0) = true ∧ ok false 128 (.moving 0 (h 128) (src 8) 0) = true ∧
    (ok false 126 row = true ∧ (s false 126 row).folioScanned (job true (some row)) = false ∧
      (s false 126 row).writeAnswer .store (folioAt folio (0x400 + 0x400 * 63)) 32 true = .ok ∧ Memory.wf (s false 126 row).mem = true) ∧
    (ok false 126 last = true ∧ (s false 126 last).fwdDone (jobOf true) = true ∧ (s false 126 last).writeAnswer .store folio 8 true = .ok) ∧
    ok true 126 last = true ∧ (s false 126 last).timebase.toNat < 1 ∧
    (folio.isLocal = true ∧ folio.skew = false ∧ physBase ≤ folio.key ∧ kindOf folio.key = 0 ∧ folio.key % 2 ^ 17 = 0) := by decide +kernel

/-- StackControllerJobs: AFOLIO's check; its job at the controller, ready and not, its stack up and down; and gone again. ASTAT at its end. -/
theorem wit_query_words :
    let j (o : Option JobOut) : CtlJob := { job false o with head := some 10, dest := none }
    let s (down : Bool) (o : Option JobOut) : State := { withJob false down none with jobs := [j o] }
    let ok (s : State) (j : CtlJob) : Bool := decide (s.jobs[0]? = some j) && decide (s.jobCmd j = some (jobOf false))
    let early : State := { s false none with jobs := [{ j none with at' := 101 }] }
    let a : Cmd := { cmd 19 0 with args := [0x100, 23], dest := [(own, 64)] }
    let e : State := start .K (engine .query fun c => { c with queue := [a] })
    (match (paged (start .K id)).folioCheck seat0 0x20000000000 .wr with | .ok _ => true | _ => false) = true ∧
    ((∀ d ∈ [false, true], ok (s d none) (j none) = true ∧ (s d none).jobReady 0 (j none) = true ∧ (s d none).appendFree (j none) = true ∧
        (s d none).stackDown folio = d) ∧ (s false none).writeAnswer .store folio 64 true = .ok ∧ Memory.wf (s false none).mem = true) ∧
    (ok early { j none with at' := 101 } = true ∧ early.jobReady 0 { j none with at' := 101 } = false) ∧
    ok (s false (some (.leaving 96 0))) (j (some (.leaving 96 0))) = true ∧
    ∀ p ∈ [Part.mz9a, .mz5a], let t := onPart p e; ((t.getSeat seat0).getEng .query).queue[0]? = some a ∧ a.started = true ∧ a.moved = false ∧
      a.due ≤ t.core[(0 : Fin 904)].live ∧ t.queryEnded seat0 a = true ∧ (t.getSeat seat0).mayCount t.core[(0 : Fin 904)].cycle = true ∧
      a.attr.rel = none ∧ t.engineHeld 0 = false ∧ a.instr .query = some .astat ∧ own.isLocal = true ∧ own.key + 64 ≤ physBase ∧
      own.skew = false ∧ Memory.wf t.mem = true ∧ t.writeAnswer .store own 64 false = .ok ∧ (a.args.getD 1 0).toNat < 24 ∧
      t.stackHere 23 = decide (p = .mz9a) ∧ ∀ k : Fin 24, t.stack[k].refi < 2 ^ 16 := by decide +kernel

/-! ## Witnesses: system registers, translation, boards -/

/-- Stream Y of die 0. -/
def startY (f : State → State) : State := f { State.reset with bootStat := 1, turn := ⟨sysRef 0, .K⟩ }

/-- The first address of die 0's board region, and of its hub SRAM. -/
def board : Nat := 0x1C000000

/-- SystemRegisters: a number that is not defined; one that K may read but not write, one it may write; HUB_DATA with a register selected
(TRAP_VEC of core 0), and with none. -/
theorem wit_system_registers : let s := start .K id
    let h (i : Word) : State := startY fun s => { s with die := s.die.set 0 { Die.reset with hubIdx := i } }
    sysregDefined 0x0A00 = false ∧ sysregDefined 0x0000 = true ∧ sysregDefined 0x0910 = true ∧
    (Ready s [] [.x 1] ∧ Ready s [.x 1] [] ∧ srrAllowed false 0x0000 = true ∧ s.srwAllowed ⟨seat0, .K⟩ 0x0000 = false) ∧
    (s.srwAllowed ⟨seat0, .K⟩ 0x0400 = true ∧ s.srwAllowed ⟨seat0, .C⟩ 0x0400 = false ∧ s.srwAllowed ⟨seat0, .C⟩ 0x0300 = true) ∧
    srrAllowed false 0x08F2 = false ∧ srrAllowed true 0x08F2 = true ∧
    ((h 0x0400).hubSelect 0 = some (.reg ⟨seat0, .K⟩ 0x0400) ∧ (h 0x0400).hubWritable 0 (.reg ⟨seat0, .K⟩ 0x0400) = true ∧
      (h 0x0400).srwAllowed ⟨sysRef 0, .K⟩ 0x08F2 = true) ∧
    ((h 0x0401).hubSelect 0 = some (.reg ⟨seat0, .K⟩ 0x0401) ∧ (h 0x0401).hubWritable 0 (.reg ⟨seat0, .K⟩ 0x0401) = false) ∧
    (h 0x08F0).hubSelect 0 = none := by
  unfold Ready; decide +kernel

/-- LexiconInstructions: a policy code that exists, and the first that does not. -/
theorem wit_lexicon : Ready (start .K (x .K 1 2)) [.x 1] [] ∧ ¬2 < ((start .K (x .K 1 2)).peek (.x 1)).toNat ∧
    2 < ((start .K (x .K 1 3)).peek (.x 1)).toNat ∧ Ready (start .K id) [] [.x 1] := by unfold Ready; decide +kernel

/-- TranslationKeysAndCode: operands; a TLBI on its way; TLBFENCE with nothing on its way, and with one that no TLB has seen; the record
address misaligned, outside the hub, and in it with equal halves and with halves that differ; a slice that runs under slot 0's key. -/
theorem wit_keys :
    let s (a : Word) (m : List Host.Cell) : State := startY fun s => { s.modMySeat (x .K 1 a) with mem := m }
    let t : Shoot := ⟨0, none, none, none⟩
    let u : State := { s 0 [] with shoots := [t] }
    let p := windowPlace board false
    Ready (s 0 []) [.x 1, .x 2] [] ∧ u.shoots[0]? = some t ∧ (∀ x ∈ (s 0 []).shoots, x.die = 0 → (s 0 []).shootDone x = true) ∧
    ¬(∀ x ∈ u.shoots, x.die = coreDie u.turn.ref.core → u.shootDone x = true) ∧ (withJob false false (some (.running 9 7))).keyBusy 0 = true ∧
    ((s 65 []).peek (.x 1)).toNat % 64 ≠ 0 ∧
    (((s 64 []).peek (.x 1)).toNat % 64 = 0 ∧ inHubOf (coreDie (s 64 []).turn.ref.core) ((s 64 []).peek (.x 1)) = false) ∧
    (let v := s 0x1C000000 [(board + 63, 1)];
      (v.peek (.x 1)).toNat % 64 = 0 ∧ inHubOf (coreDie v.turn.ref.core) (v.peek (.x 1)) = true ∧ v.drained p (v.peek (.x 1)) 64 = true ∧
      v.answer p 64 true = .ok ∧ v.monitors = [] ∧ Memory.wf v.mem = true ∧ v.keyBusy 0 = false ∧ (BitVec.ofNat 512 (v.dataAt p 64)).extractLsb' 0 256 = 0 ∧
      (BitVec.ofNat 512 (v.dataAt p 64)).extractLsb' 256 256 ≠ 0) ∧
    (BitVec.ofNat 512 ((s 0x1C000000 []).dataAt p 64)).extractLsb' 0 256 = (BitVec.ofNat 512 ((s 0x1C000000 []).dataAt p 64)).extractLsb' 256 256 := by
  unfold Ready; decide +kernel

/-- TranslationKeysAndCode: CAPQ's operands; CODESYNC as it starts, while the stores issued before it are out, and in the wait for fills. -/
theorem wit_codesync : let s (f : Wait) := start .K fun a => a.modStr .K fun t => { t with wait := f }
    Ready (start .K id) [] [.x 1] ∧ (start .K id).pFree ⟨(7 : Fin 8).val, by omega⟩ = true ∧
    ((start .K id).me.wait = .none ∧ (start .K id).xfenceMet (start .K id).myCore.cycle = true ∧ (start .K id).mySeat.cmds = []) ∧
    (s (.codesync 5 [] none)).me.wait = .codesync 5 [] none ∧ (s (.codesync 5 [] (some 3))).me.wait = .codesync 5 [] (some 3) ∧
    (s (.codesync 5 [] (some 3))).codeAcquired 3 = true := by
  unfold Ready; decide +kernel

/-- A seat whose first window register grants every right to the hub windows of the board region. -/
def windowed (a : Seat) : Seat := { a with sys := { a.sys with win := a.sys.win.set 0 0xE0001C400000F } }

/-- A board of 64 slots whose header word 1 has its mark, in edition 0. -/
def boards : List Host.Cell := [(board + 8, 0xB5)]

/-- PviewAndRounds: PVIEW at a board with a valid header, and at one without. -/
theorem wit_pview :
    let s (m : List Host.Cell) : State := { start .K (x .K 1 0x1C000000 ∘ windowed) with mem := m }
    let p := windowPlace board false
    (∀ m ∈ [boards, []], (s m).classOk [.x 1, .x 2] [.x 4] = true ∧ (s m).blocked [.x 1, .x 2, .x 3] [.x 4] = none ∧ (s m).gated = false ∧
      (s m).me.wait = .none ∧ isWindow ((s m).two (.x 1) (.x 2)).1 = true ∧ inBoardRegion ((s m).two (.x 1) (.x 2)).1.toNat = true ∧
      p.isLocal = true ∧ (s m).drained p 0x1C000000 64 = true ∧ (s m).answer p 64 true = .ok ∧ (s m).two (.x 1) (.x 2) = (0x1C000000, 0) ∧
      (s m).windowCheck (s m).turn.ref board .at' = none) ∧
    (s boards).check (s boards).turn 0x1C000000 64 .at' false false = (.ok p, s boards) ∧
    boardValid (BitVec.ofNat 64 ((s boards).dataAt p 64 / 2 ^ 64 % 2 ^ 64)) = true ∧
    boardValid (BitVec.ofNat 64 ((s []).dataAt p 64 / 2 ^ 64 % 2 ^ 64)) = false ∧
    (s boards).relMet (s boards).turn .die (s boards).seq = true := by
  refine ⟨by decide +kernel, check_window (va := 0x1C000000) (by decide) (by decide) (by decide +kernel) (by decide), by decide +kernel,
    by decide +kernel, by decide +kernel⟩

/-- PviewAndRounds: one post that has arrived, at a board that refuses it; beyond its last slot; of another edition; at its last slot, free
and posted. -/
theorem wit_round :
    let w : Who := ⟨seat0, .K⟩
    let p (xk : Word) : Post := ⟨7, some w, 0, 0, board, xk, 5, 0xB5, [], false⟩
    let s (m : List Host.Cell) (xk : Word) : State :=
      { start .K fun a => a.modStr .K fun t => { t with wait := .board 7 (.x 4) 3 [] } with mem := m, posts := [p xk] }
    let ok (m : List Host.Cell) (xk : Word) : Bool := decide ((s m xk).arrivedPosts board [] = [p xk]) &&
      decide (((s m xk).getStr w).wait = .board (p xk).id (.x 4) 3 []) && Memory.wf m
    (ok boards 63 = true ∧ ok [] 63 = true ∧ ok boards 64 = true ∧ ok boards 0x10000003F = true ∧ (s boards 63).monitors = [] ∧
      (s boards 63).coreHeld 0 = false ∧ (p 63).full = false ∧ w.stream ≠ .C ∧ HomeUp (s boards 63) board ∧ board % 64 = 0 ∧ board + 2 ^ 15 ≤ 2 ^ 41 ∧ board % 2 ^ 22 + 2 ^ 15 ≤ 2 ^ 22) ∧
    ((s [] 63).boardHdr board).refuses (some (callerDie w)) = some 64 ∧
    (let h := (s boards 63).boardHdr board;
      h.refuses (some (callerDie w)) = none ∧ h.slots = (p 64).slot ∧ (p 63).slot + 1 = h.slots ∧ (p 63).edition = h.edition ∧
      (p 0x10000003F).edition ≠ h.edition ∧ (p 0x10000003F).slot < h.slots ∧ h.level + 1 < 2 ^ 32 ∧ h.posted + 1 < 2 ^ 11) ∧
    ((s boards 63).slotState board 63).1 = false ∧
    ((s (boards ++ [(board + 64 + 16 * 63 + 4, 1)]) 63).slotState board 63).1 = true := by unfold HomeUp; decide +kernel

/-- BoardReadsAndResets: a board of edition 0, read at its last slot and beyond, and at a slot in error, and reset in that edition and in
another, by a caller that owns it. -/
theorem wit_boards :
    let s (v : Word) : State := { start .K (x .K 1 0x1C000000 ∘ x .K 2 v ∘ windowed) with mem := boards }
    let p := windowPlace board false
    let slot := windowPlace (board + 64 + 16 * 63) false
    let bad : State := { s 63 with poison := [(board + 64 + 16 * 63) / 8] }
    BoardReady (s 63) [.x 1, .x 2] (.x 3) .rd p ∧ BoardReady (s 0) [.x 1, .x 2] (.x 3) .at' p ∧ BoardReady (s 0) [.x 1] (.x 3) .rd p ∧
    (let h := (s 63).boardHdr ((s 63).two (.x 1) (.x 2)).1.toNat;
      fld ((s 63).two (.x 1) (.x 2)).2 0 32 < h.slots ∧ ¬fld ((s 64).two (.x 1) (.x 2)).2 0 32 < h.slots ∧
      fld ((s 0).two (.x 1) (.x 2)).2 0 32 = h.edition ∧ fld ((s 1).two (.x 1) (.x 2)).2 0 32 ≠ h.edition ∧ h.posted < h.slots ∧
      fld h.d1 55 9 = Config.thisPackage ∧ (s 0).mySeat.inst.q.val = fld h.d1 46 9 ∧ (s 63).answer slot 16 true = .ok) ∧
    (BoardReady bad [.x 1, .x 2] (.x 3) .rd p ∧ bad.answer slot 16 true ≠ .ok) ∧
    (s 0).monitors = [] ∧ Memory.wf (s 0).mem = true ∧ HomeUp (s 0) board ∧ board % 64 = 0 ∧ board % 2 ^ 22 + 2 ^ 15 ≤ 2 ^ 22 := by
  refine ⟨⟨⟨?_, ?_⟩, ?_, ?_, ?_, ?_, ?_⟩, ⟨⟨?_, ?_⟩, ?_, ?_, ?_, ?_, ?_⟩, ⟨⟨?_, ?_⟩, ?_, ?_, ?_, ?_, ?_⟩, ?_,
    ⟨⟨⟨?_, ?_⟩, ?_, ?_, ?_, ?_, ?_⟩, ?_⟩, ?_, ?_, ⟨?_, ?_⟩, ?_⟩
  all_goals first
    | exact check_window (va := 0x1C000000) (by decide) (by decide) (by decide +kernel) (by decide)
    | decide +kernel

/-! ## Witnesses: launches and instances -/

/-- A packet of type 1 for the dies of `mask`, with one FREE field of width 1 and extent 1, and its descriptor at 0x2000. -/
def packet (mask : Nat) : List Word := [BitVec.ofNat 64 (0x101 + mask * 2 ^ 16), 0x2000, 0x50100000000, 0, 0, 0, 0, 0]

/-- The bytes of the doublewords from an address on. -/
def bytesAt (a : Nat) : List Word → List Host.Cell
  | [] => []
  | w :: l => ((List.range 8).filterMap fun k => let b : Byte := w.extractLsb' (8 * k) 8; if b = 0 then none else some (a + k, b)) ++ bytesAt (a + 8) l

/-- A descriptor that shows its mark alone. -/
def descriptor : List Word := List.replicate 17 0 ++ [0x4D5A5444] ++ List.replicate 14 0

/-- Queue 0 of die 0: a ring of 16 slots at 0x1000, enabled, with one packet. -/
def queue0 (f : LaunchQ → LaunchQ) (s : State) : State :=
  { s with die := s.die.set 0 { Die.reset with lq := Die.reset.lq.set 0 (f { LaunchQ.reset with ring := 0x1004, ptr := 1, ctl := 0x400 }) } }

/-- An active launch of queue 0. -/
def launch (dw : List Word) : Launch := ⟨0, dw, descriptor, false, [], [], false, Vector.replicate 8 0, [], []⟩

/-- The running K of seat 0 with queue 0 of die 0, the packet `m` at 0x100 and queue id `b`. -/
def launching (m : List Word) (b : Word) : State := queue0 id { start .K (x .K 1 0x100 ∘ x .K 2 b) with mem := bytesAt 0x100 m }

/-- LaunchEnqueues: a basic packet that names die 0, for queue 0 and for queue 63 of the die; an extended one, of two slots. -/
theorem wit_launch_read :
    let p (k : Nat) : Place := windowPlace (0x100 + 64 * k) false
    let ext : List Word := 0x10102 :: (packet 1).tail ++ List.replicate 8 0
    let ok (m : List Word) (b : Word) (k : Nat) : Bool := let s := launching m b
      s.classOk [.x 1, .x 2] [.x 3] && decide (s.blocked [.x 1, .x 2] [.x 3] = none) && !s.gated &&
      s.drained (p k) (0x100 + 64 * BitVec.ofNat 64 k) 64 && decide (s.answer (p k) 64 s.turn.isY = .ok) &&
      decide ((Fin.ofNat 512 b.toNat).val = fld (s.two (.x 1) (.x 2)).2 6 3 * 64 + fld (s.two (.x 1) (.x 2)).2 0 6)
    let e : State := let s := launching ext 0; (s.noteCorr (some s.turn.ref) (p 0) 64).hear s.turn none (s.heardAt (p 0) 64)
    (ok (packet 1) 0 0 = true ∧ ok (packet 1) 63 0 = true ∧ ok ext 0 0 = true) ∧
    (launching (packet 1) 0).check (launching (packet 1) 0).turn 0x100 64 .rd false false = (.ok (p 0), launching (packet 1) 0) ∧
    (e.check e.turn 0x140 64 .rd false false = (.ok (p 1), e) ∧ e.drained (p 1) 0x140 64 = true ∧ e.answer (p 1) 64 e.turn.isY = .ok) ∧
    (launching (packet 1) 0).dataAt (p 0) 64 % 256 = 1 ∧ (launching ext 0).dataAt (p 0) 64 % 256 = 2 := by
  refine ⟨by decide +kernel, check_window (va := 0x100) (by decide) (by decide) (by decide +kernel) (by decide),
    ⟨check_window (va := 0x140) (by decide) (by decide) (by decide +kernel) (by decide), by decide +kernel, by decide +kernel⟩,
    by decide +kernel, by decide +kernel⟩

/-- LaunchEnqueues: a queue of the system; a die that is quarantined; a task whose code is revoked; with its release held; with room in the
ring, and with none. -/
theorem wit_launch :
    let p := windowPlace 0x100 false
    let s := launching (packet 1) 0
    let full := queue0 (fun l => { l with ptr := 16 }) (start .K id)
    (63 % 64 = 63 ∧ s.turn.isY = false ∧ (0 : Nat) % 64 ≠ 63) ∧
    ((launching (packet 9) 0).dataAt p 64 / 2 ^ 16).testBit 3 = true ∧ ({ launching (packet 9) 0 with quar := 8 } : State).dieUsable 3 = false ∧
    (∀ k < 8, ((decide (k = 0) || ((launching (packet 9) 0).dataAt p 64 / 2 ^ 16).testBit k) && !(launching (packet 9) 0).dieUsable k) = false) ∧
    ({ s with secctr := 1 } : State).revoked 0 0x2000 = some 0 ∧ s.revoked 0 0x2000 = none ∧
    s.dataAt p 64 / 2 ^ 70 % 2 ^ 58 * 64 = 0x2000 ∧ s.launchReleased s.launchSince = true ∧
    (let t := start .K fun a => { a with stores := [store] }; t.launchReleased t.launchSince = false) ∧
    ((s.lq 0).sizeOk = true ∧ (s.lq 0).used + 1 ≤ 2 ^ (s.lq 0).size) ∧ ¬(full.lq 0).used + 1 ≤ 2 ^ (full.lq 0).size ∧
    HomeUp s ((s.lq 0).slot (s.lq 0).tail) ∧ (s.lq 0).slot (s.lq 0).tail + 64 ≤ 2 ^ 41 ∧ s.monitors = [] ∧ Memory.wf s.mem = true := by
  unfold HomeUp; decide +kernel

/-- LevelBarriers: a group of 65537 members and one of 1; an arrival whose generation has come, one whose has not, with and without a latched
cut; none; a BAR that waits. A barrier all of whose members have arrived. -/
theorem wit_barriers :
    let s (e : Word) (l : List BarWait) (c : Option Latch) : State :=
      { start .K fun a => { a with bars := l, cut := { a.cut with latch := c } } with launches := [launch [0x10101, 0, 0x51100000000 + e]] }
    let key := levelKey (headerFields [0x10101, 0, 0x51100000000]) 1 0
    let b : Barrier := ⟨0, 1, key, 0, [0], [], []⟩
    Ready (s 0 [] none) [] [.x 1] ∧ (s 65536 [] none).launchOf 0 = some (launch [0x10101, 0, 0x51100010000]) ∧
    65536 < levelSize' (headerFields [0x10101, 0, 0x51100010000]) 1 ∧ levelSize' (headerFields [0x10101, 0, 0x51100000000]) 1 = 1 ∧
    (s 0 [] none).me.wait = .none ∧ (s 0 [] none).barrierOf 0 1 key = none ∧ (s 0 [⟨1, 1⟩] none).barArrival 0 1 key = some 1 ∧
    ¬((0 : BitVec 32) - 1).toNat < 2 ^ 31 ∧ (s 0 [⟨1, 1⟩] (some ⟨1, 0, false, false⟩)).barArrival 0 1 key = some 1 ∧
    (s 0 [⟨1, 1⟩] (some ⟨1, 0, false, false⟩)).mySeat.cut.latch.isSome = true ∧
    (let t : State := { (s 0 [⟨1, 1⟩] none).modMe fun t => { t with wait := .bar 1 1 } with barriers := [{ b with gen := 1 }] };
      t.me.wait = .bar 1 1 ∧ t.barArrival 0 1 key = some 1 ∧ t.barrierOf 0 1 key = some { b with gen := 1 } ∧
      ((1 : BitVec 32) - 1).toNat < 2 ^ 31) ∧
    (s 0 [] none).barArrival 0 1 key = none ∧ (s 0 [] none).launchReleased (s 0 [] none).launchSince = true ∧
    ({ s 0 [] none with barriers := [b] } : State).barriers[0]? = some b ∧ b.arrived ≠ [] ∧
    levelSize' (headerFields [0x10101, 0, 0x51100000000]) b.level ≤ b.arrived.length + 0 := by
  unfold Ready; decide +kernel

/-- QueueHeads: at the head, a packet of no known type, one without fields, one for a quarantined die, one whose descriptor has no mark, and
a good one. -/
theorem wit_queue_heads :
    let s (dw : List Word) (d : List Word) : State := queue0 id { start .K id with mem := bytesAt 0x1000 dw ++ bytesAt 0x2000 d, quar := 8 }
    let bad0 : List Word := [0x10103, 0x2000, 0x50100000000, 0, 0, 0, 0, 0]
    let bad1 : List Word := [0x10001, 0x2000, 0, 0, 0, 0, 0, 0]
    (∀ dw ∈ [bad0, bad1, packet 9, packet 1], (s dw descriptor).queueFree 0 = true ∧ ((s dw descriptor).lq 0).head = none ∧
      (s dw descriptor).headPacket 0 = some dw) ∧
    ¬(pktType bad0 = 1 ∨ pktType bad0 = 2) ∧ (pktType bad1 = 1 ∧ reservedOk bad1 = false) ∧
    (pktType (packet 9) = 1 ∧ reservedOk (packet 9) = true ∧ rolesOk .mz9a (packet 9) = true ∧ (pktMask (packet 9)).testBit 3 = true ∧
      (s (packet 9) []).dieUsable 3 = false) ∧
    (reservedOk (packet 1) = true ∧ rolesOk .mz9a (packet 1) = true ∧ (s (packet 1) []).fuse.part = .mz9a ∧ ∀ k < 8, (pktMask (packet 1)).testBit k = true → (s (packet 1) []).dieUsable k = true) ∧
    ((s (packet 1) []).hubWords 0 (fld ((packet 1).getD 1 0) 6 58 * 64) 32).map (fun w => fld (w.getD 17 0) 0 32) = some 0 ∧
    (s (packet 1) descriptor).hubWords (qDie 0) (fld ((packet 1).getD 1 0) 6 58 * 64) 32 = some descriptor ∧
    fld (descriptor.getD 17 0) 0 32 = 0x4D5A5444 := by decide +kernel

/-- QueueHeads: activation of a basic packet, of one for no die, of an extended one whose flag has its number, has not, and was never pushed
it. -/
theorem wit_activation :
    let ext (a : Word) : List Word := [0x10102, 0x2000, 0x50100000000, 0, 0, 0, 0, 0, 0x80000000 + a * 2 ^ 32, 0, 0, 0, 0, 0, 0, 0]
    let s (dw : List Word) (w : Option PktWait) (p d : BitVec 32) : State :=
      let t := queue0 (fun l => { l with head := some (dw, descriptor), wait := w }) (start .K id)
      { t with core := t.core.set 0 { t.core[(0 : Fin 904)] with flags := (t.core[(0 : Fin 904)].flags).set 0 ⟨0, p, d, []⟩ } }
    let new : PktWait := ⟨false, 90, 0, false, false⟩
    let ok (dw : List Word) (w : Option PktWait) : Bool := (s dw w 0 0).queueFree 0 && decide (((s dw w 0 0).lq 0).head = some (dw, descriptor)) &&
      decide (((s dw w 0 0).lq 0).wait = w) && (s dw w 0 0).codeAcquired ((s dw w 0 0).lq 0).done
    (ok (packet 1) none = true ∧ ok (packet 0) none = true ∧ ok (ext 5) (some new) = true ∧ ok (ext 5) none = true) ∧
    (pktExt (packet 1) = false ∧ pktMask (packet 1) ≠ 0 ∧ pktMask (packet 0) = 0) ∧ (pktExt (ext 5) = true ∧ pktMask (ext 5) ≠ 0) ∧
    (s (ext 5) (some new) 0 0).waitForward ((ext 5).getD 8 0) = true ∧
    (let t := s (ext 5) (some new) 5 5; t.waitForward ((ext 5).getD 8 0) = false ∧ t.waitForward ((ext 5).getD 9 0) = false ∧
      t.waitMet ((ext 5).getD 8 0) = true ∧ t.waitTurn ((ext 5).getD 8 0) = true ∧ t.waitMet ((ext 5).getD 9 0) = true ∧
      bit ((ext 5).getD 9 0) 31 = false ∧ t.syncMet 0 (ext 5) = true) ∧
    ((s (ext 5) none 5 4).waitForward ((ext 5).getD 8 0) = false ∧ (s (ext 5) none 5 4).waitMet ((ext 5).getD 8 0) = false) := by
  decide +kernel

/-- SeatsAreGrantedAndGivenUp: one launch waits for a seat of die 0; one of its seats stands Faulted. -/
theorem wit_seats : let l := launch (packet 1)
    let s : State := { queue0 id State.reset with launches := [l] }
    let t : State := { start .K fun a => { a with inst := { a.inst with phase := .faulted } } with launches := [l] }
    (s.dieUsable (0 : Fin 8).val = true ∧ s.dieInReset (0 : Fin 8).val = false ∧ s.freeSeat 0 = some seat0 ∧ s.seatWinner 0 seat0 = some (l, 0) ∧
      l.groupFor seat0 = some (0, 0)) ∧
    t.launchOf 0 = some l ∧ seat0.isSys = false ∧ (t.getSeat seat0).inst.phase = .faulted ∧ (t.getSeat seat0).inst.q = 0 := by decide +kernel

/-- InstancesStartAndRetire: a dispatched seat; a seat whose streams have halted, with no cut, its completion held by a write of its engine
and not; with a cut latched, and with one that a proposal makes pending. -/
theorem wit_instances : let l := launch (packet 1)
    let d : State := { start .K fun a => { a with inst := { a.inst with phase := .dispatched } } with launches := [l] }
    let h (c : Option Latch) (st : BitVec 3) (f : List Flight) : State :=
      { start .K fun a => { a with str := a.str.map (fun t => { t with halted := true }), cut := { a.cut with latch := c },
                                   lex := a.lex.set 31 { LexEntry.reset with state := st } } with launches := [l], flights := f }
    let f : Flight := { flight with src := .engine 0 .copy 0 1 }
    let ok (c : Option Latch) (st : BitVec 3) (f : List Flight) : Bool :=
      (h c st f).mayRetire seat0 && decide ((h c st f).launchOf ((h c st f).getSeat seat0).inst.q = some l) &&
        decide (((h c st f).getSeat seat0).lexAt.1 ≠ (h c st f).core[seat0.core].cycle + 1)
    ((d.getSeat seat0).inst.phase = .dispatched ∧ d.dieInReset (coreDie seat0.core).val = false ∧ d.launchOf (d.getSeat seat0).inst.q = some l) ∧
    (ok none 0 [] = true ∧ ok none 0 [f] = true ∧ ok (some ⟨1, 0, false, false⟩) 0 [] = true ∧ ok none 2 [] = true) ∧
    (((h none 0 []).getSeat seat0).cut.latch = none ∧ ((h none 0 []).getSeat seat0).cutPending = false ∧ l.retired.length + 1 = l.instances) ∧
    (h none 0 []).completionHeld seat0 l = false ∧ (h none 0 [f]).completionHeld seat0 l = true ∧
    ((h (some ⟨1, 0, false, false⟩) 0 []).getSeat seat0).cut.latch ≠ none ∧ ((h none 2 []).getSeat seat0).cutPending = true := by decide +kernel

/-- Seat 0 with all four streams at comma 4, map 1, of pass 1, and a latched cut. -/
def atCut (l : Latch) (f : Seat → Seat) : State := start .K fun a => f
  { a with str := a.str.map (fun t => { t with comma := some (4, 1), passes := 1 }), cut := { a.cut with latch := some l },
           eng := a.eng.map fun e => { e with frozen := true } }

/-- CutsAtCommas: all four streams at their comma: with a symbol out of bounds, a pre-emption, a bookmark, each joined and pending, a proposal
with and without a re-timing handler, and nothing more; at two commas; and later than COMMA_LIMIT. -/
theorem wit_cuts :
    let l : Latch := ⟨1, 0, false, false⟩
    let lex (n : BitVec 3) (a : Seat) : Seat := { a with lex := a.lex.set 0 { LexEntry.reset with state := n, policy := 0, p := 8 } }
    let ok (l : Latch) (f : Seat → Seat) : Bool := let t := atCut l f
      let a := t.getSeat seat0
      decide (a.cut.latch = some l) && t.cutMayRun seat0 && a.allReached && !a.allHalted && decide (a.c.pipe = []) &&
        decide (a.lexAt.1 ≠ t.core[seat0.core].cycle + 1) && a.landingsDrained && a.enginesStand && a.scalarsDrained
    let st (f : Seat → Seat) : Seat := (atCut l f).getSeat seat0
    let pend (a : Seat) : Seat := { a with cut := { a.cut with preempt := true, bookmark := true } }
    let vec (a : Seat) : Seat := { a with cut := { a.cut with retimeVec := 0x20000003000 } }
    let off (a : Seat) : Seat := a.modStr .S fun t => { t with comma := some (5, 1) }
    (ok l id = true ∧ ok l (lex 3) = true ∧ ok { l with preempt := true } id = true ∧ ok { l with bookmark := true } id = true ∧
      ok l (lex 2) = true ∧ ok l (lex 2 ∘ vec) = true ∧ ok l off = true ∧ ok l pend = true ∧ ok { l with age := 65536 } id = true) ∧
    ((st id).commasAgree = true ∧ (st id).boundDue = false ∧ (st id).cut.preempt = false ∧ (st id).cut.bookmark = false ∧
      (st id).retimeDue = false ∧ (st id).cut.retimeVec = 0 ∧ ¬(st id).cut.commaLimit.toNat ≤ l.age) ∧
    ((st (lex 3)).boundDue = true ∧ (st (lex 3)).trap.vec = 0) ∧ (st pend).cut.preempt = true ∧
    ((st (lex 2)).retimeDue = true ∧ (st (lex 2)).cut.retimeVec = 0) ∧
    (st (lex 2 ∘ vec)).cut.retimeVec ≠ 0 ∧ (st off).commasAgree = false ∧ (st id).cut.commaLimit.toNat ≤ 65536 := by decide +kernel

/-- CutRequestsAndTimeouts: a seat that runs, and a free one; with a cut latched, all its streams stopped and not; a cut latched for
COMMA_LIMIT cycles, and for one less; the re-timing handler likewise; no cut. -/
theorem wit_timeouts :
    let s (f : Seat → Seat) : Seat := (start .K (f ∘ noC)).getSeat seat0
    let cut (n : Nat) : Seat := s fun a => { a with cut := { a.cut with latch := some ⟨1, n, false, false⟩ } }
    let handler (n : Nat) : Seat := s fun a => { a with trap := { a.trap with info := 12 }, cut := { a.cut with handlerAge := n } }
    (start .K noC).engineHeld seat0.core = false ∧ ((s id).inst.phase = .running ∧ (s id).inst.port = none) ∧
    (State.reset.getSeat seat0).inst.phase = .free ∧
    (((atCut ⟨1, 0, false, false⟩ id).getSeat seat0).allReached = true ∧ (cut 0).cut.latch = some ⟨1, 0, false, false⟩ ∧ (cut 0).allReached = false) ∧
    ((handler 65536).trap.active = true ∧ (handler 65536).trap.kind = true ∧ (handler 65536).cut.commaLimit.toNat ≤ (handler 65536).cut.handlerAge) ∧
    ¬(handler 65535).cut.commaLimit.toNat ≤ (handler 65535).cut.handlerAge ∧
    ((cut 65536).trap.active = false ∧ (cut 65536).cut.latch = some ⟨1, 65536, false, false⟩ ∧ (cut 65536).allReached = false) ∧
    ¬(cut 65535).cut.commaLimit.toNat ≤ 65535 ∧ ((s id).trap.active = false ∧ (s id).cut.latch = none) := by decide +kernel

/-- FaultServiceResumes: a Faulted seat: after one fault, after a second, after the cut at retirement, after a LATENCY_BOUND that owes a
re-timing; a pre-empted one; one that runs. -/
theorem wit_resumes :
    let s (f : Seat → Seat) : Seat := (start .K fun a => f { a with inst := { a.inst with phase := .faulted } }).getSeat seat0
    let info (v : Word) (a : Seat) : Seat := { a with trap := { a.trap with info := v } }
    let retire (a : Seat) : Seat := { a with cut := { a.cut with atRetire := true } }
    let owed (a : Seat) : Seat := { a with cut := { a.cut with info := 8, retimeVec := 0x20000003000 } }
    ((s id).inst.phase = .faulted ∧ (s id).trap.nested = false ∧ (s id).resumeOwesRetime = false ∧ ¬((s id).cut.atRetire = true ∧ (s id).trap.src = 7)) ∧
    (s (info 6)).trap.nested = true ∧
    (let a := s (retire ∘ info 0xE00001); a.trap.nested = false ∧ a.resumeOwesRetime = false ∧ a.cut.atRetire = true ∧ a.trap.src = 7) ∧
    (let a := s (owed ∘ info 0xEA0001); a.trap.nested = false ∧ a.resumeOwesRetime = true) ∧
    (s fun a => { a with inst := { a.inst with phase := .preempted } }).inst.phase = .preempted ∧
    ((start .K id).getSeat seat0).inst.phase ≠ .faulted ∧ ((start .K id).getSeat seat0).inst.phase ≠ .preempted := by decide +kernel

/-! ## Witnesses: fetch, clock, links, resets, host -/

/-- FillsAndGrants: a fill on its way; a stream that fetches from its packet; a pipe with requesters of which one has waited AGE_LIMIT, and
one with none such. -/
theorem wit_fills_and_grants :
    let f : Fill := ⟨0, 0, 0, 0, false, ⟨0x20000001000, 0, none⟩⟩
    let s : State := { start .C id with die := State.reset.die.set 7 { Die.reset with fills := [f] } }
    let g (n : Nat) : State := { start .C id with core := (start .C id).core.set 0 { (start .C id).core[(0 : Fin 904)] with
      vpipe := { Pipe.reset .C with reqs := [(0, .C, n)] } } }
    let p (n : Nat) : Pipe := (g n).core[(0 : Fin 904)].ready (g n).core[(0 : Fin 904)].vpipe
    s.die[(7 : Fin 8)].fills[0]? = some f ∧ (s.getSeat seat0).subscribes f false = true ∧ f.pkt.addr = (start .C id).me.pc &&& ~~~63 ∧
    (∀ n ∈ [36, 37], (p n).decided = false ∧ (g n).core[(0 : Fin 904)].freeze = none ∧ (p n).reqs = [(0, .C, n)]) ∧
    (g 36).core[(0 : Fin 904)].ageLimit.toNat ≤ (g 36).core[(0 : Fin 904)].live - 36 ∧
    ¬(g 37).core[(0 : Fin 904)].ageLimit.toNat ≤ (g 37).core[(0 : Fin 904)].live - 37 := by decide +kernel

/-- ClockAndHeat: a tick that changes the group step, and one that does not; a placed seat with a symbol; a die that is hot, one that is
cool, too soon after a change and not, and one that the part lacks; a package that takes too much power; a stack that is up, not read yet,
read in this microsecond, and before, and one that the part lacks. -/
theorem wit_clock :
    let s (n : Nat) : State := { start .K id with
      timebase := 50000, die := State.reset.die.set 0 { Die.reset with steps := [(30000, n, 0)] } }
    let m (c : Int) (at' now : Nat) : State := { State.reset with
      timebase := BitVec.ofNat 64 now, die := State.reset.die.set 0 { Die.reset with junction := c, mgmtAt := at' } }
    let up (s : State) : Bool := s.diePresent 0 && (decide (100 ≤ s.die[(0 : Fin 8)].junction) || decide (4800 < s.power)) &&
      decide (s.die[(0 : Fin 8)].mgmtAt + 100000 ≤ s.timebase.toNat)
    let down (s : State) : Bool := s.diePresent 0 && decide (s.die[(0 : Fin 8)].junction < 92) && decide (s.power < 4560) &&
      decide (s.die[(0 : Fin 8)].mgmtAt + 1000000 ≤ s.timebase.toNat)
    ((s 12).timebase.toNat % 50000 = 0 ∧ (s 12).tickStep 0 = 12 ∧ fld (s 12).die[(0 : Fin 8)].clkPlan 0 4 = 0) ∧ (s 0).tickStep 0 = 0 ∧
    (seat0.isSys = false ∧ coreDie seat0.core = 0 ∧ ((s 12).getSeat seat0).inst.phase = .running) ∧
    (up (m 100 5 100005) = true ∧ up (m 100 5 100004) = false ∧ up (m 99 5 100005) = false ∧
      up { m 20 5 100005 with power := 4801 } = true ∧ (onPart .mz5a (m 100 5 100005)).diePresent 7 = false ∧
      down (m 91 5 1000005) = true ∧ down (m 92 5 1000005) = false ∧ down (m 91 5 1000004) = false) ∧
    (State.reset.stack[(23 : Fin 24)].readAt = 0 ∧ 0 ≠ State.reset.timebase.toNat / 1000 + 1 ∧
      (State.reset.stack.set 5 { Stack.reset with readAt := 1 })[(5 : Fin 24)].readAt = State.reset.timebase.toNat / 1000 + 1 ∧
      (State.reset.stack.set 5 { Stack.reset with readAt := 1 })[(5 : Fin 24)].readAt ≠ (s 0).timebase.toNat / 1000 + 1) ∧
    State.reset.stackHere (23 : Fin 24).val = true ∧ (onPart .mz5a State.reset).stackHere (12 : Fin 24).val = false ∧
    State.reset.stack[(23 : Fin 24)].down = false ∧ State.reset.stack[(23 : Fin 24)].band.val ≤ 4 ∧
    (State.reset.stack.set 0 { Stack.reset with band := 3 })[(0 : Fin 24)].band.val ≤ 4 := by decide +kernel

/-- A request for the last two bytes of core 0's slice, and a flit from package 5 that carries it alone. -/
def freq (l : FlitLoad) : FlitReq := ⟨l, 0x3FFFFE, [1, 2], false⟩
def flit (l : FlitLoad) : FlitArgs := ⟨true, Config.thisPackage, 5, 4096, [freq l]⟩

/-- A board that admits callers of other packages, in edition 0. -/
def domBoards : List Host.Cell := [(board + 8, 0xB5), (board + 12, 0x80)]

/-- FabricLinks: a link that is up, down and training, or that the part lacks; a flit with its number next, with another, with a wrong CRC,
without a credit; one with room for its requests, and three that are not served; links in training for 1 ms and for less. -/
theorem wit_fabric :
    let s (p : Port) : State := { State.reset with port := State.reset.port.set 63 p }
    let p (q : Port) : Port := (s q).port[(63 : Fin 64)]
    let w := flit .write
    let t (at' now : Nat) : State := { s { Port.reset with training := true, trainAt := at' } with timebase := BitVec.ofNat 64 now }
    ((p Port.reset).up = true ∧ (p Port.reset).training = false ∧ (s Port.reset).portUp 63 = true) ∧ (p { Port.reset with up := false }).up = false ∧
    (s Port.reset).fuse.part = .mz9a ∧ (onPart .mz5a (s Port.reset)).fuse.part = .mz5a ∧
    (p { Port.reset with training := true }).training = true ∧
    (w.crcOk = true ∧ w.seq % 4096 = (p Port.reset).rxSeq.toNat ∧
      w.seq % 4096 ≠ (p { Port.reset with rxSeq := 4095 }).rxSeq.toNat ∧ { w with crcOk := false }.crcOk = false ∧
      64 ≤ (p { Port.reset with refusals := 63 }).refusals + 1 ∧ flitChannel w = 2 ∧ (p Port.reset).owed[(2 : Fin 4)] < 128 ∧
      128 ≤ (p { Port.reset with owed := Vector.replicate 4 128 }).owed[(2 : Fin 4)]) ∧
    (w.dst = Config.thisPackage ∧ w.reqs.length ≤ 3 ∧ (w.reqs.map fun q => q.bytes.length).sum ≤ 192 ∧
      { w with dst := 1 }.dst ≠ Config.thisPackage ∧ 3 < { w with reqs := List.replicate 4 (freq .write) }.reqs.length) ∧
    ((t 5 1000005).port[(63 : Fin 64)].training = true ∧ (t 5 1000005).port[(63 : Fin 64)].trainAt + 1000000 ≤ (t 5 1000005).timebase.toNat ∧
      (t 5 1000004).timebase.toNat < (t 5 1000004).port[(63 : Fin 64)].trainAt + 1000000 ∧ (t 5 1000005).portUp 0 = true) ∧
    ((5 : Int).natAbs ≤ 32 ∧ ¬(-33 : Int).natAbs ≤ 32) := by decide +kernel

/-- FabricLinks: requests for this package's window: of each kind, and for its board region; a flag of whose writes none has landed, and one
has. -/
theorem wit_requests :
    let s : State := State.reset
    let q := freq .write
    let place := windowPlace q.addr false
    (s.portUp 5 = true ∧ q.addr < 2 ^ 41 ∧ (windowHome q.addr).pkg = Config.thisPackage ∧ inBoardRegion q.addr = false ∧ HomeUp s q.addr ∧
      q.addr % 2 ^ 22 + q.bytes.length ≤ 2 ^ 22 ∧ Memory.wf s.mem = true ∧ s.answer place 2 false = .ok ∧
      s.writeAnswer (.red .add) place q.bytes.length false = .ok ∧ s.port[(5 : Fin 64)].held = []) ∧
    (board < 2 ^ 41 ∧ (windowHome board).pkg = Config.thisPackage ∧ inBoardRegion board = true) ∧
    (Port.reset.flagDue (5, freq (.flag 1)) = false ∧ { Port.reset with landed := [(5, 1)] }.flagDue (5, freq (.flag 1)) = true) := by
  unfold HomeUp; decide +kernel

/-- FabricLinks: a board instruction of another package: at a board that refuses it, and at one that admits it, of an edition that is its own
and of another; with slots left, and with none. -/
theorem wit_board_requests :
    let s (m : List Host.Cell) : State := { State.reset with mem := m }
    let d := s domBoards
    let h := d.boardHdr board
    let full := domBoards ++ [(board + 16, 64)]
    (HomeUp d board ∧ d.answer (windowPlace board false) 64 true = .ok ∧ d.portUp 5 = true) ∧
    (∀ m ∈ [[], boards], HomeUp (s m) board ∧ (s m).answer (windowPlace board false) 64 true = .ok ∧ ((s m).boardHdr board).refuses none ≠ none) ∧
    (h.refuses none = none ∧ fld (63 : Word) 0 32 < h.slots ∧ h.slots ≤ fld (64 : Word) 0 32 ∧
      d.answer (windowPlace (board + 64 + 16 * 63) false) 16 true = .ok) ∧
    (fld (1 : Word) 0 32 ≠ h.edition ∧ fld (0 : Word) 0 32 = h.edition ∧ fld h.d1 55 9 ≠ 5 ∧ h.posted < h.slots) ∧
    (((s full).boardHdr board).refuses none = none ∧ ¬((s full).boardHdr board).posted < ((s full).boardHdr board).slots ∧
      HomeUp (s full) board ∧ (s full).answer (windowPlace board false) 64 true = .ok ∧ Memory.wf full = true ∧ board % 64 = 0 ∧
      board % 2 ^ 22 + 2 ^ 15 ≤ 2 ^ 22 ∧ (s full).monitors = []) := by unfold HomeUp; decide +kernel

/-- FabricLinks: a write on a package all of whose ports are down, one whose flit was lost 2 ms ago, and a load; a request that is not lost. -/
theorem wit_lost_requests :
    let f : Flight := { flight with place := { own with home := ⟨1, 0, none⟩ } }
    let s (p : Port) : State := { State.reset with port := State.reset.port.set 63 p }
    let r : State := { State.reset with port := Vector.replicate 64 { Port.reset with up := false }, flights := [f] }
    let lost : State := { s { Port.reset with up := false, replay := [{ OutFlit.of 1 2 (some 0) with at' := 5 }] } with
      timebase := 2000005, flights := [f] }
    let l : LoadReq := { req .K (.slot 0) with place := { own with home := ⟨1, 0, none⟩ }, way := some (0, 0) }
    let load : State := { start .K fun a => { a with loads := [l] } with port := Vector.replicate 64 { Port.reset with up := false } }
    (∀ x ∈ [r, lost], x.flights.find? (fun f => decide (f.id = 0) && !f.place.isLocal) = some f ∧ x.requestLost 0 = true) ∧
    (∀ n : Fin 64, r.portUp n = false) ∧ lost.portUp 0 = true ∧ State.reset.requestLost 0 = false ∧
    (load.requestLost 0 = true ∧ load.flights = [] ∧ load.remoteReq 0 = some (seat0, l)) := by decide +kernel

/-- DieResets: a die that is not in reset, with a launch that has a seat there, and one that is. -/
theorem wit_die_resets : let l := launch (packet 1)
    let s : State := { start .K id with launches := [l] }
    let t : State := { start .K id with die := State.reset.die.set 7 { Die.reset with inReset := true } }
    (Memory.wf s.mem = true ∧ s.dieInReset (0 : Fin 8).val = false ∧ (onPart .mz5a s).dieInReset (7 : Fin 8).val = true ∧ (onPart .mz5a s).diePresent (4 : Fin 8).val = false ∧ s.diePresent (4 : Fin 8).val = true ∧ l ∈ s.launches ∧ seat0.isSys = false ∧ coreDie seat0.core = 0 ∧
      (s.getSeat seat0).inst.q = l.q ∧ (s.getSeat seat0).inst.phase ≠ .free) ∧ t.die[(7 : Fin 8)].inReset = true ∧ t.diePresent (7 : Fin 8).val = true := by decide +kernel

/-- PackageResets: the reset; an hour after the last life record, of which there is one, and just before. -/
theorem wit_package_resets :
    let s (t : Word) : State := { State.reset with timebase := t, lifeRing := [⟨1, 0, []⟩] }
    (Instr.packageReset = .packageReset ∨ Instr.packageReset = .powerUp) ∧
    (¬(s 3600000000000).timebase.toNat / 3600000000000 ≤ (s 3600000000000).lifeHour ∧ (s 3600000000000).lifeRing.length ≤ 65536 ∧
      (s 3600000000000).lifeRing.getLast? = some ⟨1, 0, []⟩) ∧
    (s 3599999999999).timebase.toNat / 3600000000000 ≤ (s 3599999999999).lifeHour := by decide +kernel

/-- HostPort: a message posted; with a reserved bit; with no image of its handle; of a graph its image has not; of one it has; a load and an
attestation. -/
theorem wit_mailbox :
    let im : Image := ⟨9, 0, false, [[packet 1]], 0, 0, 0, [], [], [], 0, []⟩
    let s (m : List Word) : State := { start .K id with
      images := [im], die := State.reset.die.set 0 { Die.reset with
        mbox := 1, msg := Vector.ofFn fun k => m.getD k.val 0, lq := Die.reset.lq.set 0 { LaunchQ.reset with ring := 0x1004, ctl := 0x400 } } }
    let g (m : List Word) : Nat := fld ((s m).die[(0 : Fin 8)].msg[1]?.getD 0) 0 16
    let w (m : List Word) : Word := (s m).die[(0 : Fin 8)].msg[0]?.getD 0
    let image (m : List Word) : Option Image := (s m).images.find? fun i => decide (w m ≠ 0) && decide (i.handle.setWidth 64 = w m)
    (bit (s [9]).die[(0 : Fin 8)].mbox 0 = true ∧ (s [9]).dieUsable (0 : Fin 8).val = true ∧ (s [9]).dieInReset (0 : Fin 8).val = false ∧
      (s [9]).bootStat = 1) ∧
    (bit State.reset.die[(0 : Fin 8)].mbox 0 = false) ∧ fld ((s [9, 0x10000]).die[(0 : Fin 8)].msg[1]?.getD 0) 16 48 ≠ 0 ∧
    (g [9] < 0xFFFE ∧ image [8] = none ∧ image [9] = some im ∧ im.graphs[g [9, 1]]? = none ∧ im.graphs[g [9]]? = some [packet 1] ∧
      Memory.wf (s [9]).mem = true) ∧ g [0, 0xFFFE] = 0xFFFE ∧ g [0, 0xFFFF] = 0xFFFF := by decide +kernel

/-- HostPort: a graph with a launch under way, one with a record left, one with neither, and one whose die is in reset; a BAR2 access under
the table of `paged`, at the last doubleword of its page and beyond it, one on a missing page, and one to another package; offsets of BAR0
of each kind. -/
theorem wit_host :
    let g (l : List (Fin 512 × BitVec 32)) (k : List (List Word)) : Graph := ⟨0, 9, 0, k, 0, 0, 0x100, l, false⟩
    let s (l : List (Fin 512 × BitVec 32)) (k : List (List Word)) : State := { State.reset with graphs := [g l k] }
    let lost : State := { s [] [] with die := State.reset.die.set 0 { Die.reset with inReset := true } }
    let host (s : State) : State := { s with hostRoot := 0x100000000000, hbarVa := 0x20000000000 }
    let h : State := host (paged State.reset)
    let far : State := { h with mem := h.mem.take 5 ++ [(physBase + 0x2005, 2), (physBase + 0x2006, 8)] }
    let p (va : Nat) : Place := leafPlace 0x4000001F 0x20000000000 (2 ^ 30) va
    let out (h : State) (va : Nat) : Option (Word × Nat × Nat) := match (h.xlat h.hostRoot h.hostTlb 64 false va .wr).1 with
      | .ok leaf base z => some (leaf, base, z)
      | _ => none
    ((s [(0, 1)] []).graphs[0]? = some (g [(0, 1)] []) ∧ (g [(0, 1)] []).pending ≠ []) ∧ (g [] [packet 1]).left ≠ [] ∧
    ((s [] []).graphs[0]? = some (g [] []) ∧ (g [] []).left = [] ∧ (g [] []).pending = [] ∧ (s [] []).dieUsable (g [] []).die.val = true ∧
      (s [] []).dieInReset (g [] []).die.val = false ∧ Memory.wf (s [] []).mem = true) ∧
    (lost.graphs[0]? = some (g [] []) ∧ lost.dieInReset (g [] []).die.val = true) ∧
    (out h 0x2003FFFFFF8 = some (0x4000001F, 0x20000000000, 2 ^ 30) ∧ ¬2 ^ 30 < 0x2003FFFFFF8 % 2 ^ 30 + 2 ^ 3 ∧
      2 ^ 30 < 0x2003FFFFFFC % 2 ^ 30 + 2 ^ 3 ∧ (p 0x2003FFFFFF8).isLocal = true ∧ h.answer (p 0x2003FFFFFF8) 8 true = .ok ∧
      h.writeAnswer .store (p 0x2003FFFFFF8) 8 true = .ok ∧ h.monitors = [] ∧ Memory.wf h.mem = true) ∧ out h 0x20040000000 = none ∧
    (out far 0x20000000040 = some (0x802000000001F, 0x20000000000, 2 ^ 30) ∧ Memory.wf far.mem = true ∧
      (leafPlace 0x802000000001F 0x20000000000 (2 ^ 30) 0x20000000040).isLocal = false ∧ far.portUp 0 = true) ∧
    ((0x50 < 0x8000 ∧ 0x50 ≤ 0x50 % 0x1000) ∧ (0x8000 ≤ 0x7FFF8 ∧ 0x7FFF8 < 0x80000) ∧ 0x81000 ≤ 0x81000) := by decide +kernel

/-! ## Witnesses: the machine -/

/-- NoInstructionStopsButAStoppedPackage: a step that is no reset, in a stopped package, and with the freeze line asserted. -/
theorem wit_stopped : let s (d f : Bool) : State := { State.reset with agenda := [.nanos 1], stopped := d, freezeN := f }
    (s true false).nextAct = .nanos 1 ∧ (s true false).stopped = true ∧ (s false true).stopped = false ∧ (s false true).freezeN = true := by
  decide +kernel

/-- StepRunsTheDecodedInstruction: stream K with ADD x1, x2, x3, with a word of a reserved major, with a word that is undefined, and with a
word K does not accept; an event. -/
theorem wit_step_issue :
    let w : Who := ⟨seat0, .K⟩
    let s (v : BitVec 512) : State := { start .K fun a => (noC a).modStr .K fun t => { t with packets := [⟨0x20000001000, v, none⟩] } with
      agenda := [.issue w] }
    let u (v : BitVec 512) : State := { (s v).turnPage with turn := w }
    let ok (v : BitVec 512) : Bool := !(s v).stopped && !(s v).freezeN && decide ((s v).nextAct = .issue w) && (s v).turnPage.mayIssue w &&
      (match (u v).me.fetch with | .word x => decide (x = v.setWidth 32) | _ => false) && (u v).me.enabled && !bit (u v).mySeat.sys.dbgCtl 0
    (ok 0x00108300 = true ∧ decodeWord 0x00108300 = some (.add (.x 1) (.x 2) (.x 3)) ∧ majorReserved (fld (0x00108300 : IWord) 26 6) = false ∧
      majorAccepts (fld (0x00108300 : IWord) 26 6) (sclass w) = true ∧ narrowAccepts (.add (.x 1) (.x 2) (.x 3)) (sclass w) = true ∧
      (u 0x00108300).forgetVamo.pipeNeeded 0x00108300 (.add (.x 1) (.x 2) (.x 3)) = none) ∧
    (ok 0xE0000000 = true ∧ decodeWord 0xE0000000 = none ∧ majorReserved (fld (0xE0000000 : IWord) 26 6) = true) ∧
    (ok 0x30000006 = true ∧ decodeWord 0x30000006 = none ∧ majorAccepts (fld (0x30000006 : IWord) 26 6) (sclass w) = true) ∧
    (ok 0x40000000 = true ∧ majorReserved (fld (0x40000000 : IWord) 26 6) = false ∧ majorAccepts (fld (0x40000000 : IWord) 26 6) (sclass w) = false) ∧
    (let e (i : Instr) : State := { State.reset with agenda := [.event i] };
      (e .freezeLineAssert).nextAct = .event .freezeLineAssert ∧ happens .freezeLineAssert = true ∧
      ((e .freezeLineAssert).turnPage.record (.event .freezeLineAssert)).eventDue .freezeLineAssert = true ∧
      (let r : State := { e (.doorbell 0) with recCtl := 2 }; r.nextAct = .event (.doorbell 0) ∧ r.turnPage.arrives (.event (.doorbell 0)) = true) ∧
      (e .freezeLineAssert).recCtl = 0 ∧ (e .nop).nextAct = .event .nop ∧ happens .nop = false) := by
  decide +kernel

/-- StepRunsTheDecodedInstruction: a matrix program at DUP, at the undefined word 0x0000, and at a LITX with its literal. -/
theorem wit_step_word :
    let s (v : BitVec 512) : State := { start .K fun a => (noC a).modEng .matrix fun c => { c with
      running := true, packets := [⟨0x20000002000, v, none⟩] } with agenda := [.word 0 .matrix 0] }
    let e (s : State) : State := s.modSeat seat0 fun a => { a with inst := { a.inst with ebase := a.inst.ebase.set 0 0x20000002000 } }
    let u (v : BitVec 512) : State := { (e (s v)).turnPage with turn := ⟨⟨0, 0⟩, .K⟩, turnE := .matrix }
    let v (p : BitVec 512) : State := (u p).modMyEng fun c => { c with stack := [2] }
    let word (v : BitVec 512) (n : Nat) : Option IWord := match (u v).mySeat.fetchWord .matrix ((u v).myEng.pc + n) with | .word x => some x | _ => none
    (∀ b ∈ [true, false], let v : BitVec 512 := if b then 0x80050400 else 0x0800;
      (e (s v)).nextAct = .word 0 .matrix 0 ∧ (e (s v)).turnPage.mayWord ⟨0, 0⟩ .matrix = true ∧ bit (u v).mySeat.sys.dbgCtl 0 = false) ∧
    (word 0x0800 0 = some 0x0800 ∧ decodeEngine .matrix 0x0800 0 = some .dup ∧ (u 0x0800).pairs 0x0800 = false) ∧
    (word 0 0 = some 0 ∧ decodeEngine .matrix 0 0 = none ∧ (u 0).pairs 0 = false) ∧
    (word 0x80050400 0 = some 0x0400 ∧ (v 0x80050400).pairs 0x0400 = true ∧ word 0x80050400 1 = some 0x8005) := by decide +kernel

/-- DecodeInvertsEncode: a stream instruction and an engine word with an encoding; MemoryStaysCanonical: memory in its form, and a step. -/
theorem wit_encodings : Instr.wf (.add (.x 1) (.q 2) (.x 3)) = true ∧ Instr.isStream (.add (.x 1) (.q 2) (.x 3)) = true ∧
    Instr.wf (.cacc ⟨2, true, some 7, 3⟩) = true ∧ Instr.engine (.cacc ⟨2, true, some 7, 3⟩) = some .copy := by decide +kernel

theorem wit_memory : Memory.wf [(0, 1), (physBase, 0xFF)] = true ∧ Memory.wf [(0, 0)] = false ∧ Memory.wf [(1, 1), (1, 2)] = false ∧
    ∃ t, step { State.reset with agenda := [.event .freezeLineAssert] } = .next t := by
  refine ⟨by decide +kernel, by decide +kernel, by decide +kernel, _, rfl⟩

/-- CopiesMoveTheirPieces: CFILL, COPY and CREMOTE (to a page of another package) at work on their first piece and on their last; one at a
256-byte boundary of a seat that is to be pre-empted; the other seat with a piece to move. -/
theorem wit_pieces :
    let c (opc : Fin 32) (k : Nat) (l : List Word) : Cmd := { cmd opc 0 with args := l, k := k }
    let s (x : Cmd) (l : Option Latch) : State := paged (start .K fun a =>
      let b := engine .copy (fun e => { e with queue := [x], frozen := l.isSome }) a
      { b with cut := { b.cut with latch := l } })
    let there (s : State) : State := { s with mem := s.mem.take 5 ++ [(physBase + 0x2005, 2), (physBase + 0x2006, 8)] }
    let g : CopyArgs := ⟨0, false, none, 0⟩
    let ready (s : State) (x : Cmd) (i : Instr) (k : CopyKind) : Bool :=
      decide (((s.getSeat seat0).getEng .copy).moving = some (0, x)) && decide (x.instr .copy = some i) && decide (copyKind i = some (k, g)) &&
        !s.engineHeld 0 && decide (s.core[(0 : Fin 904)].pieceAt ≠ s.core[(0 : Fin 904)].live + 1) && decide (x.due ≤ s.core[(0 : Fin 904)].live) &&
        !s.pieceMoves (otherSeat seat0)
    let lands (s : State) (dst : Word) (here : Bool) : Bool :=
      match s.engCheck seat0 .copy dst .wr false true with | .ok (q, _) => decide (q.isLocal = here) | _ => false
    let fill (k : Nat) := c 19 k [7, 512, 0x100]
    let copy := c 16 0 [0x100, 64, 0x200]
    let rem := c 21 0 [0x100, 64, 0x20000000040]
    let pre : Option Latch := some ⟨1, 0, true, false⟩
    (∀ k ∈ [0, 256], ready (s (fill k) none) (fill k) (.cfill g) .fill = true ∧ lands (s (fill k) none) (0x100 + BitVec.ofNat 64 k) true = true ∧
      (s (fill k) none).copyStopping seat0 = false) ∧
    ¬512 ≤ (0 : Nat) + 256 ∧ (512 ≤ (256 : Nat) + 256) ∧
    (ready (s (fill 256) pre) (fill 256) (.cfill g) .fill = true ∧ (s (fill 256) pre).copyStopping seat0 = true) ∧
    (ready (s copy none) copy (.copy g) .copy = true ∧ lands (s copy none) 0x200 true = true ∧
      (match (s copy none).readPiece seat0 none 0x100 64 1 with | .ok got => lands got.st 0x200 true | _ => false) = true) ∧
    (ready (there (s rem none)) rem (.cremote g) .remote = true ∧
      (match (there (s rem none)).readPiece seat0 none 0x100 64 1 with | .ok got => lands got.st 0x20000000040 false | _ => false) = true) := by
  decide +kernel

/-- CopiesMoveTheirPieces: a read that meets an earlier write of its bytes on their way, one that meets nothing, and one of a word in
error. -/
theorem wit_piece_reads :
    let s (l : List Flight) (b : List Nat) : State :=
      { paged (start .K (engine .copy fun e => { e with queue := [{ cmd 16 0 with args := [0x20000000040, 64, 0x200], sent := 5 }] })) with
        flights := l, badUnits := b, seq := 6 }
    let f : Flight := { flight with src := .engine 0 .copy 0 7, last := 3, place := page, size := 64 }
    let p := page
    let ok (s : State) : Bool := match s.engCheck seat0 .copy 0x20000000040 .rd false false with | .ok (q, _) => decide (q = p) | _ => false
    (ok (s [f] []) = true ∧ (s [f] []).engMeet seat0 .copy ((s [f] []).curIndex seat0 .copy) p 64 = .forward f) ∧
    (ok (s [] []) = true ∧ (s [] []).engMeet seat0 .copy ((s [] []).curIndex seat0 .copy) p 64 = .clear ∧ (s [] []).answer p 64 false = .ok) ∧
    (let b := s [] [page.key / 32]; ok b = true ∧ b.engMeet seat0 .copy (b.curIndex seat0 .copy) p 1 = .clear ∧ b.answer p 1 false ≠ .ok) := by decide +kernel

/-! ## Single steps, with the results the spec gives -/

/-- What of the next state an instruction gives. -/
def gives {α : Type} (i : Instr) (s : State) (f : State → α) : Option α := match exec i s with | .next t => some (f t) | _ => none

/-- x31 after an instruction of the running stream. -/
def x31 (i : Instr) (s : State) : Option Word := gives i s fun t => t.me.rdX 31

/-- R168, R170, R237: launch words of a unit that the part lacks raise UNDEF_OP, detail ABSENT (13). R360: the part code of entry 0. -/
theorem test_parts :
    let f (i : Instr) (p : Part) := gives i (onPart p (start .K (matrix fun c => { c with stack := [0, 0, 0, 0, 0, 0] })))
      fun t => (fld t.mySeat.trap.info 16 5, fld t.mySeat.trap.info 32 32)
    f (.msrec true true) .mz5a = some (2, 13) ∧ f (.msrec true false) .mz5a = some (0, 0) ∧ f (.mhad 0 1) .mz5a = some (2, 13) ∧
    f .aappend .mz9s = some (2, 13) ∧ f .astat .mz9s = some (0, 0) ∧ f .aappend .mz5a = some (0, 0) ∧
    gives (.capq (.x 31) 0 2) (onPart .mz9s (start .K id)) (fun t => t.me.rdX 31) = some 0x0001000D00000095 := by decide +kernel

/-- R7, R107, R108: the slice address 0x5_6B41_0040: its core field, its offset replaced, and its second LIMM. -/
theorem test_slice_address :
    x31 (.ext (.x 31) (.x 1) 22 6) (start .K (x .K 1 0x56B410040)) = some 45 ∧
    x31 (.ins (.x 31) (.x 0) 0 21) (start .K (x .K 31 0x56B410040)) = some 0x56B400000 ∧
    x31 (.limm (.x 31) 0x6B41 1) (start .K (x .K 31 0x40)) = some 0x6B410040 := by decide +kernel

/-- R106: DIV of 1,000,000 by 7 takes 23 core cycles; a zero divisor and the overflow case take 18. -/
theorem test_divide : let f (i : Instr) (a b : Word) := gives i (start .K (x .K 1 a ∘ x .K 2 b)) fun t => t.me.div.map fun o => (o.res, o.due - 100)
    f (.div (.x 3) (.x 1) (.x 2)) 1000000 7 = some (some (142857, 23)) ∧ f (.rem (.x 3) (.x 1) (.x 2)) (-7) 2 = some (some (-1, 19)) ∧
    f (.div (.x 3) (.x 1) (.x 2)) 5 0 = some (some (-1, 18)) ∧ f (.rem (.x 3) (.x 1) (.x 2)) 5 0 = some (some (5, 18)) ∧
    f (.div (.x 3) (.x 1) (.x 2)) 0x8000000000000000 (-1) = some (some (0x8000000000000000, 18)) := by decide +kernel

/-- R104: a wrap, a high product, the two right shifts by more than the width, and a rotation. -/
theorem test_integers : let f (i : Instr) (a b : Word) := x31 i (start .K (x .K 1 a ∘ x .K 2 b))
    f (.add (.x 31) (.x 1) (.x 2)) (-1) 2 = some 1 ∧ f (.mulh (.x 31) (.x 1) (.x 2)) (-1) 1 = some (-1) ∧
    f (.shr (.x 31) (.x 1) (.x 2)) (-16) 66 = some 0x3FFFFFFFFFFFFFFC ∧ f (.sra (.x 31) (.x 1) (.x 2)) (-16) 66 = some (-4) ∧
    f (.rotr (.x 31) (.x 1) (.x 2)) 1 1 = some 0x8000000000000000 ∧ f (.andn (.x 31) (.x 1) (.x 2)) 0xFF 0x0F = some 0xF0 := by decide +kernel

/-- R65, R102: a queue named twice gives two entries, the first to s1; x0 takes nothing. -/
theorem test_queue_twice : gives (.sub (.x 31) (.q 5) (.q 5)) (start .K (queued 5 3 ∘ queued 5 10)) (fun t => (t.me.rdX 31, t.mySeat.q[(5 : Fin 16)].items.length)) =
    some (7, 0) ∧ gives (.addi (.x 0) (.x 0) 5) (start .K id) (fun t => t.me.rdX 0) = some 0 := by decide +kernel

/-- R110, R111: a signed and an unsigned comparison of −1 with 1; SEL with its predicate false. -/
theorem test_compare : let f (c : Cond) := gives (.cmp 3 (.x 1) (.x 2) c) (start .K (x .K 1 (-1) ∘ x .K 2 1)) fun t => t.me.rdP 3
    f .lt = some true ∧ f .ltn = some false ∧ f .gen = some true ∧
    gives (.cmpi 3 (.x 1) (-1) .gen) (start .K (x .K 1 2047)) (fun t => t.me.rdP 3) = some true ∧
    x31 (.sel (.x 31) (.x 1) (.x 2) 1) (start .K (x .K 1 4 ∘ x .K 2 5)) = some 5 := by decide +kernel

/-- R113: CALL t7 jumps to the old t7 and leaves the return address in x31 and t7; RET not taken advances. -/
theorem test_call : gives (.call 7 0) (start .K fun a => a.modStr .K fun t => { t with t := t.t.set 7 0x20000005000 })
      (fun t => (t.me.pc, t.me.rdX 31, t.me.t[(7 : Fin 8)])) = some (0x20000005000, 0x20000001004, 0x20000001004) ∧
    gives (.ret 1) (start .K id) (fun t => t.me.pc) = some 0x20000001004 := by decide +kernel

/-- R112, R114: PBRI to an odd address raises ALIGN at the trap vector, with the address recorded (R186, R188). -/
theorem test_pbri_align : gives (.pbri 2 (.x 1) 1) (start .K (fun a => x .K 1 5 { a with trap := { a.trap with vec := 0x20000009000 } }))
      (fun t => (t.me.pc, t.mySeat.trap.addr, fld t.mySeat.trap.info 16 5, t.mySeat.trap.pc[(0 : Fin 4)])) =
    some (0x20000009000, 9, Cause.align.code, 0x20000001000) := by decide +kernel

/-- R191: TRAP #7 with TRAP_VEC zero leaves the seat Faulted after the instruction. -/
theorem test_trap : gives (.trap 7) (start .L id) (fun t => (t.mySeat.inst.phase, fld t.mySeat.trap.info 32 32, t.mySeat.trap.pc[(1 : Fin 4)])) =
    some (.faulted, 7, 0x20000001004) := by decide +kernel

/-- R85, R84: the worked conversions of FP32 to BF16 and E4M3. -/
theorem test_conversions : let f (d : CvtFmt) (m : Fin 4) (b : Nat) : Nat := (cvtElem .fp32 d m b).1
    f .bf16 0 0x3F808000 = 0x3F80 ∧ f .bf16 0 0x3F818000 = 0x3F82 ∧ f .bf16 1 0x3F818000 = 0x3F81 ∧
    f .e4m3 0 0x43FA0000 = 0x7E ∧ f .e4m3 3 0x43FA0000 = 0x7E ∧ f .e4m3 0 0x3A800000 = 0 ∧ f .e4m3 3 0x3A800000 = 1 := by decide +kernel

/-- R148: −0.3 rounded to an integral value is −0. -/
theorem test_vrnd : vrndLane fp32 .rn false 0xBE99999A = 0x80000000 := by decide +kernel

/-- R95: Exp2_S of 0, 1 and 1/2, whose 64-fold are integers: the table's entries. -/
theorem test_exp2 : exp2S 0 = 0x3F800000 ∧ exp2S 0x3F800000 = 0x40000000 ∧ exp2S 0x3F000000 = 0x3FB504F3 := by decide +kernel

/-- R87, R88: −123,456,789 to the last digit. -/
theorem test_rns : toRns (-123456789) = 0x172D262EB ∧ crt36 0x172D262EB = -123456789 := by decide +kernel

/-- R97: byte 100 is 0, −1, 1, −1, 0, and 242 five ones. -/
theorem test_ternary : (List.range 5).map (t5Weight 100) = [0, -1, 1, -1, 0] ∧ (List.range 5).map (t5Weight 242) = [1, 1, 1, 1, 1] := by
  decide +kernel

/-- The data that C's pipeline gets from an instruction. -/
def pipeData (i : Instr) (s : State) : Option (List Nat) := gives i s fun t => t.mySeat.c.pipe.filterMap fun p =>
  match p.w with | .vreg _ d _ _ => some d.toNat | .kreg _ d _ => some d.toNat | .xreg _ v => some v.toNat | .vstat b => some b.toNat | _ => none

/-- R151, the fragment of "Registers: vector": four bytes with an illegal one. -/
theorem test_vtunpk : pipeData (.vtunpk 3 (.v 1) false 0) (start .C fun a => { a with vec := { a.vec with vlen := 20, v := a.vec.v.set 1 0x00F2F764 } }) =
    some [packLanes 8 [0, 255, 1, 255, 0, 0, 0, 0, 0, 0, 1, 1, 1, 1, 1, 255, 255, 255, 255, 255], 64, 2] ∨
    pipeData (.vtunpk 3 (.v 1) false 0) (start .C fun a => { a with vec := { a.vec with vlen := 20, v := a.vec.v.set 1 0x00F2F764 } }) =
    some [packLanes 8 [0, 255, 1, 255, 0, 0, 0, 0, 0, 0, 1, 1, 1, 1, 1, 255, 255, 255, 255, 255], 2, 64] := by decide +kernel

/-- R143, the same fragment: VTACC of these weights and 1 to 20; R149, R150: the sum, and its lane in x6. -/
theorem test_vtacc : pipeData (.vtacc ⟨4, .v 3, .v 2, 0, false, false⟩) (start .C fun a => { a with vec := { a.vec with
      vlen := 20, v := (a.vec.v.set 3 (BitVec.ofNat 2048 (packLanes 8 [0, 255, 1, 255, 0, 0, 0, 0, 0, 0, 1, 1, 1, 1, 1, 255, 255, 255, 255, 255]))).set 2
        (BitVec.ofNat 2048 (packLanes 8 ((List.range 20).map (· + 1)))) } }) =
    some [packLanes 32 [0xFFFFFFFD, 0, 23, 26, 0xFFFFFFB6]] := by decide +kernel

theorem test_vredadd_vextr :
    pipeData (.vredadd ⟨5, .v 4, 0, .int .w32 false false false⟩) (start .C fun a => { a with vec := { a.vec with
      vlen := 20, v := a.vec.v.set 4 (BitVec.ofNat 2048 (packLanes 32 [0xFFFFFFFD, 0, 23, 26, 0xFFFFFFB6])) } }) = some [0xFFFFFFE4] ∧
    pipeData (.vextr ⟨6, .v 5, true, .w32, 0⟩) (start .C fun a => { a with vec := { a.vec with v := a.vec.v.set 5 0xFFFFFFE4 } }) =
      some [0xFFFFFFFFFFFFFFE4] := by decide +kernel

/-- R198: offset 0x2_0328 lies in bank 8 of its row in the skewed layout. -/
theorem test_skew : skewKey 0x20328 = 0x20340 := by decide +kernel

/-- R406: three dies of group 7 request steps 0, 2 and 5; the tick at 1,050,000 ns sees what stood at 1,030,000 ns. -/
theorem test_clock_plan : stepAt (1050000 - 20000) [(1013000, 5, 7), (900000, 2, 7)] = (5, 7) ∧
    stepAt (1000000 - 20000) [(1013000, 5, 7), (900000, 2, 7)] = (2, 7) := by
  decide +kernel

/-- R5, R50: COMMA_LIMIT clamps; R129: so does VLEN. -/
theorem test_clamps : gives (.srw (.x 1) 0x0109) (start .K (x .K 1 5)) (fun t => t.mySeat.cut.commaLimit) = some 1024 ∧
    ((start .C id).sysWrite ⟨seat0, .C⟩ 0x0300 257).mySeat.vec.vlen = 256 := by decide +kernel

/-- R160, R75: an ENDW that branches back; SUBW takes the top from the entry below it. -/
theorem test_words :
    gives .endw (start .K (matrix fun c => { c with loops := [⟨1, 2, 3⟩], pc := 3 })) (fun t => (t.myEng.pc, t.myEng.loops)) = some (1, [⟨1, 1, 3⟩]) ∧
    gives .subw (start .K (matrix fun c => { c with stack := [3, 10] })) (fun t => t.myEng.stack) = some [7] ∧
    gives (.litx 0x9170) (start .K (matrix fun c => { c with stack := [2] })) (fun t => t.myEng.stack) = some [70000] := by decide +kernel

/-- R202, R206: a scalar doubleword load reaches −1,024 bytes; its slot is PENDING. -/
theorem test_landing_load : gives (.ld 5 1 0 3 128) (start .L (x .L 1 0x500))
      (fun t => (t.mySeat.ln[(5 : Fin 64)].state, t.mySeat.loads.map fun l => (l.va, l.size))) = some (1, [(0x100, 8)]) ∧
    gives (.ld 5 1 0 3 0) (start .L (x .L 1 0x501)) (fun t => fld t.mySeat.trap.info 16 5) = some Cause.align.code := by decide +kernel

/-- R202, R205: STORE_PERFORM leaves the bytes low first. -/
theorem test_store_performs : gives (.storePerform 0) { start .S id with flights := [{ flight with data := 0x0102030405060708 }] }
      (fun t => (Cells.read t.mem 0x100, Cells.read t.mem 0x107, t.flights.length)) = some (8, 1, 0) := by decide +kernel

/-- R354: with HIDDEN = 8, logical dies 0 to 7 are usable; a quarantined one is not (R204). -/
theorem test_dies : (State.reset.dieUsable 7, State.reset.dieUsable 8, ({ State.reset with quar := 1 } : State).dieUsable 0) = (true, false, false) := by
  decide +kernel

/-- R227: the cipher of the stacks on the example of AES-256 (FIPS 197). -/
theorem test_aes : Aes.encrypt (List.range 32) ((List.range 16).map (17 * ·)) =
      [0x8E, 0xA2, 0xB7, 0xCA, 0x51, 0x67, 0x45, 0xBF, 0xEA, 0xFC, 0x49, 0x90, 0x4B, 0x49, 0x60, 0x89] ∧
    Aes.decryptUnit 7 3 (Aes.encryptUnit 7 3 0x1234) = 0x1234 := by decide +kernel

/-- R84, R135: a BF16 product that rounds up to the least normal number is not flushed by .ftz. -/
theorem test_bf16_ftz : pipeData (.vmulFp ⟨5, .v 1, .v 2, 0, .bf16, .rn, true, false⟩) (start .C fun a => { a with vec := { a.vec with
      vlen := 2, v := (a.vec.v.set 1 0x2035).set 2 0x1FB5 } }) = some [0x0080, 16] := by decide +kernel

/-- R290: COPY #3, sync, die=2; a hint without H, and three dimensions too many, are undefined. -/
theorem test_copy_words : decodeEngine .copy 0x42A8 0 = some (.copy ⟨2, true, some 2, 0⟩) ∧ decodeEngine .copy 0x4288 0 = none ∧
    decodeEngine .copy 0x4300 0 = none := by decide +kernel

/-- R178: a queue entry of 3 core cycles enqueued before one of 1 stands behind it. -/
theorem test_queue_order : (({ Fifo.reset with items := [⟨7, 103⟩] } : Fifo).push 9 101).items.map (·.data.toNat) = [9, 7] := by decide +kernel

/-- A word placed at reset is the first instruction that runs: ADDI x1, x1, 0x201. -/
theorem test_first_word : (match step (State.reset.withFetchWord 32 0x0C105008) with | .next t => some (t.me.rdX 1, t.turn.stream) | _ => none) =
    some (0x201, .K) := by decide +kernel

end Sys2Proof.Tests
end

section
/-! SUPPORT. What the parts of the reset state are, and obligation O59. -/
namespace Sys2Proof.Machine

/-! ## The parts of the reset state -/

theorem reset_core (c : Fin 904) : State.reset.core[c] = Core.reset := by simp [State.reset]

theorem reset_stack (n : Fin 24) : State.reset.stack[n] = Stack.reset := by simp [State.reset]

theorem reset_die (d : Fin 8) : State.reset.die[d] = Die.reset := by simp [State.reset]

theorem reset_seat (k : Fin 2) : Core.reset.seat[k] = Seat.reset := by simp [Core.reset]

theorem Seat.reset_str (j : Fin 4) : Seat.reset.str[j] = Stream.reset := by simp [Seat.reset]

theorem Seat.reset_ln (n : Fin 64) : Seat.reset.ln[n] = Slot.reset := by simp [Seat.reset]

theorem Seat.reset_lex (y : Fin 32) : Seat.reset.lex[y] = LexEntry.reset := by simp [Seat.reset]

theorem Die.reset_lq (q : Fin 64) : Die.reset.lq[q] = LaunchQ.reset := by simp [Die.reset]

/-- Every byte reads 0 when memory lists nothing (R200; log 3). -/
theorem reset_byteAt (k : Nat) : State.reset.byteAt k = 0 := by
  unfold State.byteAt
  rw [reset_mem]
  rfl

/-- Settles O59, part by part: each part of the reset state is the reset value of its kind. -/
theorem resetState : Obligations.ResetState := by
  unfold Obligations.ResetState
  refine ⟨?wf, reset_byteAt, rfl, rfl, rfl, rfl, ?core, ?stack, ?die⟩
  case wf => rw [reset_mem]; rfl
  case core =>
    intro c
    rw [reset_core]
    refine ⟨rfl, rfl, fun k => ?_⟩
    rw [reset_seat]
    refine ⟨rfl, rfl, rfl, rfl, rfl, rfl, rfl, rfl, ?_, ?_, fun j => ?_⟩
    · intro n; rw [Seat.reset_ln]; rfl
    · intro y; rw [Seat.reset_lex]; rfl
    · rw [Seat.reset_str]; exact ⟨rfl, rfl, rfl⟩
  case stack => intro n; rw [reset_stack]; exact ⟨rfl, rfl⟩
  case die =>
    intro d
    rw [reset_die]
    exact ⟨rfl, fun q => by rw [Die.reset_lq]; rfl⟩

end Sys2Proof.Machine
end

section
/-! SUPPORT. What the hub's reads leave unchanged: they log and count errors in the stacks, and do nothing else (R230). -/
namespace Sys2Proof.Machine

/-- Nothing has changed but the error tables and error counts of the stacks (R230). -/
structure OnlyNotes (s t : State) : Prop where
  rest   : t = { s with stack := t.stack }
  errors : SameStacks s t

theorem OnlyNotes.core {s t : State} (h : OnlyNotes s t) : t.core = s.core := by rw [h.rest]

theorem OnlyNotes.mem {s t : State} (h : OnlyNotes s t) : t.mem = s.mem := by rw [h.rest]

theorem OnlyNotes.timebase {s t : State} (h : OnlyNotes s t) : t.timebase = s.timebase := by rw [h.rest]

theorem OnlyNotes.getSeat {s t : State} (h : OnlyNotes s t) (r : SeatRef) : t.getSeat r = s.getSeat r := by
  unfold State.getSeat
  rw [h.core]

theorem onlyNotes_refl (s : State) : OnlyNotes s s := ⟨rfl, fun _ => rfl⟩

theorem onlyNotes_trans {s t u : State} (h : OnlyNotes s t) (k : OnlyNotes t u) : OnlyNotes s u :=
  ⟨by rw [k.rest, h.rest], fun n => by rw [← h.errors n, ← k.errors n]⟩

/-- A change of one stack that leaves it but for its error tables and counts. -/
theorem onlyNotes_modStack (s : State) (k : Nat) (f : Stack → Stack)
    (h : ∀ a, { f a with recent := a.recent, table := a.table, next := a.next, ueCount := a.ueCount, ceCount := a.ceCount,
                         bankErr := a.bankErr } = a) : OnlyNotes s (s.modStack k f) := by
  unfold State.modStack
  split
  · rename_i hk
    refine ⟨rfl, fun n => ?_⟩
    by_cases e : k = n.val
    · subst e; simpa using h _
    · simp [e]
  · exact onlyNotes_refl s

/-- Notes made one after another are notes. -/
theorem onlyNotes_foldl {α : Type} (g : State → α → State) (h : ∀ t a, OnlyNotes t (g t a)) (l : List α) (s : State) :
    OnlyNotes s (l.foldl g s) := by
  induction l generalizing s with
  | nil => exact onlyNotes_refl s
  | cons a r ih => exact onlyNotes_trans (h s a) (ih _)

theorem onlyNotes_noteBad (s : State) (p : Place) (n : Nat) (scan : Bool) : OnlyNotes s (s.noteBad p n scan) := by
  unfold State.noteBad
  generalize (2 : Nat) ^ 36 = m
  split
  · exact onlyNotes_refl s
  · refine onlyNotes_foldl _ (fun t u => onlyNotes_modStack t _ _ ?_) _ _
    exact fun _ => rfl

theorem onlyNotes_noteCorr (s : State) (p : Place) (n : Nat) : OnlyNotes s (s.noteCorr none p n) := by
  unfold State.noteCorr
  generalize (2 : Nat) ^ 36 = m
  split
  · refine onlyNotes_foldl _ (fun t u => onlyNotes_modStack t _ _ ?_) _ _
    exact fun _ => rfl
  · exact onlyNotes_refl s

theorem onlyNotes_noteWalk (s : State) (l : List Place) : OnlyNotes s (s.noteWalk l) :=
  onlyNotes_foldl _ (fun t p => onlyNotes_trans (onlyNotes_noteBad t p 8 false) (onlyNotes_noteCorr _ p 8)) l s

theorem onlyNotes_hubWalk (s : State) (d : Fin 8) (va : Nat) : OnlyNotes s (s.hubWalk d va) := by
  unfold State.hubWalk
  split
  · exact onlyNotes_refl s
  · exact onlyNotes_noteWalk s _

theorem onlyNotes_hubNote (s : State) (d : Fin 8) (va n : Nat) : OnlyNotes s (s.hubNote d va n) := by
  induction n generalizing s va with
  | zero => exact onlyNotes_refl s
  | succ n ih =>
    have walk := onlyNotes_hubWalk s d va
    simp only [State.hubNote]
    split
    · exact onlyNotes_trans walk (ih _ _)
    · have bad := onlyNotes_trans walk (onlyNotes_noteBad _ ‹Place› 256 false)
      exact onlyNotes_trans (onlyNotes_trans bad (onlyNotes_noteCorr _ _ 256)) (ih _ _)

theorem onlyNotes_mapNote (s : State) (r : SeatRef) (m : Nat) : OnlyNotes s (s.mapNote r m) := by
  unfold State.mapNote
  split
  · exact onlyNotes_refl s
  · split
    · exact onlyNotes_refl s
    · exact onlyNotes_hubNote s _ _ _

theorem onlyNotes_grantNote (s : State) (d : Fin 8) (lexd wins : Nat) : OnlyNotes s (s.grantNote d lexd wins) := by
  have lex : OnlyNotes s (if lexd = 0 then s else s.hubNote d (lexd / 256 * 256) 3) := by
    split
    · exact onlyNotes_refl s
    · exact onlyNotes_hubNote s _ _ _
  unfold State.grantNote
  dsimp only
  split
  · exact lex
  · exact onlyNotes_trans lex (onlyNotes_hubNote _ _ _ _)

end Sys2Proof.Machine
end

section
/-! SUPPORT. What latching a cut, resuming and restoring a seat do to its parts (R47, R191, R194), and obligation O47. -/
namespace Sys2Proof.Machine

/-! ## Latches -/

/-- Of a seat, `latchCut` changes the latch alone (R47). -/
theorem Seat.latchCut_eq (st : Seat) : ∃ l, st.latchCut = { st with cut := { st.cut with latch := l } } := by
  unfold Seat.latchCut
  split
  · split
    · exact ⟨_, rfl⟩
    · exact ⟨st.cut.latch, rfl⟩
  · split
    · exact ⟨st.cut.latch, rfl⟩
    · exact ⟨_, rfl⟩

/-! ## Resuming a seat -/

theorem Seat.wake_str (st : Seat) (j : Fin 4) : st.wake.str[j] = st.str[j].dropBad := by simp [Seat.wake, Seat.freezeEngines, Seat.unstick]

theorem Seat.restart_str (st : Seat) (pcs : Vector Word 4) (j : Fin 4) :
    (st.restart pcs).str[j] = { st.str[j] with
      pc := pcs[j], halted := false, comma := if st.atLatch st.str[j] then st.str[j].comma else none, wait := .none } := by
  simp [Seat.restart]

theorem Seat.modStr_str (st : Seat) (i : StreamId) (f : Stream → Stream) (j : Fin 4) :
    (st.modStr i f).str[j] = if j = i.idx then f st.str[j] else st.str[j] := by
  by_cases h : j = i.idx
  · subst h; simp [Seat.modStr]
  · rw [if_neg h]; exact vmod_ne _ _ h

theorem Seat.enterRetime_str (st : Seat) (j : Fin 4) :
    st.enterRetime.str[j] = if j = 0 then { st.str[j] with pc := st.cut.retimeVec, halted := false, comma := none } else st.str[j] :=
  st.modStr_str .K _ j

theorem Seat.getStr_K (st : Seat) : st.getStr .K = st.str[(0 : Fin 4)] := rfl

/-- ACTIVE and KIND are set where the re-timing handler is entered (R50). -/
theorem Seat.enterRetime_trap (st : Seat) : st.enterRetime.trap.active = true ∧ st.enterRetime.trap.kind = true := by
  constructor
  · show ((st.trap.info ||| 12) &&& ~~~1).getLsbD 2 = true
    simp
  · show ((st.trap.info ||| 12) &&& ~~~1).getLsbD 3 = true
    simp

/-- The first of the four ways of resuming a Faulted seat: behind a second fault (R194). The next three are: into the re-timing handler that
a cut owes, in place after the cut at retirement, and else at FAULT_PC (R47, R191). -/
theorem Seat.resumeFaulted_nested {st : Seat} (h : st.trap.nested = true) :
    st.resumeFaulted = (({ st with trap := { st.trap with info := st.trap.info &&& ~~~2, nestInfo := st.trap.nestInfo &&& ~~~1 } } :
      Seat).modStr .K fun k => { k with pc := st.trap.nestPc, halted := false, wait := .none }).wake := if_pos h

theorem Seat.resumeFaulted_retime {st : Seat} (h : st.trap.nested = false) (ho : st.resumeOwesRetime = true) :
    st.resumeFaulted = (({ st with cut := { st.cut with pc := st.trap.pc } } : Seat).enterRetime).wake := by
  simp [Seat.resumeFaulted, h, ho]

theorem Seat.resumeFaulted_inPlace {st : Seat} (h : st.trap.nested = false) (ho : st.resumeOwesRetime = false)
    (hr : st.cut.atRetire = true ∧ st.trap.src = 7) :
    st.resumeFaulted = ({ st with trap := { st.trap with info := st.trap.info &&& ~~~5 }, c := { st.c with held := false } } :
      Seat).wake := by
  simp [Seat.resumeFaulted, h, ho, hr]

theorem Seat.resumeFaulted_atPcs {st : Seat} (h : st.trap.nested = false) (ho : st.resumeOwesRetime = false)
    (hr : ¬(st.cut.atRetire = true ∧ st.trap.src = 7)) :
    st.resumeFaulted = ({ st.restart st.trap.pc with trap := { st.trap with info := st.trap.info &&& ~~~5 } } : Seat).wake.latchCut := by
  simp only [Seat.resumeFaulted, h, ho, Bool.and_eq_true, decide_eq_true_eq, if_neg hr, Bool.false_eq_true, if_false]
  rfl

/-- What the fault service leaves of a seat that it resumes: everything but where its streams stand, C's hold, the trap and cut registers,
and what holds its engines (R25, R191). -/
structure Resumed (a u : Seat) : Prop where
  inst   : u.inst = { a.inst with phase := .running }
  vec    : u.vec = a.vec
  q      : u.q = a.q
  tile   : u.tile = a.tile
  lex    : u.lex = a.lex
  sys    : u.sys = a.sys
  loads  : u.loads = a.loads
  stores : u.stores = a.stores
  pcs    : u.trap.pc = a.trap.pc
  regs   : ∀ j : Fin 4, u.str[j].x = a.str[j].x ∧ u.str[j].p = a.str[j].p ∧ u.str[j].t = a.str[j].t

theorem resumed_resumeFaulted (a : Seat) : Resumed a a.resumeFaulted := by
  by_cases hn : a.trap.nested = true
  · rw [Seat.resumeFaulted_nested hn]
    refine ⟨rfl, rfl, rfl, rfl, rfl, rfl, rfl, rfl, rfl, fun j => ?_⟩
    rw [Seat.wake_str, Seat.modStr_str]
    split <;> exact ⟨rfl, rfl, rfl⟩
  replace hn : a.trap.nested = false := by simpa using hn
  by_cases ho : a.resumeOwesRetime = true
  · rw [Seat.resumeFaulted_retime hn ho]
    refine ⟨rfl, rfl, rfl, rfl, rfl, rfl, rfl, rfl, rfl, fun j => ?_⟩
    rw [Seat.wake_str, Seat.enterRetime_str]
    split <;> exact ⟨rfl, rfl, rfl⟩
  replace ho : a.resumeOwesRetime = false := by simpa using ho
  by_cases hr : a.cut.atRetire = true ∧ a.trap.src = 7
  · rw [Seat.resumeFaulted_inPlace hn ho hr]
    refine ⟨rfl, rfl, rfl, rfl, rfl, rfl, rfl, rfl, rfl, fun j => ?_⟩
    rw [Seat.wake_str]
    exact ⟨rfl, rfl, rfl⟩
  · rw [Seat.resumeFaulted_atPcs hn ho hr]
    obtain ⟨l, hl⟩ := Seat.latchCut_eq ({ a.restart a.trap.pc with trap := { a.trap with info := a.trap.info &&& ~~~5 } } : Seat).wake
    rw [hl]
    refine ⟨rfl, rfl, rfl, rfl, rfl, rfl, rfl, rfl, rfl, fun j => ?_⟩
    dsimp only
    rw [Seat.wake_str]
    dsimp only
    rw [Seat.restart_str]
    exact ⟨rfl, rfl, rfl⟩

/-- R47, R194: K goes on at NEST_PC behind a second fault, the other streams stand where they stood. -/
theorem resumeFaulted_of_nested {a : Seat} (hn : a.trap.nested = true) : let u := a.resumeFaulted
    (u.getStr .K).pc = a.trap.nestPc ∧ (∀ j : Fin 4, j ≠ 0 → u.str[j].pc = a.str[j].pc) ∧
      u.trap.nested = false ∧ bit u.trap.nestInfo 0 = false ∧ u.trap.active = a.trap.active := by
  intro u
  have hu : u = _ := Seat.resumeFaulted_nested hn
  rw [Seat.getStr_K, hu]
  refine ⟨?_, fun j hj => ?_, ?_, ?_, ?_⟩
  · rw [Seat.wake_str, Seat.modStr_str]; rfl
  · rw [Seat.wake_str, Seat.modStr_str, if_neg (by exact hj)]; rfl
  · show (a.trap.info &&& ~~~2).getLsbD 1 = false
    simp
  · show (a.trap.nestInfo &&& ~~~1).getLsbD 0 = false
    simp
  · show (a.trap.info &&& ~~~2).getLsbD 2 = a.trap.info.getLsbD 2
    simp

/-- R191: a cut whose LATENCY_BOUND has been handled owes the re-timing handler, which K enters. -/
theorem resumeFaulted_of_retime {a : Seat} (hn : a.trap.nested = false) (ho : a.resumeOwesRetime = true) : let u := a.resumeFaulted
    (u.getStr .K).pc = a.cut.retimeVec ∧ u.cut.pc = a.trap.pc ∧ u.trap.active = true ∧ u.trap.kind = true := by
  intro u
  have hu : u = _ := Seat.resumeFaulted_retime hn ho
  rw [Seat.getStr_K, hu]
  refine ⟨?_, rfl, Seat.enterRetime_trap _⟩
  rw [Seat.wake_str, Seat.enterRetime_str]; rfl

/-- R47: after the cut at retirement the streams stay where they are, and C's pipeline is free at once. -/
theorem resumeFaulted_of_atRetire {a : Seat} (hn : a.trap.nested = false) (ho : a.resumeOwesRetime = false)
    (hr : a.cut.atRetire = true ∧ a.trap.src = 7) : let u := a.resumeFaulted
    (∀ j : Fin 4, u.str[j].pc = a.str[j].pc ∧ u.str[j].halted = a.str[j].halted) ∧ u.c.held = false ∧ bit u.trap.info 0 = false := by
  intro u
  have hu : u = _ := Seat.resumeFaulted_inPlace hn ho hr
  rw [hu]
  refine ⟨fun j => ?_, rfl, ?_⟩
  · rw [Seat.wake_str]; exact ⟨rfl, rfl⟩
  · show (a.trap.info &&& ~~~5).getLsbD 0 = false
    simp

/-- R191, R194: else the streams restart at FAULT_PC, and C's pipeline is released. -/
theorem resumeFaulted_of_fault {a : Seat} (hn : a.trap.nested = false) (ho : a.resumeOwesRetime = false)
    (hr : ¬(a.cut.atRetire = true ∧ a.trap.src = 7)) : let u := a.resumeFaulted
    (∀ j : Fin 4, u.str[j].pc = a.trap.pc[j] ∧ u.str[j].halted = false ∧ u.str[j].wait = .none) ∧ u.c.held = true ∧
      u.c.release = true ∧ bit u.trap.info 0 = false ∧ u.trap.active = false := by
  intro u
  have hu : u = _ := Seat.resumeFaulted_atPcs hn ho hr
  obtain ⟨l, hl⟩ := Seat.latchCut_eq ({ a.restart a.trap.pc with trap := { a.trap with info := a.trap.info &&& ~~~5 } } : Seat).wake
  rw [hu, hl]
  refine ⟨fun j => ?_, rfl, rfl, ?_, ?_⟩
  · dsimp only
    rw [Seat.wake_str]
    dsimp only
    rw [Seat.restart_str]
    exact ⟨rfl, rfl, rfl⟩
  · show (a.trap.info &&& ~~~5).getLsbD 0 = false
    simp
  · show (a.trap.info &&& ~~~5).getLsbD 2 = false
    simp

/-! ## Writing a save area back -/

/-- The system core's reads of a save area change one seat and the stacks' error tables (R194, R230). -/
theorem restoreContext_eq (s : State) (r : SeatRef) :
    ∃ n f, OnlyNotes s n ∧ s.restoreContext r = n.modSeat r f := by
  unfold State.restoreContext
  refine ⟨_, _, ?_, rfl⟩
  exact onlyNotes_trans (onlyNotes_hubNote _ _ _ _) (onlyNotes_mapNote _ _ _)

/-- What a seat has from its save area (R193, R194). -/
structure Restored (s : State) (r : SeatRef) (u : Seat) : Prop where
  inst   : u.inst = (s.getSeat r).inst
  wid    : u.sys.wid = s.saveWord r 0
  vlen   : u.vec.vlen = s.saveWord r 0x48
  vstat  : u.vec.vstat = s.saveWord r 0x50
  entry  : u.trap.vec = s.saveWord r 0x90
  info   : u.cut.info = s.saveWord r 0x18
  retime : u.cut.retimeVec = s.saveWord r 0x80
  pc     : ∀ j : Fin 4, u.cut.pc[j] = s.saveWord r (0x28 + 8 * j.val)
  passes : ∀ j : Fin 4, u.str[j].passes = BitVec.ofNat 32 (s.saveRead r (0xA0 + 4 * j.val) 4)
  ln     : ∀ n : Fin 64, u.ln[n].data = BitVec.ofNat 2048 (s.saveRead r (0x2200 + 256 * n.val) 256)

theorem restored_restoreContext (s : State) (r : SeatRef) : Restored s r ((s.restoreContext r).getSeat r) := by
  have notes := onlyNotes_trans (onlyNotes_hubNote s (coreDie r.core) (s.getSeat r).saveArea 0x3E8)
    (onlyNotes_mapNote _ r (fld (s.saveWord r 0x18) 16 6))
  unfold State.restoreContext
  rw [State.modSeat_getSeat, notes.getSeat]
  refine ⟨rfl, rfl, rfl, rfl, rfl, rfl, rfl, fun j => ?_, fun j => ?_, fun n => ?_⟩
  all_goals simp [State.restoreStream, State.restoreSlot]

/-- A pre-empted seat goes on with what its save area gave it, and runs (R194). -/
theorem Restored.resumePreempted {s : State} {r : SeatRef} {a : Seat} (h : Restored s r a) : let u := a.resumePreempted
    u.inst = { (s.getSeat r).inst with phase := .running } ∧
      u.sys.wid = s.saveWord r 0 ∧ u.vec.vlen = s.saveWord r 0x48 ∧
      u.vec.vstat = s.saveWord r 0x50 ∧ u.trap.vec = s.saveWord r 0x90 ∧ u.cut.info = s.saveWord r 0x18 ∧
      (∀ j : Fin 4, u.str[j].passes = BitVec.ofNat 32 (s.saveRead r (0xA0 + 4 * j.val) 4)) ∧
      (∀ n : Fin 64, u.ln[n].data = BitVec.ofNat 2048 (s.saveRead r (0x2200 + 256 * n.val) 256)) ∧
      if bit (s.saveWord r 0x18) 3 ∧ s.saveWord r 0x80 ≠ 0 then (u.getStr .K).pc = s.saveWord r 0x80 ∧ u.trap.kind = true
      else ∀ j : Fin 4, u.str[j].pc = s.saveWord r (0x28 + 8 * j.val) := by
  intro u
  have inst : ({ a.inst with phase := .running } : Inst) = { (s.getSeat r).inst with phase := .running } := by rw [h.inst]
  by_cases hr : bit (s.saveWord r 0x18) 3 ∧ s.saveWord r 0x80 ≠ 0
  · have hu : u = a.wake.enterRetime := by
      have : (bit a.wake.cut.info 3 && decide (a.wake.cut.retimeVec ≠ 0)) = true := by
        show (bit a.cut.info 3 && decide (a.cut.retimeVec ≠ 0)) = true
        rw [h.info, h.retime]; simpa using hr
      exact if_pos this
    rw [if_pos hr, Seat.getStr_K, hu]
    refine ⟨inst, h.wid, h.vlen, h.vstat, h.entry, h.info, fun j => ?_, h.ln, ?_, (Seat.enterRetime_trap _).2⟩
    · rw [← h.passes j, Seat.enterRetime_str, Seat.wake_str]
      split <;> rfl
    · rw [Seat.enterRetime_str]; exact h.retime
  · have hu : u = (a.wake.restart a.wake.cut.pc).latchCut := by
      have : ¬(bit a.wake.cut.info 3 && decide (a.wake.cut.retimeVec ≠ 0)) = true := by
        show ¬(bit a.cut.info 3 && decide (a.cut.retimeVec ≠ 0)) = true
        rw [h.info, h.retime]; simpa using hr
      exact if_neg this
    obtain ⟨l, hl⟩ := Seat.latchCut_eq (a.wake.restart a.wake.cut.pc)
    rw [if_neg hr, hu, hl]
    refine ⟨inst, h.wid, h.vlen, h.vstat, h.entry, h.info, fun j => ?_, h.ln, fun j => ?_⟩
    · dsimp only
      rw [Seat.restart_str, Seat.wake_str]
      exact h.passes j
    · dsimp only
      rw [Seat.restart_str]
      exact h.pc j

/-! ## The fault service -/

theorem exec_faultServiceResume_faulted {s : State} {r : SeatRef} (h : (s.getSeat r).inst.phase = .faulted) :
    exec (.faultServiceResume r) s = .next (s.modSeat r Seat.resumeFaulted) := by
  show execFaultServiceResume r s = _
  simp only [execFaultServiceResume, h]

theorem exec_faultServiceResume_preempted {s : State} {r : SeatRef} (h : (s.getSeat r).inst.phase = .preempted) :
    exec (.faultServiceResume r) s = .next ((s.restoreContext r).modSeat r Seat.resumePreempted) := by
  show execFaultServiceResume r s = _
  simp only [execFaultServiceResume, h]

theorem exec_faultServiceResume_else {s : State} {r : SeatRef} (hf : (s.getSeat r).inst.phase ≠ .faulted)
    (hp : (s.getSeat r).inst.phase ≠ .preempted) : exec (.faultServiceResume r) s = .next s := by
  show execFaultServiceResume r s = _
  unfold execFaultServiceResume
  split
  · exact absurd ‹_› hf
  · exact absurd ‹_› hp
  · rfl

/-- Settles O47: a Faulted seat by the four ways of resuming it, a pre-empted one by what its save area gives. -/
theorem faultServiceResumes : Obligations.FaultServiceResumes := by
  unfold Obligations.FaultServiceResumes
  intro s r a
  refine ⟨fun hp => ⟨_, exec_faultServiceResume_faulted hp, ?_⟩, fun hp => ⟨_, exec_faultServiceResume_preempted hp, ?_⟩,
    exec_faultServiceResume_else⟩
  · obtain ⟨inst, vec, q, tile, lex, sys, loads, stores, pcs, regs⟩ := resumed_resumeFaulted a
    dsimp only
    rw [State.modSeat_getSeat]
    exact ⟨onlySeat_modSeat _ _ _, fun _ => rfl, inst, vec, q, tile, lex, sys, loads, stores, pcs, regs,
      resumeFaulted_of_nested, resumeFaulted_of_fault,
      fun hn ho ha hs => resumeFaulted_of_atRetire hn ho ⟨ha, hs⟩, resumeFaulted_of_retime⟩
  · have seat := (restored_restoreContext s r).resumePreempted
    obtain ⟨n, f, notes, hn⟩ := restoreContext_eq s r
    dsimp only
    rw [State.modSeat_getSeat]
    refine ⟨?_, ?_, ?_, seat⟩
    · rw [hn, State.modSeat_modSeat]
      show OnlySeat r { s with stack := n.stack } _
      rw [← notes.rest]
      exact onlySeat_modSeat _ _ _
    · rw [hn]; exact notes.errors
    · rw [hn]
      intro k
      show Cells.read n.mem k = Cells.read s.mem k
      rw [notes.mem]

end Sys2Proof.Machine
end

section
/-! SUPPORT. Bit fields, launch queues, launches and their completion (R25, R306, R307), and what starting a seat does (R26). -/
namespace Sys2Proof.Machine

/-! ## Bit fields -/

theorem getLsbD_putFld {n : Nat} (w : BitVec n) (lo len v i : Nat) (hi : i < n) :
    (putFld w lo len v).getLsbD i = if lo ≤ i ∧ i < lo + len then v.testBit (i - lo) else w.getLsbD i := by
  simp only [putFld, BitVec.getLsbD_or, BitVec.getLsbD_and, BitVec.getLsbD_not, BitVec.getLsbD_ofNat, Nat.testBit_shiftLeft,
    Nat.testBit_two_pow_sub_one, Nat.testBit_mod_two_pow, hi]
  by_cases h : lo ≤ i
  · by_cases k : i - lo < len
    · have e : i < lo + len := by omega
      simp [h, k, e]
    · have e : ¬i < lo + len := by omega
      simp [h, k, e]
  · simp [h]

/-- A field holds what is written to it. -/
theorem fld_putFld {n : Nat} (w : BitVec n) (lo len v : Nat) (h : lo + len ≤ n) : fld (putFld w lo len v) lo len = v % 2 ^ len := by
  refine Nat.eq_of_testBit_eq fun i => ?_
  unfold fld
  rw [Nat.testBit_mod_two_pow, Nat.testBit_mod_two_pow, Nat.testBit_shiftRight]
  by_cases hi : i < len
  · have := getLsbD_putFld w lo len v (lo + i) (by omega)
    rw [if_pos (by omega), Nat.add_sub_cancel_left] at this
    rw [← this]; rfl
  · simp [hi]

/-! ## Launch queues -/

theorem State.modLq_lq (s : State) (q : Fin 512) (f : LaunchQ → LaunchQ) : (s.modLq q f).lq q = f (s.lq q) := by
  simp [State.modLq, State.modDie, State.lq]

theorem State.launchOf_q {s : State} {q : Fin 512} {l : Launch} (h : s.launchOf q = some l) : l.q = q := by
  simpa using List.find?_some h

/-! ## Completion (R25, R307) -/

theorem State.completeLaunch_core (s : State) (l : Launch) : (s.completeLaunch l).core = s.core := rfl

theorem State.completeLaunch_lq (s : State) (l : Launch) :
    let n := if l.ext then 2 else 1
    (s.completeLaunch l).lq l.q =
      { s.lq l.q with ptr := putFld (s.lq l.q).ptr 32 32 ((s.lq l.q).head' + n), wait := none, done := s.seq, head := none,
                      ctl := putFld (s.lq l.q).ctl 12 4 0 ||| (if l.aborted then 0x80000 else 0) } := by
  intro n
  exact State.modLq_lq s l.q _

/-- HEAD advances by the slots of the packet. -/
theorem State.completeLaunch_head (s : State) (l : Launch) :
    ((s.completeLaunch l).lq l.q).head' = ((s.lq l.q).head' + if l.ext then 2 else 1) % 2 ^ 32 := by
  rw [State.completeLaunch_lq]
  exact fld_putFld _ 32 32 _ (by decide)

/-- ACTIVE returns to 0. -/
theorem State.completeLaunch_active (s : State) (l : Launch) : ((s.completeLaunch l).lq l.q).active = false := by
  rw [State.completeLaunch_lq]
  have off : (putFld (s.lq l.q).ctl 12 4 0).getLsbD 12 = false := getLsbD_putFld _ 12 4 0 12 (by decide)
  show (_ ||| _ : Word).getLsbD 12 = false
  rw [BitVec.getLsbD_or, off]
  split <;> rfl

/-- A launch that was aborted sets ABORTED. -/
theorem State.completeLaunch_aborted (s : State) (l : Launch) (h : l.aborted = true) :
    bit ((s.completeLaunch l).lq l.q).ctl 19 = true := by
  rw [State.completeLaunch_lq]
  simp [bit, h]

/-! ## Starting a seat -/

/-- A bookmark that is due changes BOOKMARK and the latch alone (R390). -/
theorem Seat.bookmarkDue_eq (st : Seat) : ∃ b l, st.bookmarkDue = { st with cut := { st.cut with bookmark := b, latch := l } } := by
  unfold Seat.bookmarkDue
  split
  · obtain ⟨l, hl⟩ := Seat.latchCut_eq { st with cut := { st.cut with bookmark := true } }
    exact ⟨true, l, hl⟩
  · exact ⟨st.cut.bookmark, st.cut.latch, rfl⟩

theorem Seat.begin_str (st : Seat) (w : Word) (fwd : StreamId → List Nat) (j : Fin 4) :
    (st.begin' w fwd).str[j] = { Stream.reset with pc := st.inst.entry[j] &&& ~~~3, halted := false, fwd := fwd (streamAt j) } := by
  simp [Seat.begin']

theorem streamAt_idx (j : StreamId) : streamAt j.idx = j := by cases j <;> rfl

theorem Stream.reset_rdX (n : Fin 32) : Stream.reset.rdX n = 0 := by simp [Stream.rdX, Stream.reset]

theorem Stream.reset_t (n : Fin 8) : Stream.reset.t[n] = 0 := by simp [Stream.reset]

theorem exec_instanceStart {s : State} {r : SeatRef} {l : Launch} (hp : (s.getSeat r).inst.phase = .dispatched)
    (hd : s.dieInReset (coreDie r.core).val = false) (hl : s.launchOf (s.getSeat r).inst.q = some l) :
    exec (.instanceStart r) s = .next (s.modSeat r fun st =>
      (st.begin' (l.wid (s.getSeat r).inst.key (s.getSeat r).inst.free (s.getSeat r).inst.serial) fun j =>
        s.onWay (acquired ⟨r, j⟩ .device l.heard)).bookmarkDue.latchCut) := by
  show execInstanceStart r s = _
  simp [execInstanceStart, hp, hd, hl, State.modSeat]

end Sys2Proof.Machine
end

section
/-! SUPPORT. The cut at retirement (R47) and retirement (R25), and obligation O44. -/
namespace Sys2Proof.Machine

/-! ## Frames -/

/-- A seat is read from the cores alone. -/
theorem State.getSeat_congr {s t : State} (h : t.core = s.core) (r : SeatRef) : t.getSeat r = s.getSeat r := by
  unfold State.getSeat
  rw [h]

theorem State.completeLaunch_getSeat (s : State) (l : Launch) (r : SeatRef) : (s.completeLaunch l).getSeat r = s.getSeat r :=
  State.getSeat_congr (s.completeLaunch_core l) r

theorem State.modSeat_getSeat_ne (s : State) {r x : SeatRef} (f : Seat → Seat) (h : x ≠ r) : (s.modSeat r f).getSeat x = s.getSeat x := by
  obtain ⟨⟨-, cores⟩, -, seats⟩ := onlySeat_modSeat s r f
  obtain ⟨c, k⟩ := x
  by_cases hc : c = r.core
  · subst hc
    exact seats k fun e => h (by rw [e])
  · exact congrArg (fun a : Core => a.seat[k]) (cores c hc)

/-! ## Step 5 of a cut -/

/-- What a cut at retirement, before anything is delivered, has done to a seat (R47, R324). -/
structure CutAtRetire (a u : Seat) : Prop where
  latch    : u.cut.latch = none
  preempt  : u.cut.preempt = false
  atRetire : u.cut.atRetire = true
  bound    : ∀ y : Fin 32, u.lex[y].b = if a.lex[y].setb then a.lex[y].sb else if a.lex[y].state = 2 then a.lex[y].p else a.lex[y].b

/-- The seat after step 5 of a cut at retirement. -/
def Seat.cutRetired (st : Seat) (n : BitVec 32) : Seat :=
  let a := (st.applyCut n 0 0 true).1.resetConj
  ({ a with cut := { a.cut with preempt := false } } : Seat).freezeEngines false

theorem Measure.settle_b (e : LexEntry) (now : Nat) (dlv : Bool) :
    (Measure.settle e now dlv).b = if e.setb then e.sb else if e.state = 2 then e.p else e.b := by
  unfold Measure.settle
  dsimp only
  split
  · rfl
  · split <;> rfl

/-- Step 5 settles the lexicon, writes the cut registers and counts its events; a seat's trap registers and `inst` stay. -/
theorem Seat.applyCut_eq (st : Seat) (n : BitVec 32) (index : BitVec 10) (map : BitVec 6) (b : Bool) :
    ∃ info syms pc str sys, (st.applyCut n index map b).1 =
      { st with lex := st.settleLexicon.1.lex, str := str, sys := sys,
                cut := { st.cut with info := info, syms := syms, pc := pc, latch := none, atRetire := b } } := by
  unfold Seat.applyCut
  dsimp only
  split <;> exact ⟨_, _, _, _, _, rfl⟩

theorem Seat.cutRetired_rest (st : Seat) (n : BitVec 32) : (st.cutRetired n).trap = st.trap ∧ (st.cutRetired n).inst = st.inst := by
  obtain ⟨info, syms, pc, str, sys, h⟩ := st.applyCut_eq n 0 0 true
  unfold Seat.cutRetired
  rw [h]
  exact ⟨rfl, rfl⟩

theorem Seat.cutAtRetire_cutRetired (st : Seat) (n : BitVec 32) : CutAtRetire st (st.cutRetired n) := by
  obtain ⟨info, syms, pc, str, sys, h⟩ := st.applyCut_eq n 0 0 true
  unfold Seat.cutRetired
  rw [h]
  refine ⟨rfl, rfl, rfl, fun y => ?_⟩
  show st.settleLexicon.1.lex[y].b = _
  simp [Seat.settleLexicon, Measure.settle_b]

/-- A LATENCY_BOUND is delivered exactly where one is due (R44). -/
theorem Seat.applyCut_delivers (st : Seat) (n : BitVec 32) (index : BitVec 10) (map : BitVec 6) (b : Bool) :
    (st.applyCut n index map b).2.isSome = st.boundDue := by
  show ((List.finRange 32).find? fun i => decide (st.lex[i].state = 3)).isSome = st.boundDue
  rw [Bool.eq_iff_iff]
  simp [Seat.boundDue, Fin.exists_iff, Vector.any_eq_true]

/-! ## A fault at a cut -/

theorem fld_mkInfo_src (detail src cause low : Nat) (h : low < 2 ^ 16) : fld (mkInfo detail src cause low) 21 3 = src % 8 := by
  simp only [fld, mkInfo, BitVec.toNat_ofNat, Nat.shiftRight_eq_div_pow]
  omega

theorem bit_mkInfo_zero (detail src cause low : Nat) (h : low % 2 = 1) : bit (mkInfo detail src cause low) 0 = true := by
  simp only [bit, mkInfo, BitVec.getLsbD_ofNat, Nat.testBit_zero]
  exact Bool.and_eq_true_iff.2 ⟨rfl, decide_eq_true (by omega)⟩

/-- Stopping the streams of a seat leaves all else of it (R189). -/
theorem Seat.stopStreams_eq (st : Seat) (src : Nat) : ∃ str, st.stopStreams src = { st with str := str } := by
  have pass (a : Seat) (i : StreamId) : ∃ str, a.passHeld src i = { a with str := str } := by
    unfold Seat.passHeld
    split
    · split
      · exact ⟨_, rfl⟩
      · exact ⟨a.str, rfl⟩
    · exact ⟨a.str, rfl⟩
  obtain ⟨k, hk⟩ := pass st .K
  obtain ⟨l, hl⟩ := pass { st with str := k } .L
  obtain ⟨c, hc⟩ := pass { st with str := l } .S
  exact ⟨_, by unfold Seat.stopStreams; rw [hk, hl, hc]; rfl⟩

/-- A fault of a seat in which no handler runs changes its streams, C's hold and its phase; its record says the fault, its source, and
whether a handler starts (R188, R189). -/
theorem Seat.takeFault_fresh {st : Seat} (h : st.trap.active = false) (f : Flt) (src : Nat) (pcs : Vector Word 4) :
    ∃ (handled : Bool) (str : Vector Stream 4) (c : CSched) (inst : Inst) (trap : TrapFile),
      trap.info = mkInfo f.detail src f.cause.code (if handled then 5 else 1) ∧
        st.takeFault f src pcs = { st with str := str, c := c, inst := inst, trap := trap } := by
  unfold Seat.takeFault
  rw [if_neg (by simp [h])]
  by_cases hh : (!f.sys && decide (st.trap.vec ≠ 0)) = true
  · exact ⟨_, _, _, _, _, rfl, if_pos hh⟩
  · exact ⟨_, _, _, _, _, rfl, if_neg hh⟩

/-- The record names its source and is valid, and neither cut registers nor lexicon change (R188). -/
theorem Seat.takeFault_record {st : Seat} (h : st.trap.active = false) (f : Flt) (src : Nat) (pcs : Vector Word 4) :
    let u := st.takeFault f src pcs
    u.cut = st.cut ∧ u.lex = st.lex ∧ u.trap.src = src % 8 ∧ bit u.trap.info 0 = true := by
  intro u
  obtain ⟨handled, str, c, inst, trap, hi, hu⟩ := Seat.takeFault_fresh h f src pcs
  rw [show u = _ from hu]
  refine ⟨rfl, rfl, ?_, ?_⟩
  · show fld trap.info 21 3 = _
    rw [hi]
    exact fld_mkInfo_src _ _ _ _ (by split <;> decide)
  · show bit trap.info 0 = true
    rw [hi]
    exact bit_mkInfo_zero _ _ _ _ (by split <;> rfl)

/-- A fault of a seat at its cut, whose source is 7 (R188). -/
theorem State.takeCutFault_record (s : State) (r : SeatRef) (f : Flt) (h : (s.getSeat r).trap.active = false) :
    let u := (s.takeCutFault r f).getSeat r
    u.cut = (s.getSeat r).cut ∧ u.lex = (s.getSeat r).lex ∧ u.trap.src = 7 ∧ bit u.trap.info 0 = true := by
  intro u
  obtain ⟨str, hs⟩ := (s.getSeat r).stopStreams_eq 7
  have hu : u = (({ s.getSeat r with str := str } : Seat).takeFault f 7 (s.getSeat r).cut.pc).lastFault s.core[r.core].cycle 7 := by
    have := s.modSeat_getSeat r fun st => ((st.stopStreams 7).takeFault f 7 st.cut.pc).lastFault s.core[r.core].cycle 7
    rw [hs] at this
    exact this
  rw [hu]
  exact Seat.takeFault_record (st := { s.getSeat r with str := str }) h f 7 _

/-! ## The cut at retirement -/

/-- The state after step 5 of the cut at retirement of a seat: it changes the seat, and the counts of the life record. -/
def State.cutRetired (s : State) (r : SeatRef) (n : BitVec 32) : State :=
  ((s.applyCut r n 0 0 true).1).modSeat r fun st => ({ st with cut := { st.cut with preempt := false } } : Seat).freezeEngines false

theorem State.cutRetired_getSeat (s : State) (r : SeatRef) (n : BitVec 32) :
    (s.cutRetired r n).getSeat r = (s.getSeat r).cutRetired n := by
  have five : (s.applyCut r n 0 0 true).1.getSeat r = ((s.getSeat r).applyCut n 0 0 true).1.resetConj := State.setSeat_getSeat s r _
  unfold State.cutRetired
  rw [State.modSeat_getSeat, five]
  rfl

/-- The cut at retirement is its step 5, then a LATENCY_BOUND, else a bookmark, else nothing more (R47). -/
theorem State.retireCut_eq (s : State) (r : SeatRef) : ∃ n, s.retireCut r =
    match ((s.getSeat r).applyCut n 0 0 true).2 with
    | some y => (s.cutRetired r n).deliverBound r y
    | none => if (s.getSeat r).joined.2 then (s.cutRetired r n).deliverBookmark r else s.cutRetired r n := ⟨_, rfl⟩

theorem CutAtRetire.of_same {a u v : Seat} (h : CutAtRetire a u) (hc : v.cut = { u.cut with bookmark := v.cut.bookmark })
    (hl : v.lex = u.lex) : CutAtRetire a v := by
  refine ⟨?_, ?_, ?_, fun y => ?_⟩
  · rw [hc]; exact h.latch
  · rw [hc]; exact h.preempt
  · rw [hc]; exact h.atRetire
  · rw [hl]; exact h.bound y

theorem State.deliverBound_record (s : State) (r : SeatRef) (y : Fin 32) (h : (s.getSeat r).trap.active = false) :
    let u := (s.deliverBound r y).getSeat r
    u.cut = (s.getSeat r).cut ∧ u.lex = (s.getSeat r).lex ∧ u.trap.src = 7 ∧ bit u.trap.info 0 = true := by
  have seat := s.modSeat_getSeat r fun st => st.freezeEngines false
  have := (s.modSeat r fun st => st.freezeEngines false).takeCutFault_record r ⟨.latencyBound, y.val, 0, false⟩ (by rw [seat]; exact h)
  rw [seat] at this
  exact this

theorem State.deliverBookmark_record (s : State) (r : SeatRef) (h : (s.getSeat r).trap.active = false) :
    let u := (s.deliverBookmark r).getSeat r
    u.cut = { (s.getSeat r).cut with bookmark := false } ∧ u.lex = (s.getSeat r).lex ∧ u.trap.src = 7 ∧
      bit u.trap.info 0 = true := by
  have seat := s.modSeat_getSeat r Seat.settleBookmark
  have := (s.modSeat r Seat.settleBookmark).takeCutFault_record r ⟨.bookmark, 0, 0, true⟩ (by rw [seat]; exact h)
  rw [seat] at this
  exact this

/-- The cut of a seat whose streams have halted, no handler running: its events are applied, and LATENCY_BOUND or BOOKMARK stands in its
fault record, or its trap registers and `inst` are as before (R47). -/
theorem State.retireCut_seat (s : State) (r : SeatRef) (h : (s.getSeat r).trap.active = false) :
    let a := s.getSeat r
    let u := (s.retireCut r).getSeat r
    CutAtRetire a u ∧
      if a.boundDue ∨ a.joined.2 = true then u.trap.src = 7 ∧ bit u.trap.info 0 = true else u.trap = a.trap ∧ u.inst = a.inst := by
  intro a u
  obtain ⟨n, hn⟩ := s.retireCut_eq r
  have five : CutAtRetire a ((s.cutRetired r n).getSeat r) := s.cutRetired_getSeat r n ▸ a.cutAtRetire_cutRetired n
  obtain ⟨trap, inst⟩ : ((s.cutRetired r n).getSeat r).trap = a.trap ∧ ((s.cutRetired r n).getSeat r).inst = a.inst :=
    s.cutRetired_getSeat r n ▸ a.cutRetired_rest n
  have active : ((s.cutRetired r n).getSeat r).trap.active = false := trap ▸ h
  have due : (a.applyCut n 0 0 true).2.isSome = a.boundDue := a.applyCut_delivers n 0 0 true
  revert hn
  cases hd : (a.applyCut n 0 0 true).2 with
  | some y =>
    intro hn
    have hu : u = ((s.cutRetired r n).deliverBound r y).getSeat r := congrArg (fun t : State => t.getSeat r) hn
    obtain ⟨hc, hl, hs, hi⟩ := State.deliverBound_record _ r y active
    rw [hu, if_pos (.inl (due ▸ by rw [hd]; rfl))]
    exact ⟨five.of_same (by rw [hc]) hl, hs, hi⟩
  | none =>
    have no : a.boundDue = false := by rw [← due, hd]; rfl
    by_cases hj : a.joined.2 = true
    · intro hn
      have hu : u = ((s.cutRetired r n).deliverBookmark r).getSeat r :=
        congrArg (fun t : State => t.getSeat r) (hn.trans (if_pos hj))
      obtain ⟨hc, hl, hs, hi⟩ := State.deliverBookmark_record _ r active
      rw [hu, if_pos (.inr hj)]
      exact ⟨five.of_same (by rw [hc]) hl, hs, hi⟩
    · intro hn
      have hu : u = (s.cutRetired r n).getSeat r := congrArg (fun t : State => t.getSeat r) (hn.trans (if_neg hj))
      rw [hu, if_neg (by simp [no, hj])]
      exact ⟨five, trap, inst⟩

@[simp] theorem State.retireCut_mem (s : State) (r : SeatRef) : (s.retireCut r).mem = s.mem := by
  obtain ⟨n, hn⟩ := s.retireCut_eq r
  rw [hn]
  split
  · rfl
  · split <;> rfl

/-! ## Retirement -/

theorem State.mayRetire_active {s : State} {r : SeatRef} (h : s.mayRetire r = true) : (s.getSeat r).trap.active = false := by
  simp only [State.mayRetire, State.cutMayRun, Bool.and_eq_true, Bool.not_eq_true'] at h
  simp [h]

/-- A seat at the end of its work identifier: it takes the next of its group, or is free, as phase `p` says. -/
def Seat.endInst (st : Seat) (p : Phase) : Seat :=
  { st with inst := { st.inst with phase := p, serial := st.inst.serial + 1 }, bars := [] }

/-- A launch one more of whose instances, that of seat r, has retired (R25). -/
def Launch.lose (l : Launch) (s : State) (r : SeatRef) : Launch :=
  { l with retired := (s.getSeat r).sys.wid :: l.retired, owed := s.onWay l.owed ++ s.engineOwed r }

/-- The state with seat r gone on to the next of its group, or free. -/
def State.endSeat (s : State) (r : SeatRef) (l : Launch) : State :=
  s.modSeat r fun st => st.endInst (if (s.getSeat r).inst.serial + 1 < l.serials then .dispatched else .free)

/-- The state with what seat r ran retired, before its launch may complete. -/
def State.endInst (s : State) (r : SeatRef) (l : Launch) : State :=
  { s.endSeat r l with launches := s.launches.map fun x => if x.q = l.q then l.lose s r else x }

theorem State.retireInst_eq (s : State) (r : SeatRef) (l : Launch) :
    s.retireInst r l = if l.retired.length + 1 = l.instances then (s.endInst r l).completeLaunch (l.lose s r) else s.endInst r l := rfl

theorem State.endInst_core (s : State) (r : SeatRef) (l : Launch) : (s.endInst r l).core = (s.endSeat r l).core := rfl

theorem State.endInst_getSeat (s : State) (r : SeatRef) (l : Launch) : (s.endInst r l).getSeat r =
    (s.getSeat r).endInst (if (s.getSeat r).inst.serial + 1 < l.serials then .dispatched else .free) :=
  (State.getSeat_congr (s.endInst_core r l) r).trans (s.modSeat_getSeat r _)

theorem State.endInst_getSeat_ne (s : State) {r x : SeatRef} (l : Launch) (h : x ≠ r) : (s.endInst r l).getSeat x = s.getSeat x :=
  (State.getSeat_congr (s.endInst_core r l) x).trans (s.modSeat_getSeat_ne _ h)

/-- A launch with another of its queue in its place leaves the same launches when it completes. -/
theorem filter_replace (l : Launch) (m : Launch) (h : m.q = l.q) (ls : List Launch) :
    (ls.map fun x => if x.q = l.q then m else x).filter (fun x => decide (x.q ≠ l.q)) = ls.filter fun x => decide (x.q ≠ l.q) := by
  induction ls with
  | nil => rfl
  | cons x r ih => by_cases hx : x.q = l.q <;> simp_all

theorem exec_retirement_held {s : State} {r : SeatRef} {l : Launch} (hm : s.mayRetire r = true)
    (hl : s.launchOf (s.getSeat r).inst.q = some l) (hc : (s.getSeat r).cut.latch = none) (hp : (s.getSeat r).cutPending = false)
    (hh : s.completionHeld r l = true) : exec (.retirement r) s = .next s := by
  show execRetirement r s = _
  simp [execRetirement, hm, hl, hc, hp, hh]

theorem exec_retirement {s : State} {r : SeatRef} {l : Launch} (hm : s.mayRetire r = true)
    (hl : s.launchOf (s.getSeat r).inst.q = some l) (hc : (s.getSeat r).cut.latch = none) (hp : (s.getSeat r).cutPending = false)
    (hh : s.completionHeld r l = false) : exec (.retirement r) s = .next (s.retireInst r l) := by
  show execRetirement r s = _
  simp [execRetirement, hm, hl, hc, hp, hh]

theorem exec_retirement_cut {s : State} {r : SeatRef} (hm : s.mayRetire r = true)
    (hc : (s.getSeat r).cut.latch ≠ none ∨ (s.getSeat r).cutPending = true) (ht : (s.getSeat r).lexAt.1 ≠ s.core[r.core].cycle + 1) :
    exec (.retirement r) s = .next (s.retireCut r) := by
  have cut : ((s.getSeat r).cut.latch.isSome || (s.getSeat r).cutPending) = true := by
    rw [Bool.or_eq_true, Option.isSome_iff_ne_none]; exact hc
  show execRetirement r s = _
  unfold execRetirement
  rw [if_neg (by simp [hm])]
  exact (if_pos cut).trans (if_neg ht)

/-- The cuts to come of a seat that starts change its cut registers alone. -/
theorem Seat.begin_cut (st : Seat) (w : Word) (fwd : StreamId → List Nat) :
    ∃ cut, (st.begin' w fwd).bookmarkDue.latchCut = { st.begin' w fwd with cut := cut } := by
  obtain ⟨b, l, hb⟩ := (st.begin' w fwd).bookmarkDue_eq
  obtain ⟨l', hl⟩ := Seat.latchCut_eq { st.begin' w fwd with cut := { (st.begin' w fwd).cut with bookmark := b, latch := l } }
  exact ⟨_, by rw [hb, hl]⟩

/-- Settles O44: a seat that starts is that of `Seat.begin'`; a retirement waits for the release of the completion, ends what the
seat ran, or performs the cut that is due first. -/
theorem instancesStartAndRetire : Obligations.InstancesStartAndRetire := by
  unfold Obligations.InstancesStartAndRetire
  refine ⟨fun s r l hp hd hl => ⟨_, exec_instanceStart hp hd hl, ?start⟩, fun s r l hm hl => ?retire⟩
  case start =>
    dsimp only
    let a := s.getSeat r
    obtain ⟨cut, hu⟩ := Seat.begin_cut a (l.wid a.inst.key a.inst.free a.inst.serial) fun j => s.onWay (acquired ⟨r, j⟩ .device l.heard)
    rw [State.modSeat_getSeat, show s.getSeat r = a from rfl, hu]
    refine ⟨onlySeat_modSeat _ _ _, fun _ => rfl, rfl, fun j => ?_, rfl, fun j => ?_, rfl, rfl, rfl, fun n => ?_, fun n => ?_, rfl,
      fun n => ?_, rfl, rfl, rfl⟩
    · dsimp only [Seat.getStr]
      rw [Seat.begin_str, streamAt_idx]
    · dsimp only
      rw [Seat.begin_str]
      exact ⟨rfl, rfl, Stream.reset_rdX, rfl, Stream.reset_t, rfl, rfl⟩
    · simp [Seat.begin', Fifo.reset]
    · simp [Seat.begin', Slot.reset]
    · simp [Seat.begin']
  case retire =>
    intro a
    refine ⟨exec_retirement_held hm hl, fun hc hp hh => ⟨_, exec_retirement hm hl hc hp hh, ?_⟩,
      fun hc ht => ⟨_, exec_retirement_cut hm hc ht, ?_⟩⟩
    · dsimp only
      by_cases last : l.retired.length + 1 = l.instances
      · have ht := (s.retireInst_eq r l).trans (if_pos last)
        rw [if_pos last, ht, State.completeLaunch_getSeat]
        refine ⟨s.endInst_getSeat r l, fun x hx => (State.completeLaunch_getSeat _ _ x).trans (s.endInst_getSeat_ne l hx), fun _ => rfl, ?_, ?_, ?_⟩
        · exact filter_replace l (l.lose s r) rfl s.launches
        · exact State.completeLaunch_active _ (l.lose s r)
        · exact State.completeLaunch_head _ (l.lose s r)
      · have ht := (s.retireInst_eq r l).trans (if_neg last)
        rw [if_neg last, ht]
        exact ⟨s.endInst_getSeat r l, fun x hx => s.endInst_getSeat_ne l hx, fun _ => rfl, rfl, rfl⟩
    · obtain ⟨⟨latch, preempt, atRetire, bound⟩, delivered⟩ := s.retireCut_seat r (State.mayRetire_active hm)
      refine ⟨latch, preempt, atRetire, fun k => ?_, bound, delivered⟩
      show Cells.read (s.retireCut r).mem k = Cells.read s.mem k
      rw [State.retireCut_mem]

end Sys2Proof.Machine
end

section
/-! SUPPORT. What the grant of a seat and the abort of a launch do (R25, R315, R316), and obligation O43. -/
namespace Sys2Proof.Machine

/-! ## Dies -/

theorem State.modDie_self (s : State) (d : Fin 8) (f : Die → Die) : (s.modDie d f).die[d] = f s.die[d] := by simp [State.modDie]

/-- A launch queue is read from the dies alone. -/
theorem State.lq_congr {s t : State} (h : t.die = s.die) (q : Fin 512) : t.lq q = s.lq q := by
  unfold State.lq
  rw [h]

/-- A change of a launch queue leaves the tie pointers of every die (R306). -/
theorem State.modLq_arbPtr (s : State) (q : Fin 512) (f : LaunchQ → LaunchQ) (d : Fin 8) :
    (s.modLq q f).die[d].arbPtr = s.die[d].arbPtr := by
  by_cases h : d = qDie q
  · subst h
    exact (congrArg (fun a : Die => a.arbPtr) (State.modDie_self s (qDie q) fun d => { d with lq := vmod d.lq (qIndex q) f })).trans rfl
  · exact congrArg (fun a : Die => a.arbPtr) (vmod_ne s.die _ h)

/-! ## Associations -/

theorem assoc_setAssoc {β : Type} (k : Nat) (v : β) (l : List (Nat × β)) : assoc k (setAssoc k v l) = some v := by
  induction l with
  | nil => simp [setAssoc, assoc]
  | cons x r ih =>
    obtain ⟨a, b⟩ := x
    unfold setAssoc
    split
    · simp [assoc]
    · split
      · simp [assoc]
      · rename_i hk
        have : ¬a = k := fun e => hk e.symm
        simp [assoc, this, ih]

/-! ## Grants -/

/-- A die whose tie pointer of level v stands behind queue q (R306, R316). -/
def Die.tieTo (d : Die) (v : Nat) (q : Fin 512) : Die :=
  { d with arbPtr := d.arbPtr.mapFinIdx fun i p _ => if i = v then BitVec.ofNat 9 (q.val + 1) else p }

theorem Die.tieTo_arbPtr (d : Die) (q : Fin 512) {v : Nat} (h : v < 8) : (d.tieTo v q).arbPtr[v] = BitVec.ofNat 9 (q.val + 1) := by
  simp [Die.tieTo]

/-- A launch with a group of key k placed, the n-th, in a grant of a die at a time (R315, R316). -/
def Launch.place (x : Launch) (die : Fin 8) (k n now : Nat) : Launch :=
  { x with placed := setAssoc k (n + 1) x.placed, ready := x.ready.set die now }

theorem Launch.place_spec (x : Launch) (die : Fin 8) (k n now : Nat) :
    assoc k (x.place die k n now).placed = some (n + 1) ∧ (x.place die k n now).ready[die] = now :=
  ⟨assoc_setAssoc _ _ _, by simp [Launch.place]⟩

/-- The state after a grant of seat r to launch l at level v, by which the seat changes as `f` says. -/
def State.seatGranted (s : State) (die : Fin 8) (r : SeatRef) (l : Launch) (v k n : Nat) (f : Seat → Seat) : State :=
  { ((s.modSeat r f).modDie die fun d => d.tieTo v l.q).modLq l.q fun x => { x with ctl := putFld x.ctl 13 3 v } with
    launches := s.launches.map fun x => if x.q = l.q then x.place die k n s.timebase.toNat else x }

theorem State.seatGranted_core (s : State) (die : Fin 8) (r : SeatRef) (l : Launch) (v k n : Nat) (f : Seat → Seat) :
    (s.seatGranted die r l v k n f).core = (s.modSeat r f).core := rfl

theorem State.seatGranted_getSeat (s : State) (die : Fin 8) (r : SeatRef) (l : Launch) (v k n : Nat) (f : Seat → Seat) :
    (s.seatGranted die r l v k n f).getSeat r = f (s.getSeat r) :=
  (State.getSeat_congr (s.seatGranted_core die r l v k n f) r).trans (s.modSeat_getSeat r f)

theorem State.seatGranted_getSeat_ne (s : State) (die : Fin 8) {r x : SeatRef} (l : Launch) (v k n : Nat) (f : Seat → Seat) (h : x ≠ r) :
    (s.seatGranted die r l v k n f).getSeat x = s.getSeat x :=
  (State.getSeat_congr (s.seatGranted_core die r l v k n f) x).trans (s.modSeat_getSeat_ne f h)

/-- LEVEL of the queue is the level of the grant. -/
theorem State.seatGranted_level (s : State) (die : Fin 8) (r : SeatRef) (l : Launch) (v k n : Nat) (f : Seat → Seat) :
    fld ((s.seatGranted die r l v k n f).lq l.q).ctl 13 3 = v % 8 := by
  have queue : (s.seatGranted die r l v k n f).lq l.q = _ :=
    (State.lq_congr (t := s.seatGranted die r l v k n f) (s := ((s.modSeat r f).modDie die fun d => d.tieTo v l.q).modLq l.q _) rfl l.q).trans
      (State.modLq_lq _ _ fun x => { x with ctl := putFld x.ctl 13 3 v })
  rw [queue]
  exact fld_putFld _ 13 3 v (by decide)

theorem State.seatGranted_tie (s : State) (die : Fin 8) (r : SeatRef) (l : Launch) (k n : Nat) (f : Seat → Seat) {v : Nat} (h : v < 8) :
    (s.seatGranted die r l v k n f).die[die].arbPtr[v] = BitVec.ofNat 9 (l.q.val + 1) := by
  have tie : (s.seatGranted die r l v k n f).die[die].arbPtr = (s.die[die].tieTo v l.q).arbPtr :=
    (State.modLq_arbPtr ((s.modSeat r f).modDie die fun d => d.tieTo v l.q) l.q _ die).trans
      (congrArg (fun a : Die => a.arbPtr) (State.modDie_self (s.modSeat r f) die fun d => d.tieTo v l.q))
  simp only [tie]
  exact Die.tieTo_arbPtr _ _ h

theorem State.seatGranted_placed {s : State} {die : Fin 8} {r : SeatRef} {l x : Launch} {v k n : Nat} {f : Seat → Seat}
    (hx : x ∈ (s.seatGranted die r l v k n f).launches) (hq : x.q = l.q) :
    assoc k x.placed = some (n + 1) ∧ x.ready[die] = s.timebase.toNat := by
  obtain ⟨y, -, rfl⟩ := List.mem_map.1 hx
  by_cases hy : y.q = l.q
  · rw [if_pos hy]; exact y.place_spec die k n _
  · rw [if_neg hy] at hq; exact absurd hq hy

/-- SEAT_GRANT dispatches a group of the winner to the seat (R316), under some translation root and DBG_CTL (R342, R391). -/
theorem exec_seatGrant {s : State} {die : Fin 8} {r : SeatRef} {l : Launch} {v k n : Nat} (hu : s.dieUsable die.val = true)
    (hd : s.dieInReset die.val = false) (hf : s.freeSeat die = some r) (hw : s.seatWinner die r = some (l, v))
    (hg : l.groupFor r = some (k, n)) : ∃ root dbg, exec (.seatGrant die) s =
      .next ((s.grantNote die (l.desc.getD 7 0).toNat (l.desc.getD 13 0).toNat).seatGranted die r l v k n fun st =>
        st.dispatch l k n (s.declaredLexicon die (l.desc.getD 7 0).toNat s.core[r.core].lexParam)
          (s.grantWins die (l.desc.getD 13 0).toNat) root dbg) := by
  refine ⟨(s.grantNote die (l.desc.getD 7 0).toNat (l.desc.getD 13 0).toNat).grantRoot l,
    (s.grantNote die (l.desc.getD 7 0).toNat (l.desc.getD 13 0).toNat).grantDbg l, ?_⟩
  show execSeatGrant die s = _
  unfold execSeatGrant
  rw [if_neg (by simp [hu, hd]), hf]
  dsimp only
  rw [hw]
  dsimp only
  rw [hg]
  rfl

/-- The entry points and section bases of a dispatched seat are its descriptor's (R26). -/
theorem Seat.dispatch_entry (st : Seat) (l : Launch) (k n : Nat) (lex : Vector LexEntry 32) (wins : Vector Word 8) (root dbg : Word)
    (j : Fin 4) : (st.dispatch l k n lex wins root dbg).inst.entry[j] = l.desc.getD j.val 0 := by
  fin_cases j <;> rfl

theorem Seat.dispatch_ebase (st : Seat) (l : Launch) (k n : Nat) (lex : Vector LexEntry 32) (wins : Vector Word 8) (root dbg : Word)
    (j : Fin 3) : (st.dispatch l k n lex wins root dbg).inst.ebase[j] = l.desc.getD (4 + j.val) 0 := by
  fin_cases j <;> rfl

/-- Without a lexicon every symbol has its reset entry, with LEX_PARAM (R321; log 27). -/
theorem State.declaredLexicon_none (s : State) (d : Fin 8) (par : Word) (y : Fin 32) :
    (s.declaredLexicon d 0 par)[y] = { LexEntry.reset with par := par } := by
  simp [State.declaredLexicon]

theorem State.grantWins_none (s : State) (d : Fin 8) : s.grantWins d 0 = Vector.replicate 8 0 := rfl

/-! ## Aborts -/

/-- An abort gives up the seats of a queue's instances, on no system core, and no other (R25). -/
theorem State.abortSeats_getSeat (s : State) (q : Fin 512) (r : SeatRef) : (s.abortSeats q).getSeat r =
    if r.isSys = false ∧ (s.getSeat r).inst.phase ≠ .free ∧ (s.getSeat r).inst.q = q then (s.getSeat r).abort else s.getSeat r := by
  by_cases sys : 896 ≤ r.core.val
  · simp [State.abortSeats, State.getSeat, SeatRef.isSys, sys]
  · simp [State.abortSeats, State.getSeat, SeatRef.isSys, sys]

/-- A Faulted seat is reason enough to abort its launch (R25). -/
theorem exec_launchAbort {s : State} {q : Fin 512} {l : Launch} {f : SeatRef} (hl : s.launchOf q = some l) (hs : f.isSys = false)
    (hp : (s.getSeat f).inst.phase = .faulted) (hq : (s.getSeat f).inst.q = q) :
    exec (.launchAbort q) s = .next (s.abortLaunch l) := by
  have core : s.core[f.core] ∈ s.core.toList.take 896 := by
    have hf : f.core.val < 896 := by simpa [SeatRef.isSys] using hs
    refine List.mem_take_iff_getElem.2 ⟨f.core.val, by simpa using hf, by simp⟩
  have seat : s.getSeat f ∈ s.core[f.core].seat.toList := by simp [State.getSeat]
  have reason : ((s.core.toList.take 896).any fun c => c.seat.toList.any fun st => s.abortable st && decide (st.inst.q = q)) = true :=
    List.any_eq_true.2 ⟨_, core, List.any_eq_true.2 ⟨_, seat, by simp [State.abortable, hp, hq]⟩⟩
  show execLaunchAbort q s = _
  unfold execLaunchAbort
  rw [hl]
  exact if_pos reason

/-- Settles O43: the state after a grant is that of `State.seatGranted`, with the seat dispatched; an abort gives up the seats of the launch,
then completes it. -/
theorem seatsAreGrantedAndGivenUp : Obligations.SeatsAreGrantedAndGivenUp := by
  unfold Obligations.SeatsAreGrantedAndGivenUp
  refine ⟨fun s die r l v k n hu hd hf hw hg => ?grant, fun s q l f hl hs hp hq => ⟨_, exec_launchAbort hl hs hp hq, ?abort⟩⟩
  case grant =>
    obtain ⟨root, dbg, ht⟩ := exec_seatGrant hu hd hf hw hg
    have notes := onlyNotes_grantNote s die (l.desc.getD 7 0).toNat (l.desc.getD 13 0).toNat
    refine ⟨_, ht, ?_⟩
    generalize s.grantNote die (l.desc.getD 7 0).toNat (l.desc.getD 13 0).toNat = m at notes
    dsimp only
    rw [State.seatGranted_getSeat, notes.getSeat]
    refine ⟨rfl, rfl, rfl, rfl, rfl, Seat.dispatch_entry _ _ _ _ _ _ _ _, Seat.dispatch_ebase _ _ _ _ _ _ _ _, rfl, rfl, rfl, rfl, rfl,
      rfl, rfl, rfl, rfl, fun h => ?_, fun h y => ?_, rfl, fun a => ?_,
      fun x hx => (State.seatGranted_getSeat_ne _ _ _ _ _ _ _ hx).trans (notes.getSeat x), State.seatGranted_level _ _ _ _ _ _ _ _,
      fun h => State.seatGranted_tie _ _ _ _ _ _ _ h, fun x hx hq => ?_⟩
    · show s.grantWins die (l.desc.getD 13 0).toNat = _
      rw [h]; exact s.grantWins_none die
    · show (s.declaredLexicon die (l.desc.getD 7 0).toNat s.core[r.core].lexParam)[y] = _
      rw [h]; exact s.declaredLexicon_none die _ y
    · show Cells.read m.mem a = Cells.read s.mem a
      rw [notes.mem]
    · have placed := State.seatGranted_placed hx hq
      rw [notes.timebase] at placed
      exact placed
  case abort =>
    obtain rfl := State.launchOf_q hl
    refine ⟨rfl, State.completeLaunch_active _ { l with aborted := true }, State.completeLaunch_aborted _ { l with aborted := true } rfl,
      State.completeLaunch_head _ { l with aborted := true }, fun _ => rfl, rfl, fun r => ?_⟩
    have seat : (s.abortLaunch l).getSeat r = _ := (State.completeLaunch_getSeat _ _ r).trans (s.abortSeats_getSeat l.q r)
    rw [seat]
    split
    · exact ⟨rfl, rfl, rfl, rfl, fun e => by simp [Seat.abort, EngineCtx.reset]⟩
    · rfl

end Sys2Proof.Machine
end

section
/-! SUPPORT. What a stream acquires and what it computes do not touch each other, and level barriers (R22, R253, R317): obligation O41. -/
namespace Sys2Proof.Machine

/-! ## Acquiring and going on -/

/-- A stream with other marks of what it has acquired (R253). -/
def Stream.hearing (a : Stream) (fwd : List Nat) (heard : List Heard) : Stream := { a with fwd := fwd, heard := heard }

/-- A seat whose stream i has other marks of what it has acquired. -/
def Seat.hearing (st : Seat) (i : StreamId) (fwd : List Nat) (heard : List Heard) : Seat := st.modStr i fun a => a.hearing fwd heard

theorem Seat.modStr_modStr (st : Seat) (i : StreamId) (f g : Stream → Stream) :
    (st.modStr i f).modStr i g = st.modStr i fun a => g (f a) := by simp [Seat.modStr, vmod]

/-- A change that leaves the stream leaves the seat. -/
theorem Seat.modStr_same (st : Seat) (i : StreamId) (f : Stream → Stream) (h : f (st.getStr i) = st.getStr i) : st.modStr i f = st := by
  have hs : vmod st.str i.idx f = st.str := by
    unfold vmod
    rw [show f st.str[i.idx] = st.str[i.idx] from h]
    simp
  unfold Seat.modStr
  rw [hs]

theorem Seat.hearing_hearing (st : Seat) (i : StreamId) (f g : List Nat) (h k : List Heard) :
    (st.hearing i f h).hearing i g k = st.hearing i g k := st.modStr_modStr i _ _

theorem Seat.hearing_same (st : Seat) (i : StreamId) : st.hearing i (st.getStr i).fwd (st.getStr i).heard = st :=
  st.modStr_same i _ rfl

@[simp] theorem Seat.hearing_getStr (st : Seat) (i : StreamId) (f : List Nat) (h : List Heard) :
    (st.hearing i f h).getStr i = (st.getStr i).hearing f h := st.modStr_getStr i _

theorem Stream.tripEnd_hearing (a : Stream) (f : List Nat) (h : List Heard) : (a.hearing f h).tripEnd = a.tripEnd.hearing f h := by
  unfold Stream.tripEnd
  dsimp only
  rw [apply_ite (fun b : Stream => b.hearing f h)]
  rfl

theorem Stream.goSeq_hearing (a : Stream) (p : Word) (f : List Nat) (h : List Heard) :
    (a.hearing f h).goSeq p = ((a.goSeq p).1.hearing f h, (a.goSeq p).2) := by
  unfold Stream.goSeq
  by_cases e : (a.act && decide (p = a.bodyEnd)) = true
  · rw [if_pos e, if_pos (show ((a.hearing f h).act && decide (p = (a.hearing f h).bodyEnd)) = true from e), Stream.tripEnd_hearing]
  · rw [if_neg e, if_neg (show ¬((a.hearing f h).act && decide (p = (a.hearing f h).bodyEnd)) = true from e)]
    rfl

theorem Stream.advance_hearing (a : Stream) (f : List Nat) (h : List Heard) :
    (a.hearing f h).advance = (a.advance.1.hearing f h, a.advance.2) := by
  unfold Stream.advance
  by_cases h0 : a.repLeft = 0
  · rw [if_pos h0, if_pos (show (a.hearing f h).repLeft = 0 from h0)]
    exact Stream.goSeq_hearing { a with repStage := none } _ f h
  · rw [if_neg h0, if_neg (show ¬(a.hearing f h).repLeft = 0 from h0)]
    by_cases h1 : a.repLeft = 1
    · rw [if_pos h1, if_pos (show (a.hearing f h).repLeft = 1 from h1)]
      exact Stream.goSeq_hearing { a with repLeft := 0, repStage := none } _ f h
    · rw [if_neg h1, if_neg (show ¬(a.hearing f h).repLeft = 1 from h1)]
      rfl

theorem Seat.takeAll_hearing (now : Nat) (srcs : List SSpec) (st : Seat) (i : StreamId) (f : List Nat) (h : List Heard) :
    srcs.foldl (fun st a => st.takeSrc now a) (st.hearing i f h) = (srcs.foldl (fun st a => st.takeSrc now a) st).hearing i f h := by
  induction srcs generalizing st with
  | nil => rfl
  | cons a r ih =>
    cases a with
    | x n => exact ih st
    | q n => exact ih (st.takeSrc now (.q n))

theorem Seat.wrDest_hearing (st : Seat) (i : StreamId) (now : Nat) (d : SSpec) (lat latC : Nat) (v : Word) (f : List Nat) (h : List Heard) :
    (st.hearing i f h).wrDest i now d lat latC v = (st.wrDest i now d lat latC v).hearing i f h := by
  cases d with
  | x n =>
    unfold Seat.wrDest
    dsimp only
    by_cases h0 : n = 0
    · rw [if_pos h0, if_pos h0]
    · rw [if_neg h0, if_neg h0]
      by_cases hc : i = .C
      · rw [if_pos hc, if_pos hc]; rfl
      · rw [if_neg hc, if_neg hc]
        unfold Seat.hearing
        rw [Seat.modStr_modStr, Seat.modStr_modStr]
        refine congrArg (st.modStr i) (funext fun a => ?_)
        unfold Stream.wrX
        by_cases hl : 1 < lat
        · simp only [if_neg h0, if_pos hl]; rfl
        · simp only [if_neg h0, if_neg hl]; rfl
  | q n =>
    unfold Seat.wrDest
    dsimp only
    by_cases hc : i = .C
    · rw [if_pos hc, if_pos hc]; rfl
    · rw [if_neg hc, if_neg hc]; rfl

theorem Seat.turnRrb_hearing (st : Seat) (i j : StreamId) (t : Bool) (f : List Nat) (h : List Heard) :
    (st.hearing j f h).turnRrb i t = (st.turnRrb i t).hearing j f h := by
  unfold Seat.turnRrb
  split <;> rfl

theorem Seat.goOn_hearing (st : Seat) (i : StreamId) (now : Nat) (r : Stream × Bool) (f : List Nat) (h : List Heard) :
    (st.hearing i f h).goOn i now (r.1.hearing f h, r.2) = (st.goOn i now r).hearing i f h := by
  have stands : (st.hearing i f h).modStr i (fun _ => { r.1.hearing f h with issued := now + 1, wait := .none, waiting := none }) =
      (st.modStr i fun _ => { r.1 with issued := now + 1, wait := .none, waiting := none }).hearing i f h := by
    unfold Seat.hearing
    rw [Seat.modStr_modStr, Seat.modStr_modStr]
    rfl
  unfold Seat.goOn
  dsimp only
  rw [stands, Seat.turnRrb_hearing]
  split <;> rfl

/-- What the running stream has acquired goes unchanged through a scalar instruction, which does not look at it. -/
theorem Seat.scalarStep_hearing (st : Seat) (i : StreamId) (now : Nat) (srcs : List SSpec) (d : SSpec) (lat latC : Nat) (v : Word)
    (f : List Nat) (h : List Heard) :
    (st.hearing i f h).scalarStep i now srcs d lat latC v = (st.scalarStep i now srcs d lat latC v).hearing i f h := by
  unfold Seat.scalarStep
  rw [Seat.takeAll_hearing, Seat.wrDest_hearing]
  dsimp only
  rw [Seat.hearing_getStr, Stream.advance_hearing]
  exact Seat.goOn_hearing _ i now _ f h

theorem Seat.scalarStep_keeps (st : Seat) (i : StreamId) (now : Nat) (srcs : List SSpec) (d : SSpec) (lat latC : Nat) (v : Word) :
    KeepsSeat i st (st.scalarStep i now srcs d lat latC v) :=
  keepsSeat_trans (keepsSeat_trans (Seat.takeAll_keeps i now srcs st) (Seat.wrDest_keeps _ i now d lat latC v))
    (keepsSeat_goOn i _ now _ (advance_keeps _))

/-- A scalar instruction that takes up marks `fwd` and `heard` on its way does to everything else what it does without. -/
theorem scalarResult_unheard (s : State) (g : Seat → Seat) (hg : (g s.mySeat).getStr s.turn.stream = s.me) (srcs : List SSpec) (d : SSpec)
    (lat latC : Nat) (v : Word) (fwd : List Nat) (heard : List Heard) :
    let t := s.modMySeat fun st => ((g st).hearing s.turn.stream fwd heard).scalarStep s.turn.stream s.now srcs d lat latC v
    ScalarResult (s.modMySeat g) (s.unheard t) srcs d lat latC v ∧ t.me.fwd = fwd ∧ t.me.heard = heard := by
  intro t
  let i := s.turn.stream
  let u := (g s.mySeat).scalarStep i s.now srcs d lat latC v
  have keeps : KeepsStream s.me (u.getStr i) := hg ▸ ((g s.mySeat).scalarStep_keeps i s.now srcs d lat latC v).mine
  have ht : t = s.modMySeat fun _ => u.hearing i fwd heard := State.modMySeat_congr s (Seat.scalarStep_hearing _ _ _ _ _ _ _ _ _ _)
  have hme : t.me = (u.getStr i).hearing fwd heard := by rw [ht, State.modMySeat_me, Seat.hearing_getStr]
  refine ⟨?_, by rw [hme]; rfl, by rw [hme]; rfl⟩
  have back : s.unheard t = (s.modMySeat g).modMySeat fun st => st.scalarStep i s.now srcs d lat latC v := by
    have same : u.hearing i s.me.fwd s.me.heard = u := by
      rw [← keeps.fwd, ← keeps.heard]; exact u.hearing_same i
    rw [ht, State.modMySeat_modMySeat]
    refine (State.modMySeat_modMySeat s _ fun st => st.hearing i s.me.fwd s.me.heard).trans (State.modMySeat_congr s ?_)
    exact (Seat.hearing_hearing _ _ _ _ _ _).trans same
  rw [back]
  have := scalarStep_result (s.modMySeat g) srcs d lat latC v
  rw [State.modMySeat_now] at this
  exact this

end Sys2Proof.Machine
end

section
/-! SUPPORT. Level barriers (R22, R317), and obligation O41. -/
namespace Sys2Proof.Machine

/-! ## Waiting a cycle -/

/-- The seat whose stream i waits in this core cycle (log 11). -/
def Seat.stalled (st : Seat) (i : StreamId) (isC : Bool) (why : Option Bool) : Seat :=
  let st := st.modStr i fun t => { t with waiting := why }
  if isC then { st with c := { st.c with done := true } } else st

theorem State.stall_eq (s : State) (why : Option Bool) :
    s.stall why = .next (s.modMySeat fun st => st.stalled s.turn.stream s.isC why) := rfl

theorem Seat.stalled_getStr (st : Seat) (i : StreamId) (isC : Bool) (why : Option Bool) :
    (st.stalled i isC why).getStr i = { st.getStr i with waiting := why } := by
  unfold Seat.stalled
  dsimp only
  split
  · exact st.modStr_getStr i _
  · exact st.modStr_getStr i _

theorem Seat.stalled_rest (st : Seat) (i : StreamId) (isC : Bool) (why : Option Bool) :
    (st.stalled i isC why).q = st.q ∧ (st.stalled i isC why).bars = st.bars := by
  unfold Seat.stalled
  dsimp only
  split <;> exact ⟨rfl, rfl⟩

/-! ## Barrier groups -/

/-- A barrier group is read from the barriers alone. -/
theorem State.barrierOf_congr {s t : State} (h : t.barriers = s.barriers) (q : Fin 512) (n key : Nat) :
    t.barrierOf q n key = s.barrierOf q n key := by
  unfold State.barrierOf
  rw [h]

/-- The generation of a group, 0 before its first arrival. -/
theorem State.barGen_eq (s : State) (q : Fin 512) (n key : Nat) :
    s.barGen q n key = ((s.barrierOf q n key).map (·.gen)).getD 0 := by
  unfold State.barGen
  cases s.barrierOf q n key <;> rfl

theorem State.barrierOf_names {s : State} {q : Fin 512} {n key : Nat} {b : Barrier} (h : s.barrierOf q n key = some b) :
    b.q = q ∧ b.level = n ∧ b.key = key := by
  have := List.find?_some h
  simpa [and_assoc] using this

/-- An arrival changes the barriers alone: its group, new or not, keeps its generation and gets the arrival (R317). -/
theorem State.arrive_spec (s : State) (q : Fin 512) (n key : Nat) (wid : Word) (ids : List Nat) :
    s.arrive q n key wid ids = { s with barriers := (s.arrive q n key wid ids).barriers } ∧
      ∃ b, (s.arrive q n key wid ids).barrierOf q n key = some b ∧ b.gen = s.barGen q n key ∧
        b.arrived = wid :: ((s.barrierOf q n key).map (·.arrived)).getD [] := by
  cases hb : s.barrierOf q n key with
  | none =>
    have ha : s.arrive q n key wid ids = { s with barriers := s.barriers ++ [⟨q, n, key, 0, [wid], ids, []⟩] } := by
      unfold State.arrive; rw [hb]
    refine ⟨by rw [ha], ⟨q, n, key, 0, [wid], ids, []⟩, ?_, ?_, rfl⟩
    · rw [ha]
      unfold State.barrierOf at hb ⊢
      simp [hb]
    · rw [State.barGen_eq, hb]; rfl
  | some b =>
    let more (b : Barrier) : Barrier := { b with arrived := wid :: b.arrived, ids := b.ids ++ ids }
    have ha : s.arrive q n key wid ids = { s with barriers := s.barriers.map fun (b : Barrier) =>
        if b.q = q && b.level = n && b.key = key then more b else b } := by
      unfold State.arrive; rw [hb]
    obtain ⟨hq, hn, hk⟩ := State.barrierOf_names hb
    refine ⟨by rw [ha], more b, ?_, by rw [State.barGen_eq, hb]; rfl, rfl⟩
    have same : ((fun b : Barrier => decide (b.q = q) && decide (b.level = n) && decide (b.key = key)) ∘
        fun b => if b.q = q && b.level = n && b.key = key then more b else b) =
        fun b : Barrier => decide (b.q = q) && decide (b.level = n) && decide (b.key = key) := by
      funext x
      dsimp only [Function.comp]
      split <;> rfl
    unfold State.barrierOf at hb
    rw [ha]
    unfold State.barrierOf
    rw [List.find?_map, same, hb]
    simp [hq, hn, hk]

/-- The generation that an arrival waits for has not come (R317). -/
theorem genReached_next (g : BitVec 32) : genReached g (g + 1) = false := by
  have : g - (g + 1) = 4294967295#32 := by
    have : g - (g + 1) = -1 := by ring
    rw [this]; rfl
  unfold genReached
  rw [this]
  rfl

/-- The seat with the arrivals at a level forgotten. -/
def Seat.dropBars (st : Seat) (n : Nat) : Seat := { st with bars := st.bars.filter fun b => decide (b.level ≠ n) }

/-- The seat with its arrival at a level, for a generation. -/
def Seat.addBar (st : Seat) (n : Nat) (g : BitVec 32) : Seat :=
  { st with bars := (st.bars.filter fun b => decide (b.level ≠ n)) ++ [⟨n, g⟩] }

/-- The acquire of an opened group marks the running stream alone (R253). -/
theorem State.barAcquire_eq (s : State) (n key : Nat) : ∃ fwd,
    s.barAcquire n key = (s.modMySeat fun st => st.hearing s.turn.stream fwd s.me.heard) ∧
      ∀ b, s.barrierOf s.mySeat.inst.q n key = some b → fwd = s.onWay (s.me.fwd ++ b.opened) := by
  unfold State.barAcquire
  cases hb : s.barrierOf s.mySeat.inst.q n key with
  | none =>
    refine ⟨s.me.fwd, ?_, fun b h => by cases h⟩
    exact s.modMySeat_id.symm.trans (State.modMySeat_congr s (Seat.hearing_same _ _).symm)
  | some b =>
    refine ⟨_, State.modMySeat_congr s ?_, fun c h => by cases h; rfl⟩
    rfl

/-! ## BAR -/

section
variable {s : State} {d : SSpec} {j : Fin 7} {l : Launch} (ready : Ready s [] [d])
include ready

theorem exec_bar_zero : exec (.bar d 0) s = .next ((s.wr d 1 2 1).retire) := by
  obtain ⟨hc, hb⟩ := ready
  show execBar d 0 s = _
  simp [execBar, hc, hb]

end

/-- BAR ends when its generation has come: it acquires what the arrivals released (R253, R317). -/
theorem barWait_come {s : State} {n key : Nat} {g : BitVec 32} (d : SSpec) (h : genReached (s.barGen s.mySeat.inst.q n key) g = true) :
    ∃ t, s.barWait d n key g = .next t ∧
      ScalarResult (s.modMySeat fun st => st.dropBars n) (s.unheard t) [] d 1 2 (g.setWidth 64) ∧ t.me.heard = s.me.heard ∧
      ∀ b, s.barrierOf s.mySeat.inst.q n key = some b → t.me.fwd = s.onWay (s.me.fwd ++ b.opened) := by
  obtain ⟨fwd, ha, hf⟩ := s.barAcquire_eq n key
  obtain ⟨result, hfwd, heard⟩ := scalarResult_unheard s (fun st => st.dropBars n) rfl [] d 1 2 (g.setWidth 64) fwd s.me.heard
  refine ⟨_, ?_, result, heard, fun b hb => hfwd.trans (hf b hb)⟩
  have acquired : ((s.barAcquire n key).modMySeat fun st => st.dropBars n) =
      s.modMySeat fun st => (st.dropBars n).hearing s.turn.stream fwd s.me.heard := by
    rw [ha, State.modMySeat_modMySeat]; rfl
  have step := State.alu0_eq ((s.barAcquire n key).modMySeat fun st => st.dropBars n) d 1 2 (g.setWidth 64)
  rw [acquired, State.modMySeat_modMySeat, State.modMySeat_turn, State.modMySeat_now] at step
  unfold State.barWait
  dsimp only
  rw [if_pos h]
  rw [← step, ← acquired]
  rfl

/-- BAR whose generation has not come ends with 0 at a latched cut (R317). -/
theorem barWait_cut {s : State} {n key : Nat} {g : BitVec 32} (d : SSpec) (h : genReached (s.barGen s.mySeat.inst.q n key) g = false)
    (hc : s.mySeat.cut.latch.isSome = true) : ∃ t, s.barWait d n key g = .next t ∧ ScalarResult s t [] d 1 2 0 ∧
      t.barriers = s.barriers := by
  refine ⟨_, ?_, scalarStep_result s [] d 1 2 0, rfl⟩
  rw [← State.alu0_eq]
  unfold State.barWait
  dsimp only
  rw [if_neg (by simp [h]), if_pos hc]

/-- BAR whose generation has not come waits (R317). -/
theorem barWait_waits {s : State} {n key : Nat} {g : BitVec 32} (d : SSpec) (h : genReached (s.barGen s.mySeat.inst.q n key) g = false)
    (hc : s.mySeat.cut.latch.isSome = false) : s.barWait d n key g = (s.modMe fun t => { t with wait := .bar n g }).stall none := by
  unfold State.barWait
  dsimp only
  rw [if_neg (by simp [h]), if_neg (by simp [hc])]

/-! ## The arrival of a BAR -/

theorem KeepsSeat.bars {i : StreamId} {a b : Seat} (h : KeepsSeat i a b) : b.bars = a.bars := by rw [← h.rest]

/-- The state in which the running seat has arrived at a level (R317). -/
def State.barArrived (s : State) (n key : Nat) : State :=
  (s.arrive s.mySeat.inst.q n key s.mySeat.sys.wid (s.relIds s.turn.ref .K s.seq)).modMySeat fun st =>
    st.addBar n (s.barGen s.mySeat.inst.q n key + 1)

/-- An arrival changes the barriers and the running seat's list of arrivals. -/
theorem State.barArrived_eq (s : State) (n key : Nat) : s.barArrived n key =
    ({ s with barriers := (s.barArrived n key).barriers } : State).modMySeat fun st =>
      st.addBar n (s.barGen s.mySeat.inst.q n key + 1) :=
  congrArg (fun t : State => t.modMySeat fun st => st.addBar n (s.barGen s.mySeat.inst.q n key + 1))
    (s.arrive_spec s.mySeat.inst.q n key s.mySeat.sys.wid (s.relIds s.turn.ref .K s.seq)).1

theorem State.barArrived_mySeat (s : State) (n key : Nat) :
    (s.barArrived n key).mySeat = s.mySeat.addBar n (s.barGen s.mySeat.inst.q n key + 1) := by
  rw [State.barArrived_eq, State.modMySeat_mySeat]; rfl

theorem State.barArrived_me (s : State) (n key : Nat) : (s.barArrived n key).me = s.me := by
  rw [State.barArrived_eq, State.modMySeat_me]; rfl

theorem State.barArrived_isC (s : State) (n key : Nat) : (s.barArrived n key).isC = s.isC := by
  rw [State.barArrived_eq]; rfl

theorem State.barArrived_bytes (s : State) (n key : Nat) : SameBytes s (s.barArrived n key) := by
  rw [State.barArrived_eq]; exact fun _ => rfl

/-- The group of an arrival keeps its generation and has the arrival first. -/
theorem State.barArrived_group (s : State) (n key : Nat) : let q := s.mySeat.inst.q
    ∃ b, (s.barArrived n key).barrierOf q n key = some b ∧ b.gen = s.barGen q n key ∧
      b.arrived = s.mySeat.sys.wid :: ((s.barrierOf q n key).map (·.arrived)).getD [] :=
  (s.arrive_spec s.mySeat.inst.q n key s.mySeat.sys.wid (s.relIds s.turn.ref .K s.seq)).2

/-- The generation that an arrival waits for has not come yet. -/
theorem State.barArrived_waits (s : State) (n key : Nat) : let t := s.barArrived n key
    genReached (t.barGen t.mySeat.inst.q n key) (s.barGen s.mySeat.inst.q n key + 1) = false := by
  intro t
  obtain ⟨b, hb, hg, -⟩ := s.barArrived_group n key
  have hq : t.mySeat.inst.q = s.mySeat.inst.q := by rw [s.barArrived_mySeat n key]; rfl
  rw [hq, State.barGen_eq, hb]
  show genReached b.gen _ = false
  rw [hg]
  exact genReached_next _

theorem Seat.mem_addBar (st : Seat) (n : Nat) (g : BitVec 32) : ⟨n, g⟩ ∈ (st.addBar n g).bars := by simp [Seat.addBar]

/-- A BAR that arrives at a latched cut ends with 0, its arrival registered (R317). -/
theorem barArrived_cut (s : State) (d : SSpec) (n key : Nat) (hc : s.mySeat.cut.latch.isSome = true) :
    let gen := s.barGen s.mySeat.inst.q n key
    ∃ t, (s.barArrived n key).barWait d n key (gen + 1) = .next t ∧ t.barriers = (s.barArrived n key).barriers ∧
      ⟨n, gen + 1⟩ ∈ t.mySeat.bars ∧ SameBytes s t ∧ t.me.pc = s.me.advance.1.pc ∧
      ∀ k, t.me.rdX k = if !s.isC && decide (d = .x k) then 0 else s.me.rdX k := by
  intro gen
  obtain ⟨t, ht, result, hb⟩ := barWait_cut d (s.barArrived_waits n key) (by rw [State.barArrived_mySeat]; exact hc)
  obtain ⟨keeps, ⟨pc, -⟩, -, -, regs, -⟩ := result
  refine ⟨t, ht, hb, ?_, fun k => (keeps.bytes k).trans (s.barArrived_bytes n key k), ?_, fun k => ?_⟩
  · rw [keeps.seat.bars, State.barArrived_mySeat]
    exact Seat.mem_addBar _ _ _
  · rw [pc, State.barArrived_me]
  · rw [regs, State.barArrived_me, State.barArrived_isC]
    by_cases hk : k = 0
    · subst hk; simp [Stream.rdX]
    · simp [hk]

/-- A BAR that arrives while no cut is latched waits for the next generation (R317). -/
theorem barArrived_waiting (s : State) (d : SSpec) (n key : Nat) (hc : s.mySeat.cut.latch.isSome = false) :
    let gen := s.barGen s.mySeat.inst.q n key
    ∃ t, (s.barArrived n key).barWait d n key (gen + 1) = .next t ∧ t.barriers = (s.barArrived n key).barriers ∧
      ⟨n, gen + 1⟩ ∈ t.mySeat.bars ∧ SameBytes s t ∧ t.me.pc = s.me.pc ∧ t.me.wait = .bar n (gen + 1) ∧ SameRegs s t ∧
      t.mySeat.q = s.mySeat.q := by
  intro gen
  let w := (s.barArrived n key).modMe fun t => { t with wait := .bar n (gen + 1) }
  let t := w.modMySeat fun st => st.stalled w.turn.stream w.isC none
  have ht : (s.barArrived n key).barWait d n key (gen + 1) = .next t :=
    (barWait_waits d (s.barArrived_waits n key) (by rw [State.barArrived_mySeat]; exact hc)).trans (w.stall_eq none)
  have hw : w.me = { s.me with wait := .bar n (gen + 1) } := by rw [State.modMe_me, State.barArrived_me]
  have hme : t.me = { s.me with wait := .bar n (gen + 1), waiting := none } := by
    rw [State.modMySeat_me, Seat.stalled_getStr, show w.mySeat.getStr w.turn.stream = w.me from rfl, hw]
  have hs : t.mySeat.q = s.mySeat.q ∧ t.mySeat.bars = (s.mySeat.addBar n (gen + 1)).bars := by
    have rest := w.mySeat.stalled_rest w.turn.stream w.isC none
    rw [State.modMySeat_mySeat, rest.1, rest.2, State.modMe_mySeat, State.barArrived_mySeat]
    exact ⟨rfl, rfl⟩
  refine ⟨t, ht, rfl, ?_, s.barArrived_bytes n key, ?_, ?_, ⟨fun k => ?_, ?_, ?_⟩, hs.1⟩
  · rw [hs.2]; exact Seat.mem_addBar _ _ _
  all_goals rw [hme]
  rfl

/-! ## BAR of a level above 0 -/

section
variable {s : State} {d : SSpec} {j : Fin 7} {l : Launch} (ready : Ready s [] [d]) (hj : j ≠ 0)
  (hl : s.launchOf s.mySeat.inst.q = some l)
include ready hj hl

/-- BAR of a level above 0, its operands ready, its launch known (R317). -/
theorem exec_bar : exec (.bar d j) s =
    let n := min j.val (headerFields l.dw).length
    let key := levelKey (headerFields l.dw) n s.mySeat.sys.wid
    if 65536 < levelSize' (headerFields l.dw) n then s.raise (Flt.mk' .undefOp 57)
    else match s.barArrival s.mySeat.inst.q n key with
      | some g => s.barWait d n key g
      | none =>
        if !s.launchReleased s.launchSince then .next (s.modMe fun t => { t with wait := .xfence s.launchSince })
        else (s.barArrived n key).barWait d n key (s.barGen s.mySeat.inst.q n key + 1) := by
  obtain ⟨hc, hb⟩ := ready
  show execBar d j s = _
  unfold execBar
  rw [if_neg (by simp [hc]), hb]
  dsimp only
  rw [if_neg hj, hl, ← State.launchOf_q hl]
  dsimp only
  rw [State.launchOf_q hl]
  rfl

end

/-! ## Opening a barrier -/

/-- A barrier opens once its members have arrived or retired (R317). -/
theorem exec_barrierOpen {s : State} {i : Nat} {b : Barrier} {l : Launch} (hb : s.barriers[i]? = some b) (hl : s.launchOf b.q = some l) :
    let gone := l.retired.countP fun w => decide (levelKey (headerFields l.dw) b.level w = b.key ∧ w ∉ b.arrived)
    exec (.barrierOpen i) s = .next
      (if b.arrived ≠ [] ∧ levelSize' (headerFields l.dw) b.level ≤ b.arrived.length + gone then
        { s with barriers := s.barriers.set i { b with gen := b.gen + 1, arrived := [], opened := b.ids, ids := [] } } else s) := by
  intro gone
  have counted : (l.retired.filter fun w => decide (levelKey (headerFields l.dw) b.level w = b.key) && !b.arrived.contains w).length =
      gone := by
    rw [← List.countP_eq_length_filter]
    refine List.countP_congr fun w _ => ?_
    simp
  show execBarrierOpen i s = _
  unfold execBarrierOpen
  rw [hb]
  dsimp only
  rw [hl]
  dsimp only
  rw [counted]
  split
  · rename_i h
    rw [if_pos (by simpa using h), List.modify_eq_set_getElem?, hb]
    rfl
  · rename_i h
    rw [if_neg (by simpa using h)]

/-! ## The obligation -/

/-- The arrival that a BAR waits on is its own, or one of its seat at the level that is not opened (R317). -/
theorem State.barArrival_none {s : State} (h : s.me.wait = .none) (q : Fin 512) (n key : Nat) (g : BitVec 32) :
    s.barArrival q n key = some g ↔
      (s.mySeat.bars.find? fun b => decide (b.level = n) && !genReached (s.barGen q n key) b.gen).map (·.gen) = some g := by
  unfold State.barArrival
  rw [h]

theorem State.barArrival_bar {s : State} {n : Nat} {g : BitVec 32} (h : s.me.wait = .bar n g) (q : Fin 512) (key : Nat) :
    s.barArrival q n key = some g := by
  unfold State.barArrival
  rw [h]

/-- Settles O41: level 0 at once; a greater level by what its arrival is: none yet, one whose generation has come, or one that waits. -/
theorem levelBarriers : Obligations.LevelBarriers := by
  unfold Obligations.LevelBarriers
  refine ⟨fun s d ready => ⟨_, (exec_bar_zero ready).trans (congrArg Host.Outcome.next (State.alu0_eq s d 1 2 1)),
    scalarStep_result s [] d 1 2 1⟩, fun s d j l ready hj hl => ?level, fun s i b l hb hl => exec_barrierOpen hb hl⟩
  case level =>
    intro fs n q key gen come mine cut
    have hgen : s.barGen q n key = gen := s.barGen_eq q n key
    have reached (g : BitVec 32) : genReached (s.barGen q n key) g = decide (come g) := by rw [hgen]; rfl
    have bar := exec_bar ready hj hl
    by_cases big : 65536 < levelSize' fs n
    · rw [if_pos big]; exact bar.trans (if_pos big)
    rw [if_neg big]
    replace bar := bar.trans (if_neg big)
    refine ⟨fun g h => State.barArrival_bar h q key, fun h g => ?unopened, fun g hg => ?arrived, fun hg => ?new⟩
    case unopened =>
      have arrival := State.barArrival_none h q n key g
      simp only [reached] at arrival
      exact arrival
    case arrived =>
      replace bar : exec (.bar d j) s = s.barWait d n key g := bar.trans (by rw [show s.barArrival s.mySeat.inst.q n key = some g from hg])
      refine ⟨fun hc => ?_, fun hc => ?_⟩
      · obtain ⟨t, ht, result⟩ := barWait_come d ((reached g).trans (decide_eq_true hc))
        exact ⟨t, bar.trans ht, result⟩
      · have wait := (reached g).trans (decide_eq_false hc)
        cases hcut : cut with
        | true =>
          obtain ⟨t, ht, result, -⟩ := barWait_cut d wait hcut
          exact ⟨t, bar.trans ht, result⟩
        | false => exact bar.trans (barWait_waits d wait hcut)
    case new =>
      rw [show s.barArrival s.mySeat.inst.q n key = none from hg] at bar
      dsimp only at bar
      cases hr : s.launchReleased s.launchSince with
      | false => exact bar.trans (if_pos (by simp [hr]))
      | true =>
        replace bar := bar.trans (if_neg (by simp [hr]))
        obtain ⟨b, hb, hbg, hba⟩ := s.barArrived_group n key
        rw [if_pos rfl]
        cases hcut : cut with
        | true =>
          obtain ⟨t, ht, hbs, mem, bytes, rest⟩ := barArrived_cut s d n key hcut
          exact ⟨t, bar.trans ht, ⟨b, (State.barrierOf_congr hbs _ _ _).trans hb, hbg.trans hgen, hba⟩, hgen ▸ mem, bytes, rest⟩
        | false =>
          obtain ⟨t, ht, hbs, mem, bytes, rest⟩ := barArrived_waiting s d n key hcut
          exact ⟨t, bar.trans ht, ⟨b, (State.barrierOf_congr hbs _ _ _).trans hb, hbg.trans hgen, hba⟩, hgen ▸ mem, bytes, hgen ▸ rest⟩

end Sys2Proof.Machine
end

section
/-! SUPPORT. An instruction that only goes on, COMMA (R45, R47), and obligation O7. -/
namespace Sys2Proof.Machine

/-! ## Going on in sequence -/

/-- Going on in sequence is delivering a result to x0, which discards it (R101). -/
theorem State.retire_eq_scalarStep (s : State) :
    s.retire = s.modMySeat fun st => st.scalarStep s.turn.stream s.now [] (.x 0) 1 1 0 := rfl

/-- An instruction that reads and writes nothing moves the running stream by one instruction. -/
theorem moved_retire (s : State) : Moved s s.retire [] s.me.advance.1 s.me.advance.2 := by
  obtain ⟨keeps, went, hp, ht, hx, -, queues, pipe⟩ := scalarStep_result s [] (.x 0) 1 1 0
  rw [← s.retire_eq_scalarStep] at keeps went hp ht hx queues pipe
  refine ⟨keeps, went, ⟨fun n => ?_, hp, ht⟩, fun n => ?_, ?_⟩
  · rw [hx n]
    by_cases hn : n = 0
    · simp [hn]
    · have : ¬(0 : Fin 32) = n := fun e => hn e.symm
      simp [this]
  · simpa using queues n
  · simpa [pipeEntry] using pipe

theorem State.modMe_modMe (s : State) (f g : Stream → Stream) : (s.modMe f).modMe g = s.modMe fun t => g (f t) :=
  (State.modMySeat_modMySeat s _ _).trans (State.modMySeat_congr s (Seat.modStr_modStr _ _ _ _))

/-- A change that leaves the running stream leaves the state. -/
theorem State.modMe_same (s : State) (f : Stream → Stream) (h : f s.me = s.me) : s.modMe f = s :=
  (State.modMySeat_congr s (Seat.modStr_same _ _ f h)).trans s.modMySeat_id

/-! ## COMMA -/

/-- A stream that has passed comma n, m: it stops there at the pass of a latched cut (R45, R47). -/
def Stream.passComma (t : Stream) (latch : Option Latch) (n : BitVec 10) (m : BitVec 6) : Stream :=
  { t with passes := t.passes + 1,
           comma := if latch.any fun l => decide (l.n = t.passes + 1) then some (n, m) else t.comma }

/-- The state after a COMMA, before a bookmark that is due at its pass becomes pending. -/
def State.pastComma (s : State) (n : BitVec 10) (m : BitVec 6) : State :=
  s.retire.modMe fun t => t.passComma s.mySeat.cut.latch n m

theorem exec_comma_body {s : State} (h : s.me.act = true) (n : BitVec 10) (m : BitVec 6) :
    exec (.comma n m) s = .next (s.takeFault s.turn.ref ⟨.undefOp, 1, 0, false⟩ s.turn.stream.idx.val) := if_pos h

theorem KeepsSeat.cut {i : StreamId} {a b : Seat} (h : KeepsSeat i a b) : b.cut = a.cut := by rw [← h.rest]

theorem State.retire_cut (s : State) : s.retire.mySeat.cut = s.mySeat.cut := (moved_retire s).1.seat.cut

theorem exec_comma {s : State} (h : s.me.act = false) (n : BitVec 10) (m : BitVec 6) :
    exec (.comma n m) s = .next ((s.pastComma n m).modMySeat Seat.bookmarkDue) := by
  have mark (t : Stream) (l : Option Latch) : (match l with
      | some l => if t.passes + 1 = l.n then { t with passes := t.passes + 1, comma := some (n, m) } else { t with passes := t.passes + 1 }
      | none => { t with passes := t.passes + 1 }) = t.passComma l n m := by
    cases l with
    | none => rfl
    | some l => simp only [Stream.passComma, Option.any_some, decide_eq_true_eq, eq_comm (a := l.n)]; split <;> rfl
  refine (if_neg (by simp [h])).trans (congrArg Host.Outcome.next ?_)
  refine Eq.trans ?_ (State.modMySeat_modMySeat s.retire _ Seat.bookmarkDue).symm
  refine State.modMySeat_congr s.retire (congrArg Seat.bookmarkDue ?_)
  show s.retire.mySeat.modStr s.turn.stream _ = s.retire.mySeat.modStr s.turn.stream _
  rw [s.retire_cut]
  exact congrArg _ (funext fun t => mark t _)

/-- But for the pass counted and the comma reached, COMMA only goes on. -/
theorem State.pastComma_restored (s : State) (n : BitVec 10) (m : BitVec 6) :
    ((s.pastComma n m).modMe fun a => { a with passes := s.me.passes, comma := s.me.comma }) = s.retire := by
  have mine : KeepsStream s.me s.retire.me := (moved_retire s).1.seat.mine
  refine (State.modMe_modMe s.retire _ _).trans (State.modMe_same _ _ ?_)
  show ({ s.retire.me.passComma s.mySeat.cut.latch n m with passes := s.me.passes, comma := s.me.comma } : Stream) = s.retire.me
  rw [← mine.passes, ← mine.comma]
  rfl

/-- Settles O7: COMMA is going on in sequence, then `Stream.passComma`, then the bookmark that is due. -/
theorem commaCounts : Obligations.CommaCounts := by
  unfold Obligations.CommaCounts
  intro s n m
  cases h : s.me.act with
  | true => exact exec_comma_body h n m
  | false =>
    have mine : KeepsStream s.me s.retire.me := (moved_retire s).1.seat.mine
    have past : (s.pastComma n m).me = s.retire.me.passComma s.mySeat.cut.latch n m := State.modMe_me _ _
    refine ⟨s.pastComma n m, exec_comma h n m, ?_, ?_, ?_⟩
    · rw [past, ← mine.passes]; rfl
    · rw [past, ← mine.passes, ← mine.comma]; rfl
    · show Moved s _ [] _ _
      rw [s.pastComma_restored]
      exact moved_retire s

end Sys2Proof.Machine
end

section
/-! SUPPORT. TRAP and ERET (R186, R191), and obligation O9. -/
namespace Sys2Proof.Machine

/-! ## ERET on a seat -/

/-- The seat whose streams have issued in live cycle `now` and wait for nothing. -/
def Seat.issuedAll (st : Seat) (now : Nat) : Seat :=
  { st with str := st.str.map fun t => { t with issued := now + 1, wait := .none, waiting := none } }

theorem Seat.issuedAll_str (st : Seat) (now : Nat) (j : Fin 4) :
    (st.issuedAll now).str[j] = { st.str[j] with issued := now + 1, wait := .none, waiting := none } := by simp [Seat.issuedAll]

theorem Seat.shadowOut_str (st : Seat) (j : Fin 4) : st.shadowOut.str[j] = if j = 0 then
    { st.str[j] with lc := st.trap.shLc, loopPc := st.trap.shLoopPc, ps := st.trap.shPs, repLeft := st.trap.shRep,
                     stages := st.trap.shStages, repStage := st.trap.shRepStage, comma := st.trap.shComma }
    else st.str[j] := st.modStr_str .K _ j

theorem Seat.owedRetime_kind {st : Seat} (h : st.owedRetime = true) : st.trap.kind = false := by
  simp only [Seat.owedRetime, Bool.and_eq_true, Bool.not_eq_true'] at h
  obtain ⟨⟨⟨⟨kind, -⟩, -⟩, -⟩, -⟩ := h
  exact kind

/-- From a LATENCY_BOUND handler whose cut owes the re-timing handler, ERET enters that handler: K stands at RETIME_VEC with its loop
state from the shadow, the other streams where they stood (R50, R191). -/
theorem Seat.eret_owed {st : Seat} (h : st.owedRetime = true) : ∃ str latch,
    st.eret.latchCut = { st with
      str := str, trap := { st.trap with info := (st.trap.info ||| 12) &&& ~~~1 },
      cut := { st.cut with pc := st.trap.pc, handlerAge := 0, latch := latch } } ∧
    ∀ j : Fin 4, str[j] = if j = 0 then
      { st.str[j] with
        pc := st.cut.retimeVec, halted := false, comma := none, lc := st.trap.shLc, loopPc := st.trap.shLoopPc, ps := st.trap.shPs,
        repLeft := st.trap.shRep, stages := st.trap.shStages, repStage := st.trap.shRepStage } else st.str[j] := by
  let b := ({ st.shadowOut with cut := { st.cut with pc := st.trap.pc } } : Seat).enterRetime
  have eret : st.eret = b := by
    unfold Seat.eret
    rw [Seat.owedRetime_kind h]
    exact if_pos h
  obtain ⟨latch, hl⟩ := Seat.latchCut_eq b
  refine ⟨b.str, latch, (congrArg Seat.latchCut eret).trans hl, fun j => ?_⟩
  refine (Seat.enterRetime_str _ j).trans ?_
  dsimp only
  rw [Seat.shadowOut_str]
  split <;> rfl

/-- Else the streams restart: at CUT_PC from the re-timing handler, at FAULT_PC with K's loop state from the shadow else (R191). -/
theorem Seat.eret_restart {st : Seat} (h : st.owedRetime = false) : ∃ str eng latch,
    st.eret.latchCut = { st with
      str := str, eng := eng, c := { st.c with held := true, release := true },
      trap := { st.trap with info := st.trap.info &&& ~~~5 }, cut := { st.cut with latch := latch } } ∧
    ∀ j : Fin 4, ∃ comma, str[j] = { (if st.trap.kind then st else st.shadowOut).str[j] with
      pc := (if st.trap.kind then st.cut.pc else st.trap.pc)[j], halted := false, comma := comma, wait := .none } := by
  let a := if st.trap.kind then st else st.shadowOut
  let pcs := if st.trap.kind then st.cut.pc else st.trap.pc
  let b := ({ a.restart pcs with trap := { st.trap with info := st.trap.info &&& ~~~5 } } : Seat).unstick
  have eret : st.eret = b := by
    unfold Seat.eret
    dsimp only
    rw [if_neg (by simp [h])]
    show _ = b
    dsimp only [b, a, pcs]
    split <;> rfl
  have rest : b = { st with
      str := b.str, eng := b.eng, c := { st.c with held := true, release := true },
      trap := { st.trap with info := st.trap.info &&& ~~~5 } } := by
    dsimp only [b, a, pcs]
    split <;> rfl
  obtain ⟨latch, hl⟩ := Seat.latchCut_eq b
  refine ⟨b.str, b.eng, latch, (congrArg Seat.latchCut eret).trans (hl.trans ?_), fun j => ⟨_, Seat.restart_str a pcs j⟩⟩
  exact congrArg (fun b : Seat => { b with cut := { b.cut with latch := latch } }) rest

/-! ## TRAP and ERET -/

/-- TRAP goes on, then faults. -/
theorem exec_trap (s : State) (i : BitVec 16) :
    exec (.trap i) s = .next (s.retire.takeFault s.turn.ref ⟨.trap, i.toNat, 0, false⟩ s.turn.stream.idx.val) := rfl

theorem exec_eret {s : State} (h : s.mySeat.trap.active = true) :
    exec .eret s = .next (s.modMySeat fun st => (st.issuedAll s.now).eret.latchCut) := if_neg (by simp [h])

/-- Settles O9: TRAP goes on and faults; ERET faults with no handler running, enters the re-timing handler that is owed, or restarts
the streams. -/
theorem trapAndReturn : Obligations.TrapAndReturn := by
  unfold Obligations.TrapAndReturn
  refine ⟨fun s i => ⟨_, moved_retire s, exec_trap s i⟩, fun s h => if_pos (by simp [h]),
    fun s h ho => ⟨_, exec_eret h, ?owed⟩, fun s h ho => ⟨_, exec_eret h, ?restart⟩⟩
  case owed =>
    obtain ⟨str, latch, seat, hs⟩ := Seat.eret_owed (st := s.mySeat.issuedAll s.now) ho
    simp only [Seat.issuedAll_str] at hs
    dsimp only
    rw [State.modMySeat_mySeat, seat]
    have k : str[(0 : Fin 4)] = _ := hs 0
    dsimp only [Seat.getStr]
    refine ⟨onlySeat_modSeat _ _ _, fun _ => rfl, rfl, rfl, rfl, ?_, ?_, ?_, rfl, congrArg Stream.pc k, congrArg Stream.halted k, congrArg Stream.lc k,
      congrArg Stream.loopPc k, congrArg Stream.ps k, congrArg Stream.repLeft k, rfl, rfl, rfl, rfl, rfl, rfl, rfl, fun j hj => ?_,
      fun j => ?_⟩
    · show ((s.mySeat.trap.info ||| 12) &&& ~~~1).getLsbD 2 = true
      simp
    · show ((s.mySeat.trap.info ||| 12) &&& ~~~1).getLsbD 3 = true
      simp
    · show ((s.mySeat.trap.info ||| 12) &&& ~~~1).getLsbD 0 = false
      simp
    · rw [hs j, if_neg hj]
      exact ⟨rfl, rfl, rfl⟩
    · show str[j.idx].x = s.mySeat.str[j.idx].x ∧ str[j.idx].p = s.mySeat.str[j.idx].p ∧ str[j.idx].t = s.mySeat.str[j.idx].t
      rw [hs]
      split <;> exact ⟨rfl, rfl, rfl⟩
  case restart =>
    obtain ⟨str, eng, latch, seat, hs⟩ := Seat.eret_restart (st := s.mySeat.issuedAll s.now) ho
    dsimp only
    rw [State.modMySeat_mySeat, seat]
    dsimp only [Seat.getStr]
    refine ⟨onlySeat_modSeat _ _ _, fun _ => rfl, fun j => ?_, rfl, rfl, ?_, ?_, rfl, ?_, rfl, rfl, rfl, rfl, rfl, fun j => ?_⟩
    · obtain ⟨comma, hj⟩ := hs j
      rw [hj]
      exact ⟨rfl, rfl, rfl⟩
    · show (s.mySeat.trap.info &&& ~~~5).getLsbD 2 = false
      simp
    · show (s.mySeat.trap.info &&& ~~~5).getLsbD 0 = false
      simp
    · obtain ⟨comma, hk⟩ := hs 0
      rw [show str[StreamId.K.idx] = _ from hk]
      cases kind : s.mySeat.trap.kind with
      | true => rw [if_pos (show (s.mySeat.issuedAll s.now).trap.kind = true from kind), Seat.issuedAll_str]; rfl
      | false =>
        rw [if_neg (show ¬(s.mySeat.issuedAll s.now).trap.kind = true from Bool.eq_false_iff.1 kind), Seat.shadowOut_str]
        exact ⟨rfl, rfl, rfl, rfl⟩
    · obtain ⟨comma, hj⟩ := hs j.idx
      rw [hj]
      split
      · rw [Seat.issuedAll_str]; exact ⟨rfl, rfl, rfl⟩
      · rw [Seat.shadowOut_str, Seat.issuedAll_str]; split <;> exact ⟨rfl, rfl, rfl⟩

end Sys2Proof.Machine
end

section
/-! SUPPORT. What latching a cut makes of the latch (R47), the requests for a cut and COMMA_TIMEOUT (R47, R50, R390), and obligation O46. -/
namespace Sys2Proof.Machine

/-! ## The latch -/

/-- The latch that `latchCut` leaves (R47 step 1): of an unlatched seat the pass to come, when an event is pending and no re-timing handler
runs; of a latched one that has not stopped yet, PREEMPT and BOOKMARK as they are pending. -/
def Seat.newLatch (st : Seat) : Option Latch :=
  match st.cut.latch with
  | none =>
    if st.cutPending && !(st.trap.active && st.trap.kind) then
      some ⟨BitVec.ofNat 32 (st.topPass + 1), 0, st.cut.preempt, st.cut.bookmark⟩ else none
  | some l => some (if st.allReached then l else { l with preempt := st.cut.preempt, bookmark := st.cut.bookmark })

theorem Seat.newLatch_none {st : Seat} (h : st.cut.latch = none) : st.newLatch =
    if st.cutPending && !(st.trap.active && st.trap.kind) then
      some ⟨BitVec.ofNat 32 (st.topPass + 1), 0, st.cut.preempt, st.cut.bookmark⟩ else none := by
  unfold Seat.newLatch; rw [h]

theorem Seat.newLatch_some {st : Seat} {l : Latch} (h : st.cut.latch = some l) :
    st.newLatch = some (if st.allReached then l else { l with preempt := st.cut.preempt, bookmark := st.cut.bookmark }) := by
  unfold Seat.newLatch; rw [h]

theorem Seat.latchCut_newLatch (st : Seat) : st.latchCut = { st with cut := { st.cut with latch := st.newLatch } } := by
  have same {l : Option Latch} (h : st.cut.latch = l) : st = { st with cut := { st.cut with latch := l } } := by rw [← h]
  cases h : st.cut.latch with
  | none =>
    rw [Seat.newLatch_none h]
    unfold Seat.latchCut
    rw [h]
    dsimp only
    split
    · rfl
    · exact same h
  | some l =>
    rw [Seat.newLatch_some h]
    unfold Seat.latchCut
    rw [h]
    dsimp only
    split
    · exact same h
    · rfl

/-! ## Requests -/

/-- PREEMPT_REQUEST of an occupied seat (R47). -/
theorem exec_preemptRequest {s : State} {r : SeatRef}
    (h : (s.getSeat r).inst.phase = .running ∨ (s.getSeat r).inst.phase = .faulted ∨ (s.getSeat r).inst.phase = .retiring) :
    exec (.preemptRequest r) s =
      .next (s.modSeat r fun st => ({ st with cut := { st.cut with preempt := true } } : Seat).latchCut) := by
  show execPreemptRequest r s = _
  unfold execPreemptRequest
  rcases h with h | h | h
  all_goals rw [h]

theorem exec_preemptRequest_else {s : State} {r : SeatRef}
    (h : ¬((s.getSeat r).inst.phase = .running ∨ (s.getSeat r).inst.phase = .faulted ∨ (s.getSeat r).inst.phase = .retiring)) :
    exec (.preemptRequest r) s = .next s := by
  simp only [not_or] at h
  obtain ⟨running, faulted, retiring⟩ := h
  show execPreemptRequest r s = _
  unfold execPreemptRequest
  split
  · exact absurd ‹_› running
  · exact absurd ‹_› faulted
  · exact absurd ‹_› retiring
  · rfl

/-- The bookmark register armed at a pass, as BMARK_ARM writes it (R390). -/
def bmarkWord (n : BitVec 32) : Word := BitVec.ofNat 64 (n.toNat * 2 ^ 32 + 1) &&& 0xFFFFFFFF00000001#64

theorem bmarkWord_armed (n : BitVec 32) : bit (bmarkWord n) 0 = true := by
  have odd : (n.toNat * 2 ^ 32 + 1) % 2 = 1 := by omega
  simp only [bit, bmarkWord, BitVec.getLsbD_and, BitVec.getLsbD_ofNat, Nat.testBit_zero, odd]
  rfl

theorem bmarkWord_pass (n : BitVec 32) : fld (bmarkWord n) 32 32 = n.toNat := by
  have mask : ∀ i < 32, (0xFFFFFFFF00000001#64).getLsbD (32 + i) = true := by decide
  have high : (n.toNat * 2 ^ 32 + 1) >>> 32 = n.toNat := by rw [Nat.shiftRight_eq_div_pow]; omega
  refine Nat.eq_of_testBit_eq fun i => ?_
  unfold fld
  rw [Nat.testBit_mod_two_pow, Nat.testBit_shiftRight, BitVec.testBit_toNat, bmarkWord, BitVec.getLsbD_and]
  by_cases hi : i < 32
  · have inside : 32 + i < 64 := by omega
    rw [mask i hi, BitVec.getLsbD_ofNat, ← Nat.testBit_shiftRight, high]
    simp [hi, inside]
  · simp [hi, BitVec.testBit_toNat, BitVec.getLsbD_of_ge n i (by omega)]

theorem bmarkWord_rest (n : BitVec 32) : fld (bmarkWord n) 1 31 = 0 := by
  have mask : ∀ i < 31, (0xFFFFFFFF00000001#64).getLsbD (1 + i) = false := by decide
  refine Nat.eq_of_testBit_eq fun i => ?_
  unfold fld
  rw [Nat.testBit_mod_two_pow, Nat.testBit_shiftRight, BitVec.testBit_toNat, bmarkWord, BitVec.getLsbD_and, Nat.zero_testBit]
  by_cases hi : i < 31
  · rw [mask i hi, Bool.and_false, Bool.and_false]
  · simp [hi]

/-- A seat whose bookmark is armed by the word `w`: it is pending when its pass is the next one, and then latched (R390). -/
theorem Seat.armed_bookmarkDue (st : Seat) (w : Word) (armed : bit w 0 = true) : ∃ latch,
    ({ st with sys := { st.sys with bmark := w } } : Seat).bookmarkDue =
      { st with sys := { st.sys with bmark := w },
                cut := { st.cut with bookmark := st.cut.bookmark || decide (fld w 32 32 ≤ st.topPass + 1), latch := latch } } := by
  let a : Seat := { st with sys := { st.sys with bmark := w } }
  have due : a.bookmarkDue = if !st.cut.bookmark && decide (fld w 32 32 ≤ st.topPass + 1) then
      ({ a with cut := { st.cut with bookmark := true } } : Seat).latchCut else a := by
    show (if bit w 0 && _ && _ then _ else a) = _
    rw [armed, Bool.true_and]
    rfl
  by_cases hd : (!st.cut.bookmark && decide (fld w 32 32 ≤ st.topPass + 1)) = true
  · obtain ⟨latch, hl⟩ := Seat.latchCut_eq { a with cut := { st.cut with bookmark := true } }
    have pending : (st.cut.bookmark || decide (fld w 32 32 ≤ st.topPass + 1)) = true := by
      rw [Bool.and_eq_true] at hd; rw [hd.2, Bool.or_true]
    exact ⟨latch, by rw [due, if_pos hd, hl, pending]⟩
  · have pending : (st.cut.bookmark || decide (fld w 32 32 ≤ st.topPass + 1)) = st.cut.bookmark := by
      cases hb : st.cut.bookmark <;> simp_all
    exact ⟨st.cut.latch, by rw [due, if_neg hd, pending]⟩

theorem exec_bmarkArm (s : State) (r : SeatRef) (n : BitVec 32) : exec (.bmarkArm r n) s =
    .next (s.modSeat r fun st => ({ st with sys := { st.sys with bmark := bmarkWord n } } : Seat).bookmarkDue) := rfl

/-! ## COMMA_TIMEOUT -/

/-- The limits of a seat that runs, and nothing of a translated object (R47, R50). -/
theorem exec_commaTimeout {s : State} {r : SeatRef} (hh : s.engineHeld r.core = false) (hp : (s.getSeat r).inst.phase = .running)
    (ht : (s.getSeat r).inst.port = none) : let a := s.getSeat r
    exec (.commaTimeout r) s = .next (
      if a.trap.active && a.trap.kind then if a.cut.commaLimit.toNat ≤ a.cut.handlerAge then s.commaTimeout r 4 else s
      else match a.cut.latch with
        | some l => if !a.trap.active && decide (a.cut.commaLimit.toNat ≤ l.age) && !a.allReached then s.commaTimeout r 3 else s
        | none => s) :=
  congrArg Host.Outcome.next (if_neg (by simp [hh, hp, ht]))

/-- Settles O46: the seat after a request has the latch of `Seat.newLatch`; a timeout is due by the age of the handler or of the latch. -/
theorem cutRequestsAndTimeouts : Obligations.CutRequestsAndTimeouts := by
  unfold Obligations.CutRequestsAndTimeouts
  refine ⟨fun s r => ?preempt, fun s r n => ⟨_, exec_bmarkArm s r n, ?bookmark⟩, fun s r hh hp ht => ?timeout⟩
  case preempt =>
    intro a
    split
    · rename_i h
      refine ⟨_, exec_preemptRequest h, onlySeat_modSeat _ _ _, fun _ => rfl, ?_, ?_⟩
      · rw [State.modSeat_getSeat, Seat.latchCut_newLatch]
      · rw [State.modSeat_getSeat, Seat.latchCut_newLatch]
        show Seat.newLatch { a with cut := { a.cut with preempt := true } } = _
        cases hl : a.cut.latch with
        | none =>
          rw [Seat.newLatch_none (by exact hl)]
          show (if true && !(a.trap.active && a.trap.kind) then _ else _) = if a.trap.active && a.trap.kind then _ else _
          cases a.trap.active && a.trap.kind <;> rfl
        | some l => exact Seat.newLatch_some (by exact hl)
    · rename_i h
      exact exec_preemptRequest_else h
  case bookmark =>
    dsimp only
    obtain ⟨latch, ha⟩ := (s.getSeat r).armed_bookmarkDue (bmarkWord n) (bmarkWord_armed n)
    rw [State.modSeat_getSeat, ha]
    refine ⟨onlySeat_modSeat _ _ _, fun _ => rfl, bmarkWord_pass n, bmarkWord_armed n, bmarkWord_rest n, ?_, rfl⟩
    rw [bmarkWord_pass]
  case timeout =>
    intro a ends
    have run := exec_commaTimeout hh hp ht
    have early (active : (s.getSeat r).trap.active = false) : ¬((s.getSeat r).trap.active && (s.getSeat r).trap.kind) = true := by
      rw [active]; exact Bool.false_ne_true
    refine ⟨fun active kind => ?_, fun active l hl => ?_, fun active hl => ?_⟩
    · have late : (a.trap.active && a.trap.kind) = true := by rw [active, kind]; rfl
      replace run := run.trans (congrArg Host.Outcome.next (if_pos late))
      split
      · exact run.trans (congrArg Host.Outcome.next (if_pos ‹_›))
      · exact run.trans (congrArg Host.Outcome.next (if_neg ‹_›))
    · replace run := run.trans (congrArg Host.Outcome.next (if_neg (early active)))
      rw [show (s.getSeat r).cut.latch = some l from hl] at run
      split
      · rename_i due
        exact run.trans (congrArg Host.Outcome.next (if_pos (by simp [due, a, active])))
      · rename_i due
        exact run.trans (congrArg Host.Outcome.next (if_neg (by simp [a, active] at due ⊢; exact due)))
    · replace run := run.trans (congrArg Host.Outcome.next (if_neg (early active)))
      rw [show (s.getSeat r).cut.latch = none from hl] at run
      exact run

end Sys2Proof.Machine
end

section
/-! SUPPORT. SCRUB of a stack that is shut down (R228, R230), and the refutation of obligation O49. -/
namespace Sys2Proof.Machine

/-- A stack that is shut down answers as one that the part lacks. -/
theorem State.stackGone_of_down {s : State} {n : Fin 24} (h : s.stack[n].down = true) : s.stackGone n.val = true := by
  unfold State.stackGone
  rw [dif_pos n.isLt]
  exact Bool.or_eq_true_iff.2 (.inr h)

/-- SCRUB of a stack that is shut down changes nothing, a unit marked correctable included (R228). -/
theorem exec_scrub_down {s : State} {n : Fin 24} (h : s.stack[n].down = true) (unit : Nat) : exec (.scrub n unit) s = .next s := by
  refine if_pos (State.stackGone_of_down (n := n) ?_)
  split
  · show (vmod s.stack n _)[n].down = true
    exact (congrArg Stack.down (vmod_self s.stack n _)).trans h
  · exact h

/-- Refutes O49: its clause on SCRUB has the mark of a correctable unit cleared and counted whatever the stack's state, but SCRUB of a stack
that is shut down leaves the mark. -/
theorem not_clockAndHeat : ¬ Obligations.ClockAndHeat := by
  unfold Obligations.ClockAndHeat
  rintro ⟨-, -, -, -, -, scrub, -⟩
  let s : State :=
    { State.reset with corr := [4 * stackUnit 0 0], stack := State.reset.stack.set 0 { Stack.reset with down := true } }
  have down : s.stack[(0 : Fin 24)].down = true := by simp [s]
  obtain ⟨t, ht, -, -, -, -, corr, -⟩ := scrub s 0 0
  rw [exec_scrub_down down] at ht
  injection ht with ht
  rw [← ht] at corr
  simp [s] at corr

end Sys2Proof.Machine
end

section
/-! SUPPORT. What the checks of an access leave unchanged (R202, R346, R347). -/
namespace Sys2Proof.Machine

/-! ## Looking up an address -/

/-- What the checks of a stream's access may change in its seat: the page it touched last, what it has acquired, and the TLBs. -/
structure Marks where
  page  : Option Word
  fwd   : List Nat
  heard : List Heard
  tlbK  : Tlb
  tlbL  : Tlb
  tlbS  : Tlb

/-- The marks as stream i of a seat has them. -/
def Seat.marks (st : Seat) (i : StreamId) : Marks :=
  ⟨(st.getStr i).lastPage, (st.getStr i).fwd, (st.getStr i).heard, st.tlbK, st.tlbL, st.tlbS⟩

/-- A stream with other marks. -/
def Stream.marked (t : Stream) (m : Marks) : Stream := { t with lastPage := m.page, fwd := m.fwd, heard := m.heard }

/-- The seat with other marks for stream i. -/
def Seat.marked (st : Seat) (i : StreamId) (m : Marks) : Seat :=
  { st.modStr i (fun t => t.marked m) with tlbK := m.tlbK, tlbL := m.tlbL, tlbS := m.tlbS }

theorem Seat.marked_marks (st : Seat) (i : StreamId) : st.marked i (st.marks i) = st :=
  congrArg (fun a : Seat => { a with tlbK := st.tlbK, tlbL := st.tlbL, tlbS := st.tlbS }) (st.modStr_same i _ rfl)

theorem Seat.marked_marked (st : Seat) (i : StreamId) (m k : Marks) : (st.marked i m).marked i k = st.marked i k :=
  congrArg (fun a : Seat => { a with tlbK := k.tlbK, tlbL := k.tlbL, tlbS := k.tlbS }) (st.modStr_modStr i (fun t => t.marked m) fun t => t.marked k)

/-- Nothing has changed but the error tables of the stacks and the marks of the running stream. -/
def Looked (s t : State) : Prop := ∃ n m, OnlyNotes s n ∧ t = n.modMySeat fun st => st.marked s.turn.stream m

theorem looked_of_notes {s n : State} (h : OnlyNotes s n) : Looked s n := by
  refine ⟨n, n.mySeat.marks n.turn.stream, h, ?_⟩
  have turn : n.turn = s.turn := by rw [h.rest]
  rw [← turn]
  exact n.modMySeat_id.symm.trans (State.modMySeat_congr n (Seat.marked_marks _ _).symm)

theorem looked_refl (s : State) : Looked s s := looked_of_notes (onlyNotes_refl s)

theorem Looked.turn {s t : State} (h : Looked s t) : t.turn = s.turn := by
  obtain ⟨n, m, notes, rfl⟩ := h
  show n.turn = s.turn
  rw [notes.rest]

theorem looked_trans {s t u : State} (h : Looked s t) (k : Looked t u) : Looked s u := by
  have turn := h.turn
  obtain ⟨n, m, notes, rfl⟩ := h
  obtain ⟨n', m', notes', rfl⟩ := k
  refine ⟨{ n with stack := n'.stack }, m', onlyNotes_trans notes ⟨rfl, notes'.errors⟩, ?_⟩
  have hn : n' = ({ n with stack := n'.stack } : State).modMySeat fun st => st.marked s.turn.stream m := notes'.rest
  rw [turn]
  rw (occs := [1]) [hn]
  exact (State.modMySeat_modMySeat _ _ _).trans (State.modMySeat_congr _ (Seat.marked_marked _ _ _ _))

/-- A change of the running seat that changes marks alone. -/
theorem looked_modMySeat (s : State) (f : Seat → Seat) (h : ∃ m, f s.mySeat = s.mySeat.marked s.turn.stream m) :
    Looked s (s.modMySeat f) := by
  obtain ⟨m, hm⟩ := h
  exact ⟨s, m, onlyNotes_refl s, State.modMySeat_congr s hm⟩

theorem looked_hear (s : State) (acq : Option Scope) (l : List Heard) : Looked s (s.hear s.turn acq l) := by
  unfold State.hear
  split
  · exact looked_refl s
  · cases acq with
    | none => exact looked_modMySeat s _ ⟨{ s.mySeat.marks s.turn.stream with heard := s.stillHeard s.me.heard ++ l }, rfl⟩
    | some sA =>
      exact looked_modMySeat s _ ⟨{ s.mySeat.marks s.turn.stream with
        fwd := s.onWay s.me.fwd ++ acquired s.turn sA l, heard := s.stillHeard s.me.heard ++ l }, rfl⟩

theorem looked_streamWalk (s : State) (l : List Place) : Looked s (s.streamWalk s.turn l) := by
  have notes := onlyNotes_noteWalk s l
  have turn : (s.noteWalk l).turn = s.turn := by rw [notes.rest]
  unfold State.streamWalk
  rw [← turn]
  exact looked_trans (looked_of_notes notes) (looked_hear _ _ _)

theorem Seat.setTlb_marked (st : Seat) (i : StreamId) (t : Tlb) : ∃ m, st.setTlb i t = st.marked i m := by
  have same := (st.marked_marks i).symm
  cases i with
  | K => exact ⟨{ st.marks .K with tlbK := t }, congrArg (fun a : Seat => { a with tlbK := t }) same⟩
  | L => exact ⟨{ st.marks .L with tlbL := t }, congrArg (fun a : Seat => { a with tlbL := t }) same⟩
  | C => exact ⟨{ st.marks .C with tlbK := t }, congrArg (fun a : Seat => { a with tlbK := t }) same⟩
  | S => exact ⟨{ st.marks .S with tlbS := t }, congrArg (fun a : Seat => { a with tlbS := t }) same⟩

theorem Seat.touch_marked (st : Seat) (i : StreamId) (p : Option Word) :
    ∃ m, st.modStr i (fun t => { t with lastPage := p }) = st.marked i m := ⟨{ st.marks i with page := p }, rfl⟩

theorem looked_setTlb (s : State) (t : Tlb) : Looked s (s.modSeat s.turn.ref fun st => st.setTlb s.turn.stream t) :=
  looked_modMySeat s _ (s.mySeat.setTlb_marked s.turn.stream t)

/-- A walk for a page that fills the stream's TLB, and the note of the page it touched. -/
theorem looked_prefetch (s : State) (l : List Place) (f : Seat → Tlb) (p : Option Word) :
    Looked s ((s.streamWalk s.turn l).modSeat s.turn.ref fun st =>
      (st.setTlb s.turn.stream (f st)).modStr s.turn.stream fun t => { t with lastPage := p }) := by
  have walk := looked_streamWalk s l
  refine looked_trans walk ?_
  generalize s.streamWalk s.turn l = n at walk
  rw [← walk.turn]
  obtain ⟨m, hm⟩ := n.mySeat.setTlb_marked n.turn.stream (f n.mySeat)
  obtain ⟨k, hk⟩ := (n.mySeat.marked n.turn.stream m).touch_marked n.turn.stream p
  refine looked_modMySeat n _ ⟨k, ?_⟩
  rw [hm, hk, Seat.marked_marked]

/-- The next page's prefetch on the first touch of a page (R347). -/
theorem looked_streamPrefetch (s : State) (base size : Nat) : Looked s (s.streamPrefetch s.turn base size) := by
  unfold State.streamPrefetch
  dsimp only
  split
  · exact looked_refl s
  · exact looked_prefetch s _ _ _

/-- The checks of the running stream's access look up its address, and do no more. -/
theorem looked_check (s : State) (va : Word) (size : Nat) (r : Right) (skew write : Bool) :
    Looked s (s.check s.turn va size r skew write).2 := by
  unfold State.check
  split
  · exact looked_refl s
  split
  · split
    · exact looked_refl s
    · split <;> exact looked_refl s
  · dsimp only
    have walk := looked_streamWalk s
      (s.xlatReads (s.getSeat s.turn.ref).sys.xlatRoot ((s.getSeat s.turn.ref).tlbOf s.turn.stream).1 s.turn.isY va.toNat r)
    generalize s.streamWalk s.turn _ = n at walk
    refine looked_trans walk ?_
    rw [← walk.turn]
    split
    · have tlb := looked_setTlb n ‹Tlb›
      refine looked_trans tlb ?_
      rw [← tlb.turn]
      exact looked_streamPrefetch _ _ _
    · exact looked_setTlb n _
    · exact looked_refl n
    · exact looked_setTlb n _

end Sys2Proof.Machine
end

section
/-! SUPPORT. An access that goes on (R206 to R210), landing loads, and obligation O19. -/
namespace Sys2Proof.Machine

/-! ## An access that goes on -/

/-- Of a seat nothing has changed but queues of memory requests, landing slots, event counters, and marks of stream i. -/
structure Accessed (i : StreamId) (a c : Seat) : Prop where
  rest   : { c with
               str := a.str, ln := a.ln, loads := a.loads, stores := a.stores, sideLog := a.sideLog, tlbK := a.tlbK, tlbL := a.tlbL,
               tlbS := a.tlbS, sys := { c.sys with perfCnt := a.sys.perfCnt, perfNow := a.sys.perfNow } } = a
  others : ∀ j, j ≠ i → c.getStr j = a.getStr j
  mine   : ∃ m, c.getStr i = (a.getStr i).marked m

theorem accessed_trans {i : StreamId} {a b c : Seat} (h : Accessed i a b) (k : Accessed i b c) : Accessed i a c := by
  obtain ⟨m, hm⟩ := h.mine
  obtain ⟨m', hm'⟩ := k.mine
  refine ⟨?_, fun j hj => (k.others j hj).trans (h.others j hj), m', by rw [hm', hm]; rfl⟩
  exact (congrArg (fun x : Seat => { x with
    str := a.str, ln := a.ln, loads := a.loads, stores := a.stores, sideLog := a.sideLog, tlbK := a.tlbK, tlbL := a.tlbL,
    tlbS := a.tlbS, sys := { x.sys with perfCnt := a.sys.perfCnt, perfNow := a.sys.perfNow } }) k.rest).trans h.rest

theorem accessed_marked (st : Seat) (i : StreamId) (m : Marks) : Accessed i st (st.marked i m) :=
  ⟨rfl, fun _ hj => Seat.modStr_getStr_ne st _ hj, m, Seat.modStr_getStr st i _⟩

theorem accessed_counters (st : Seat) (i : StreamId) (cnt now : Vector Word 16) :
    Accessed i st { st with sys := { st.sys with perfCnt := cnt, perfNow := now } } :=
  ⟨rfl, fun _ _ => rfl, (st.marks i), rfl⟩

theorem accessed_count (st : Seat) (i : StreamId) (ev k : Nat) : Accessed i st (st.count ev none k) := accessed_counters st i _ _

theorem accessed_ln (st : Seat) (i : StreamId) (ln : Vector Slot 64) : Accessed i st { st with ln := ln } :=
  ⟨rfl, fun _ _ => rfl, (st.marks i), rfl⟩

theorem accessed_loads (st : Seat) (i : StreamId) (l : List LoadReq) : Accessed i st { st with loads := l } :=
  ⟨rfl, fun _ _ => rfl, (st.marks i), rfl⟩

theorem advance_regs (a : Stream) : a.advance.1.x = a.x ∧ a.advance.1.p = a.p ∧ a.advance.1.t = a.t := by
  unfold Stream.advance Stream.goSeq Stream.tripEnd
  dsimp only
  split
  · split
    · split <;> split <;> exact ⟨rfl, rfl, rfl⟩
    · exact ⟨rfl, rfl, rfl⟩
  · split
    · split
      · split <;> split <;> exact ⟨rfl, rfl, rfl⟩
      · exact ⟨rfl, rfl, rfl⟩
    · exact ⟨rfl, rfl, rfl⟩

/-- Marks are no part of the sequencer. -/
theorem marked_sameSeq (a : Stream) (m : Marks) : SameSeq a (a.marked m) := ⟨rfl, rfl, rfl, rfl, rfl⟩

/-- A memory instruction without a queue operand that has changed its seat as `Accessed` says, and goes on. -/
theorem accessWent_goOn {s n : State} (notes : OnlyNotes s n) (k : Nat) {c : Seat} (acc : Accessed s.turn.stream s.mySeat c) :
    AccessWent s (({ n with seq := k } : State).modMySeat fun _ => c.goOn s.turn.stream s.now (c.getStr s.turn.stream).advance) [] := by
  let i := s.turn.stream
  let b := c.goOn i s.now (c.getStr i).advance
  let u : State := { n with seq := k }
  let t := u.modMySeat fun _ => b
  obtain ⟨rest, others, m, mine⟩ := acc
  have turn : u.turn = s.turn := by show n.turn = _; rw [notes.rest]
  have core : u.core = s.core := notes.core
  have keeps : KeepsSeat i c b := keepsSeat_goOn i c s.now _ (advance_keeps _)
  obtain ⟨⟨-, cores⟩, mycore, seats⟩ : OnlySeat s.turn.ref u t := turn ▸ onlySeat_modSeat u u.turn.ref _
  rw [core] at cores mycore seats
  have seat : t.mySeat = b := State.modMySeat_mySeat u _
  have me : t.me = { (c.getStr i).advance.1 with issued := s.now + 1, wait := .none, waiting := none } := by
    show t.mySeat.getStr u.turn.stream = _
    rw [seat, turn]
    exact Seat.goOn_getStr _ _ _ _
  have hq : c.q = s.mySeat.q := by rw [← rest]
  have hc : c.c = s.mySeat.c := by rw [← rest]
  have hv : c.vec = s.mySeat.vec := by rw [← rest]
  obtain ⟨sq, trip⟩ := advance_of_same (marked_sameSeq s.me m) rfl
  obtain ⟨pc, lc, ps, repLeft, repStage⟩ := sq
  obtain ⟨hx, hp, ht⟩ := advance_regs (c.getStr i)
  have hm : c.getStr i = s.me.marked m := mine
  refine ⟨?rest, cores, mycore, seats, notes.errors, ?seat, ?sched, fun j hj => ?others, ?stream, ?regs, fun q => ?queues, ?went⟩
  case rest =>
    show ({ n with core := s.core, stack := s.stack, seq := s.seq } : State) = s
    rw [notes.rest]
  case seat =>
    rw [seat]
    have gone := congrArg (fun x : Seat => { x with
      str := s.mySeat.str, q := s.mySeat.q, c := s.mySeat.c, ln := s.mySeat.ln, loads := s.mySeat.loads,
      stores := s.mySeat.stores, sideLog := s.mySeat.sideLog, tlbK := s.mySeat.tlbK, tlbL := s.mySeat.tlbL,
      tlbS := s.mySeat.tlbS, vec := { x.vec with rrb := s.mySeat.vec.rrb },
      sys := { x.sys with perfCnt := s.mySeat.sys.perfCnt, perfNow := s.mySeat.sys.perfNow } }) keeps.rest
    have back := congrArg (fun x : Seat => { x with
      q := s.mySeat.q, c := s.mySeat.c, vec := { x.vec with rrb := s.mySeat.vec.rrb } }) rest
    exact gone.trans back
  case sched =>
    rw [seat]
    have gone := congrArg (fun x : CSched => { x with
      ready := s.mySeat.c.ready, done := s.mySeat.c.done, pipe := b.c.pipe }) keeps.pipe
    refine gone.trans ?_
    rw [show b.c.pipe = c.c.pipe from Seat.goOn_pipe _ _ _ _, hc]
  case others => rw [seat]; exact (keeps.others j hj).trans (others j hj)
  case stream =>
    rw [me]
    obtain ⟨h1, h2, h3, h4, h5, h6, h7, h8, h9, h10, h11⟩ := advance_keeps (s.me.marked m)
    rw [hm]
    exact ⟨h1, h2, h3, h4, h5, h6, h7, rfl, rfl, h10, rfl⟩
  case regs =>
    show SameRegs s t
    unfold SameRegs
    rw [me]
    rw [hm] at hx hp ht ⊢
    refine ⟨fun x => ?_, hp, ht⟩
    unfold Stream.rdX
    dsimp only
    rw [hx]
    rfl
  case queues =>
    rw [seat, show b.q = c.q from Seat.goOn_q _ _ _ _, hq]
    simp [qCount]
  case went =>
    show Went s t s.me.advance.1 s.me.advance.2
    unfold Went
    rw [me, hm, seat, show b.vec.rrb = _ from Seat.goOn_rrb _ _ _ _, hm, hv, trip]
    exact ⟨pc, lc, ps, repLeft, repStage, rfl, rfl, rfl⟩

theorem OnlyNotes.now {s n : State} (h : OnlyNotes s n) : n.now = s.now := by
  rw [h.rest]
  rfl

/-! ## Landing loads -/

/-- A redirected hint is counted (R24). -/
theorem State.noteHint_eq (s : State) (va : Word) (h : Option (Fin 8)) (p : Place) :
    ∃ counted : Bool, s.noteHint va h p = s.modMySeat fun st => if counted then st.count 11 none 1 else st := by
  unfold State.noteHint
  cases h with
  | none => exact ⟨false, s.modMySeat_id.symm⟩
  | some d =>
    dsimp only
    split
    · exact ⟨true, rfl⟩
    · exact ⟨false, s.modMySeat_id.symm⟩

/-- A slot that has been named for a landing load (R35, R207). -/
def Seat.slotNamed (st : Seat) (y : Fin 32) (vec : Bool) : Slot :=
  { data := 0, named := BitVec.ofNat 40 (st.sched + st.lex[y].b.toNat), sym := y, drst := false, scalar := !vec, err := false, state := 1 }

/-- The seat whose slot n has been taken by a landing load, which is counted. -/
def Seat.takeSlot (st : Seat) (n : Fin 64) (y : Fin 32) (vec : Bool) : Seat :=
  ({ st with ln := st.ln.set n (st.slotNamed y vec) } : Seat).count 9 none 1

/-- The seat with a request more in its load queue. -/
def Seat.addLoad (st : Seat) (l : LoadReq) : Seat := { st with loads := st.loads ++ [l] }

/-- The seat that has counted an access whose hint was redirected. -/
def Seat.hinted (st : Seat) (counted : Bool) : Seat := if counted then st.count 11 none 1 else st

/-- The seat after the issue of a landing load into slot n, by request l, before its stream goes on. -/
def Seat.landing (st : Seat) (i : StreamId) (m : Marks) (counted : Bool) (n : Fin 64) (y : Fin 32) (vec : Bool) (l : LoadReq) : Seat :=
  (((st.marked i m).hinted counted).takeSlot n y vec).addLoad l

theorem Seat.accessed_landing (st : Seat) (i : StreamId) (m : Marks) (counted : Bool) (n : Fin 64) (y : Fin 32) (vec : Bool)
    (l : LoadReq) : Accessed i st (st.landing i m counted n y vec l) := by
  have hint : Accessed i (st.marked i m) ((st.marked i m).hinted counted) := by
    cases counted with
    | true => exact accessed_count _ i 11 1
    | false => exact accessed_ln _ i _
  have slot (a : Seat) : Accessed i a (a.takeSlot n y vec) := accessed_trans (accessed_ln a i _) (accessed_count _ i 9 1)
  exact accessed_trans (accessed_marked st i m) (accessed_trans hint (accessed_trans (slot _) (accessed_loads _ i _)))

/-- What a landing load has done to the queues and slots of its seat. -/
theorem Seat.landing_spec (st : Seat) (i : StreamId) (m : Marks) (counted : Bool) (n : Fin 64) (y : Fin 32) (vec : Bool) (l : LoadReq) :
    let c := st.landing i m counted n y vec l
    c.stores = st.stores ∧ c.sideLog = st.sideLog ∧ c.loads = st.loads ++ [l] ∧
      ∀ k : Fin 64, c.ln[k] = if k = n then st.slotNamed y vec else st.ln[k] := by
  intro c
  have slots : c.ln = st.ln.set n (st.slotNamed y vec) := by cases counted <;> rfl
  refine ⟨by cases counted <;> rfl, by cases counted <;> rfl, by cases counted <;> rfl, fun k => ?_⟩
  rw [slots]
  by_cases hk : k = n
  · subst hk; simp
  · have : n.val ≠ k.val := fun e => hk (Fin.ext e.symm)
    simp [hk, this]

theorem KeepsSeat.queues {i : StreamId} {a b : Seat} (h : KeepsSeat i a b) :
    b.ln = a.ln ∧ b.loads = a.loads ∧ b.stores = a.stores ∧ b.sideLog = a.sideLog := by
  rw [← h.rest]; exact ⟨rfl, rfl, rfl, rfl⟩

/-- The issue of a landing load, from the state in which its address has been looked up. -/
theorem State.landing_eq {s f : State} (notes : OnlyNotes s f) (m : Marks) (counted : Bool) (n : Fin 64) (y : Fin 32) (vec : Bool)
    (l : LoadReq) : let c := s.mySeat.landing s.turn.stream m counted n y vec l
    (((((f.modMySeat fun st => st.marked s.turn.stream m).modMySeat fun st => st.hinted counted).takeSlot n y vec).pushLoad l).retire) =
      ({ f with seq := s.seq + 1 } : State).modMySeat fun _ => c.goOn s.turn.stream s.now (c.getStr s.turn.stream).advance := by
  intro c
  let u : State := { f with seq := s.seq + 1 }
  have turn : u.turn = s.turn := by show f.turn = _; rw [notes.rest]
  have core : u.core = s.core := notes.core
  have seat : u.mySeat = s.mySeat := by unfold State.mySeat State.getSeat; rw [core, turn]
  have seq : f.seq = s.seq := by rw [notes.rest]
  have now : (u.modMySeat fun st => st.landing s.turn.stream m counted n y vec l).now = s.now := by
    rw [State.modMySeat_now]
    exact notes.now
  have issue : (((f.modMySeat fun st => st.marked s.turn.stream m).modMySeat fun st => st.hinted counted).takeSlot n y vec).pushLoad l =
      u.modMySeat fun st => st.landing s.turn.stream m counted n y vec l := by
    show ((((f.modMySeat fun st => st.marked s.turn.stream m).modMySeat fun st => st.hinted counted).modMySeat
      fun st => st.takeSlot n y vec).modMySeat fun st => st.addLoad l).bump = _
    rw [State.modMySeat_modMySeat, State.modMySeat_modMySeat, State.modMySeat_modMySeat]
    show ({ f with seq := f.seq + 1 } : State).modMySeat (fun st => st.landing s.turn.stream m counted n y vec l) = _
    rw [seq]
  rw [issue, State.retire_eq, State.modMySeat_modMySeat, now]
  refine State.modMySeat_congr u ?_
  show Seat.goOn _ u.turn.stream s.now (Seat.getStr _ u.turn.stream).advance = _
  rw [turn, seat]

/-- A landing load into a FREE slot whose address has passed its checks (R35, R207). -/
theorem landingLoad_ok {s : State} {n : Fin 64} {va : Word} {size : Nat} {skew : Bool} {p : Place}
    (free : s.mySeat.ln[n].state = 0) (ok : (s.check s.turn va size .rd skew false).1 = .ok p) (y : Fin 32) (vec : Bool)
    (acq : Option Scope) (hint : Option (Fin 8)) :
    ∃ t, s.landingLoad n va size y vec skew acq hint = .next t ∧ LandingIssued s t n p va size y vec acq := by
  obtain ⟨f, m, notes, look⟩ := looked_check s va size .rd skew false
  obtain ⟨counted, hc⟩ := (f.modMySeat fun st => st.marked s.turn.stream m).noteHint_eq va hint p
  let l := s.newReq (.slot n) p va size y acq
  let c := s.mySeat.landing s.turn.stream m counted n y vec l
  have checked : s.check s.turn va size .rd skew false = (.ok p, f.modMySeat fun st => st.marked s.turn.stream m) := Prod.ext ok look
  have run := State.landing_eq notes m counted n y vec l
  refine ⟨_, ?_, accessWent_goOn notes (s.seq + 1) (s.mySeat.accessed_landing s.turn.stream m counted n y vec l), ?_, ?_⟩
  · rw [← run]
    unfold State.landingLoad
    rw [checked]
    dsimp only
    rw [if_neg (by simpa using free), hc]
    rfl
  all_goals
    obtain ⟨ln, loads, stores, sideLog⟩ := (keepsSeat_goOn s.turn.stream c s.now _ (advance_keeps (c.getStr s.turn.stream))).queues
    obtain ⟨stores', sideLog', loads', ln'⟩ := s.mySeat.landing_spec s.turn.stream m counted n y vec l
  · unfold Requested
    rw [State.modMySeat_mySeat]
    exact ⟨stores.trans stores', sideLog.trans sideLog', loads.trans loads'⟩
  · intro k
    rw [State.modMySeat_mySeat]
    show (c.goOn _ _ _).ln[k] = _
    rw [ln]
    exact ln' k

/-! ## Landing loads by instruction -/

theorem memWait_none {s : State} {b : Fin 32} (ready : Ready s [.x b] []) (gate : s.gated = false) : s.memWait [.x b] [] = none := by
  unfold State.memWait
  rw [ready.2]
  simp [gate]

theorem address_pow (s : State) (b : Fin 32) (o : BitVec 8) (z : Fin 4) :
    s.address b o (2 ^ z.val) = s.me.rdX b + BitVec.ofInt 64 (o.toInt * 2 ^ z.val) := by
  simp [State.address]

theorem address_vec (s : State) (b : Fin 32) (o : BitVec 8) (z : Fin 4) :
    s.address b o (32 * 2 ^ z.val) = s.me.rdX b + BitVec.ofInt 64 (o.toInt * (32 * 2 ^ z.val)) := by
  simp [State.address]

section
variable {s : State} {b : Fin 32} (wait : s.memWait [.x b] [] = none)
include wait

theorem exec_ld (n : Fin 64) (y : Fin 32) (z : Fin 4) (o : BitVec 8) :
    exec (.ld n b y z o) s = s.landingLoad n (s.address b o (2 ^ z.val)) (2 ^ z.val) y false false none none := by
  show execLd n b y z o s = _
  unfold execLd
  rw [wait]

theorem exec_ldV (n : Fin 64) (y : Fin 32) (z : Fin 4) (o : BitVec 8) :
    exec (.ldV n b y z o) s = s.landingLoad n (s.address b o (32 * 2 ^ z.val)) (32 * 2 ^ z.val) y true false none none := by
  show execLdV n b y z o s = _
  unfold execLdV
  rw [wait]

theorem attributedLoad_slot (n : Fin 64) (y : Fin 32) (z : Fin 4) (vec skew : Bool) (acq : Option Scope) (hint : Option (Fin 8)) :
    s.attributedLoad (.slot n) b y z vec skew acq hint = s.landingLoad n (s.me.rdX b) (sizeOf z vec) y vec skew acq hint := by
  unfold State.attributedLoad
  dsimp only
  rw [wait]

end

/-- Settles O19: each of the four instructions is `landingLoad` at its address. -/
theorem landingLoads : Obligations.LandingLoads := by
  unfold Obligations.LandingLoads
  intro s n b y ready gate free
  have wait := memWait_none ready gate
  refine ⟨fun z o p => ⟨fun ok => ?ld, fun ok => ?ldV⟩, fun g p hd hb hy ok => ?ldx, fun g p hd hb hy ok => ?lda⟩
  case ld => rw [Runs, exec_ld wait, address_pow]; exact landingLoad_ok free ok y false none none
  case ldV => rw [Runs, exec_ldV wait, address_vec]; exact landingLoad_ok free ok y true none none
  case ldx =>
    subst hb hy
    have run : exec (.ldx g) s =
        s.landingLoad n (s.me.rdX g.base) (sizeOf g.size g.vec) g.sym g.vec g.skew none g.hint := by
      rw [← attributedLoad_slot wait, ← hd]
      rfl
    rw [Runs, run]; exact landingLoad_ok free ok g.sym g.vec none g.hint
  case lda =>
    subst hb hy
    have run : exec (.lda g) s =
        s.landingLoad n (s.me.rdX g.base) (sizeOf g.size g.vec) g.sym g.vec g.skew (some g.scope) none := by
      rw [← attributedLoad_slot wait, ← hd]
      rfl
    rw [Runs, run]; exact landingLoad_ok free ok g.sym g.vec (some g.scope) none

end Sys2Proof.Machine
end

section
/-! SUPPORT. Step 5 of a cut (R47, R48, R324): CUT_INFO, the new bindings, and the seat that is left. -/
namespace Sys2Proof.Machine

/-! ## CUT_INFO -/

/-- CUT_INFO as step 5 writes it (R48). -/
def cutInfo (n : BitVec 32) (index : BitVec 10) (map : BitVec 6) (retime preempt bookmark bound : Bool) : Word :=
  BitVec.ofNat 64 (n.toNat * 2 ^ 32 + index.toNat * 2 ^ 22 + map.toNat * 2 ^ 16 + (if retime then 2 ^ 3 else 0) +
    (if preempt then 2 ^ 2 else 0) + (if bookmark then 2 ^ 1 else 0) + if bound then 2 ^ 0 else 0)

section
variable (n : BitVec 32) (index : BitVec 10) (map : BitVec 6) (retime preempt bookmark bound : Bool)

/-- The value of CUT_INFO, its flags as digits. -/
theorem cutInfo_toNat : (cutInfo n index map retime preempt bookmark bound).toNat = n.toNat * 2 ^ 32 + index.toNat * 2 ^ 22 +
    map.toNat * 2 ^ 16 + retime.toNat * 2 ^ 3 + preempt.toNat * 2 ^ 2 + bookmark.toNat * 2 + bound.toNat := by
  have flag (b : Bool) (k : Nat) : (if b then 2 ^ k else 0) = b.toNat * 2 ^ k := by cases b <;> simp
  rw [cutInfo, flag, flag, flag, flag, BitVec.toNat_ofNat]
  have := retime.toNat_le; have := preempt.toNat_le; have := bookmark.toNat_le; have := bound.toNat_le
  omega

/-- A bit of a word, as a digit of its value. -/
theorem bit_of_digit {w : Word} {i : Nat} {b : Bool} (h : w.toNat / 2 ^ i % 2 = b.toNat) : bit w i = b := by
  rw [bit, BitVec.getLsbD, Nat.testBit_eq_decide_div_mod_eq, h]
  cases b <;> rfl

theorem cutInfo_pass : fld (cutInfo n index map retime preempt bookmark bound) 32 32 = n.toNat := by
  rw [fld, cutInfo_toNat, Nat.shiftRight_eq_div_pow]
  have := retime.toNat_le; have := preempt.toNat_le; have := bookmark.toNat_le; have := bound.toNat_le
  omega

theorem cutInfo_index : fld (cutInfo n index map retime preempt bookmark bound) 22 10 = index.toNat := by
  rw [fld, cutInfo_toNat, Nat.shiftRight_eq_div_pow]
  have := retime.toNat_le; have := preempt.toNat_le; have := bookmark.toNat_le; have := bound.toNat_le
  omega

theorem cutInfo_map : fld (cutInfo n index map retime preempt bookmark bound) 16 6 = map.toNat := by
  rw [fld, cutInfo_toNat, Nat.shiftRight_eq_div_pow]
  have := retime.toNat_le; have := preempt.toNat_le; have := bookmark.toNat_le; have := bound.toNat_le
  omega

theorem cutInfo_flags : let w := cutInfo n index map retime preempt bookmark bound
    bit w 3 = retime ∧ bit w 2 = preempt ∧ bit w 1 = bookmark ∧ bit w 0 = bound := by
  have := retime.toNat_le; have := preempt.toNat_le; have := bookmark.toNat_le; have := bound.toNat_le
  refine ⟨bit_of_digit ?_, bit_of_digit ?_, bit_of_digit ?_, bit_of_digit ?_⟩
  all_goals rw [cutInfo_toNat]; omega

end

/-! ## The lexicon -/

/-- The binding that a cut leaves an entry (R324). -/
def newBinding (e : LexEntry) : BitVec 24 := if e.setb then e.sb else if e.state = 2 then e.p else e.b

/-- A cut changes some binding of the seat. -/
def Seat.rebinds (st : Seat) : Prop := ∃ y : Fin 32, newBinding st.lex[y] ≠ st.lex[y].b

theorem Seat.settleLexicon_b (st : Seat) (y : Fin 32) : st.settleLexicon.1.lex[y].b = newBinding st.lex[y] := by
  simp [Seat.settleLexicon, Measure.settle_b, newBinding]

/-- A row of flags is zero when none is set. -/
theorem packLanes_flags_ne_zero {α : Type} (f : α → Prop) [DecidablePred f] (l : List α) :
    packLanes 1 (l.map fun a => if f a then 0 else 1) ≠ 0 ↔ ∃ a ∈ l, ¬f a := by
  induction l with
  | nil => simp [packLanes]
  | cons a r ih =>
    simp only [List.map_cons, packLanes, List.exists_mem_cons_iff, ← ih]
    by_cases h : f a <;> simp [h]

theorem Seat.rebinds_iff (st : Seat) : st.settleLexicon.2.1 ≠ 0 ↔ st.rebinds := by
  have mask : st.settleLexicon.2.1 =
      packLanes 1 ((List.finRange 32).map fun i => if st.lex[i].b = st.settleLexicon.1.lex[i].b then 0 else 1) := by
    unfold Seat.settleLexicon; rfl
  rw [mask, packLanes_flags_ne_zero]
  simp only [List.mem_finRange, true_and, st.settleLexicon_b, Seat.rebinds, ne_comm (a := newBinding _), ne_eq]

/-- An entry has no event pending (R47). -/
def Quiet (e : LexEntry) : Prop := e.state ≠ 2 ∧ e.state ≠ 3 ∧ e.setb = false ∧ e.setp = false ∧ e.setc = false

/-- An entry that owes no LATENCY_BOUND has no event pending once it is settled. -/
theorem Measure.settle_quiet {e : LexEntry} (h : e.state ≠ 3) (now : Nat) (dlv : Bool) : Quiet (Measure.settle e now dlv) := by
  have zero : (0 : BitVec 3) ≠ 2 ∧ (0 : BitVec 3) ≠ 3 := by decide
  unfold Measure.settle
  dsimp only
  split
  · exact ⟨zero.1, zero.2, rfl, rfl, rfl⟩
  · rename_i clear
    have two : e.state ≠ 2 := fun h2 => clear (by simp [h2])
    exact ⟨two, h, rfl, rfl, rfl⟩

theorem Seat.settleLexicon_quiet {st : Seat} (h : st.boundDue = false) (y : Fin 32) : Quiet st.settleLexicon.1.lex[y] := by
  have owes : st.lex[y].state ≠ 3 := by
    simp only [Seat.boundDue, List.any_eq_false, decide_eq_true_eq, Vector.mem_toList_iff] at h
    exact h _ (Vector.getElem_mem _)
  have := Measure.settle_quiet owes st.sched
  simp only [Seat.settleLexicon, Fin.getElem_fin, Vector.getElem_mapFinIdx]
  exact this _

/-- In a seat whose lexicon is quiet, only a PREEMPT or BOOKMARK requests a cut. -/
theorem Seat.cutPending_quiet {st : Seat} (h : ∀ y : Fin 32, Quiet st.lex[y]) :
    st.cutPending = (st.cut.preempt || st.cut.bookmark) := by
  have none : (st.lex.toList.any fun e => decide (e.state = 2) || decide (e.state = 3) || e.setb || e.setp || e.setc) = false := by
    rw [List.any_eq_false]
    intro e he
    obtain ⟨y, hy, rfl⟩ := Vector.mem_iff_getElem.1 (Vector.mem_toList_iff.1 he)
    obtain ⟨two, three, b, p, c⟩ := h ⟨y, hy⟩
    simp_all
  rw [Seat.cutPending, none, Bool.or_false]

/-! ## Step 5 -/

/-- CUT_INFO.RETIME: a proposal, a SYMSET or a new binding (R48). -/
def Seat.cutRetimes (st : Seat) : Bool := st.retimeDue || decide (st.settleLexicon.2.1 ≠ 0)

theorem Seat.cutRetimes_iff (st : Seat) : st.cutRetimes = true ↔ st.retimeDue = true ∨ st.rebinds := by
  rw [Seat.cutRetimes, Bool.or_eq_true, decide_eq_true_eq, st.rebinds_iff]

/-- The seat after step 5 of the cut at the pass of latch l. -/
def Seat.stepFive (st : Seat) (l : Latch) : Seat :=
  (st.applyCut l.n (st.commas.headD (0, 0)).1 (st.commas.headD (0, 0)).2 false).1.resetConj

/-- Step 5 settles the lexicon, writes the cut registers, ends the streams' stop at their comma, counts its events, and starts the
conjunction counts anew. -/
theorem Seat.stepFive_eq {st : Seat} {l : Latch} (h : st.cut.latch = some l) : ∃ lex str sys info syms pc,
    st.stepFive l =
      ({ st with
          lex := lex, str := str, sys := sys,
          cut := { st.cut with info := info, syms := syms, pc := pc, latch := none, atRetire := false } } : Seat).resetConj ∧
      lex = st.settleLexicon.1.lex ∧ (str = st.str.map fun (t : Stream) => { t with comma := none }) ∧
      info = cutInfo l.n (st.commas.headD (0, 0)).1 (st.commas.headD (0, 0)).2 st.cutRetimes l.preempt l.bookmark st.boundDue ∧
      pc = st.pcs.map fun (p : Word) => p &&& ~~~3 := by
  have joined : st.joined = (l.preempt, l.bookmark) := by rw [Seat.joined, h]
  have due := st.applyCut_delivers l.n (st.commas.headD (0, 0)).1 (st.commas.headD (0, 0)).2 false
  unfold Seat.stepFive Seat.applyCut at *
  dsimp only at *
  rw [due, joined]
  dsimp only
  rw [Bool.not_false, Bool.and_true]
  split <;> exact ⟨_, _, _, _, _, _, rfl, rfl, rfl, rfl, rfl⟩

/-- What the cut of latch l has recorded in the seat, and its new bindings (R48, R324). -/
structure CutApplied (a : Seat) (l : Latch) (u : Seat) : Prop where
  pass     : fld u.cut.info 32 32 = l.n.toNat
  index    : fld u.cut.info 22 10 = (a.commas.headD (0, 0)).1.toNat
  map      : fld u.cut.info 16 6 = (a.commas.headD (0, 0)).2.toNat
  retime   : bit u.cut.info 3 = true ↔ a.retimeDue = true ∨ a.rebinds
  preempt  : bit u.cut.info 2 = l.preempt
  bookmark : bit u.cut.info 1 = l.bookmark
  bound    : bit u.cut.info 0 = a.boundDue
  streams  : ∀ j : Fin 4, u.cut.pc[j] = a.str[j].pc &&& ~~~3 ∧ u.str[j].comma = none
  bindings : ∀ y : Fin 32, u.lex[y].b = newBinding a.lex[y]

theorem Seat.stepFive_applied {st : Seat} {l : Latch} (h : st.cut.latch = some l) : CutApplied st l (st.stepFive l) := by
  obtain ⟨lex, str, sys, info, syms, pc, five, hlex, hstr, hinfo, hpc⟩ := Seat.stepFive_eq h
  obtain ⟨retime, preempt, bookmark, bound⟩ := cutInfo_flags l.n (st.commas.headD (0, 0)).1 (st.commas.headD (0, 0)).2
    st.cutRetimes l.preempt l.bookmark st.boundDue
  rw [five]
  rw [← hinfo] at retime preempt bookmark bound
  refine ⟨?_, ?_, ?_, ?_, preempt, bookmark, bound, fun j => ⟨?_, ?_⟩, fun y => ?_⟩
  · exact hinfo ▸ cutInfo_pass ..
  · exact hinfo ▸ cutInfo_index ..
  · exact hinfo ▸ cutInfo_map ..
  · rw [← st.cutRetimes_iff]
    exact iff_of_eq (congrArg (· = true) retime)
  · show pc[j] = _
    simp [hpc, Seat.pcs]
  · show str[j].comma = none
    simp [hstr]
  · show lex[y].b = _
    rw [hlex]
    exact st.settleLexicon_b y

/-- What is recorded stays where cut registers, lexicon and commas do. -/
theorem CutApplied.of_same {a u v : Seat} {l : Latch} (h : CutApplied a l u) (info : v.cut.info = u.cut.info) (pc : v.cut.pc = u.cut.pc)
    (lex : v.lex = u.lex) (comma : ∀ j : Fin 4, u.str[j].comma = none → v.str[j].comma = none) : CutApplied a l v := by
  obtain ⟨h1, h2, h3, h4, h5, h6, h7, streams, bindings⟩ := h
  refine ⟨?_, ?_, ?_, ?_, ?_, ?_, ?_, fun j => ⟨?_, comma j (streams j).2⟩, fun y => ?_⟩
  case refine_8 => rw [pc]; exact (streams j).1
  case refine_9 => rw [lex]; exact bindings y
  all_goals rw [info]; assumption

end Sys2Proof.Machine
end

section
/-! SUPPORT. What is delivered at a cut (R44, R47, R50, R188, R189, R390). -/
namespace Sys2Proof.Machine

/-! ## The registers of the streams -/

/-- A stream has its registers, predicates and targets as before, and stands at no comma at which it did not. -/
structure KeepsFile (a b : Stream) : Prop where
  x     : b.x = a.x
  p     : b.p = a.p
  t     : b.t = a.t
  comma : a.comma = none → b.comma = none

/-- Each of the four streams is as `KeepsFile` says. -/
def KeepsFiles (a b : Vector Stream 4) : Prop := ∀ j : Fin 4, KeepsFile a[j] b[j]

theorem keepsFile_refl (a : Stream) : KeepsFile a a := ⟨rfl, rfl, rfl, id⟩

theorem keepsFiles_refl (a : Vector Stream 4) : KeepsFiles a a := fun _ => keepsFile_refl _

theorem keepsFiles_trans {a b c : Vector Stream 4} (h : KeepsFiles a b) (k : KeepsFiles b c) : KeepsFiles a c := fun j =>
  ⟨(k j).x.trans (h j).x, (k j).p.trans (h j).p, (k j).t.trans (h j).t, fun n => (k j).comma ((h j).comma n)⟩

theorem keepsFiles_modStr (st : Seat) (i : StreamId) (f : Stream → Stream) (h : ∀ t, KeepsFile t (f t)) :
    KeepsFiles st.str (st.modStr i f).str := by
  intro j
  rw [Seat.modStr_str]
  split
  · exact h _
  · exact keepsFile_refl _

theorem keepsFiles_map (v : Vector Stream 4) (f : Stream → Stream) (h : ∀ t, KeepsFile t (f t)) : KeepsFiles v (v.map f) := by
  intro j
  simp only [Fin.getElem_fin, Vector.getElem_map]
  exact h _

theorem keepsFile_advance (a : Stream) : KeepsFile a a.advance.1 := by
  obtain ⟨x, p, t⟩ := advance_regs a
  exact ⟨x, p, t, fun h => (advance_keeps a).comma.trans h⟩

/-- The streams stop with their registers as they are (R189). -/
theorem keepsFiles_stopStreams (st : Seat) (src : Nat) : KeepsFiles st.str (st.stopStreams src).str := by
  have pass (a : Seat) (i : StreamId) : KeepsFiles a.str (a.passHeld src i).str := by
    unfold Seat.passHeld
    split
    · split
      · exact keepsFiles_modStr a i _ keepsFile_advance
      · exact keepsFiles_refl _
    · exact keepsFiles_refl _
  exact keepsFiles_trans (pass st .K) (keepsFiles_trans (pass _ .L) (keepsFiles_trans (pass _ .S)
    (keepsFiles_map _ _ fun _ => ⟨rfl, rfl, rfl, id⟩)))

/-- The handler's start leaves the registers of the streams (R189). -/
theorem keepsFiles_shadowIn (st : Seat) : KeepsFiles st.str st.shadowIn.str :=
  keepsFiles_modStr st .K _ fun _ => ⟨rfl, rfl, rfl, id⟩

/-! ## A fault at a cut -/

theorem fld_mkInfo_cause (detail src cause low : Nat) (h : low < 2 ^ 16) : fld (mkInfo detail src cause low) 16 5 = cause % 32 := by
  simp only [fld, mkInfo, BitVec.toNat_ofNat, Nat.shiftRight_eq_div_pow]
  omega

theorem fld_mkInfo_detail (detail src cause low : Nat) (h : low < 2 ^ 16) :
    fld (mkInfo detail src cause low) 32 32 = detail % 2 ^ 32 := by
  simp only [fld, mkInfo, BitVec.toNat_ofNat, Nat.shiftRight_eq_div_pow]
  omega

/-- The seat has taken fault f of source 7, and its streams resume at `pcs`: it goes on in its handler, or is faulted (R188, R189). -/
structure CutFaulted (f : Flt) (pcs : Vector Word 4) (a u : Seat) : Prop where
  rest   : { u with str := a.str, c := a.c, inst := a.inst, trap := a.trap } = a
  files  : KeepsFiles a.str u.str
  src    : u.trap.src = 7
  cause  : fld u.trap.info 16 5 = f.cause.code % 32
  detail : fld u.trap.info 32 32 = f.detail % 2 ^ 32
  pc     : u.trap.pc = pcs
  goes   : if !f.sys && decide (a.trap.vec ≠ 0) then (u.getStr .K).pc = a.trap.vec else u.inst.phase = .faulted

/-- The seat with the record of a fault, C's pipeline held (R188, R189). -/
def Seat.recorded (st : Seat) (info addr : Word) (pcs : Vector Word 4) : Seat :=
  { st with trap := { st.trap with info := info, addr := addr, pc := pcs }, c := st.holdC }

/-- The handler of the seat starts. -/
def Seat.enterHandler (st : Seat) : Seat := st.shadowIn.modStr .K fun k => { k with pc := st.trap.vec, halted := false, comma := none }

/-- The seat is faulted. -/
def Seat.toFaulted (st : Seat) : Seat := { st with inst := { st.inst with phase := .faulted } }

/-- A seat in which no handler runs takes a fault. -/
theorem Seat.takeFault_idle {st : Seat} (h : st.trap.active = false) (f : Flt) (src : Nat) (pcs : Vector Word 4) :
    let handled := !f.sys && decide (st.trap.vec ≠ 0)
    let u := st.recorded (mkInfo f.detail src f.cause.code (if handled then 5 else 1)) f.addr pcs
    st.takeFault f src pcs = if handled then u.enterHandler else u.toFaulted := by
  unfold Seat.takeFault
  rw [if_neg (by simp [h])]
  rfl

/-- A fault whose handler starts leaves the rest of the seat. -/
theorem Seat.recorded_enterHandler (st : Seat) (info addr : Word) (pcs : Vector Word 4) :
    let u := (st.recorded info addr pcs).enterHandler
    { u with str := st.str, c := st.c, inst := st.inst, trap := st.trap } = st ∧ KeepsFiles st.str u.str ∧ u.trap.info = info ∧
      u.trap.pc = pcs ∧ (u.getStr .K).pc = st.trap.vec :=
  ⟨rfl, keepsFiles_trans (keepsFiles_shadowIn _) (keepsFiles_modStr _ .K _ fun _ => ⟨rfl, rfl, rfl, fun _ => rfl⟩), rfl, rfl,
    congrArg Stream.pc (Seat.modStr_getStr _ .K _)⟩

/-- So does a fault whose handler does not start. -/
theorem Seat.recorded_toFaulted (st : Seat) (info addr : Word) (pcs : Vector Word 4) :
    let u := (st.recorded info addr pcs).toFaulted
    { u with str := st.str, c := st.c, inst := st.inst, trap := st.trap } = st ∧ KeepsFiles st.str u.str ∧ u.trap.info = info ∧
      u.trap.pc = pcs ∧ u.inst.phase = .faulted :=
  ⟨rfl, keepsFiles_refl _, rfl, rfl, rfl⟩

/-- A seat in which no handler runs takes a fault of source 7. -/
theorem Seat.takeFault_cutFaulted {st : Seat} (h : st.trap.active = false) (f : Flt) (pcs : Vector Word 4) :
    CutFaulted f pcs st (st.takeFault f 7 pcs) := by
  rw [Seat.takeFault_idle h]
  generalize hi : mkInfo f.detail 7 f.cause.code _ = info
  have low : (if !f.sys && decide (st.trap.vec ≠ 0) then 5 else 1) < 2 ^ 16 := by split <;> decide
  have src := fld_mkInfo_src f.detail 7 f.cause.code _ low
  have cause := fld_mkInfo_cause f.detail 7 f.cause.code _ low
  have detail := fld_mkInfo_detail f.detail 7 f.cause.code _ low
  rw [hi] at src cause detail
  have trapSrc (u : Seat) (hu : u.trap.info = info) : u.trap.src = 7 := by rw [TrapFile.src, hu, src]
  split
  · obtain ⟨rest, files, record, pc, goes⟩ := st.recorded_enterHandler info f.addr pcs
    exact ⟨rest, files, trapSrc _ record, record ▸ cause, record ▸ detail, pc, by rwa [if_pos ‹_›]⟩
  · obtain ⟨rest, files, record, pc, goes⟩ := st.recorded_toFaulted info f.addr pcs
    exact ⟨rest, files, trapSrc _ record, record ▸ cause, record ▸ detail, pc, by rwa [if_neg ‹_›]⟩

/-- A seat in which no handler runs takes a fault at its cut. -/
theorem State.takeCutFault_cutFaulted (s : State) (r : SeatRef) (f : Flt) (h : (s.getSeat r).trap.active = false) :
    CutFaulted f (s.getSeat r).cut.pc (s.getSeat r) ((s.takeCutFault r f).getSeat r) := by
  have seat : (s.takeCutFault r f).getSeat r =
      (((s.getSeat r).stopStreams 7).takeFault f 7 (s.getSeat r).cut.pc).lastFault s.core[r.core].cycle 7 :=
    s.modSeat_getSeat r fun st => ((st.stopStreams 7).takeFault f 7 st.cut.pc).lastFault s.core[r.core].cycle 7
  have stops := keepsFiles_stopStreams (s.getSeat r) 7
  obtain ⟨str, stopped⟩ := (s.getSeat r).stopStreams_eq 7
  rw [seat]
  rw [stopped] at stops ⊢
  obtain ⟨rest, files, src, cause, detail, pc, goes⟩ :=
    Seat.takeFault_cutFaulted (st := { s.getSeat r with str := str }) h f (s.getSeat r).cut.pc
  exact ⟨congrArg (fun a : Seat => { a with str := (s.getSeat r).str }) rest, keepsFiles_trans stops files, src, cause, detail, pc, goes⟩

/-! ## Step 5 of a seat -/

/-- A seat's vector state, queues, tiles, and the registers of its streams are as before. -/
structure CutStays (a u : Seat) : Prop where
  vec   : u.vec = a.vec
  q     : u.q = a.q
  tile  : u.tile = a.tile
  files : KeepsFiles a.str u.str

theorem cutStays_trans {a b c : Seat} (h : CutStays a b) (k : CutStays b c) : CutStays a c :=
  ⟨k.vec.trans h.vec, k.q.trans h.q, k.tile.trans h.tile, keepsFiles_trans h.files k.files⟩

theorem CutFaulted.stays {f : Flt} {pcs : Vector Word 4} {a u : Seat} (h : CutFaulted f pcs a u) : CutStays a u := by
  have rest := h.rest
  exact ⟨by rw [← rest], by rw [← rest], by rw [← rest], h.files⟩

theorem CutFaulted.kept {f : Flt} {pcs : Vector Word 4} {a u : Seat} (h : CutFaulted f pcs a u) :
    u.cut = a.cut ∧ u.lex = a.lex ∧ u.sys = a.sys := by
  rw [← h.rest]; exact ⟨rfl, rfl, rfl⟩

/-- The highest pass count does not depend on commas. -/
theorem Seat.topPass_noComma {a b : Seat} (h : b.str = a.str.map fun (t : Stream) => { t with comma := none }) : b.topPass = a.topPass := by
  have fold (l : List Stream) : (l.map fun (t : Stream) => { t with comma := none }).foldr (fun t m => max t.passes.toNat m) 0 =
      l.foldr (fun t m => max t.passes.toNat m) 0 := by
    induction l with
    | nil => rfl
    | cons a r ih => simp only [List.map_cons, List.foldr_cons, ih]
  unfold Seat.topPass
  rw [h, Vector.toList_map]
  exact fold _

/-- What step 5 leaves of the seat (R48). -/
theorem Seat.stepFive_stays {st : Seat} {l : Latch} (h : st.cut.latch = some l) : CutStays st (st.stepFive l) := by
  obtain ⟨lex, str, sys, info, syms, pc, five, -, hstr, -⟩ := Seat.stepFive_eq h
  have files : KeepsFiles st.str str := hstr ▸ keepsFiles_map _ _ fun _ => ⟨rfl, rfl, rfl, fun _ => rfl⟩
  rw [five]
  exact ⟨rfl, rfl, rfl, files⟩

/-- What step 5 leaves of the seat, but the marks of the cut and the lexicon: what is pending and what is to be delivered to (R47, R48). -/
structure FiveRest (a u : Seat) : Prop where
  trap     : u.trap = a.trap
  inst     : u.inst = a.inst
  eng      : u.eng = a.eng
  latch    : u.cut.latch = none
  preempt  : u.cut.preempt = a.cut.preempt
  bookmark : u.cut.bookmark = a.cut.bookmark
  retime   : u.cut.retimeVec = a.cut.retimeVec
  pc       : ∀ j : Fin 4, u.str[j].pc = a.str[j].pc
  top      : u.topPass = a.topPass
  lex      : u.lex = a.settleLexicon.1.lex

theorem Seat.stepFive_rest {st : Seat} {l : Latch} (h : st.cut.latch = some l) : FiveRest st (st.stepFive l) := by
  obtain ⟨lex, str, sys, info, syms, pc, five, hlex, hstr, -⟩ := Seat.stepFive_eq h
  have ustr : (st.stepFive l).str = st.str.map fun (t : Stream) => { t with comma := none } := by rw [← hstr, five]; rfl
  have top := Seat.topPass_noComma ustr
  have pcs (j : Fin 4) : (st.stepFive l).str[j].pc = st.str[j].pc := by simp [ustr]
  rw [five] at top pcs ⊢
  exact ⟨rfl, rfl, rfl, rfl, rfl, rfl, rfl, pcs, top, hlex⟩

/-! ## The cut -/

/-- The state after step 5 of the cut of seat r at latch l: the seat, and the counts of the life record, have changed. -/
def State.stepFive (s : State) (r : SeatRef) (l : Latch) : State :=
  (s.applyCut r l.n ((s.getSeat r).commas.headD (0, 0)).1 ((s.getSeat r).commas.headD (0, 0)).2 false).1

theorem State.stepFive_getSeat (s : State) (r : SeatRef) (l : Latch) : (s.stepFive r l).getSeat r = (s.getSeat r).stepFive l :=
  State.setSeat_getSeat s r _

section
variable {s : State} {r : SeatRef} {l : Latch} (latch : (s.getSeat r).cut.latch = some l)

/-- A LATENCY_BOUND that is due is delivered, of a symbol that owes one (R44). -/
theorem State.performCut_bound (due : (s.getSeat r).boundDue = true) : ∃ y : Fin 32, (s.getSeat r).lex[y].state = 3 ∧
    s.performCut r l.n = (s.stepFive r l).deliverBound r y := by
  let a := s.getSeat r
  let dlv := (a.applyCut l.n (a.commas.headD (0, 0)).1 (a.commas.headD (0, 0)).2 false).2
  have some : dlv.isSome = true := (a.applyCut_delivers ..).trans due
  obtain ⟨y, hy⟩ := Option.isSome_iff_exists.1 some
  have first : ((List.finRange 32).find? fun i => decide (a.lex[i].state = 3)) = .some y := hy
  refine ⟨y, of_decide_eq_true (List.find?_some (p := fun i : Fin 32 => decide (a.lex[i].state = 3)) first), ?_⟩
  show (match dlv with | .some y => (s.stepFive r l).deliverBound r y | none => _) = _
  rw [hy]

include latch

/-- Else PREEMPT is delivered, else BOOKMARK, else the re-timing handler starts, else what is pending is latched (R47). -/
theorem State.performCut_else (due : (s.getSeat r).boundDue = false) : s.performCut r l.n =
    if l.preempt then (s.stepFive r l).deliverPreempt r l.bookmark
    else if l.bookmark then (s.stepFive r l).deliverBookmark r
    else if bit ((s.getSeat r).stepFive l).cut.info 3 && decide ((s.getSeat r).cut.retimeVec ≠ 0) then
      (s.stepFive r l).modSeat r Seat.enterRetime
    else (s.stepFive r l).modSeat r Seat.latchCut := by
  let a := s.getSeat r
  let dlv := (a.applyCut l.n (a.commas.headD (0, 0)).1 (a.commas.headD (0, 0)).2 false).2
  have joined : a.joined = (l.preempt, l.bookmark) := by rw [Seat.joined, latch]
  have none : dlv = none := Option.isSome_eq_false_iff.1 ((a.applyCut_delivers ..).trans due) |> Option.isNone_iff_eq_none.1
  show (match dlv with
    | some y => _
    | .none => if a.joined.1 then (s.stepFive r l).deliverPreempt r a.joined.2 else if a.joined.2 then (s.stepFive r l).deliverBookmark r
      else if bit ((s.stepFive r l).getSeat r).cut.info 3 && decide (a.cut.retimeVec ≠ 0) then _ else _) = _
  rw [none, joined, s.stepFive_getSeat]
  rfl

end

end Sys2Proof.Machine
end

section
/-! SUPPORT. Writes performed at their homes (R205, R223), and with them the save of a PREEMPT cut (R193), leave what a cut has recorded. -/
namespace Sys2Proof.Machine

/-! ## The relation -/

/-- A seat's cut registers and lexicon, and its streams' commas, are as before. -/
structure SameCut (a b : Seat) : Prop where
  cut   : b.cut = a.cut
  lex   : b.lex = a.lex
  comma : ∀ j : Fin 4, b.str[j].comma = a.str[j].comma

/-- Every seat is as `SameCut` says. -/
def SameCuts (s t : State) : Prop := ∀ r, SameCut (s.getSeat r) (t.getSeat r)

theorem sameCut_refl (a : Seat) : SameCut a a := ⟨rfl, rfl, fun _ => rfl⟩

theorem sameCut_trans {a b c : Seat} (h : SameCut a b) (k : SameCut b c) : SameCut a c :=
  ⟨k.cut.trans h.cut, k.lex.trans h.lex, fun j => (k.comma j).trans (h.comma j)⟩

theorem sameCuts_refl (s : State) : SameCuts s s := fun _ => sameCut_refl _

theorem sameCuts_trans {s t u : State} (h : SameCuts s t) (k : SameCuts t u) : SameCuts s u := fun r => sameCut_trans (h r) (k r)

theorem sameCuts_of_core {s t : State} (h : t.core = s.core) : SameCuts s t := by
  intro r
  rw [State.getSeat_congr h]
  exact sameCut_refl _

theorem OnlyNotes.sameCuts {s t : State} (h : OnlyNotes s t) : SameCuts s t := sameCuts_of_core h.core

theorem sameCuts_modSeat (s : State) (r : SeatRef) (f : Seat → Seat) (h : ∀ a, SameCut a (f a)) : SameCuts s (s.modSeat r f) := by
  intro x
  by_cases hx : x = r
  · subst hx
    rw [State.modSeat_getSeat]
    exact h _
  · rw [State.modSeat_getSeat_ne s f hx]
    exact sameCut_refl _

/-- Steps made one after another, each of which keeps cuts, keep them. -/
theorem sameCuts_foldl {α : Type} (g : State → α → State) (h : ∀ t a, SameCuts t (g t a)) (l : List α) (s : State) :
    SameCuts s (l.foldl g s) := by
  induction l generalizing s with
  | nil => exact sameCuts_refl s
  | cons a r ih => exact sameCuts_trans (h s a) (ih _)

theorem sameCut_modStr (a : Seat) (i : StreamId) (f : Stream → Stream) (h : ∀ t, (f t).comma = t.comma) : SameCut a (a.modStr i f) := by
  refine ⟨rfl, rfl, fun j => ?_⟩
  rw [Seat.modStr_str]
  split
  · exact h _
  · rfl

theorem exists_idx (j : Fin 4) : ∃ i : StreamId, i.idx = j := ⟨streamAt j, by revert j; decide⟩

theorem KeepsSeat.sameCut {i : StreamId} {a b : Seat} (h : KeepsSeat i a b) : SameCut a b := by
  refine ⟨by rw [← h.rest], by rw [← h.rest], fun j => ?_⟩
  obtain ⟨k, rfl⟩ := exists_idx j
  show (b.getStr k).comma = (a.getStr k).comma
  by_cases hk : k = i
  · rw [hk]; exact h.mine.comma
  · rw [h.others _ hk]

/-! ## Monitors that a write wakes (R223) -/

theorem sameCuts_hear (s : State) (w : Who) (acq : Option Scope) (l : List Heard) : SameCuts s (s.hear w acq l) := by
  unfold State.hear
  split
  · exact sameCuts_refl s
  · cases acq with
    | none => exact sameCuts_modSeat s _ _ fun a => sameCut_modStr a _ _ fun _ => rfl
    | some sA => exact sameCuts_modSeat s _ _ fun a => sameCut_modStr a _ _ fun _ => rfl

theorem sameCuts_modStr (s : State) (w : Who) (f : Stream → Stream) (h : ∀ t, (f t).comma = t.comma) : SameCuts s (s.modStr w f) :=
  sameCuts_modSeat s _ _ fun a => sameCut_modStr a _ _ h

theorem sameCuts_disarm (s : State) (w : Who) : SameCuts s (s.disarm w) :=
  sameCuts_trans (t := { s with monitors := s.monitors.filter fun m => decide (m.who ≠ w) }) (sameCuts_of_core rfl)
    (sameCuts_modSeat _ _ _ fun _ => ⟨rfl, rfl, fun _ => rfl⟩)

theorem sameCuts_take (s : State) (a : SSpec) : SameCuts s (s.take a) := by
  cases a with
  | x n => exact sameCuts_refl s
  | q n => exact sameCuts_modSeat s _ _ fun a => (keepsSeat_modQ s.turn.stream a n _).sameCut

theorem sameCuts_wrPred (s : State) (n : Fin 16) (v : Bool) : SameCuts s (s.wrPred n v) := by
  unfold State.wrPred
  split
  · exact sameCuts_refl s
  · split
    · exact sameCuts_modSeat s _ _ fun a => (keepsSeat_pipe s.turn.stream a _).sameCut
    · exact sameCuts_modSeat s _ _ fun a => sameCut_modStr a _ _ fun t => by unfold Stream.wrP; split <;> rfl

theorem sameCuts_retire (s : State) : SameCuts s s.retire :=
  sameCuts_modSeat s _ _ fun a => (keepsSeat_goOn s.turn.stream a s.now _ (advance_keeps _)).sameCut

theorem sameCuts_as (s : State) (w : Who) (f : State → State) (h : ∀ t, SameCuts t (f t)) : SameCuts s (s.as w f) :=
  sameCuts_trans (t := { s with turn := w }) (sameCuts_of_core rfl) (sameCuts_trans (h _) (sameCuts_of_core rfl))

theorem sameCuts_endMwait (s : State) (w : Who) (p : Fin 16) (l : List SSpec) (v : Bool) : SameCuts s (s.endMwait w p l v) := by
  have disarmed := sameCuts_disarm s w
  unfold State.endMwait
  split
  · exact sameCuts_trans disarmed (sameCuts_modStr _ _ _ fun _ => rfl)
  · refine sameCuts_trans disarmed (sameCuts_as _ _ _ fun t => ?_)
    exact sameCuts_trans (sameCuts_foldl _ sameCuts_take l t) (sameCuts_trans (sameCuts_wrPred _ p v) (sameCuts_retire _))

theorem sameCuts_wakeMonitors (s : State) (ws : List Nat) : SameCuts s (s.wakeMonitors ws) := by
  unfold State.wakeMonitors
  refine sameCuts_foldl _ (fun t m => ?_) _ s
  split
  · split
    · exact sameCuts_trans (sameCuts_hear _ _ _ _) (sameCuts_endMwait _ _ _ _ _)
    · exact sameCuts_refl t
  · dsimp only
    split
    · exact sameCuts_trans (sameCuts_disarm t _) (sameCuts_modStr _ _ _ fun _ => rfl)
    · exact sameCuts_refl t
  · exact sameCuts_refl t

/-! ## A write at its home (R205) -/

theorem State.rekey_core (s : State) (kw : BitVec 512) (u : Nat) : (s.rekey kw u).core = s.core := by
  unfold State.rekey
  split
  · rfl
  · split <;> rfl

theorem State.writeKeyed_core (s : State) (slot : Option (Fin 64)) (k : Nat) (b : Byte) : (s.writeKeyed slot k b).core = s.core := by
  unfold State.writeKeyed
  split
  · exact s.rekey_core _ _
  · rfl

theorem State.writeFrom_core (s : State) (p : Place) (v i n : Nat) : (s.writeFrom p v i n).core = s.core := by
  induction n generalizing s v i with
  | zero => rfl
  | succ n ih => exact (ih _ _ _).trans (s.writeKeyed_core _ _ _)

theorem State.writePlace_core (s : State) (p : Place) (n v : Nat) : (s.writePlace p n v).core = s.core :=
  s.writeFrom_core p v 0 n

theorem sameCuts_afterWrite (s : State) (p : Place) (n : Nat) (store bad : Bool) : SameCuts s (s.afterWrite p n store bad) := by
  unfold State.afterWrite
  dsimp only
  refine sameCuts_trans (sameCuts_of_core ?_) (sameCuts_wakeMonitors _ _)
  simp only [apply_ite State.core, ite_self]

theorem sameCuts_noteCorr (s : State) (src : Option SeatRef) (p : Place) (n : Nat) : SameCuts s (s.noteCorr src p n) := by
  have unit := (onlyNotes_noteCorr s p n).sameCuts
  unfold State.noteCorr at *
  split
  · rwa [if_pos ‹_›] at unit
  · dsimp only
    split
    · split
      · exact sameCuts_refl s
      · exact sameCuts_modSeat s _ _ fun _ => ⟨rfl, rfl, fun _ => rfl⟩
    · exact sameCuts_refl s

theorem sameCuts_dropWrite (s : State) (src : Source) : SameCuts s (s.dropWrite src) := by
  unfold State.dropWrite
  split
  · exact sameCuts_modSeat s _ _ fun _ => ⟨rfl, rfl, fun _ => rfl⟩
  · exact sameCuts_refl s

theorem sameCuts_performOne (s : State) (src : Source) (k : WKind) (p : Place) (n data : Nat) (bad host : Bool) :
    SameCuts s (s.performOne src k p n data bad host) := by
  unfold State.performOne
  split
  · exact sameCuts_refl s
  · split
    · split
      · exact sameCuts_afterWrite s _ _ _ _
      · dsimp only
        refine sameCuts_trans ?_ (sameCuts_trans (sameCuts_of_core (State.writePlace_core _ _ _ _)) (sameCuts_afterWrite _ _ _ _ _))
        split
        · exact sameCuts_refl s
        · exact sameCuts_noteCorr s _ _ _
    · exact sameCuts_trans (onlyNotes_noteBad s p n false).sameCuts (sameCuts_dropWrite _ _)

theorem sameCuts_performWrite (s : State) (src : Source) (k : WKind) (p : Place) (n data : Nat) (bad host : Bool) :
    SameCuts s (s.performWrite src k p n data bad host) := by
  refine sameCuts_trans (t := s.overwrite k p n host) ?_ (sameCuts_foldl _ (fun t x => sameCuts_performOne t _ _ _ _ _ _ _) _ _)
  unfold State.overwrite
  split
  · exact sameCuts_of_core rfl
  · exact sameCuts_refl s

/-! ## The save (R193) -/

theorem sameCuts_hubWrite (s : State) (d : Fin 8) (va n v : Nat) : SameCuts s (s.hubWrite d va n v) := by
  have walk := (onlyNotes_hubWalk s d va).sameCuts
  unfold State.hubWrite
  dsimp only
  split
  · exact walk
  · exact sameCuts_trans walk (sameCuts_performWrite _ _ _ _ _ _ _ _)

theorem sameCuts_saveContext (s : State) (r : SeatRef) : SameCuts s (s.saveContext r) :=
  sameCuts_trans (onlyNotes_mapNote s r _).sameCuts (sameCuts_foldl _ (fun _ _ => sameCuts_hubWrite _ _ _ _ _) _ _)

end Sys2Proof.Machine
end

section
/-! SUPPORT. The cut, by what it delivers (R47), and obligation O45. -/
namespace Sys2Proof.Machine

/-! ## When a cut proceeds -/

/-- Engines that stand have stopped. -/
theorem Seat.frozen_of_stand {st : Seat} (h : st.enginesStand = true) : (st.eng.toList.all fun c => c.frozen) = true := by
  simp only [Seat.enginesStand, List.all_eq_true, List.mem_finRange, true_imp_iff, Bool.and_eq_true] at h
  rw [List.all_eq_true]
  intro c hc
  obtain ⟨e, he, rfl⟩ := Vector.mem_iff_getElem.1 (Vector.mem_toList_iff.1 hc)
  exact (h ⟨e, he⟩).1.1

section
variable {s : State} {r : SeatRef} {l : Latch} (latch : (s.getSeat r).cut.latch = some l)
include latch

section
variable (run : s.cutMayRun r = true) (reached : (s.getSeat r).allReached = true) (halted : (s.getSeat r).allHalted = false)
  (pipe : (s.getSeat r).c.pipe = []) (sample : (s.getSeat r).lexAt.1 ≠ s.core[r.core].cycle + 1)
include run reached halted pipe sample

/-- CUT of a seat whose streams stand at their comma, in a cycle without a sample (R47). -/
theorem exec_cut : let a := s.getSeat r
    exec (.cut r) s =
      if a.cut.commaLimit.toNat ≤ l.age then .next (s.commaTimeout r 3)
      else if !a.commasAgree then .next (s.commaTimeout r 2)
      else if a.enginesMustStop && !(a.eng.toList.all fun c => c.frozen) then .next (s.modSeat r fun st => st.freezeEngines true)
      else if !a.landingsDrained || (a.enginesMustStop && !a.enginesStand) || (a.joined.1 && !a.boundDue && !a.scalarsDrained) then .next s
      else .next (s.performCut r l.n) := by
  intro a
  show execCut r s = _
  unfold execCut
  dsimp only
  rw [latch]
  exact if_neg (by simpa [run, reached, halted, pipe] using sample)

/-- A drained cut in time is performed (R47 steps 4 to 6). -/
theorem exec_cut_drained (early : ¬(s.getSeat r).cut.commaLimit.toNat ≤ l.age) (agree : (s.getSeat r).commasAgree = true)
    (landed : (s.getSeat r).landingsDrained = true)
    (stand : (s.getSeat r).boundDue = false → l.preempt = true ∨ l.bookmark = true → (s.getSeat r).enginesStand = true)
    (drained : (s.getSeat r).boundDue = false → l.preempt = true → (s.getSeat r).scalarsDrained = true) :
    exec (.cut r) s = .next (s.performCut r l.n) := by
  have joined : (s.getSeat r).joined = (l.preempt, l.bookmark) := by rw [Seat.joined, latch]
  have stops (must : (s.getSeat r).enginesMustStop = true) : (s.getSeat r).enginesStand = true := by
    rw [Seat.enginesMustStop, joined, Bool.and_eq_true, Bool.or_eq_true, Bool.not_eq_true'] at must
    exact stand must.2 must.1
  have engines : ((s.getSeat r).enginesMustStop && !(s.getSeat r).enginesStand) = false := by
    cases must : (s.getSeat r).enginesMustStop with
    | false => rfl
    | true => rw [stops must]; rfl
  have frozen : ((s.getSeat r).enginesMustStop && !((s.getSeat r).eng.toList.all fun c => c.frozen)) = false := by
    cases must : (s.getSeat r).enginesMustStop with
    | false => rfl
    | true => rw [Seat.frozen_of_stand (stops must)]; rfl
  have scalars : (l.preempt && !(s.getSeat r).boundDue && !(s.getSeat r).scalarsDrained) = false := by
    cases due : (s.getSeat r).boundDue with
    | true => simp
    | false =>
      cases asked : l.preempt with
      | false => rfl
      | true => rw [drained due asked]; rfl
  rw [exec_cut latch run reached halted pipe sample, if_neg early, agree, frozen, landed, engines, joined, scalars]
  rfl

end

end

/-! ## A fault at the cut -/

/-- A seat's queues may have stopped or started, and its bookmark been settled. -/
structure EngineChange (a b : Seat) : Prop where
  stays : CutStays a b
  str   : b.str = a.str
  lex   : b.lex = a.lex
  trap  : b.trap = a.trap
  info  : b.cut.info = a.cut.info
  pc    : b.cut.pc = a.cut.pc
  latch : b.cut.latch = a.cut.latch

/-- Seat u is what step 5 of the cut at latch l leaves of seat a. -/
structure AfterFive (a : Seat) (l : Latch) (u : Seat) : Prop where
  applied : CutApplied a l u
  stays   : CutStays a u
  rest    : FiveRest a u

theorem Seat.stepFive_after {a : Seat} {l : Latch} (latch : a.cut.latch = some l) : AfterFive a l (a.stepFive l) :=
  ⟨Seat.stepFive_applied latch, Seat.stepFive_stays latch, Seat.stepFive_rest latch⟩

/-- What step 5 has recorded stays with a change of the queues. -/
theorem AfterFive.changed {a b u : Seat} {l : Latch} (five : AfterFive a l u) (change : EngineChange u b) :
    CutApplied a l b ∧ CutStays a b ∧ b.cut.latch = none := by
  obtain ⟨applied, fiveStays, rest⟩ := five
  obtain ⟨stays, str, lex, trap, info, pc, same⟩ := change
  refine ⟨applied.of_same info pc lex fun j => ?_, cutStays_trans fiveStays stays, same.trans rest.latch⟩
  rw [str]
  exact id

/-- And with a fault. -/
theorem CutFaulted.recorded {f : Flt} {pcs : Vector Word 4} {a b u : Seat} {l : Latch}
    (held : CutApplied a l b ∧ CutStays a b ∧ b.cut.latch = none) (faulted : CutFaulted f pcs b u) :
    CutApplied a l u ∧ CutStays a u ∧ u.cut.latch = none := by
  obtain ⟨applied, stays, none⟩ := held
  obtain ⟨ucut, ulex, -⟩ := faulted.kept
  refine ⟨applied.of_same ?_ ?_ ulex fun j => (faulted.files j).comma, cutStays_trans stays faulted.stays, ?_⟩
  all_goals rw [ucut]
  exact none

/-- Step 5 of a cut in which no handler runs, a change of the seat's queues, and a fault. -/
theorem State.cutFault_delivers {s : State} {r : SeatRef} {l : Latch} (latch : (s.getSeat r).cut.latch = some l)
    (active : (s.getSeat r).trap.active = false) (g : Seat → Seat) (hg : ∀ a, EngineChange a (g a)) (f : Flt) :
    ∃ b, AfterFive (s.getSeat r) l b ∧
      CutFaulted f (g b).cut.pc (g b) ((((s.stepFive r l).modSeat r g).takeCutFault r f).getSeat r) := by
  refine ⟨_, Seat.stepFive_after latch, ?_⟩
  have seat : ((s.stepFive r l).modSeat r g).getSeat r = g ((s.getSeat r).stepFive l) := by
    rw [State.modSeat_getSeat, s.stepFive_getSeat]
  have taken := ((s.stepFive r l).modSeat r g).takeCutFault_cutFaulted r f
  rw [seat] at taken
  refine taken ?_
  rw [(hg _).trap, (Seat.stepFive_rest latch).trap, active]

end Sys2Proof.Machine
end

section
/-! SUPPORT. Each delivery of a cut (R47), and obligation O45. -/
namespace Sys2Proof.Machine

/-! ## What a delivery makes of the seat after step 5 -/

theorem engineChange_freezeEngines (b : Bool) (a : Seat) : EngineChange a (a.freezeEngines b) :=
  ⟨⟨rfl, rfl, rfl, keepsFiles_refl _⟩, rfl, rfl, rfl, rfl, rfl, rfl⟩

theorem engineChange_settleBookmark (a : Seat) : EngineChange a a.settleBookmark :=
  ⟨⟨rfl, rfl, rfl, keepsFiles_refl _⟩, rfl, rfl, rfl, rfl, rfl, rfl⟩

/-- The queues as PREEMPT finds them, a bookmark of the same cut settled first (R297, R390). -/
def Seat.stopQueues (st : Seat) (mark : Bool) : Seat := (if mark then st.settleBookmark else st).modEng .copy EngineCtx.stopCopy

theorem engineChange_stopQueues (mark : Bool) (a : Seat) : EngineChange a (a.stopQueues mark) := by
  cases mark <;> exact ⟨⟨rfl, rfl, rfl, keepsFiles_refl _⟩, rfl, rfl, rfl, rfl, rfl, rfl⟩

/-- The seat is pre-empted. -/
def Seat.toPreempted (st : Seat) : Seat :=
  { st with inst := { st.inst with phase := .preempted }, cut := { st.cut with preempt := false } }

section
variable {a b u : Seat} {l : Latch} (five : AfterFive a l b)
include five

/-- LATENCY_BOUND of symbol y: its handler starts, or the seat is faulted (R44, R188, R189). -/
theorem AfterFive.latencyBound (y : Fin 32)
    (faulted : CutFaulted ⟨.latencyBound, y.val, 0, false⟩ (b.freezeEngines false).cut.pc (b.freezeEngines false) u) :
    (CutApplied a l u ∧ CutStays a u ∧ u.cut.latch = none) ∧ u.trap.src = 7 ∧ fld u.trap.info 16 5 = 10 ∧
      fld u.trap.info 32 32 = y.val ∧ (∀ j : Fin 4, u.trap.pc[j] = a.str[j].pc &&& ~~~3) ∧
      if a.trap.vec = 0 then u.inst.phase = .faulted else (u.getStr .K).pc = a.trap.vec := by
  have small : y.val < 2 ^ 32 := by omega
  have goes : if !false && decide (b.trap.vec ≠ 0) then (u.getStr .K).pc = b.trap.vec else u.inst.phase = .faulted := faulted.goes
  refine ⟨faulted.recorded (five.changed (engineChange_freezeEngines false b)), faulted.src, faulted.cause,
    faulted.detail.trans (Nat.mod_eq_of_lt small), fun j => ?_, ?_⟩
  · rw [faulted.pc]
    exact (five.applied.streams j).1
  · rw [five.rest.trap] at goes
    by_cases none : a.trap.vec = 0
    · rw [if_pos none]
      rwa [if_neg (by simp [none])] at goes
    · rw [if_neg none]
      rwa [if_pos (by simpa using none)] at goes

/-- BOOKMARK: the seat is faulted, and its bookmark settled (R390). -/
theorem AfterFive.bookmark (faulted : CutFaulted ⟨.bookmark, 0, 0, true⟩ b.settleBookmark.cut.pc b.settleBookmark u) :
    (CutApplied a l u ∧ CutStays a u ∧ u.cut.latch = none) ∧ u.inst.phase = .faulted ∧ fld u.trap.info 16 5 = Cause.bookmark.code ∧
      u.cut.bookmark = false ∧ bit u.sys.bmark 0 = false ∧ ∀ e : Fin 3, u.sys.bmHead[e] = a.eng[e].bmHead := by
  obtain ⟨cut, -, sys⟩ := faulted.kept
  refine ⟨faulted.recorded (five.changed (engineChange_settleBookmark b)), faulted.goes, faulted.cause, ?_, ?_, fun e => ?_⟩
  · rw [cut]; rfl
  · rw [sys]
    show (b.sys.bmark &&& ~~~1).getLsbD 0 = false
    simp
  · rw [sys]
    show (b.eng.map EngineCtx.bmHead)[e] = _
    rw [five.rest.eng]
    simp

/-- PREEMPT leaves what step 5 has recorded (R193). -/
theorem AfterFive.preempted (mark : Bool) (saved : SameCut (b.stopQueues mark) u) :
    CutApplied a l u.toPreempted ∧ u.toPreempted.cut.latch = none := by
  obtain ⟨applied, -, none⟩ := five.changed (engineChange_stopQueues mark b)
  refine ⟨applied.of_same ?_ ?_ saved.lex fun j => ?_, ?_⟩
  · show u.cut.info = _
    rw [saved.cut]
  · show u.cut.pc = _
    rw [saved.cut]
  · exact fun free => (saved.comma j).trans free
  · exact (congrArg CutFile.latch saved.cut).trans none

/-- The re-timing handler starts, in stream K alone (R50). -/
theorem AfterFive.enterRetime : CutApplied a l b.enterRetime ∧ CutStays a b.enterRetime ∧ b.enterRetime.cut.latch = none ∧
    b.enterRetime.inst = a.inst ∧ (∀ j : Fin 4, j ≠ 0 → b.enterRetime.str[j].pc = a.str[j].pc) ∧
    (b.enterRetime.getStr .K).pc = a.cut.retimeVec := by
  obtain ⟨applied, stays, rest⟩ := five
  have files : KeepsFiles b.str b.enterRetime.str := keepsFiles_modStr _ .K _ fun _ => ⟨rfl, rfl, rfl, fun _ => rfl⟩
  refine ⟨applied.of_same rfl rfl rfl fun j => (files j).comma, cutStays_trans stays ⟨rfl, rfl, rfl, files⟩, rest.latch, rest.inst,
    fun j hj => ?_, ?_⟩
  · rw [b.enterRetime_str, if_neg hj, rest.pc j]
  · rw [Seat.getStr_K, b.enterRetime_str, if_pos rfl, rest.retime]

/-- With nothing to deliver, what is still pending latches the next cut (R47). -/
theorem AfterFive.latchCut (active : a.trap.active = false) (due : a.boundDue = false) :
    CutApplied a l b.latchCut ∧ CutStays a b.latchCut ∧ b.latchCut.inst = a.inst ∧
      (∀ j : Fin 4, b.latchCut.str[j].pc = a.str[j].pc) ∧ b.latchCut.trap = a.trap ∧
      b.latchCut.cut.latch = if a.cut.preempt || a.cut.bookmark then
        some ⟨BitVec.ofNat 32 (a.topPass + 1), 0, a.cut.preempt, a.cut.bookmark⟩ else none := by
  obtain ⟨applied, stays, rest⟩ := five
  have quiet (y : Fin 32) : Quiet b.lex[y] := by rw [rest.lex]; exact Seat.settleLexicon_quiet due y
  have latch : b.newLatch = if a.cut.preempt || a.cut.bookmark then
      some ⟨BitVec.ofNat 32 (a.topPass + 1), 0, a.cut.preempt, a.cut.bookmark⟩ else none := by
    rw [Seat.newLatch_none rest.latch, Seat.cutPending_quiet quiet, rest.trap, active, rest.preempt, rest.bookmark, rest.top,
      Bool.false_and, Bool.not_false, Bool.and_true]
  rw [b.latchCut_newLatch]
  exact ⟨applied.of_same rfl rfl rfl fun _ => id, cutStays_trans stays ⟨rfl, rfl, rfl, keepsFiles_refl _⟩, rest.inst, rest.pc, rest.trap,
    latch⟩

end

/-- The seat that PREEMPT is delivered to (R47, R193). -/
theorem State.deliverPreempt_getSeat (s : State) (r : SeatRef) (mark : Bool) : ∃ v, SameCut ((s.getSeat r).stopQueues mark) v ∧
    (s.deliverPreempt r mark).getSeat r = v.toPreempted := by
  have stopped : (s.modSeat r fun st => st.stopQueues mark).getSeat r = (s.getSeat r).stopQueues mark := s.modSeat_getSeat r _
  refine ⟨_, ?_, State.modSeat_getSeat ((s.modSeat r fun st => st.stopQueues mark).saveContext r) r Seat.toPreempted⟩
  rw [← stopped]
  exact sameCuts_saveContext _ r r

/-! ## Obligation O45 -/

theorem State.cutMayRun_active {s : State} {r : SeatRef} (h : s.cutMayRun r = true) : (s.getSeat r).trap.active = false := by
  simp only [State.cutMayRun, Bool.and_eq_true, Bool.not_eq_true'] at h
  exact h.2

/-- A seat after step 5 of its cut, and any change of it. -/
theorem State.stepFive_seat (s : State) {r : SeatRef} {l : Latch} (latch : (s.getSeat r).cut.latch = some l) :
    ∃ b, AfterFive (s.getSeat r) l b ∧ ∀ f : Seat → Seat, ((s.stepFive r l).modSeat r f).getSeat r = f b :=
  ⟨_, Seat.stepFive_after latch, fun f => by rw [State.modSeat_getSeat, s.stepFive_getSeat]⟩

theorem CutApplied.parts {a u : Seat} {l : Latch} (h : CutApplied a l u) :
    fld u.cut.info 32 32 = l.n.toNat ∧ fld u.cut.info 22 10 = (a.commas.headD (0, 0)).1.toNat ∧
    fld u.cut.info 16 6 = (a.commas.headD (0, 0)).2.toNat ∧ (bit u.cut.info 3 = true ↔ a.retimeDue = true ∨ a.rebinds) ∧
    bit u.cut.info 2 = l.preempt ∧ bit u.cut.info 1 = l.bookmark ∧ bit u.cut.info 0 = a.boundDue ∧
    (∀ j : Fin 4, u.cut.pc[j] = a.str[j].pc &&& ~~~3 ∧ u.str[j].comma = none) ∧ ∀ y : Fin 32, u.lex[y].b = newBinding a.lex[y] :=
  ⟨h.pass, h.index, h.map, h.retime, h.preempt, h.bookmark, h.bound, h.streams, h.bindings⟩

theorem CutStays.parts {a u : Seat} (h : CutStays a u) : u.vec = a.vec ∧ u.q = a.q ∧ u.tile = a.tile ∧
    ∀ j : Fin 4, u.str[j].x = a.str[j].x ∧ u.str[j].p = a.str[j].p ∧ u.str[j].t = a.str[j].t :=
  ⟨h.vec, h.q, h.tile, fun j => ⟨(h.files j).x, (h.files j).p, (h.files j).t⟩⟩

section
variable {s : State} {r : SeatRef} {l : Latch} (latch : (s.getSeat r).cut.latch = some l) (due : (s.getSeat r).boundDue = false)
  (preempt : l.preempt = false) (bookmark : l.bookmark = false)
include latch due preempt bookmark

/-- A cut that delivers nothing starts the re-timing handler that it owes (R50). -/
theorem State.performCut_retimes (retime : (s.getSeat r).retimeDue = true ∨ (s.getSeat r).rebinds)
    (vec : (s.getSeat r).cut.retimeVec ≠ 0) : s.performCut r l.n = (s.stepFive r l).modSeat r Seat.enterRetime := by
  have owed := (Seat.stepFive_applied latch).retime.2 retime
  rw [State.performCut_else latch due, preempt, bookmark, owed, decide_eq_true vec]
  rfl

/-- Else it latches what is pending (R47). -/
theorem State.performCut_latches
    (none : ¬((s.getSeat r).retimeDue = true ∨ (s.getSeat r).rebinds) ∨ (s.getSeat r).cut.retimeVec = 0) :
    s.performCut r l.n = (s.stepFive r l).modSeat r Seat.latchCut := by
  have owed : (bit ((s.getSeat r).stepFive l).cut.info 3 && decide ((s.getSeat r).cut.retimeVec ≠ 0)) = false := by
    rw [Bool.and_eq_false_iff, decide_eq_false_iff_not, not_not, ← Bool.not_eq_true, (Seat.stepFive_applied latch).retime]
    exact none
  rw [State.performCut_else latch due, preempt, bookmark, owed]
  rfl

end

/-- Settles O45: the cut is step 5 and one delivery, each of which leaves what step 5 has recorded. -/
theorem cutsAtCommas : Obligations.CutsAtCommas := by
  unfold Obligations.CutsAtCommas
  intro s r l latch run reached halted pipe sample a timeout
  have cut := exec_cut latch run reached halted pipe sample
  have active := State.cutMayRun_active run
  split
  case isTrue late => exact cut.trans (if_pos late)
  rename_i early
  split
  case isFalse differ =>
    exact (cut.trans (if_neg early)).trans (if_pos (by simpa [a] using differ))
  rename_i agree
  intro landed c bound rebound retime applied stays done
  have drained := exec_cut_drained latch run reached halted pipe sample early agree landed
  refine ⟨fun due => ?bound, fun due preempt stand scalars => ?preempt, fun due preempt bookmark stand => ?bookmark,
    fun due preempt bookmark => ?none⟩
  case bound =>
    obtain ⟨y, owes, performed⟩ := State.performCut_bound (l := l) due
    obtain ⟨b, five, faulted⟩ := State.cutFault_delivers latch active _ (engineChange_freezeEngines false) ⟨.latencyBound, y.val, 0, false⟩
    obtain ⟨⟨applies, keeps, none⟩, src, cause, detail, pcs, goes⟩ := five.latencyBound y faulted
    have no {p : Prop} (h : (s.getSeat r).boundDue = false) : p := Bool.noConfusion (due.symm.trans h)
    refine ⟨_, drained no no, ?_⟩
    rw [performed]
    exact ⟨applies.parts, none, ⟨fun _ => rfl, keeps.parts⟩, src, cause, ⟨y, owes, detail⟩, pcs, goes⟩
  case preempt =>
    have performed := State.performCut_else latch due
    rw [preempt, if_pos rfl] at performed
    obtain ⟨v, saved, seat⟩ := (s.stepFive r l).deliverPreempt_getSeat r l.bookmark
    rw [s.stepFive_getSeat] at saved
    obtain ⟨applies, none⟩ := (Seat.stepFive_after latch).preempted l.bookmark saved
    refine ⟨_, drained (fun _ _ => stand) (fun _ _ => scalars), ?_⟩
    rw [performed]
    show applied _ ∧ done _ ∧ _
    simp only [applied, done]
    rw [seat]
    exact ⟨applies.parts, none, rfl, rfl⟩
  case bookmark =>
    have performed := State.performCut_else latch due
    rw [preempt, if_neg Bool.false_ne_true, bookmark, if_pos rfl] at performed
    obtain ⟨b, five, faulted⟩ := State.cutFault_delivers latch active _ engineChange_settleBookmark ⟨.bookmark, 0, 0, true⟩
    obtain ⟨⟨applies, keeps, none⟩, phase, cause, mark, armed, heads⟩ := five.bookmark faulted
    refine ⟨_, drained (fun _ _ => stand) (fun _ h => absurd (preempt.symm.trans h) Bool.false_ne_true), ?_⟩
    rw [performed]
    exact ⟨applies.parts, none, ⟨fun _ => rfl, keeps.parts⟩, phase, cause, mark, armed, fun e => (heads e).trans rfl⟩
  case none =>
    obtain ⟨b, five, seat⟩ := s.stepFive_seat latch
    have go := drained (fun _ asked => by simp [preempt, bookmark] at asked) (fun _ asked => by simp [preempt] at asked)
    by_cases owed : retime ∧ a.cut.retimeVec ≠ 0
    · obtain ⟨retimes, vec⟩ := owed
      obtain ⟨applies, keeps, none, inst, pcs, pc⟩ := five.enterRetime
      obtain ⟨runs, kind⟩ := b.enterRetime_trap
      rw [State.performCut_retimes latch due preempt bookmark retimes vec] at go
      refine ⟨_, go, ?_⟩
      simp only [applied, stays, done]
      rw [seat]
      exact ⟨applies.parts, ⟨fun _ => rfl, keeps.parts⟩, fun _ _ => none, inst, pcs, fun _ _ => ⟨none, pc, runs, kind⟩,
        fun not => (not.elim (· retimes) vec).elim⟩
    · obtain ⟨applies, keeps, inst, pcs, trap, next⟩ := five.latchCut active due
      have not : ¬retime ∨ a.cut.retimeVec = 0 := by rwa [not_and_or, not_not] at owed
      rw [State.performCut_latches latch due preempt bookmark not] at go
      refine ⟨_, go, ?_⟩
      simp only [applied, stays, done]
      rw [seat]
      refine ⟨applies.parts, ⟨fun _ => rfl, keeps.parts⟩, fun p b => ?_, inst, fun j _ => pcs j, fun retimes vec => absurd ⟨retimes, vec⟩ owed,
        fun _ => ⟨trap, pcs 0, fun pending => ?_⟩⟩
      · rw [next, p, b]; rfl
      · rw [next, if_pos (by simpa using pending)]

end Sys2Proof.Machine
end

section
/-! SUPPORT. The integer instructions of one and two sources (R104, R107 to R109), and obligations O1 and O2. -/
namespace Sys2Proof.Machine

/-! ## Instructions built of `alu2`, `alu1` and `alu0` -/

theorem twoSource_of_alu2 {op : SSpec → SSpec → SSpec → Instr} {lat latC : Nat} {g f : Word → Word → Word}
    (value : ∀ x y, g x y = f x y) (arm : ∀ (s : State) d a b, exec (op d a b) s = s.alu2 d a b lat latC g) :
    TwoSource op lat latC f := by
  intro s d a b ⟨classes, free⟩
  obtain ⟨t, runs, result⟩ := alu2_result s d a b lat latC g classes free
  exact ⟨t, (arm s d a b).trans runs, value _ _ ▸ result⟩

theorem oneSource_of_alu1 {op : SSpec → SSpec → Instr} {lat latC : Nat} {g f : Word → Word}
    (value : ∀ x, g x = f x) (arm : ∀ (s : State) d a, exec (op d a) s = s.alu1 d a lat latC g) : OneSource op lat latC f := by
  intro s d a ⟨classes, free⟩
  obtain ⟨t, runs, result⟩ := alu1_result s d a lat latC g classes free
  exact ⟨t, (arm s d a).trans runs, value _ ▸ result⟩

/-! ## Words as naturals and as integers -/

section
variable (x y : Word)

theorem add_eq_ofNat : x + y = BitVec.ofNat 64 (x.toNat + y.toNat) := BitVec.eq_of_toNat_eq (by simp)

theorem sub_eq_ofInt : x - y = BitVec.ofInt 64 (x.toInt - y.toInt) := BitVec.eq_of_toInt_eq (by rw [BitVec.toInt_sub, BitVec.toInt_ofInt])

theorem mul_eq_ofNat : x * y = BitVec.ofNat 64 (x.toNat * y.toNat) := BitVec.eq_of_toNat_eq (by simp)

theorem shiftLeft_eq_ofNat (n : Nat) : x <<< n = BitVec.ofNat 64 (x.toNat * 2 ^ n) :=
  BitVec.eq_of_toNat_eq (by simp [Nat.shiftLeft_eq])

theorem shiftRight_eq_ofNat (n : Nat) : x >>> n = BitVec.ofNat 64 (x.toNat / 2 ^ n) :=
  BitVec.eq_of_toNat_eq (by
    have : x.toNat / 2 ^ n < 2 ^ 64 := Nat.lt_of_le_of_lt (Nat.div_le_self _ _) x.isLt
    rw [BitVec.toNat_ushiftRight, Nat.shiftRight_eq_div_pow, BitVec.toNat_ofNat, Nat.mod_eq_of_lt this])

theorem sshiftRight_eq_ofInt (n : Nat) : x.sshiftRight n = BitVec.ofInt 64 (x.toInt / 2 ^ n) := by
  have : x.toInt >>> n = x.toInt / 2 ^ n := by simp [Int.shiftRight_eq_div_pow]
  rw [BitVec.sshiftRight, this]

theorem ite_slt_eq_toInt : (if x.slt y then x else y) = if x.toInt < y.toInt then x else y := by simp [BitVec.slt]

theorem ite_slt_eq_toInt_gt : (if y.slt x then x else y) = if x.toInt > y.toInt then x else y := by simp [BitVec.slt]

/-- MULH's product has its full 128 bits; their upper half is the floor of the product over 2^64. -/
theorem mulh_eq_ofInt : ((x.signExtend 128) * (y.signExtend 128)).extractLsb' 64 64 = BitVec.ofInt 64 (x.toInt * y.toInt / 2 ^ 64) := by
  have product : x.signExtend 128 * y.signExtend 128 = BitVec.ofInt 128 (x.toInt * y.toInt) := (BitVec.ofInt_mul _ _).symm
  refine BitVec.eq_of_toNat_eq ?_
  rw [product, BitVec.extractLsb'_toNat, Nat.shiftRight_eq_div_pow, BitVec.toNat_ofInt, BitVec.toNat_ofInt]
  generalize x.toInt * y.toInt = z
  omega

theorem rotateRight_eq_ofNat {n : Nat} (h : n < 64) : x.rotateRight n = BitVec.ofNat 64 (x.toNat / 2 ^ n + x.toNat * 2 ^ (64 - n)) := by
  have whole : 2 ^ (64 - n) * 2 ^ n = 2 ^ 64 := by rw [← Nat.pow_add]; congr 1; omega
  have up : x.toNat * 2 ^ (64 - n) % 2 ^ 64 = 2 ^ (64 - n) * (x.toNat % 2 ^ n) := by
    rw [← whole, Nat.mul_comm x.toNat, Nat.mul_mod_mul_left]
  have low : x.toNat / 2 ^ n < 2 ^ (64 - n) := Nat.div_lt_of_lt_mul (by rw [Nat.mul_comm, whole]; exact x.isLt)
  have turned : (x.rotateRight n).toNat = 2 ^ (64 - n) * (x.toNat % 2 ^ n) + x.toNat / 2 ^ n := by
    rw [BitVec.toNat_rotateRight, Nat.mod_eq_of_lt h, Nat.shiftRight_eq_div_pow, Nat.shiftLeft_eq, up, Nat.or_comm,
      ← Nat.two_pow_add_eq_or_of_lt low]
  refine BitVec.eq_of_toNat_eq ?_
  have below := (x.rotateRight n).isLt
  rw [BitVec.toNat_ofNat]
  omega

end

/-! ## Bit lengths and counts -/

theorem bitLen_eq_size (f n : Nat) (h : n < 2 ^ f) : bitLen f n = Nat.size n := by
  induction f generalizing n with
  | zero =>
    have : n = 0 := by simpa using h
    subst this; rfl
  | succ f ih =>
    unfold bitLen
    split
    · next zero => subst zero; rfl
    · next pos =>
      have half : Nat.bit n.bodd n.div2 = n := Nat.bit_bodd_div2 n
      rw [← Nat.div2_val, ih n.div2 (by rw [Nat.div2_val]; rw [Nat.pow_succ] at h; omega)]
      have := Nat.size_bit (half.symm ▸ pos : Nat.bit n.bodd n.div2 ≠ 0)
      rw [half] at this
      omega

/-- The least power of two above a number is that of its bit length. -/
theorem find?_lt_two_pow {a m : Nat} (h : a < 2 ^ m) :
    ((List.range (m + 1)).find? fun n => decide (a < 2 ^ n)) = some (Nat.size a) := by
  rw [List.find?_range_eq_some]
  refine ⟨by simpa using Nat.lt_size_self a, ?_, fun j hj => ?_⟩
  · have := Nat.size_le.2 h
    simp; omega
  · simpa using Nat.lt_size.1 hj

theorem popCount_eq_countP (f n : Nat) : popCount f n = (List.range f).countP fun i => n.testBit i := by
  induction f generalizing n with
  | zero => rfl
  | succ f ih =>
    rw [List.range_succ_eq_map, List.countP_cons, List.countP_map]
    have : ((fun i => n.testBit i) ∘ Nat.succ) = fun i => (n / 2).testBit i := funext fun i => by simp [Nat.testBit_succ]
    rw [popCount, ih, this, Nat.testBit_zero, Nat.add_comm]
    congr 1
    have := Nat.mod_two_eq_zero_or_one n
    rcases this with e | e <;> simp [e]


/-! ## Immediates -/

section
variable (x : Word) (i : BitVec 11)

theorem add_signExtend_eq_ofInt : x + i.signExtend 64 = BitVec.ofInt 64 (x.toInt + i.toInt) :=
  BitVec.eq_of_toInt_eq (by rw [BitVec.toInt_add, BitVec.toInt_ofInt, BitVec.toInt_signExtend_of_le (by decide)])

theorem scale_eq_ofInt (sh : Nat) : (x * i.signExtend 64) <<< sh = BitVec.ofInt 64 (x.toInt * i.toInt * 2 ^ sh) := by
  have power : (2 : Int) ^ sh = ((2 ^ sh : Nat) : Int) := by push_cast; rfl
  rw [BitVec.ofInt_mul, BitVec.ofInt_mul, BitVec.ofInt_toInt, power, BitVec.ofInt_natCast]
  exact BitVec.eq_of_toNat_eq (by simp [Nat.shiftLeft_eq, BitVec.signExtend])

end

theorem clz_eq_find (x : Word) : BitVec.ofNat 64 (64 - bitLen 64 x.toNat) =
    BitVec.ofNat 64 (((List.range 65).find? fun n => decide (x.toNat < 2 ^ n)).elim 0 (64 - ·)) := by
  rw [find?_lt_two_pow x.isLt, bitLen_eq_size 64 _ x.isLt]
  rfl

theorem popc_eq_countP (x : Word) : BitVec.ofNat 64 (popCount 64 x.toNat) =
    BitVec.ofNat 64 ((List.range 64).countP fun n => x.getLsbD n) := by
  rw [popCount_eq_countP]
  rfl

theorem fld_eq_div_mod (x : Word) (pos len : Nat) : fld x pos len = x.toNat / 2 ^ pos % 2 ^ len := by
  rw [fld, Nat.shiftRight_eq_div_pow]

/-- Settles O1: each instruction is `alu2` with its function of two words. -/
theorem twoSourceIntegers : Obligations.TwoSourceIntegers := by
  have low (y : Word) : y.toNat % 64 < 64 := Nat.mod_lt _ (by decide)
  refine ⟨?add, ?sub, ?mul, ?mulh, ?and, ?or, ?xor, ?andn, ?shl, ?shr, ?sra, ?rotr, ?min, ?max⟩
  case add => exact twoSource_of_alu2 add_eq_ofNat fun _ _ _ _ => rfl
  case sub => exact twoSource_of_alu2 sub_eq_ofInt fun _ _ _ _ => rfl
  case mul => exact twoSource_of_alu2 mul_eq_ofNat fun _ _ _ _ => rfl
  case mulh => exact twoSource_of_alu2 mulh_eq_ofInt fun _ _ _ _ => rfl
  case and => exact twoSource_of_alu2 (fun _ _ => rfl) fun _ _ _ _ => rfl
  case or => exact twoSource_of_alu2 (fun _ _ => rfl) fun _ _ _ _ => rfl
  case xor => exact twoSource_of_alu2 (fun _ _ => rfl) fun _ _ _ _ => rfl
  case andn => exact twoSource_of_alu2 (fun _ _ => rfl) fun _ _ _ _ => rfl
  case shl => exact twoSource_of_alu2 (fun x _ => shiftLeft_eq_ofNat x _) fun _ _ _ _ => rfl
  case shr => exact twoSource_of_alu2 (fun x _ => shiftRight_eq_ofNat x _) fun _ _ _ _ => rfl
  case sra => exact twoSource_of_alu2 (fun x _ => sshiftRight_eq_ofInt x _) fun _ _ _ _ => rfl
  case rotr => exact twoSource_of_alu2 (fun x y => rotateRight_eq_ofNat x (low y)) fun _ _ _ _ => rfl
  case min => exact twoSource_of_alu2 ite_slt_eq_toInt fun _ _ _ _ => rfl
  case max => exact twoSource_of_alu2 ite_slt_eq_toInt_gt fun _ _ _ _ => rfl

/-! ## Fields -/

/-- INS (R107): `d` is read as the second source, behind the one that supplies the bits. -/
theorem exec_ins {s : State} {d : Fin 32} {a : SSpec} {pos len : Fin 64} (ready : Ready s [a, .x d] [.x d]) :
    Runs (.ins (.x d) a pos len) s fun t =>
      ScalarResult s t [a, .x d] (.x d) 1 2 (putFld ((s.take a).peek (.x d)) pos.val (len.val + 1) (s.peek a).toNat) := by
  exact alu2_result s (.x d) a (.x d) 1 2 (fun x y => putFld y pos.val (len.val + 1) x.toNat) ready.1 ready.2

theorem exec_limm {s : State} {d : SSpec} (v : BitVec 16) (ready : Ready s [] [d]) :
    Runs (.limm d v 0) s fun t => ScalarResult s t [] d 1 2 (v.setWidth 64) := alu0_result s d 1 2 _ ready.1 ready.2

/-- LIMM of a quarter above 0 (R108). -/
theorem exec_limm_quarter {s : State} {d : SSpec} (v : BitVec 16) {h : Fin 4} (above : h ≠ 0) (ready : Ready s [d] [d]) :
    Runs (.limm d v h) s fun t => ScalarResult s t [d] d 1 2 (putFld (s.peek d) (16 * h.val) 16 v.toNat) := by
  obtain ⟨t, runs, result⟩ := alu1_result s d d 1 2 (fun x => putFld x (16 * h.val) 16 v.toNat) ready.1 ready.2
  exact ⟨t, (if_neg above).trans runs, result⟩

@[simp] theorem State.take_me (s : State) (a : SSpec) : (s.take a).me = s.me := by
  rw [State.take_eq, State.modMySeat_me, Seat.takeSrc_getStr]
  rfl

/-- Settles O2: each instruction is `alu1` with its function of a word; INS and LIMM put a field into a word. -/
theorem oneSourceIntegers : Obligations.OneSourceIntegers := by
  refine ⟨fun i => ⟨?addi, ?andi, ?ori, ?xori, fun sh => ?scale⟩, ?clz, ?popc, fun pos len => ⟨?ext, ?ins⟩, ?limm, ?quarter⟩
  case addi => exact oneSource_of_alu1 (fun x => add_signExtend_eq_ofInt x i) fun _ _ _ => rfl
  case andi => exact oneSource_of_alu1 (fun _ => rfl) fun _ _ _ => rfl
  case ori => exact oneSource_of_alu1 (fun _ => rfl) fun _ _ _ => rfl
  case xori => exact oneSource_of_alu1 (fun _ => rfl) fun _ _ _ => rfl
  case scale => exact oneSource_of_alu1 (fun x => scale_eq_ofInt x i sh.val) fun _ _ _ => rfl
  case clz => exact oneSource_of_alu1 clz_eq_find fun _ _ _ => rfl
  case popc => exact oneSource_of_alu1 popc_eq_countP fun _ _ _ => rfl
  case ext => exact oneSource_of_alu1 (fun x => congrArg _ (fld_eq_div_mod x pos.val (len.val + 1))) fun _ _ _ => rfl
  case ins =>
    intro _ s d a ready
    obtain ⟨t, runs, result⟩ := exec_ins ready
    refine ⟨t, runs, _, result, fun k hk => ?_⟩
    rw [getLsbD_putFld _ _ _ _ _ hk]
    show (if _ then _ else ((s.take a).me.rdX d).getLsbD k) = _
    rw [State.take_me]
    simp only [Nat.add_assoc]
    rfl
  case limm =>
    intro v s d ready
    have value : v.setWidth 64 = BitVec.ofNat 64 v.toNat := BitVec.eq_of_toNat_eq (by simp)
    exact value ▸ exec_limm v ready
  case quarter =>
    intro v h s d above ready
    obtain ⟨t, runs, result⟩ := exec_limm_quarter v above ready
    refine ⟨t, runs, _, result, fun k hk => ?_⟩
    rw [getLsbD_putFld _ _ _ _ _ hk]
    have quarter : 16 * h.val ≤ k ∧ k < 16 * h.val + 16 ↔ k / 16 = h.val := by omega
    by_cases e : k / 16 = h.val
    · rw [if_pos (quarter.2 e), if_pos e, show k - 16 * h.val = k % 16 by omega]
      rfl
    · rw [if_neg (mt quarter.1 e), if_neg e]
      rfl

end Sys2Proof.Machine
end

section
/-! SUPPORT. An instruction that has read its sources and goes on: what its seat becomes, for any place it goes to (R65, R102, R119). -/
namespace Sys2Proof.Machine

/-! ## Reading sources -/

/-- The seat after the sources named have been read: the fold that the `Seat.takeAll_…` laws speak of. -/
def Seat.takeAll (st : Seat) (now : Nat) (srcs : List SSpec) : Seat := srcs.foldl (fun st a => st.takeSrc now a) st

theorem State.takeAll_eq (s : State) (srcs : List SSpec) : srcs.foldl State.take s = s.modMySeat fun st => st.takeAll s.now srcs := by
  induction srcs generalizing s with
  | nil => exact s.modMySeat_id.symm
  | cons a r ih =>
    rw [List.foldl_cons, ih, State.take_now, State.take_eq, State.modMySeat_modMySeat]
    rfl

/-- The state after the sources named have been read and its seat has changed by `f`. -/
theorem State.takeAll_modMySeat (s : State) (srcs : List SSpec) (f : Seat → Seat) :
    (srcs.foldl State.take s).modMySeat f = s.modMySeat fun st => f (st.takeAll s.now srcs) := by
  rw [State.takeAll_eq, State.modMySeat_modMySeat]

@[simp] theorem State.takeAll_turn (s : State) (srcs : List SSpec) : (srcs.foldl State.take s).turn = s.turn := by
  rw [State.takeAll_eq]; rfl

@[simp] theorem State.takeAll_now (s : State) (srcs : List SSpec) : (srcs.foldl State.take s).now = s.now := by
  rw [State.takeAll_eq, State.modMySeat_now]

@[simp] theorem State.takeAll_me (s : State) (srcs : List SSpec) : (srcs.foldl State.take s).me = s.me := by
  rw [State.takeAll_eq, State.modMySeat_me]
  exact Seat.takeAll_getStr _ _ _ _

/-- Reading sources leaves the running stream. -/
theorem State.takeAll_mine (s : State) (srcs : List SSpec) : (s.mySeat.takeAll s.now srcs).getStr s.turn.stream = s.me :=
  Seat.takeAll_getStr _ _ _ _

/-! ## A seat that goes on -/

section
variable {s t : State} {st : Seat} {r : Stream × Bool}

theorem me_of_goOn (turn : t.turn = s.turn) (seat : t.mySeat = st.goOn s.turn.stream s.now r) :
    t.me = { r.1 with issued := s.now + 1, wait := .none, waiting := none } := by
  show t.mySeat.getStr t.turn.stream = _
  rw [seat, turn, Seat.goOn_getStr]

theorem went_of_goOn (turn : t.turn = s.turn) (seat : t.mySeat = st.goOn s.turn.stream s.now r)
    (rrb : st.vec.rrb = s.mySeat.vec.rrb) : Went s t r.1 r.2 := by
  unfold Went
  rw [me_of_goOn turn seat, seat, Seat.goOn_rrb, rrb]
  exact ⟨rfl, rfl, rfl, rfl, rfl, rfl, rfl, rfl⟩

theorem Went.of_same {a b : Stream} {trip : Bool} (h : Went s t b trip) (same : SameSeq a b) : Went s t a trip := by
  obtain ⟨pc, lc, ps, repLeft, repStage⟩ := same
  unfold Went at h ⊢
  rwa [pc, lc, ps, repLeft, repStage] at h

/-- A seat whose running stream has kept its place goes on in sequence. -/
theorem wentOn_of_goOn (turn : t.turn = s.turn) (seat : t.mySeat = st.goOn s.turn.stream s.now (st.getStr s.turn.stream).advance)
    (rrb : st.vec.rrb = s.mySeat.vec.rrb) (same : SameSeq s.me (st.getStr s.turn.stream))
    (loopPc : (st.getStr s.turn.stream).loopPc = s.me.loopPc) : WentOn s t := by
  obtain ⟨seq, trip⟩ := advance_of_same same loopPc
  have went := (went_of_goOn turn seat rrb).of_same seq
  rwa [trip] at went

end

theorem queues_takeAll {s t : State} {srcs : List SSpec} (queues : t.mySeat.q = (s.mySeat.takeAll s.now srcs).q) :
    Queues s t srcs none 0 0 := by
  intro n
  simpa [queues, Seat.takeAll] using Seat.takeAll_items s.now srcs s.mySeat n

/-- An instruction that reads its sources and takes the running stream to `r`. -/
theorem moved_goOn (s : State) (srcs : List SSpec) {r : Stream × Bool} (keeps : KeepsStream s.me r.1)
    (regs : r.1.x = s.me.x ∧ r.1.p = s.me.p ∧ r.1.t = s.me.t) :
    Moved s (s.modMySeat fun st => (st.takeAll s.now srcs).goOn s.turn.stream s.now r) srcs r.1 r.2 := by
  let st := s.mySeat.takeAll s.now srcs
  let t := s.modMySeat fun a => (a.takeAll s.now srcs).goOn s.turn.stream s.now r
  have seat : t.mySeat = st.goOn s.turn.stream s.now r := State.modMySeat_mySeat _ _
  have taken : KeepsSeat s.turn.stream s.mySeat st := Seat.takeAll_keeps _ _ _ _
  have mine : st.getStr s.turn.stream = s.me := s.takeAll_mine srcs
  have vec : st.vec = s.mySeat.vec := Seat.takeAll_vec _ _ _
  have sched : st.c = s.mySeat.c := Seat.takeAll_c _ _ _
  have me : t.me = _ := me_of_goOn (s := s) (t := t) rfl seat
  obtain ⟨hx, hp, ht⟩ := regs
  refine ⟨keeps_modMySeat s _ ?keeps, went_of_goOn rfl seat (by rw [vec]), ⟨fun n => ?x, ?p, ?t⟩, queues_takeAll ?q, ?pipe⟩
  case keeps => exact keepsSeat_trans taken (keepsSeat_goOn _ _ _ _ (mine ▸ keeps))
  case x => rw [show (s.modMySeat _).me = _ from me]; unfold Stream.rdX; rw [← hx]
  case p => rw [show (s.modMySeat _).me = _ from me]; exact hp
  case t => rw [show (s.modMySeat _).me = _ from me]; exact ht
  case q => rw [show (s.modMySeat _).mySeat = _ from seat]; exact Seat.goOn_q _ _ _ _
  case pipe => rw [show (s.modMySeat _).mySeat = _ from seat, Seat.goOn_pipe, sched]

/-! ## Putting a part of the running stream back -/

/-- A part of a stream which its going on does not touch. -/
def Untouched (put : Stream → Stream) : Prop :=
  ∀ (a : Stream) (now : Nat), put { a with issued := now + 1, wait := .none, waiting := none } =
    { put a with issued := now + 1, wait := .none, waiting := none }

theorem Seat.turnRrb_modStr (st : Seat) (i j : StreamId) (trip : Bool) (put : Stream → Stream) :
    (st.turnRrb i trip).modStr j put = (st.modStr j put).turnRrb i trip := by
  unfold Seat.turnRrb
  split <;> rfl

theorem Seat.goOn_modStr (st : Seat) (i : StreamId) (now : Nat) (r : Stream × Bool) {put : Stream → Stream} (h : Untouched put) :
    (st.goOn i now r).modStr i put = st.goOn i now (put r.1, r.2) := by
  have stands : ((st.modStr i fun _ => { r.1 with issued := now + 1, wait := .none, waiting := none }).turnRrb i r.2).modStr i put =
      (st.modStr i fun _ => { put r.1 with issued := now + 1, wait := .none, waiting := none }).turnRrb i r.2 := by
    rw [Seat.turnRrb_modStr, Seat.modStr_modStr]
    exact congrArg (fun f => (st.modStr i f).turnRrb i r.2) (funext fun _ => h r.1 now)
  unfold Seat.goOn
  dsimp only
  split
  · exact congrArg (fun a : Seat => { a with c := { a.c with ready := a.c.clock + 1, done := true } }) stands
  · exact stands

/-- `moved_goOn` for an instruction that changes the part of its stream which `put` puts back. -/
theorem movedBut_goOn (s : State) (srcs : List SSpec) (r : Stream × Bool) {put : Stream → Stream} (h : Untouched put)
    (keeps : KeepsStream s.me (put r.1)) (regs : (put r.1).x = s.me.x ∧ (put r.1).p = s.me.p ∧ (put r.1).t = s.me.t) :
    MovedBut put s (s.modMySeat fun st => (st.takeAll s.now srcs).goOn s.turn.stream s.now r) srcs (put r.1) r.2 := by
  have back : (s.modMySeat fun st => (st.takeAll s.now srcs).goOn s.turn.stream s.now r).modMe put =
      s.modMySeat fun st => (st.takeAll s.now srcs).goOn s.turn.stream s.now (put r.1, r.2) :=
    (State.modMySeat_modMySeat s _ _).trans (State.modMySeat_congr s (Seat.goOn_modStr _ _ _ _ h))
  unfold MovedBut
  rw [back]
  exact moved_goOn s srcs (r := (put r.1, r.2)) keeps regs

end Sys2Proof.Machine
end

section
/-! SUPPORT. Comparisons, SEL and the predicate instructions (R103, R110 to R112), and obligation O4. -/
namespace Sys2Proof.Machine

/-! ## Writing a predicate -/

/-- The seat after stream i has written predicate n (R103). -/
def Seat.wrPred (st : Seat) (i : StreamId) (n : Fin 16) (v : Bool) : Seat :=
  if n = 0 then st
  else if i = .C then { st with c := { st.c with pipe := st.c.pipe ++ [⟨st.c.clock + 2, .preg n v⟩] } }
  else st.modStr i fun t => t.wrP n v

theorem State.wrPred_eq (s : State) (n : Fin 16) (v : Bool) : s.wrPred n v = s.modMySeat fun st => st.wrPred s.turn.stream n v := by
  by_cases h : n = 0
  · simp [State.wrPred, Seat.wrPred, h, State.modMySeat_id]
  · by_cases hc : s.turn.stream = .C
    · simp [State.wrPred, Seat.wrPred, h, State.isC, hc, State.pipe]
    · simp [State.wrPred, Seat.wrPred, h, State.isC, hc, State.modMe_eq]

theorem wrP_keeps (a : Stream) (n : Fin 16) (v : Bool) : KeepsStream a (a.wrP n v) := by
  unfold Stream.wrP
  split <;> constructor <;> rfl

theorem wrP_sameSeq (a : Stream) (n : Fin 16) (v : Bool) : SameSeq a (a.wrP n v) := by
  unfold Stream.wrP
  split <;> exact ⟨rfl, rfl, rfl, rfl, rfl⟩

theorem wrP_regs (a : Stream) (n : Fin 16) (v : Bool) : (a.wrP n v).x = a.x ∧ (a.wrP n v).t = a.t := by
  unfold Stream.wrP
  split <;> exact ⟨rfl, rfl⟩

/-- A predicate written is the one read; the others, and p0, read as before (R101). -/
theorem wrP_rdP (a : Stream) (n m : Fin 16) (v : Bool) : (a.wrP n v).rdP m = if m = n ∧ n ≠ 0 then v else a.rdP m := by
  by_cases n0 : n = 0
  · simp [Stream.wrP, n0]
  by_cases m0 : m = 0
  · have : ¬(0 : Fin 16) = n := fun e => n0 e.symm
    simp [Stream.rdP, m0, this]
  have hit : ((1 : BitVec 16) <<< n.val).getLsbD m.val = decide (m = n) := by
    revert n m; decide
  have value : (((if v then (1 : BitVec 16) else 0) <<< n.val)).getLsbD m.val = (decide (m = n) && v) := by
    cases v
    · simp
    · simpa using hit
  simp only [Stream.rdP, Stream.wrP, if_neg n0, if_neg m0, BitVec.getLsbD_or, BitVec.getLsbD_and, BitVec.getLsbD_not, hit, value, m.isLt]
  by_cases e : m = n <;> simp [e, n0]

section
variable (st : Seat) (i : StreamId) (n : Fin 16) (v : Bool)

/-- In C the predicate is written later, from the pipeline (R33). -/
theorem Seat.wrPred_getStr : (st.wrPred i n v).getStr i = if i = .C then st.getStr i else (st.getStr i).wrP n v := by
  unfold Seat.wrPred
  by_cases h : n = 0
  · simp [h, Stream.wrP]
  · by_cases hc : i = .C
    · simp only [if_neg h, if_pos hc]; rfl
    · simp [h, hc]

theorem Seat.wrPred_keeps : KeepsSeat i st (st.wrPred i n v) := by
  unfold Seat.wrPred
  split
  · exact keepsSeat_refl i st
  · split
    · exact keepsSeat_pipe i st _
    · exact keepsSeat_modStr i st _ (wrP_keeps _ _ _)

theorem Seat.wrPred_q : (st.wrPred i n v).q = st.q := by
  unfold Seat.wrPred
  split
  · rfl
  · split <;> rfl

theorem Seat.wrPred_vec : (st.wrPred i n v).vec = st.vec := by
  unfold Seat.wrPred
  split
  · rfl
  · split <;> rfl

theorem Seat.wrPred_pipe : (st.wrPred i n v).c.pipe =
    st.c.pipe ++ (if decide (i = .C) && decide (n ≠ 0) then [⟨st.c.clock + 2, .preg n v⟩] else []) := by
  unfold Seat.wrPred
  by_cases h : n = 0
  · simp [h]
  · by_cases hc : i = .C <;> simp [h, hc]

end

/-- What the sources leave, the predicate and the going on, as one change of the seat. -/
def Seat.predStep (st : Seat) (i : StreamId) (now : Nat) (srcs : List SSpec) (n : Fin 16) (v : Bool) : Seat :=
  let st := (st.takeAll now srcs).wrPred i n v
  st.goOn i now (st.getStr i).advance

theorem State.predStep_eq (s : State) (srcs : List SSpec) (n : Fin 16) (v : Bool) :
    ((srcs.foldl State.take s).wrPred n v).retire = s.modMySeat fun st => st.predStep s.turn.stream s.now srcs n v := by
  rw [State.retire_eq, State.wrPred_eq, State.modMySeat_modMySeat, State.takeAll_modMySeat]
  simp only [State.modMySeat_turn, State.modMySeat_now, State.takeAll_turn, State.takeAll_now]
  rfl

/-- All that an instruction does that writes predicate n. -/
theorem predStep_result (s : State) (srcs : List SSpec) (n : Fin 16) (v : Bool) :
    PredResult s (s.modMySeat fun st => st.predStep s.turn.stream s.now srcs n v) srcs n v := by
  let i := s.turn.stream
  let st0 := s.mySeat.takeAll s.now srcs
  let st := st0.wrPred i n v
  let t := s.modMySeat fun a => a.predStep i s.now srcs n v
  have seat : t.mySeat = st.goOn i s.now (st.getStr i).advance := State.modMySeat_mySeat _ _
  have mine0 : st0.getStr i = s.me := s.takeAll_mine srcs
  have mine : st.getStr i = if i = .C then s.me else s.me.wrP n v := mine0 ▸ Seat.wrPred_getStr st0 i n v
  have vec : st.vec = s.mySeat.vec := (Seat.wrPred_vec _ _ _ _).trans (Seat.takeAll_vec _ _ _)
  have sched : st0.c = s.mySeat.c := Seat.takeAll_c _ _ _
  have keeps : KeepsSeat i s.mySeat st := keepsSeat_trans (Seat.takeAll_keeps _ _ _ _) (Seat.wrPred_keeps _ _ _ _)
  have same : SameSeq s.me (st.getStr i) := by
    rw [mine]
    split
    · exact ⟨rfl, rfl, rfl, rfl, rfl⟩
    · exact wrP_sameSeq _ _ _
  have regs : (st.getStr i).x = s.me.x ∧ (st.getStr i).t = s.me.t := by
    rw [mine]
    split
    · exact ⟨rfl, rfl⟩
    · exact wrP_regs _ _ _
  obtain ⟨hx, hp, ht⟩ := advance_regs (st.getStr i)
  have me : t.me = _ := me_of_goOn (s := s) (t := t) rfl seat
  have isC : s.isC = decide (i = .C) := rfl
  refine ⟨keeps_modMySeat s _ (keepsSeat_trans keeps (keepsSeat_goOn _ _ _ _ (advance_keeps _))),
    wentOn_of_goOn rfl seat (by rw [vec]) same keeps.mine.loopPc, fun m => ?x, ?t, fun m => ?p, queues_takeAll ?q, ?pipe⟩
  case x =>
    show t.me.rdX m = _
    rw [me]; unfold Stream.rdX; dsimp only; rw [hx, regs.1]
  case t =>
    show t.me.t = _
    rw [me]; exact ht.trans regs.2
  case p =>
    have read : t.me.rdP m = (st.getStr i).rdP m := by rw [me]; unfold Stream.rdP; dsimp only; rw [hp]
    refine read.trans ?_
    rw [mine, isC]
    by_cases hc : i = .C
    · simp [hc]
    · simp [hc, wrP_rdP]
  case q =>
    show t.mySeat.q = _
    rw [seat]
    exact (Seat.goOn_q _ _ _ _).trans (Seat.wrPred_q _ _ _ _)
  case pipe =>
    show t.mySeat.c.pipe = _
    rw [seat, isC, ← sched]
    exact (Seat.goOn_pipe _ _ _ _).trans (Seat.wrPred_pipe _ _ _ _)

/-! ## By instruction -/

section
variable {s : State} {n : Fin 16} {a b : SSpec}

theorem exec_cmp (ready : Ready s [a, b] []) (free : s.pFree n = true) (c : Cond) :
    Runs (.cmp n a b c) s fun t => PredResult s t [a, b] n (condHolds c (s.two a b).1 (s.two a b).2) := by
  have runs : exec (.cmp n a b c) s =
      .next ((([a, b].foldl State.take s).wrPred n (condHolds c (s.two a b).1 (s.two a b).2)).retire) := by
    show execCmp n a b c s = _
    simp [execCmp, ready.1, ready.2, free, State.two]
  exact ⟨_, runs, s.predStep_eq _ _ _ ▸ predStep_result _ _ _ _⟩

theorem exec_cmpi (ready : Ready s [a] []) (free : s.pFree n = true) (i : BitVec 11) (c : CondI) :
    Runs (.cmpi n a i c) s fun t => PredResult s t [a] n (condIHolds c (s.peek a) i) := by
  have runs : exec (.cmpi n a i c) s = .next ((([a].foldl State.take s).wrPred n (condIHolds c (s.peek a) i)).retire) := by
    show execCmpi n a i c s = _
    simp [execCmpi, ready.1, ready.2, free]
  exact ⟨_, runs, s.predStep_eq _ _ _ ▸ predStep_result _ _ _ _⟩

theorem exec_sel {d : SSpec} (ready : Ready s [a, b] [d]) (free : s.pFree n = true) :
    Runs (.sel d a b n) s fun t => ScalarResult s t [a, b] d 1 2 (if s.me.rdP n then (s.two a b).1 else (s.two a b).2) := by
  obtain ⟨t, runs, result⟩ := alu2_result s d a b 1 2 (fun x y => if s.me.rdP n then x else y) ready.1 ready.2
  refine ⟨t, Eq.trans ?_ runs, result⟩
  show execSel d a b n s = _
  simp [execSel, free]

theorem predOp_result {d p q : Fin 16} (f : Bool → Bool → Bool) (hd : s.pFree d = true) (hp : s.pFree p = true) (hq : s.pFree q = true) :
    ∃ t, s.predOp d p q f = .next t ∧ PredResult s t [] d (f (s.me.rdP p) (s.me.rdP q)) := by
  have runs : s.predOp d p q f = .next ((([].foldl State.take s).wrPred d (f (s.me.rdP p) (s.me.rdP q))).retire) := by
    simp [State.predOp, hd, hp, hq]
  exact ⟨_, runs, s.predStep_eq _ _ _ ▸ predStep_result _ _ _ _⟩

/-- p0 is always free (R101). -/
theorem State.pFree_zero (s : State) : s.pFree 0 = true := by simp [State.pFree]

end

/-- Settles O4: CMP, CMPI and the predicate instructions write a predicate as `predStep_result` says, SEL is `alu2`. -/
theorem compareSelectAndPredicates : Obligations.CompareSelectAndPredicates := by
  refine ⟨⟨?cmp, ?cmpi, ?sel⟩, ?preds⟩
  case cmp =>
    intro s n a b c ready free x y v
    have value : condHolds c x y = v := by
      cases c
      case eq => exact decide_eq_decide.2 BitVec.toNat_inj.symm
      case ne => exact decide_eq_decide.2 (not_congr BitVec.toNat_inj.symm)
      all_goals rfl
    exact value ▸ exec_cmp ready free c
  case cmpi =>
    intro s n a i c ready free x v
    have signed : (i.signExtend 64).toInt = i.toInt := BitVec.toInt_signExtend_of_le (by decide)
    have natural : (i.setWidth 64).toNat = i.toNat := BitVec.toNat_setWidth_of_le (by decide)
    have value : condIHolds c x i = v := by
      cases c
      case eq => exact decide_eq_decide.2 (signed ▸ BitVec.toInt_inj.symm)
      case ne => exact decide_eq_decide.2 (not_congr (signed ▸ BitVec.toInt_inj.symm))
      case ltn => exact decide_eq_decide.2 (by rw [natural])
      case gen => exact decide_eq_decide.2 (by rw [natural])
      all_goals exact decide_eq_decide.2 (by rw [signed])
    exact value ▸ exec_cmpi ready free i c
  case sel => exact fun s d a b n ready free => exec_sel ready free
  case preds =>
    intro s d p q hd hp
    exact ⟨predOp_result (fun x _ => !x) hd hp s.pFree_zero, fun hq => ⟨predOp_result (fun x y => x && y) hd hp hq,
      predOp_result (fun x y => x || y) hd hp hq, predOp_result (fun x y => x != y) hd hp hq⟩⟩

end Sys2Proof.Machine
end

section
/-! SUPPORT. LOOP, REP, GAP and the end of a trip (R118 to R123), and obligation O6. -/
namespace Sys2Proof.Machine

/-! ## Places in the code -/

/-- What a change of place keeps: a stream's registers, and all that `KeepsStream` names. -/
structure OnlyMoves (a b : Stream) : Prop where
  keeps : KeepsStream a b
  regs  : b.x = a.x ∧ b.p = a.p ∧ b.t = a.t

theorem goSeq_onlyMoves (a : Stream) (p : Word) : OnlyMoves a (a.goSeq p).1 := by
  refine ⟨goSeq_keeps a p, ?_⟩
  unfold Stream.goSeq Stream.tripEnd
  dsimp only
  split
  · split <;> split <;> exact ⟨rfl, rfl, rfl⟩
  · exact ⟨rfl, rfl, rfl⟩

theorem jump_onlyMoves (a : Stream) (p : Word) : OnlyMoves a (a.jump p) := by
  unfold Stream.jump
  split
  · exact ⟨by constructor <;> rfl, rfl, rfl, rfl⟩
  · exact ⟨by constructor <;> rfl, rfl, rfl, rfl⟩

/-- The state after the sources named have been read, gone on in sequence at `p`. -/
theorem moved_retireTo (s : State) (srcs : List SSpec) (p : Word) : let after := ({ s.me with repStage := none } : Stream).goSeq p
    Moved s ((srcs.foldl State.take s).retireTo p) srcs after.1 after.2 := by
  intro after
  have moves : OnlyMoves s.me after.1 := by
    obtain ⟨keeps, regs⟩ := goSeq_onlyMoves { s.me with repStage := none } p
    exact ⟨keepsStream_trans (by constructor <;> rfl) keeps, regs⟩
  have goes : (srcs.foldl State.take s).retireTo p = s.modMySeat fun st => (st.takeAll s.now srcs).goOn s.turn.stream s.now after := by
    unfold State.retireTo
    rw [State.takeAll_modMySeat, State.takeAll_turn, State.takeAll_now]
    exact State.modMySeat_congr s (by rw [State.takeAll_mine])
  rw [goes]
  exact moved_goOn s srcs moves.keeps moves.regs

/-! ## LC (R117) -/

section
variable {stg len iter : Nat} (hs : stg < 8) (hl : len < 2 ^ 11) (hi : iter < 2 ^ 32) (act : Bool)
include hs hl hi

theorem mkLc_toNat : (mkLc stg len iter act).toNat = iter + act.toNat * 2 ^ 33 + len * 2 ^ 34 + stg * 2 ^ 45 := by
  unfold mkLc
  rw [BitVec.toNat_ofNat]
  cases act <;> simp only [Bool.toNat_true, Bool.toNat_false, if_true, Bool.false_eq_true, if_false] <;> omega

theorem mkLc_iter : fld (mkLc stg len iter act) 0 32 = iter := by
  rw [fld, mkLc_toNat hs hl hi, Nat.shiftRight_eq_div_pow]
  cases act <;> simp only [Bool.toNat_true, Bool.toNat_false] <;> omega

theorem mkLc_len : fld (mkLc stg len iter act) 34 11 = len := by
  rw [fld, mkLc_toNat hs hl hi, Nat.shiftRight_eq_div_pow]
  cases act <;> simp only [Bool.toNat_true, Bool.toNat_false] <;> omega

theorem mkLc_stg : fld (mkLc stg len iter act) 45 3 = stg := by
  rw [fld, mkLc_toNat hs hl hi, Nat.shiftRight_eq_div_pow]
  cases act <;> simp only [Bool.toNat_true, Bool.toNat_false] <;> omega

theorem mkLc_act : bit (mkLc stg len iter act) 33 = act := by
  refine bit_of_digit ?_
  rw [mkLc_toNat hs hl hi]
  cases act <;> simp only [Bool.toNat_true, Bool.toNat_false] <;> omega

end

theorem fld_lt {n : Nat} (w : BitVec n) (lo len : Nat) : fld w lo len < 2 ^ len := Nat.mod_lt _ (Nat.two_pow_pos len)

/-! ## The end of a trip (R119) -/

/-- The stage predicates after a trip's end: each moves up by one, the lowest tells that another trip begins. -/
def Stream.nextPs (a : Stream) : BitVec 8 :=
  ((a.ps <<< 1) &&& BitVec.ofNat 8 (2 ^ (a.lcStg + 1) - 1)) ||| (if 0 < a.lcIter then 1 else 0)

theorem Stream.nextPs_getLsbD (a : Stream) {k : Nat} (hk : k < 8) : a.nextPs.getLsbD k =
    if k = 0 then decide (0 < a.lcIter) else decide (k ≤ a.lcStg) && a.ps.getLsbD (k - 1) := by
  have begins : ((if 0 < a.lcIter then 1 else 0) : BitVec 8).getLsbD k = (decide (k = 0) && decide (0 < a.lcIter)) := by
    split
    · next h => simp [h, hk]
    · next h => simp [h]
  unfold Stream.nextPs
  rw [BitVec.getLsbD_or, BitVec.getLsbD_and, BitVec.getLsbD_shiftLeft, BitVec.getLsbD_ofNat, Nat.testBit_two_pow_sub_one, begins]
  by_cases h0 : k = 0
  · simp [h0]
  · have : ¬k < 1 := by omega
    simp [h0, hk, this, Bool.and_comm]

/-- No stage is on any more: the LOOP ends behind its body. -/
theorem Stream.tripEnd_last {a : Stream} (h : a.nextPs = 0) :
    a.tripEnd = { a with ps := 0, lc := mkLc a.lcStg a.lcLen (a.lcIter - 1) false, pc := a.bodyEnd } := if_pos h

theorem Stream.tripEnd_next {a : Stream} (h : a.nextPs ≠ 0) :
    a.tripEnd = { a with ps := a.nextPs, lc := mkLc a.lcStg a.lcLen (a.lcIter - 1) true, pc := a.loopPc } := if_neg h

/-- The end of a trip, by the fields of LC. -/
theorem Stream.tripEnd_fields (a : Stream) : let b := a.tripEnd
    b.ps = a.nextPs ∧ b.lcIter = a.lcIter - 1 ∧ b.lcStg = a.lcStg ∧ b.lcLen = a.lcLen ∧
      if b.ps = 0 then b.act = false ∧ b.pc = a.bodyEnd else b.act = true ∧ b.pc = a.loopPc := by
  have hs : a.lcStg < 8 := fld_lt a.lc 45 3
  have hl : a.lcLen < 2 ^ 11 := fld_lt a.lc 34 11
  have hi : a.lcIter - 1 < 2 ^ 32 := Nat.lt_of_le_of_lt (Nat.sub_le _ _) (fld_lt a.lc 0 32)
  have iter act := mkLc_iter hs hl hi act
  have stg act := mkLc_stg hs hl hi act
  have len act := mkLc_len hs hl hi act
  have active act := mkLc_act hs hl hi act
  by_cases h : a.nextPs = 0
  · rw [Stream.tripEnd_last h]
    exact ⟨h.symm, iter false, stg false, len false, (if_pos rfl).symm ▸ ⟨active false, rfl⟩⟩
  · rw [Stream.tripEnd_next h]
    exact ⟨rfl, iter true, stg true, len true, (if_neg h).symm ▸ ⟨active true, rfl⟩⟩

/-- A taken transfer out of a body abandons its LOOP (R121). -/
theorem Stream.jump_active {a : Stream} (h : a.act = true) (p : Word) :
    (a.jump p).pc = p ∧ (a.jump p).act = false ∧ (a.jump p).lcIter = 0 ∧ (a.jump p).ps = 0 := by
  have hs : a.lcStg < 8 := fld_lt a.lc 45 3
  have hl : a.lcLen < 2 ^ 11 := fld_lt a.lc 34 11
  unfold Stream.jump
  rw [if_pos h]
  exact ⟨rfl, mkLc_act hs hl (by decide) false, mkLc_iter hs hl (by decide) false, rfl⟩

/-! ## LOOP (R118, R119) -/

/-- A stream that has entered the body of a LOOP of `c` trips. -/
def Stream.enterLoop (a : Stream) (body : Word) (stg : Fin 8) (len c : Nat) (stages : List (Fin 8)) : Stream :=
  { a with lc := mkLc stg.val len (c - 1) true, loopPc := body, ps := 1, pc := body, stages := stages, repStage := none }

/-- The first body instruction of a LOOP: behind its stage table (R74). -/
def Stream.loopBody (a : Stream) (stg : Fin 8) (len : Nat) : Word :=
  a.pc + BitVec.ofNat 64 (4 + 4 * (if stg = 0 then 0 else (len + 9) / 10))

section
variable (s : State) (srcs : List SSpec) (stg : Fin 8) (len : Nat) (stages : List (Fin 8))

theorem loopWith_skips {count : Int} (h : count ≤ 0) :
    (srcs.foldl State.take s).loopWith stg len stages count =
      .next ((srcs.foldl State.take s).retireTo (s.me.loopBody stg len + BitVec.ofNat 64 (4 * len))) := by
  unfold State.loopWith
  rw [State.takeAll_me]
  exact if_pos h

theorem loopWith_enters {count : Int} (h : 0 < count) :
    (srcs.foldl State.take s).loopWith stg len stages count = .next (s.modMySeat fun st =>
      (st.takeAll s.now srcs).goOn s.turn.stream s.now
        (s.me.enterLoop (s.me.loopBody stg len) stg len (min count.toNat (2 ^ 32 - 1)) stages, false)) := by
  unfold State.loopWith
  rw [State.takeAll_me, State.takeAll_turn, State.takeAll_now]
  refine (if_neg (not_le.2 h)).trans (congrArg Host.Outcome.next ?_)
  rw [State.takeAll_modMySeat]
  exact State.modMySeat_congr s (by rw [State.takeAll_mine]; rfl)

end

/-- A LOOP of `c` trips has entered its body (R119). -/
def LoopEntered (s t : State) (srcs : List SSpec) (stg : Fin 8) (len : Nat) (stages : List (Fin 8)) (c : Nat) : Prop :=
  t.me.act = true ∧ t.me.lcStg = stg.val ∧ t.me.lcLen = len ∧ t.me.lcIter = c - 1 ∧ t.me.loopPc = s.me.loopBody stg len ∧
    t.me.stages = stages ∧
    MovedBut (fun a => { a with loopPc := s.me.loopPc, stages := s.me.stages }) s t srcs
      { s.me with pc := s.me.loopBody stg len, lc := t.me.lc, ps := 1, repStage := none } false

theorem loopEntered_goOn (s : State) (srcs : List SSpec) (stg : Fin 8) {len c : Nat} (stages : List (Fin 8)) (hl : len < 2 ^ 11)
    (hc : c < 2 ^ 32) :
    LoopEntered s (s.modMySeat fun st => (st.takeAll s.now srcs).goOn s.turn.stream s.now
      (s.me.enterLoop (s.me.loopBody stg len) stg len c stages, false)) srcs stg len stages c := by
  let r : Stream × Bool := (s.me.enterLoop (s.me.loopBody stg len) stg len c stages, false)
  let t := s.modMySeat fun st => (st.takeAll s.now srcs).goOn s.turn.stream s.now r
  have me : t.me = { r.1 with issued := s.now + 1, wait := .none, waiting := none } :=
    me_of_goOn (s := s) (t := t) rfl (State.modMySeat_mySeat _ _)
  have lc : t.me.lc = mkLc stg.val len (c - 1) true := by rw [me]; rfl
  have hi : c - 1 < 2 ^ 32 := by omega
  have moved : MovedBut (fun a => { a with loopPc := s.me.loopPc, stages := s.me.stages }) s t srcs
      { s.me with pc := s.me.loopBody stg len, lc := mkLc stg.val len (c - 1) true, ps := 1, repStage := none } false :=
    movedBut_goOn s srcs r (fun _ _ => rfl) (by constructor <;> rfl) ⟨rfl, rfl, rfl⟩
  refine ⟨?act, ?stg, ?len, ?iter, by rw [me]; rfl, by rw [me]; rfl, lc ▸ moved⟩
  case act => exact (congrArg (bit · 33) lc).trans (mkLc_act stg.isLt hl hi true)
  case stg => exact (congrArg (fld · 45 3) lc).trans (mkLc_stg stg.isLt hl hi true)
  case len => exact (congrArg (fld · 34 11) lc).trans (mkLc_len stg.isLt hl hi true)
  case iter => exact (congrArg (fld · 0 32) lc).trans (mkLc_iter stg.isLt hl hi true)

theorem exec_loopImm {s : State} {b : BitVec 6} {stg : Fin 8} {stages : List (Fin 8)} (checked : s.loopChecked stg b.toNat = .ok stages)
    (c : BitVec 16) : exec (.loopImm b c stg) s = s.loopWith stg b.toNat stages c.toNat := by
  show execLoopImm b c stg s = _
  rw [execLoopImm, checked]

theorem exec_loopReg {s : State} {a : SSpec} {b : BitVec 11} {stg : Fin 8} {stages : List (Fin 8)} (ready : Ready s [a] [])
    (checked : s.loopChecked stg b.toNat = .ok stages) :
    exec (.loopReg stg a b) s = (s.take a).loopWith stg b.toNat stages (s.peek a).toInt := by
  show execLoopReg stg a b s = _
  rw [execLoopReg, ready.1, checked, ready.2]
  rfl

/-! ## REP (R122) -/

/-- A stream that has begun to repeat the instruction behind its REP `n` times. -/
def Stream.beginRep (a : Stream) (n : Nat) : Stream :=
  { a with pc := a.pc + 4, repLeft := BitVec.ofNat 32 n, repStage := if a.act then some a.stageNow else none }

section
variable (s : State) (srcs : List SSpec)

theorem repWith_skips : let after := ({ s.me with repStage := none } : Stream).goSeq (s.me.pc + 8)
    ∃ t, (srcs.foldl State.take s).repWith 0 = .next t ∧ Moved s t srcs after.1 after.2 := by
  refine ⟨_, ?_, moved_retireTo s srcs (s.me.pc + 8)⟩
  unfold State.repWith
  rw [if_pos rfl, State.takeAll_me]

theorem repWith_begins {n : Nat} (h : n ≠ 0) :
    ∃ t, (srcs.foldl State.take s).repWith n = .next t ∧ Moved s t srcs (s.me.beginRep n) false := by
  refine ⟨_, ?_, moved_goOn s srcs (r := (s.me.beginRep n, false)) (by constructor <;> rfl) ⟨rfl, rfl, rfl⟩⟩
  unfold State.repWith
  refine (if_neg h).trans (congrArg Host.Outcome.next ?_)
  rw [State.takeAll_modMySeat, State.takeAll_turn, State.takeAll_now]
  exact State.modMySeat_congr s (by rw [State.takeAll_mine]; rfl)

end

theorem exec_repImm {s : State} (checked : s.repChecked = .ok ()) (n : BitVec 16) : exec (.repImm n) s = s.repWith n.toNat := by
  show execRepImm n s = _
  rw [execRepImm, checked]

theorem exec_repReg {s : State} {a : SSpec} (ready : Ready s [a] []) (checked : s.repChecked = .ok ()) :
    exec (.repReg a) s = (s.take a).repWith (min (s.peek a).toInt.toNat (2 ^ 32 - 1)) := by
  show execRepReg a s = _
  rw [execRepReg, ready.1, checked, ready.2]
  rfl

/-! ## GAP (R123) -/

/-- A seat whose C issues next `k` schedule cycles from now. -/
def Seat.nextIssue (st : Seat) (k : Nat) : Seat := { st with c := { st.c with ready := st.c.clock + k } }

/-- Setting the time of C's next issue changes nothing else that going on has settled. -/
theorem moved_nextIssue (s : State) (k : Nat) :
    Moved s (s.retire.modMySeat fun st => st.nextIssue k) [] s.me.advance.1 s.me.advance.2 := by
  obtain ⟨-, went, regs, queues, pipe⟩ := moved_retire s
  let t := s.retire.modMySeat fun st => st.nextIssue k
  have seat : t.mySeat = s.retire.mySeat.nextIssue k := State.modMySeat_mySeat _ _
  have me : t.me = s.retire.me := by show t.mySeat.getStr _ = _; rw [seat]; rfl
  have whole : t = s.modMySeat fun st => (st.goOn s.turn.stream s.now (st.getStr s.turn.stream).advance).nextIssue k :=
    State.modMySeat_modMySeat s _ _
  have keeps : Keeps s t := by
    rw [whole]
    exact keeps_modMySeat s _ (keepsSeat_trans (keepsSeat_goOn _ _ s.now _ (advance_keeps _)) (keepsSeat_c _ _ _ _))
  refine ⟨keeps, ?went, ?regs, fun n => ?queues, ?pipe⟩
  case went => show Went s t _ _; unfold Went at went ⊢; rwa [me, seat]
  case regs => show SameRegs s t; unfold SameRegs at regs ⊢; rwa [me]
  case queues =>
    show if _ then Enqueued _ t.mySeat.q[n].items _ else t.mySeat.q[n].items = _
    rw [seat]
    exact queues n
  case pipe => show t.mySeat.c.pipe = _; rw [seat]; exact pipe

theorem exec_gap (s : State) (y : Fin 32) (k : BitVec 16) : exec (.gap y k) s =
    .next (s.retire.modMySeat fun st => st.nextIssue (max ((s.mySeat.lex[y].b.toNat : Int) + k.toInt).toNat 1)) := rfl

/-- Settles O6: a LOOP or REP with a count skips or enters its body, and the end of a trip is read off LC. -/
theorem loopsRepeatsAndTheirTrips : Obligations.LoopsRepeatsAndTheirTrips := by
  refine ⟨⟨fun s sv len stages checked _ hl => ⟨?imm, ?reg⟩, fun s checked => ⟨?repImm, ?repReg⟩, ?gap⟩, ?trip⟩
  case imm =>
    intro b hb c
    subst hb
    by_cases hc : c = 0
    · refine ⟨_, (exec_loopImm checked c).trans (loopWith_skips s [] sv _ stages (by simp [hc])), ?_⟩
      exact (if_pos hc).mpr (moved_retireTo s [] _)
    · have pos : 0 < c.toNat := Nat.pos_of_ne_zero fun e => hc (BitVec.eq_of_toNat_eq e)
      have count : min (c.toNat : Int).toNat (2 ^ 32 - 1) = c.toNat := by have := c.isLt; omega
      have enters := loopWith_enters s [] sv b.toNat stages (count := c.toNat) (by exact_mod_cast pos)
      rw [count] at enters
      exact ⟨_, (exec_loopImm checked c).trans enters, (if_neg hc).mpr (loopEntered_goOn s [] sv stages hl (by have := c.isLt; omega))⟩
  case reg =>
    intro b hb a ready
    subst hb
    by_cases hc : (s.peek a).toInt ≤ 0
    · refine ⟨_, (exec_loopReg ready checked).trans (loopWith_skips s [a] sv _ stages hc), ?_⟩
      exact (if_pos hc).mpr (moved_retireTo s [a] _)
    · refine ⟨_, (exec_loopReg ready checked).trans (loopWith_enters s [a] sv _ stages (not_le.1 hc)), ?_⟩
      exact (if_neg hc).mpr (loopEntered_goOn s [a] sv stages hl (by omega))
  case repImm =>
    intro n
    by_cases hn : n = 0
    · obtain ⟨t, runs, moved⟩ := repWith_skips s []
      subst hn
      exact ⟨t, (exec_repImm checked 0).trans runs, moved⟩
    · obtain ⟨t, runs, moved⟩ := repWith_begins s [] (n := n.toNat) fun e => hn (BitVec.eq_of_toNat_eq e)
      exact ⟨t, (exec_repImm checked n).trans runs, (if_neg hn).mpr moved⟩
  case repReg =>
    intro a ready
    by_cases hn : (s.peek a).toInt ≤ 0
    · obtain ⟨t, runs, moved⟩ := repWith_skips s [a]
      have none : min (s.peek a).toInt.toNat (2 ^ 32 - 1) = 0 := by omega
      exact ⟨t, (exec_repReg ready checked).trans (none ▸ runs), (if_pos hn).mpr moved⟩
    · obtain ⟨t, runs, moved⟩ := repWith_begins s [a] (n := min (s.peek a).toInt.toNat (2 ^ 32 - 1)) (by omega)
      exact ⟨t, (exec_repReg ready checked).trans runs, (if_neg hn).mpr moved⟩
  case gap =>
    intro s y k
    refine ⟨_, exec_gap s y k, moved_nextIssue s _, ?_⟩
    have clock : s.retire.mySeat.c.clock = s.mySeat.c.clock := by rw [← (moved_retire s).1.seat.pipe]
    rw [State.modMySeat_mySeat]
    show ((s.retire.mySeat.c.clock + _ : Nat) : Int) = _
    rw [clock]
    omega
  case trip =>
    intro a active _ b
    obtain ⟨ps, iter, stg, len, ends⟩ := a.tripEnd_fields
    exact ⟨fun k hk => ps ▸ a.nextPs_getLsbD hk, iter, stg, len, ends, Stream.jump_active active⟩

end Sys2Proof.Machine
end

section
/-! SUPPORT. DIV and REM, the release of the divider (R106), and obligation O3. -/
namespace Sys2Proof.Machine

/-! ## The values of a division -/

section
variable (x y : Word)

/-- The cases that R106 names: a zero divisor, and the overflow. -/
def divSpecial : Bool := decide (y.toInt = 0) || (decide (x.toInt = -2 ^ 63) && decide (y.toInt = -1))

theorem toInt_eq_zero_iff : y.toInt = 0 ↔ y = 0 := by
  rw [← BitVec.toInt_inj]
  rfl

theorem toInt_eq_neg_one_iff : y.toInt = -1 ↔ y = BitVec.allOnes 64 := by
  rw [← BitVec.toInt_inj]
  exact Iff.of_eq (congrArg (y.toInt = ·) (by decide))

theorem toInt_eq_min_iff : x.toInt = -2 ^ 63 ↔ x = 0x8000000000000000#64 := by
  rw [← BitVec.toInt_inj]
  exact Iff.of_eq (congrArg (x.toInt = ·) (by decide))

theorem divSpecial_eq : divSpecial x y = (decide (y = 0) || (decide (x = 0x8000000000000000#64) && decide (y = BitVec.allOnes 64))) := by
  unfold divSpecial
  simp only [toInt_eq_zero_iff, toInt_eq_min_iff, toInt_eq_neg_one_iff]

/-- Quotient and remainder as integers, in the three cases of R106. -/
theorem divRem_eq : divRem x y =
    (BitVec.ofInt 64 (if y.toInt = 0 then -1 else if divSpecial x y then -2 ^ 63 else x.toInt.tdiv y.toInt),
     BitVec.ofInt 64 (if y.toInt = 0 then x.toInt else if divSpecial x y then 0 else x.toInt - x.toInt.tdiv y.toInt * y.toInt)) := by
  rw [divSpecial_eq]
  unfold divRem
  simp only [toInt_eq_zero_iff]
  by_cases h0 : y = 0
  · simp only [h0, if_true, BitVec.ofInt_toInt]
    rfl
  by_cases h1 : x = 0x8000000000000000#64 ∧ y = BitVec.allOnes 64
  · obtain ⟨rfl, rfl⟩ := h1
    decide
  · have usual : (decide (x = 0x8000000000000000#64) && decide (y = BitVec.allOnes 64)) = false := by simpa using h1
    simp only [h0, usual, decide_false, Bool.false_or, if_false, Bool.false_eq_true]
    rw [Int.tmod_def, Int.mul_comm]

theorem natAbs_toInt_lt : x.toInt.natAbs < 2 ^ 64 := by
  have := x.toInt_lt
  have := x.le_toInt
  omega

theorem divCycles_eq : divCycles x y = if divSpecial x y then 18 else
    18 + ((max 0 ((Nat.size x.toInt.natAbs : Int) - Nat.size y.toInt.natAbs + 1) + 3) / 4).toNat := by
  rw [divSpecial_eq]
  unfold divCycles
  rw [bitLen_eq_size 64 _ (natAbs_toInt_lt x), bitLen_eq_size 64 _ (natAbs_toInt_lt y)]
  split
  · rfl
  · omega

end

/-! ## DIV and REM -/

theorem Moved.of_same {s t : State} {srcs : List SSpec} {a b : Stream} {trip : Bool} (h : Moved s t srcs b trip) (same : SameSeq a b) :
    Moved s t srcs a trip := by
  obtain ⟨keeps, went, rest⟩ := h
  exact ⟨keeps, went.of_same same, rest⟩

/-- Where a stream goes on is all that is left of it in its seat. -/
theorem Seat.modStr_goOn (st : Seat) (i : StreamId) (now : Nat) (r : Stream × Bool) (f : Stream → Stream) :
    (st.modStr i f).goOn i now r = st.goOn i now r := by
  have gone : (st.modStr i f).modStr i (fun _ => { r.1 with issued := now + 1, wait := .none, waiting := none }) =
      st.modStr i fun _ => { r.1 with issued := now + 1, wait := .none, waiting := none } := Seat.modStr_modStr _ _ _ _
  unfold Seat.goOn
  dsimp only
  rw [gone]

/-- An instruction that occupies the divider with `o` reads its sources and goes on. -/
theorem divider_occupied (s : State) (srcs : List SSpec) (o : DivOp) (free : s.me.div = none) :
    let t := ((srcs.foldl State.take s).modMe fun t => { t with div := some o }).retire
    t.me.div = some o ∧ MovedBut (fun a => { a with div := none }) s t srcs s.me.advance.1 s.me.advance.2 := by
  let busy : Stream := { s.me with div := some o }
  let t := s.modMySeat fun st => (st.takeAll s.now srcs).goOn s.turn.stream s.now busy.advance
  have whole : ((srcs.foldl State.take s).modMe fun t => { t with div := some o }).retire = t := by
    rw [State.retire_eq, State.modMe_eq, State.modMySeat_modMySeat, State.takeAll_modMySeat]
    refine State.modMySeat_congr s ?_
    rw [State.modMySeat_turn, State.modMySeat_now, State.takeAll_turn, State.takeAll_now, Seat.modStr_goOn, Seat.modStr_getStr,
      State.takeAll_mine]
  have me : t.me = { busy.advance.1 with issued := s.now + 1, wait := .none, waiting := none } :=
    me_of_goOn (s := s) (t := t) rfl (State.modMySeat_mySeat _ _)
  have keeps : KeepsStream busy busy.advance.1 := advance_keeps busy
  obtain ⟨seq, trip⟩ := advance_of_same (a := s.me) (b := busy) ⟨rfl, rfl, rfl, rfl, rfl⟩ rfl
  have moved : MovedBut (fun a => { a with div := none }) s t srcs { busy.advance.1 with div := none } busy.advance.2 :=
    movedBut_goOn s srcs busy.advance (fun _ _ => rfl) { keeps with div := free.symm } (advance_regs busy)
  rw [whole]
  refine ⟨by rw [me]; exact keeps.div, ?_⟩
  rw [trip] at moved
  exact Moved.of_same moved seq

theorem divide_result {s : State} {d a b : SSpec} (ready : Ready s [a, b] [d]) (free : s.me.div = none) (rem : Bool) :
    let x := (s.two a b).1
    let y := (s.two a b).2
    ∃ t, s.divide d a b rem = .next t ∧
      t.me.div = some ⟨d, if rem then (divRem x y).2 else (divRem x y).1, s.now + divCycles x y, false⟩ ∧
      MovedBut (fun a => { a with div := none }) s t [a, b] s.me.advance.1 s.me.advance.2 := by
  intro x y
  refine ⟨_, ?_, divider_occupied s [a, b] ⟨d, if rem then (divRem x y).2 else (divRem x y).1, s.now + divCycles x y, false⟩ free⟩
  simp [State.divide, ready.1, ready.2, free, x, y, State.two]

/-! ## DIVIDER_RELEASE -/

/-- The seat after the divider of stream i has been released with operation `o` in live core cycle `now`. -/
def Seat.release (st : Seat) (i : StreamId) (now : Nat) (o : DivOp) : Seat :=
  let st := st.modStr i fun t => { t with div := none }
  match o.dest with
  | .x n => st.modStr i fun t => t.wrX n o.res
  | .q n => st.modQ n fun f => f.push (o.res.setWidth 2048) now

section
variable (st : Seat) (i : StreamId) (now : Nat) {o : DivOp}

theorem Seat.release_x {n : Fin 32} (dest : o.dest = .x n) :
    st.release i now o = st.modStr i fun t => ({ t with div := none } : Stream).wrX n o.res := by
  unfold Seat.release
  rw [dest]
  exact Seat.modStr_modStr _ _ _ _

theorem Seat.release_q {n : Fin 16} (dest : o.dest = .q n) :
    st.release i now o = (st.modStr i fun t => { t with div := none }).modQ n fun f => f.push (o.res.setWidth 2048) now := by
  unfold Seat.release
  rw [dest]

/-- The stream is left with a free divider and, when its result goes to an x register, with that register. -/
theorem Seat.release_getStr : (st.release i now o).getStr i =
    { st.getStr i with div := none, x := match o.dest with | .x n => ((st.getStr i).wrX n o.res).x | .q _ => (st.getStr i).x } := by
  cases dest : o.dest with
  | x n =>
    rw [Seat.release_x st i now dest, Seat.modStr_getStr]
    unfold Stream.wrX
    dsimp only
    split <;> rfl
  | q n => rw [Seat.release_q st i now dest, Seat.modQ_getStr, Seat.modStr_getStr]

theorem Seat.release_others {j : StreamId} (h : j ≠ i) : (st.release i now o).getStr j = st.getStr j := by
  cases dest : o.dest with
  | x n => rw [Seat.release_x st i now dest, Seat.modStr_getStr_ne _ _ h]
  | q n => rw [Seat.release_q st i now dest, Seat.modQ_getStr, Seat.modStr_getStr_ne _ _ h]

theorem Seat.release_rest : { st.release i now o with str := st.str, q := st.q } = st := by
  cases dest : o.dest with
  | x n => rw [Seat.release_x st i now dest]; rfl
  | q n => rw [Seat.release_q st i now dest]; rfl

theorem Seat.release_rdX (n : Fin 32) :
    ((st.release i now o).getStr i).rdX n = if n ≠ 0 ∧ o.dest = .x n then o.res else (st.getStr i).rdX n := by
  rw [Seat.release_getStr]
  cases dest : o.dest with
  | x m =>
    show ((st.getStr i).wrX m o.res).rdX n = _
    by_cases m0 : m = 0
    · have other : ¬(n ≠ 0 ∧ SSpec.x m = .x n) := fun ⟨n0, e⟩ => n0 ((SSpec.x.inj e).symm.trans m0)
      rw [if_neg other]
      simp [Stream.wrX, m0]
    · have target : n = m ↔ n ≠ 0 ∧ SSpec.x m = .x n := ⟨fun e => ⟨e ▸ m0, by rw [e]⟩, fun ⟨_, e⟩ => (SSpec.x.inj e).symm⟩
      rw [wrX_rdX _ _ _ _ m0]
      simp only [target]
  | q m => simp; rfl

theorem Seat.release_items (n : Fin 16) :
    if o.dest = .q n then Enqueued st.q[n].items (st.release i now o).q[n].items ⟨o.res.setWidth 2048, now⟩
    else (st.release i now o).q[n].items = st.q[n].items := by
  cases dest : o.dest with
  | x m => rw [Seat.release_x st i now dest]; simp
  | q m =>
    rw [Seat.release_q st i now dest]
    by_cases h : m = n
    · subst h
      rw [if_pos rfl]
      simpa [Seat.modQ, Fifo.push] using insItem_enqueued ⟨o.res.setWidth 2048, now⟩ st.q[m].items
    · rw [if_neg fun e => h (SSpec.q.inj e)]
      exact congrArg Fifo.items (vmod_ne st.q _ fun e => h e.symm)

end

section
variable {s : State} {w : Who} {o : DivOp} (busy : (s.getStr w).div = some o)
include busy

theorem exec_dividerRelease_holds (holds : s.coreHeld w.ref.core = true ∨ s.core[w.ref.core].live < o.due) :
    exec (.dividerRelease w) s = .next s := by
  show execDividerRelease w s = _
  unfold execDividerRelease
  rw [busy]
  exact if_pos (by simpa using holds)

theorem exec_dividerRelease (passed : ¬(s.coreHeld w.ref.core = true ∨ s.core[w.ref.core].live < o.due)) :
    exec (.dividerRelease w) s =
      .next ((s.modSeat w.ref fun st => st.release w.stream s.core[w.ref.core].live o).fullHazard w
        (o.full && decide (∃ n, o.dest = .q n))) := by
  let u : State := { s with turn := w }
  have now : (u.modMe fun t => { t with div := none }).now = s.core[w.ref.core].live := State.modMySeat_now u _
  show execDividerRelease w s = _
  unfold execDividerRelease
  rw [busy]
  refine (if_neg (by simpa using passed)).trans ?_
  cases dest : o.dest with
  | x n =>
    have released : (s.modSeat w.ref fun st => st.release w.stream s.core[w.ref.core].live o) =
        { (u.modMe fun t => { t with div := none }).modMe (fun t => t.wrX n o.res) with turn := s.turn } := by
      rw [State.modMe_modMe]
      exact congrArg (s.modSeat w.ref) (funext fun st => st.release_x w.stream _ dest)
    have toX : decide (∃ m, SSpec.x n = .q m) = false := by simp
    rw [released, toX, Bool.and_false]
    rfl
  | q n =>
    have released : (s.modSeat w.ref fun st => st.release w.stream s.core[w.ref.core].live o) =
        { (u.modMe fun t => { t with div := none }).modMySeat (fun st => st.modQ n fun f =>
          f.push (o.res.setWidth 2048) (u.modMe fun t => { t with div := none }).now) with turn := s.turn } := by
      rw [now, State.modMe_eq, State.modMySeat_modMySeat]
      exact congrArg (s.modSeat w.ref) (funext fun st => st.release_q w.stream _ dest)
    have toQ : decide (∃ m, SSpec.q n = .q m) = true := by simp
    rw [released, toQ, Bool.and_true]

end

/-- Settles O3: a division is `divider_occupied` with the values of `divRem_eq` and `divCycles_eq`, its release changes one seat. -/
theorem divisionAndItsDivider : Obligations.DivisionAndItsDivider := by
  refine ⟨?divide, ?release⟩
  case divide =>
    intro s d a b ready free A B special q m nq held back
    have value := divRem_eq (s.two a b).1 (s.two a b).2
    have cycles : divCycles (s.two a b).1 (s.two a b).2 = held := divCycles_eq _ _
    refine ⟨?div, ?rem⟩
    case div =>
      obtain ⟨t, runs, div, moved⟩ := divide_result ready free false
      rw [value, cycles] at div
      exact ⟨t, runs, div, moved⟩
    case rem =>
      obtain ⟨t, runs, div, moved⟩ := divide_result ready free true
      rw [value, cycles] at div
      exact ⟨t, runs, div, moved⟩
  case release =>
    intro s w o busy
    split
    · next holds => exact exec_dividerRelease_holds busy holds
    · next passed =>
      let t := s.modSeat w.ref fun st => st.release w.stream s.core[w.ref.core].live o
      have seat : t.getSeat w.ref = (s.getSeat w.ref).release w.stream s.core[w.ref.core].live o := State.modSeat_getSeat _ _ _
      have mine : t.getStr w = ((s.getSeat w.ref).release w.stream s.core[w.ref.core].live o).getStr w.stream := by
        show (t.getSeat w.ref).getStr _ = _
        rw [seat]
      refine ⟨_, exec_dividerRelease busy passed, t, rfl, onlySeat_modSeat _ _ _, fun _ => rfl, ?div, ?str, ?others, ?rest, ?x, ?items⟩
      case div => rw [mine, Seat.release_getStr]
      case str => rw [mine, Seat.release_getStr]; rfl
      case others => intro j h; rw [seat]; exact Seat.release_others _ _ _ h
      case rest => rw [seat]; exact Seat.release_rest _ _ _
      case x => intro n; rw [mine]; exact Seat.release_rdX _ _ _ n
      case items => intro n; rw [seat]; exact Seat.release_items _ _ _ n

end Sys2Proof.Machine
end

section
/-! SUPPORT. Branches, calls and HALT (R113 to R115), the fill that a prepared target starts (R78, R79), and obligation O5. -/
namespace Sys2Proof.Machine

/-! ## Starting a fill -/

/-- What starting the fill of the packet at `a` does: it is on its way for the running seat, and beside the fetch agent and the errors met in
the stacks nothing has changed (R78, R79). -/
structure Fills (s u : State) (a : Word) : Prop where
  rest   : { u with die := s.die, stack := s.stack, seq := s.seq } = s
  errors : SameStacks s u
  dies   : ∀ k, k ≠ coreDie s.turn.ref.core → u.die[k] = s.die[k]
  die    : { u.die[coreDie s.turn.ref.core] with
               fills := s.die[coreDie s.turn.ref.core].fills, ftlb := s.die[coreDie s.turn.ref.core].ftlb,
               icache := s.die[coreDie s.turn.ref.core].icache } = s.die[coreDie s.turn.ref.core]
  kept   : ∃ l, u.die[coreDie s.turn.ref.core].fills = s.die[coreDie s.turn.ref.core].fills ++ l
  begun  : ∃ f ∈ u.die[coreDie s.turn.ref.core].fills, f.pkt.addr = packetOf a ∧ f.root = s.mySeat.sys.xlatRoot ∧ f.q = s.mySeat.inst.q ∧
             f.task = s.mySeat.inst.task ∧ f.sys = s.turn.ref.isSys

/-- A packet that is read is the packet asked for, whatever it holds. -/
theorem State.readPacket_addr (s : State) (d : Fin 8) (root : Word) (isY : Bool) (a : Word) : (s.readPacket d root isY a).1.addr = a := by
  unfold State.readPacket
  dsimp only
  split
  · rfl
  · split
    · split <;> rfl
    all_goals rfl

/-- A fill that a die's fetch agent takes on, once its reads have been noted. -/
theorem fills_of_notes {s n : State} (notes : OnlyNotes s n) {a : Word} {f : Fill} (addr : f.pkt.addr = packetOf a)
    (root : f.root = s.mySeat.sys.xlatRoot) (q : f.q = s.mySeat.inst.q) (task : f.task = s.mySeat.inst.task) (sys : f.sys = s.turn.ref.isSys)
    (ftlb : Tlb) (icache : List Nat) (k : Nat) :
    let d := coreDie s.turn.ref.core
    Fills s { n with seq := k, die := n.die.set d { n.die[d] with ftlb := ftlb, fills := n.die[d].fills ++ [f], icache := icache } } a := by
  intro d
  have die : n.die = s.die := by rw [notes.rest]
  refine ⟨?rest, notes.errors, fun k h => ?dies, ?die, ⟨[f], ?kept⟩, f, ?begun, addr, root, q, task, sys⟩
  case rest =>
    show ({ n with die := s.die, stack := s.stack, seq := s.seq } : State) = s
    rw [notes.rest]
  case dies =>
    have other : d.val ≠ k.val := fun e => h (Fin.ext e.symm)
    simp [die, other]
  case die => simp [die, d]
  case kept => simp [die, d]
  case begun => simp [d]

theorem fills_startFill (s : State) (a : Word) : Fills s (s.startFill s.turn.ref a) a := by
  unfold State.startFill
  dsimp only
  split
  · next h =>
    obtain ⟨f, mem, hf⟩ := List.any_eq_true.1 h
    simp only [Bool.and_eq_true, decide_eq_true_eq] at hf
    obtain ⟨⟨⟨⟨addr, q⟩, task⟩, root⟩, sys⟩ := hf
    exact ⟨rfl, fun _ => rfl, fun _ _ => rfl, rfl, ⟨[], (List.append_nil _).symm⟩, f, mem, addr, root, q, task, sys⟩
  · next =>
    obtain ⟨⟨p, t, line⟩, read⟩ : ∃ x, s.readPacket (coreDie s.turn.ref.core) s.mySeat.sys.xlatRoot s.turn.ref.isSys (packetOf a) = x := ⟨_, rfl⟩
    have addr : p.addr = packetOf a := by
      have := s.readPacket_addr (coreDie s.turn.ref.core) s.mySeat.sys.xlatRoot s.turn.ref.isSys (packetOf a)
      rwa [read] at this
    rw [show s.getSeat s.turn.ref = s.mySeat from rfl, read]
    cases line with
    | none => exact fills_of_notes (onlyNotes_noteWalk s _) addr rfl rfl rfl rfl t _ _
    | some place =>
      have notes (l : List Place) : OnlyNotes s (((s.noteWalk l).noteBad place 64 false).noteCorr none place 64) :=
        onlyNotes_trans (onlyNotes_noteWalk s l) (onlyNotes_trans (onlyNotes_noteBad _ place 64 false) (onlyNotes_noteCorr _ place 64))
      exact fills_of_notes (notes _) addr rfl rfl rfl rfl t _ _

theorem Fills.eq {s u : State} {a : Word} (h : Fills s u a) : u = { s with die := u.die, stack := u.stack, seq := u.seq } :=
  (congrArg (fun x : State => { x with die := u.die, stack := u.stack, seq := u.seq }) h.rest :)

theorem KeepsSeat.sys {i : StreamId} {a b : Seat} (h : KeepsSeat i a b) : b.sys = a.sys := by rw [← h.rest]

theorem KeepsSeat.inst {i : StreamId} {a b : Seat} (h : KeepsSeat i a b) : b.inst = a.inst := by rw [← h.rest]

/-- A seat that has changed, the fill that starts, and the change of the seat that follows: together one change of the seat and a fill. -/
theorem fillFor_modMySeat {s v : State} {f : Seat → Seat} {a : Word} (fills : Fills (s.modMySeat f) v a) (g : Seat → Seat)
    (first : KeepsSeat s.turn.stream s.mySeat (f s.mySeat)) (both : KeepsSeat s.turn.stream s.mySeat (g (f s.mySeat))) :
    FillFor s (v.modMySeat g) a ∧ (v.modMySeat g).turn = s.turn ∧ (v.modMySeat g).mySeat = g (f s.mySeat) := by
  obtain ⟨die, stack, seq, whole⟩ : ∃ die stack seq, v = { s.modMySeat f with die := die, stack := stack, seq := seq } :=
    ⟨_, _, _, fills.eq⟩
  have seat : (v.modMySeat g).mySeat = g (f s.mySeat) := by
    rw [State.modMySeat_mySeat, whole]
    exact congrArg g (State.modMySeat_mySeat s f)
  have core : (v.modMySeat g).core = (s.modMySeat fun st => g (f st)).core := by
    rw [whole]
    show ((s.modMySeat f).modMySeat g).core = _
    rw [State.modMySeat_modMySeat]
  obtain ⟨⟨-, cores⟩, mine, seats⟩ := onlySeat_modSeat s s.turn.ref fun st => g (f st)
  have stood : (s.modMySeat f).mySeat = f s.mySeat := State.modMySeat_mySeat s f
  refine ⟨⟨?rest, fills.errors, ?cores, ?mine, ?seats, fills.dies, fills.die, fills.kept, ?begun, ?bytes, seat.symm ▸ both⟩,
    by rw [whole]; rfl, seat⟩
  case rest => rw [whole]; rfl
  case cores => rw [core]; exact cores
  case mine => rw [core]; exact mine
  case seats => rw [core]; exact seats
  case begun =>
    have begun := fills.begun
    rwa [stood, first.sys, first.inst] at begun
  case bytes => rw [whole]; exact fun _ => rfl

/-- The running stream's seat changes by `f`, a fill starts, and the stream goes on at `r`. -/
theorem fillFor_goOn (s : State) (f : Seat → Seat) (a : Word) (r : Stream × Bool) (first : KeepsSeat s.turn.stream s.mySeat (f s.mySeat))
    (onward : KeepsStream ((f s.mySeat).getStr s.turn.stream) r.1) :
    let t := ((s.modMySeat f).startFill s.turn.ref a).modMySeat fun st => st.goOn s.turn.stream s.now r
    FillFor s t a ∧ t.turn = s.turn ∧ t.mySeat = (f s.mySeat).goOn s.turn.stream s.now r :=
  fillFor_modMySeat (fills_startFill (s.modMySeat f) a) _ first (keepsSeat_trans first (keepsSeat_goOn _ _ _ _ onward))

section
variable {s u : State} {a : Word} (fills : Fills s u a)
include fills

theorem Fills.turn : u.turn = s.turn := by rw [fills.eq]

theorem Fills.mySeat : u.mySeat = s.mySeat := by rw [fills.eq]; rfl

theorem Fills.now : u.now = s.now := by rw [fills.eq]; rfl

theorem Fills.retire : u.retire = u.modMySeat fun st => st.goOn s.turn.stream s.now s.me.advance := by
  rw [State.retire_eq, fills.turn, fills.now]
  exact State.modMySeat_congr u (by rw [fills.mySeat]; rfl)

theorem Fills.jumpTo (p : Word) : u.jumpTo p = u.modMySeat fun st => st.goOn s.turn.stream s.now (s.me.jump p, false) := by
  unfold State.jumpTo
  rw [fills.turn, fills.now]
  exact State.modMySeat_congr u (by rw [fills.mySeat]; rfl)

end

/-! ## Writing a target register -/

/-- The seat after stream i has written target register n (R103). -/
def Seat.wrTarget (st : Seat) (i : StreamId) (n : Fin 8) (v : Word) : Seat :=
  if i = .C then { st with c := { st.c with pipe := st.c.pipe ++ [⟨st.c.clock + 2, .treg n v⟩] } }
  else st.modStr i fun t => { t with t := t.t.set n v }

theorem State.wrTarget_eq (s : State) (n : Fin 8) (v : Word) :
    s.wrTarget n v = s.modMySeat fun st => st.wrTarget s.turn.stream n (v &&& ~~~3) := by
  by_cases hc : s.turn.stream = .C
  · simp [State.wrTarget, Seat.wrTarget, State.isC, hc, State.pipe]
  · simp [State.wrTarget, Seat.wrTarget, State.isC, hc, State.modMe_eq]

section
variable (st : Seat) (i : StreamId) (n : Fin 8) (v : Word)

theorem Seat.wrTarget_getStr : (st.wrTarget i n v).getStr i =
    { st.getStr i with t := if i = .C then (st.getStr i).t else (st.getStr i).t.set n v } := by
  unfold Seat.wrTarget
  split
  · rfl
  · rw [Seat.modStr_getStr]

theorem Seat.wrTarget_keeps : KeepsSeat i st (st.wrTarget i n v) := by
  unfold Seat.wrTarget
  split
  · exact keepsSeat_pipe i st _
  · exact keepsSeat_modStr i st _ (by constructor <;> rfl)

theorem Seat.wrTarget_sameSeq : SameSeq (st.getStr i) ((st.wrTarget i n v).getStr i) := by
  rw [Seat.wrTarget_getStr]
  exact ⟨rfl, rfl, rfl, rfl, rfl⟩

theorem Seat.wrTarget_q : (st.wrTarget i n v).q = st.q := by
  unfold Seat.wrTarget
  split <;> rfl

theorem Seat.wrTarget_vec : (st.wrTarget i n v).vec = st.vec := by
  unfold Seat.wrTarget
  split <;> rfl

theorem Seat.wrTarget_pipe : (st.wrTarget i n v).c.pipe =
    st.c.pipe ++ if decide (i = .C) then [⟨st.c.clock + 2, .treg n v⟩] else [] := by
  unfold Seat.wrTarget
  split
  · next h => simp [h]
  · next h => simp [h]

theorem Seat.wrTarget_t (m : Fin 8) : ((st.wrTarget i n v).getStr i).t[m] =
    if !decide (i = .C) && decide (m = n) then v else (st.getStr i).t[m] := by
  rw [Seat.wrTarget_getStr]
  by_cases hc : i = .C
  · simp [hc]
  · by_cases e : m = n
    · simp [hc, e]
    · have : n.val ≠ m.val := fun h => e (Fin.ext h.symm)
      simp [hc, e, this]

end

/-- An instruction that reads its sources, gives target register n the value `v`, starts the fill of `a` and goes on (R113 to R115). -/
theorem target_result (s : State) (srcs : List SSpec) (n : Fin 8) (v a : Word) :
    let t := (((srcs.foldl State.take s).wrTarget n v).startFill s.turn.ref a).retire
    FillFor s t a ∧ WentOn s t ∧ SameTargets s t n (v &&& ~~~3) ∧ (∀ m, t.me.rdX m = s.me.rdX m) ∧ t.me.p = s.me.p ∧
      Queues s t srcs none 0 0 ∧ t.mySeat.c.pipe = s.mySeat.c.pipe ++ if s.isC then [⟨s.mySeat.c.clock + 2, .treg n (v &&& ~~~3)⟩] else [] := by
  let i := s.turn.stream
  let f (st : Seat) : Seat := (st.takeAll s.now srcs).wrTarget i n (v &&& ~~~3)
  let st0 := s.mySeat.takeAll s.now srcs
  let st := f s.mySeat
  let t := ((s.modMySeat f).startFill s.turn.ref a).modMySeat fun b => b.goOn i s.now (st.getStr i).advance
  have mine : st0.getStr i = s.me := s.takeAll_mine srcs
  have vec : st.vec = s.mySeat.vec := (Seat.wrTarget_vec _ _ _ _).trans (Seat.takeAll_vec _ _ _)
  have sched : st0.c = s.mySeat.c := Seat.takeAll_c _ _ _
  have keeps : KeepsSeat i s.mySeat st := keepsSeat_trans (Seat.takeAll_keeps _ _ _ _) (Seat.wrTarget_keeps _ _ _ _)
  have same : SameSeq s.me (st.getStr i) := mine ▸ Seat.wrTarget_sameSeq st0 i n _
  have whole : (((srcs.foldl State.take s).wrTarget n v).startFill s.turn.ref a).retire = t := by
    have written : (srcs.foldl State.take s).wrTarget n v = s.modMySeat f := by
      rw [State.wrTarget_eq, State.takeAll_modMySeat, State.takeAll_turn]
    have goes := (fills_startFill (s.modMySeat f) a).retire
    rw [State.modMySeat_me, State.modMySeat_turn, State.modMySeat_now] at goes
    rw [written]
    exact goes
  obtain ⟨fill, turn, seat⟩ : FillFor s t a ∧ t.turn = s.turn ∧ t.mySeat = st.goOn i s.now (st.getStr i).advance :=
    fillFor_goOn s f a (st.getStr i).advance keeps (advance_keeps _)
  have me := me_of_goOn turn seat
  obtain ⟨hx, hp, ht⟩ := advance_regs (st.getStr i)
  have file : st.getStr i = _ := Seat.wrTarget_getStr st0 i n _
  rw [mine] at file
  intro t'
  rw [show t' = t from whole]
  refine ⟨fill, wentOn_of_goOn turn seat (by rw [vec]) same keeps.mine.loopPc, fun m => ?t, fun m => ?x, ?p, queues_takeAll ?q, ?pipe⟩
  case t =>
    have target := Seat.wrTarget_t st0 i n (v &&& ~~~3) m
    rw [mine] at target
    rw [me]
    show (st.getStr i).advance.1.t[m] = _
    rw [ht]
    exact target
  case x => rw [me]; unfold Stream.rdX; dsimp only; rw [hx, file]
  case p => rw [me]; exact hp.trans (by rw [file])
  case q => rw [seat]; exact (Seat.goOn_q _ _ _ _).trans (Seat.wrTarget_q _ _ _ _)
  case pipe =>
    rw [seat, ← sched]
    exact (Seat.goOn_pipe _ _ _ _).trans (Seat.wrTarget_pipe _ _ _ _)

/-! ## CALL -/

/-- A jump reads no register. -/
theorem jump_of_same {a b : Stream} (p : Word) (h : SameSeq a b) : SameSeq (a.jump p) (b.jump p) := by
  obtain ⟨-, lc, ps, repLeft, -⟩ := h
  unfold Stream.jump Stream.act Stream.lcStg Stream.lcLen
  rw [lc]
  split
  · exact ⟨rfl, rfl, rfl, repLeft, rfl⟩
  · exact ⟨rfl, rfl, ps, repLeft, rfl⟩

/-- The seat after a CALL has written x31 and t7 with the address to return to (R113). -/
def Seat.link (st : Seat) (i : StreamId) (now : Nat) (back : Word) : Seat :=
  (st.wrDest i now (.x 31) 1 2 back).wrTarget i 7 (back &&& ~~~3)

section
variable (st : Seat) (i : StreamId) (now : Nat) (back : Word)

theorem Seat.link_keeps : KeepsSeat i st (st.link i now back) :=
  keepsSeat_trans (Seat.wrDest_keeps _ _ _ _ _ _ _) (Seat.wrTarget_keeps _ _ _ _)

theorem Seat.link_sameSeq : SameSeq (st.getStr i) ((st.link i now back).getStr i) := by
  obtain ⟨h1, h2, h3, h4, h5⟩ := Seat.wrDest_seq st i now (.x 31) 1 2 back
  obtain ⟨k1, k2, k3, k4, k5⟩ := Seat.wrTarget_sameSeq (st.wrDest i now (.x 31) 1 2 back) i 7 (back &&& ~~~3)
  exact ⟨k1.trans h1, k2.trans h2, k3.trans h3, k4.trans h4, k5.trans h5⟩

theorem Seat.link_vec : (st.link i now back).vec = st.vec := (Seat.wrTarget_vec _ _ _ _).trans (Seat.wrDest_rrb _ _ _ _ _ _ _)

theorem Seat.link_rdX (k : Fin 32) :
    ((st.link i now back).getStr i).rdX k = if !decide (i = .C) && decide (k = 31) then back else (st.getStr i).rdX k := by
  have x : ((st.link i now back).getStr i).rdX k = ((st.wrDest i now (.x 31) 1 2 back).getStr i).rdX k := by
    unfold Seat.link
    rw [Seat.wrTarget_getStr]
    rfl
  rw [x, Seat.wrDest_rdX]
  by_cases e : k = 31
  · simp [e]
  · have : ¬(31 : Fin 32) = k := fun h => e h.symm
    simp [e, this]

theorem Seat.link_p : ((st.link i now back).getStr i).p = (st.getStr i).p := by
  unfold Seat.link
  rw [Seat.wrTarget_getStr]
  exact (Seat.wrDest_pt _ _ _ _ _ _ _).1

theorem Seat.link_t (m : Fin 8) : ((st.link i now back).getStr i).t[m] =
    if !decide (i = .C) && decide (m = 7) then back &&& ~~~3 else (st.getStr i).t[m] := by
  unfold Seat.link
  rw [Seat.wrTarget_t, (Seat.wrDest_pt _ _ _ _ _ _ _).2]

theorem Seat.link_pipe : (st.link i now back).c.pipe = st.c.pipe ++
    if decide (i = .C) then [⟨st.c.clock + 2, .xreg 31 back⟩, ⟨st.c.clock + 2, .treg 7 (back &&& ~~~3)⟩] else [] := by
  have clock : (st.wrDest i now (.x 31) 1 2 back).c.clock = st.c.clock := by
    rw [← (Seat.wrDest_keeps st i now (.x 31) 1 2 back).pipe]
  unfold Seat.link
  rw [Seat.wrTarget_pipe, Seat.wrDest_pipe, clock]
  by_cases hc : i = .C
  · simp [hc, pipeEntry]
  · simp [hc]

end

/-- All that a CALL does that is taken to `p` (R113). -/
theorem link_result (s : State) (p : Word) :
    let r := s.me.pc + 4
    let t := (((s.wr (.x 31) 1 2 r).wrTarget 7 r).startFill s.turn.ref r).jumpTo p
    FillFor s t r ∧ Went s t (s.me.jump p) false ∧ SameTargets s t 7 (r &&& ~~~3) ∧ t.me.p = s.me.p ∧
      (∀ k, t.me.rdX k = if !s.isC && decide (k = 31) then r else s.me.rdX k) ∧
      t.mySeat.c.pipe = s.mySeat.c.pipe ++
        if s.isC then [⟨s.mySeat.c.clock + 2, .xreg 31 r⟩, ⟨s.mySeat.c.clock + 2, .treg 7 (r &&& ~~~3)⟩] else [] := by
  intro back t'
  let i := s.turn.stream
  let f (st : Seat) : Seat := st.link i s.now back
  let st := f s.mySeat
  let r : Stream × Bool := ((st.getStr i).jump p, false)
  let t := ((s.modMySeat f).startFill s.turn.ref back).modMySeat fun b => b.goOn i s.now r
  have whole : t' = t := by
    have written : (s.wr (.x 31) 1 2 back).wrTarget 7 back = s.modMySeat f := by
      rw [State.wrTarget_eq, State.wr_eq, State.modMySeat_modMySeat]
      rfl
    have goes := (fills_startFill (s.modMySeat f) back).jumpTo p
    rw [State.modMySeat_me, State.modMySeat_turn, State.modMySeat_now] at goes
    show (((s.wr (.x 31) 1 2 back).wrTarget 7 back).startFill s.turn.ref back).jumpTo p = t
    rw [written]
    exact goes
  obtain ⟨fill, turn, seat⟩ : FillFor s t back ∧ t.turn = s.turn ∧ t.mySeat = st.goOn i s.now r :=
    fillFor_goOn s f back r (Seat.link_keeps _ _ _ _) (jump_onlyMoves _ _).keeps
  have me := me_of_goOn turn seat
  obtain ⟨hx, hp, ht⟩ := (jump_onlyMoves (st.getStr i) p).regs
  rw [whole]
  refine ⟨fill, (went_of_goOn turn seat (by rw [Seat.link_vec])).of_same (jump_of_same p (Seat.link_sameSeq s.mySeat i s.now back)),
    fun m => ?t, ?p, fun k => ?x, ?pipe⟩
  case t =>
    rw [me]
    show ((st.getStr i).jump p).t[m] = _
    rw [ht]
    exact Seat.link_t s.mySeat i s.now back m
  case p => rw [me]; exact hp.trans (Seat.link_p s.mySeat i s.now back)
  case x =>
    have read : t.me.rdX k = (st.getStr i).rdX k := by rw [me]; unfold Stream.rdX; dsimp only; rw [hx]
    rw [read]
    exact Seat.link_rdX s.mySeat i s.now back k
  case pipe =>
    rw [seat, Seat.goOn_pipe]
    exact Seat.link_pipe s.mySeat i s.now back

/-! ## By instruction -/

/-- An address of a word has no low bits to clear (R114). -/
theorem and_not_three {v : Word} (h : v &&& 3 = 0) : v &&& ~~~3 = v := by
  have split : v &&& 3 ||| v &&& ~~~3 = v := by rw [← BitVec.and_or_distrib_left, BitVec.or_not_self, BitVec.and_allOnes]
  rw [h] at split
  exact BitVec.zero_or.symm.trans split

theorem moved_jumpTo (s : State) (p : Word) : Moved s (s.jumpTo p) [] (s.me.jump p) false :=
  moved_goOn s [] (r := (s.me.jump p, false)) (jump_onlyMoves _ _).keeps (jump_onlyMoves _ _).regs

/-- A branch to `p` that depends on predicate m (R113). -/
theorem branch_runs {s : State} {i : Instr} {m : Fin 16} {p : Word}
    (arm : exec i s = if s.me.rdP m then .next (s.jumpTo p) else .next s.retire) :
    Runs i s fun t => if s.me.rdP m then Moved s t [] (s.me.jump p) false else Moved s t [] s.me.advance.1 s.me.advance.2 := by
  by_cases taken : s.me.rdP m = true
  · exact ⟨_, arm.trans (if_pos taken), (if_pos taken).mpr (moved_jumpTo s p)⟩
  · exact ⟨_, arm.trans (if_neg taken), (if_neg taken).mpr (moved_retire s)⟩

section
variable {s : State} {m : Fin 16} (free : s.pFree m = true)
include free

theorem exec_br (n : Fin 8) : exec (.br n m) s = if s.me.rdP m then .next (s.jumpTo s.me.t[n]) else .next s.retire := by
  show execBr n m s = _
  simp [execBr, free]

theorem exec_ret : exec (.ret m) s = if s.me.rdP m then .next (s.jumpTo s.me.t[(7 : Fin 8)]) else .next s.retire := by
  show execRet m s = _
  simp [execRet, free]

theorem exec_call (opened : s.xOpen 31 = true) (n : Fin 8) : exec (.call n m) s = if s.me.rdP m then
    .next ((((s.wr (.x 31) 1 2 (s.me.pc + 4)).wrTarget 7 (s.me.pc + 4)).startFill s.turn.ref (s.me.pc + 4)).jumpTo s.me.t[n])
    else .next s.retire := by
  show execCall n m s = _
  simp [execCall, free, opened]

end

theorem exec_pbri {s : State} {a : SSpec} (ready : Ready s [a] []) (n : Fin 8) (i : BitVec 11) :
    let v := s.peek a + 4 * BitVec.ofInt 64 i.toInt
    exec (.pbri n a i) s = if v &&& 3 ≠ 0 then .next (s.takeFault s.turn.ref ⟨.align, 0, v, false⟩ s.turn.stream.idx.val)
      else .next ((((s.take a).wrTarget n v).startFill s.turn.ref v).retire) := by
  show execPbri n a i s = _
  unfold execPbri
  rw [ready.1, ready.2]
  rfl

/-- Settles O5: PBR and PBRI are `target_result`, CALL is `link_result`, the branches `branch_runs`. -/
theorem controlTransfers : Obligations.ControlTransfers := by
  refine ⟨?nop, ?pbr, ?pbri, fun s n m free => ⟨?br, ?ret, ?call⟩, ?halt⟩
  case nop => exact fun s => ⟨_, rfl, moved_retire s⟩
  case pbr =>
    intro s n i a
    obtain ⟨fill, went, targets, x, p, -, pipe⟩ := target_result s [] n a a
    exact ⟨_, rfl, fill, went, targets, x, p, pipe⟩
  case pbri =>
    intro s n a i ready v
    have runs := exec_pbri ready n i
    by_cases h : v &&& 3 ≠ 0
    · exact (if_pos h).mpr (runs.trans (if_pos h))
    · have result := target_result s [a] n v v
      rw [and_not_three (not_not.1 h)] at result
      exact (if_neg h).mpr ⟨_, runs.trans (if_neg h), result⟩
  case br => exact branch_runs (exec_br free n)
  case ret => exact branch_runs (exec_ret free)
  case call =>
    intro opened
    have runs := exec_call free opened n
    by_cases taken : s.me.rdP m = true
    · exact ⟨_, runs.trans (if_pos taken), (if_pos taken).mpr (link_result s s.me.t[n])⟩
    · exact ⟨_, runs.trans (if_neg taken), (if_neg taken).mpr (moved_retire s)⟩
  case halt =>
    intro s
    let r : Stream × Bool := ({ s.me with halted := true }, false)
    let t := s.modMySeat fun st => (st.takeAll s.now []).goOn s.turn.stream s.now r
    have me : t.me = { r.1 with issued := s.now + 1, wait := .none, waiting := none } :=
      me_of_goOn (s := s) (t := t) rfl (State.modMySeat_mySeat _ _)
    exact ⟨t, rfl, by rw [me], movedBut_goOn s [] r (fun _ _ => rfl) (keepsStream_refl _) ⟨rfl, rfl, rfl⟩⟩

end Sys2Proof.Machine
end

section
/-! SUPPORT. Rotating names (R120), the checks of vector sources (R36, R99, R181), and obligation O17. -/
namespace Sys2Proof.Machine

/-! ## Rotating names -/

theorem physV_fixed (rrb : BitVec 4) {n : Fin 32} (h : n.val < 16) : physV rrb n = n := if_pos h

theorem physV_rotating (rrb : BitVec 4) {n : Fin 32} (h : 16 ≤ n.val) : (physV rrb n).val = 16 + (n.val + 16 - rrb.toNat) % 16 := by
  unfold physV
  rw [if_neg (not_lt.2 h)]
  show (16 + (n.val + 32 - 16 - rrb.toNat) % 16) % 32 = _
  omega

/-- With each trip a value's name moves up by one, from v31 back to v16 (R120). -/
theorem physV_next (rrb : BitVec 4) {n : Fin 32} (h : 16 ≤ n.val) :
    physV (rrb + 1) (Fin.ofNat 32 (16 + (n.val - 15) % 16)) = physV rrb n := by
  have name : (Fin.ofNat 32 (16 + (n.val - 15) % 16)).val = 16 + (n.val - 15) % 16 := Nat.mod_eq_of_lt (by omega)
  have turn : (rrb + 1).toNat = (rrb.toNat + 1) % 16 := BitVec.toNat_add _ _
  have rrbLt := rrb.isLt
  refine Fin.ext ?_
  rw [physV_rotating _ (by rw [name]; omega), physV_rotating _ h, name, turn]
  omega

/-! ## One landing slot read -/

/-- A mark of LSTAT is all that a slot's reading leaves in the trap registers. -/
theorem Seat.markSlot_eq (st : Seat) (n : Fin 64) : ∃ l, st.markSlot n = { st with trap := { st.trap with lstat := l } } := by
  unfold Seat.markSlot
  dsimp only
  split
  · exact ⟨_, rfl⟩
  · split
    · exact ⟨_, rfl⟩
    · exact ⟨st.trap.lstat, rfl⟩

/-- The error of slot n is taken from it, with its data (R181). -/
def Seat.clearError (st : Seat) (n : Fin 64) : Seat :=
  { st.markSlot n with ln := vmod (st.markSlot n).ln n fun c => { c with data := 0, err := false, drst := false } }

theorem Seat.clearError_spec (st : Seat) (n : Fin 64) : let u := st.clearError n
    u.str = st.str ∧ u.vec = st.vec ∧ u.c = st.c ∧ u.ln[n] = { st.ln[n] with data := 0, err := false, drst := false } := by
  obtain ⟨l, marked⟩ := st.markSlot_eq n
  unfold Seat.clearError
  rw [marked]
  exact ⟨rfl, rfl, rfl, vmod_self _ _ _⟩

section
variable {s : State} {n : Fin 64}

theorem readSlots_pending (h : s.mySeat.ln[n].state = 1) : s.readSlots [n] = .freeze :=
  if_pos (List.any_eq_true.2 ⟨n, List.mem_singleton_self n, decide_eq_true h⟩)

theorem readSlots_error (full : s.mySeat.ln[n].state = 2) (err : s.mySeat.ln[n].err = true) :
    s.readSlots [n] =
      .poison ((if s.mySeat.ln[n].drst then 0x200 else 0x100) + n.val) (s.modMySeat fun st => st.clearError n) := by
  have landed : ([n].any fun m => decide (s.mySeat.ln[m].state = 1)) = false := by
    show (decide _ || false) = false
    rw [full]
    rfl
  have found : ([n].find? fun m => decide (s.mySeat.ln[m].state = 2) && s.mySeat.ln[m].err) = some n :=
    List.find?_cons_of_pos (by rw [full, err]; rfl)
  unfold State.readSlots
  dsimp only
  rw [landed, found]
  exact congrArg (SlotRead.poison _) (State.modMySeat_modMySeat s _ _)

end

section
variable {s : State} {srcs : List VSrc} (lat : Nat) (ws : List CWrite)

theorem vectorOp_freezes (pending : s.readSlots (slotsOf srcs) = .freeze) :
    s.vectorOp true srcs lat ws = s.freezeOn (slotsOf srcs) := by simp [State.vectorOp, pending]

theorem vectorOp_poisoned {d : Nat} {u : State} (error : s.readSlots (slotsOf srcs) = .poison d u) :
    s.vectorOp true srcs lat ws = u.raise (Flt.mk' .poison d) := by simp [State.vectorOp, error]

end

/-! ## VMOV -/

/-- What VMOV writes when its source may be read (R146). -/
def State.vmovWrites (s : State) (g : VmovArgs) : List CWrite :=
  s.vwrite g.d (if g.tag = 0 then s.vtag g.a else g.tag) (s.runActive 8 g.k fun i => (lane (s.vread g.a) 8 i, 0))

theorem exec_vmov (s : State) (g : VmovArgs) :
    exec (.vmov g) s = s.vectorOp (g.tag = 0 || s.tagOk g.a g.tag) [g.a] 2 (s.vmovWrites g) := rfl

/-- A landing slot is accepted under every tag (R99). -/
theorem State.tagOk_slot (s : State) (n : Fin 64) (t : Fin 16) : s.tagOk (.ln n) t = true := rfl

/-- A VMOV of a landing slot passes the check of its tag. -/
theorem exec_vmov_slot (s : State) {g : VmovArgs} {n : Fin 64} (slot : g.a = .ln n) :
    exec (.vmov g) s = s.vectorOp true [.ln n] 2 (s.vmovWrites g) := by
  rw [exec_vmov, slot, State.tagOk_slot, Bool.or_true]

/-- Settles O17: the names by `physV`, VMOV by the three checks of `State.vectorOp` on its source. -/
theorem vectorNamesAndSourceChecks : Obligations.VectorNamesAndSourceChecks := by
  refine ⟨fun rrb n => ⟨physV_fixed rrb, fun h => ⟨?number, physV_next rrb h⟩⟩, fun s g => ⟨?tag, fun n slot => ⟨?pending, ?error⟩⟩⟩
  case number =>
    have rrbLt := rrb.isLt
    rw [physV_rotating rrb h]
    omega
  case tag =>
    intro typed other
    have refused : (decide (g.tag = 0) || s.tagOk g.a g.tag) = false := by simp [typed, other]
    rw [exec_vmov, refused]
    rfl
  case pending =>
    intro pending
    exact ⟨_, (exec_vmov_slot s slot).trans (vectorOp_freezes 2 _ (readSlots_pending pending)), rfl⟩
  case error =>
    intro full err
    obtain ⟨str, vec, sched, cleared⟩ := s.mySeat.clearError_spec n
    let u := s.modMySeat fun st => st.clearError n
    have seat : u.mySeat = s.mySeat.clearError n := State.modMySeat_mySeat _ _
    refine ⟨u, onlySeat_modSeat _ _ _, by rw [seat, str], by rw [seat, vec], by rw [seat, sched], by rw [seat]; exact cleared, ?_⟩
    exact (exec_vmov_slot s slot).trans (vectorOp_poisoned 2 _ (readSlots_error full err))

end Sys2Proof.Machine
end

section
/-! SUPPORT. The words that the spec writes out (R105, R111, R169, R192, R317): obligation O56. -/
namespace Sys2Proof.Machine

/-- Settles O56: each of the words is decoded. -/
theorem decodeWordsOfTheSpec : Obligations.DecodeWordsOfTheSpec := by
  unfold Obligations.DecodeWordsOfTheSpec
  decide +kernel

end Sys2Proof.Machine
end

section
/-! SUPPORT. A vector instruction whose landing slots have their data (R36, R126, R180, R181): its reads, its results in C's pipeline. -/
namespace Sys2Proof.Machine

/-! ## Landing slots read -/

theorem mem_slotsOf {n : Fin 64} {srcs : List VSrc} : n ∈ slotsOf srcs ↔ VSrc.ln n ∈ srcs := by
  unfold slotsOf
  rw [List.mem_dedup, List.mem_filterMap]
  constructor
  · rintro ⟨_ | m, mem, named⟩
    · cases named
    · exact Option.some.inj named ▸ mem
  · exact fun mem => ⟨_, mem, rfl⟩

/-- LSTAT after slot number `n` has been read at schedule time `sched`. -/
def Slot.mark (c : Slot) (sched n : Nat) (lstat : Word) : Word :=
  if c.state = 0 then putFld (lstat ||| 1) 8 6 n else if c.early sched then putFld (lstat ||| 2) 8 6 n else lstat

theorem bit_mark_empty (c : Slot) (sched n : Nat) (l : Word) : bit (c.mark sched n l) 0 = (bit l 0 || decide (c.state = 0)) := by
  have below : ∀ w : Word, bit (putFld w 8 6 n) 0 = bit w 0 := fun w => (getLsbD_putFld w 8 6 n 0 (by omega)).trans (if_neg (by omega))
  unfold Slot.mark
  split
  case isTrue empty => rw [below]; simp [bit, empty]
  case isFalse filled =>
    split
    · rw [below]; simp [bit, filled]
    · simp [filled]

theorem bit_mark_early (c : Slot) (sched n : Nat) (l : Word) : bit (c.mark sched n l) 1 = (bit l 1 || c.early sched) := by
  have below : ∀ w : Word, bit (putFld w 8 6 n) 1 = bit w 1 := fun w => (getLsbD_putFld w 8 6 n 1 (by omega)).trans (if_neg (by omega))
  unfold Slot.mark
  split
  case isTrue empty => rw [below]; simp [bit, empty, Slot.early]
  case isFalse =>
    split
    case isTrue early => rw [below]; simp [bit, early]
    case isFalse late => simp [late]

/-- LSTAT after the slots named have been read. -/
def Seat.slotMarks (st : Seat) (slots : List (Fin 64)) : Word := slots.foldl (fun l n => st.ln[n].mark st.sched n.val l) st.trap.lstat

theorem Seat.markSlot_mark (st : Seat) (n : Fin 64) :
    st.markSlot n = { st with trap := { st.trap with lstat := st.ln[n].mark st.sched n.val st.trap.lstat } } := by
  unfold Seat.markSlot Slot.mark
  dsimp only
  split
  · rfl
  · split <;> rfl

theorem Seat.markSlots_eq (st : Seat) (slots : List (Fin 64)) :
    slots.foldl Seat.markSlot st = { st with trap := { st.trap with lstat := st.slotMarks slots } } := by
  induction slots generalizing st with
  | nil => rfl
  | cons n r ih =>
    rw [List.foldl_cons, ih, Seat.markSlot_mark]
    rfl

/-- A bit which each element of a list sets or leaves. -/
theorem bit_foldl_or {m i : Nat} {α : Type} {f : BitVec m → α → BitVec m} {g : α → Bool}
    (step : ∀ w a, bit (f w a) i = (bit w i || g a)) (w : BitVec m) (l : List α) : bit (l.foldl f w) i = (bit w i || l.any g) := by
  induction l generalizing w with
  | nil => simp
  | cons a r ih => rw [List.foldl_cons, ih, step, List.any_cons, Bool.or_assoc]

theorem any_slotsOf (srcs : List VSrc) (g : Fin 64 → Bool) :
    (slotsOf srcs).any g = (List.finRange 64).any fun n => decide (VSrc.ln n ∈ srcs) && g n := by
  rw [Bool.eq_iff_iff, List.any_eq_true, List.any_eq_true]
  simp [mem_slotsOf]

theorem Seat.bit_slotMarks_empty (st : Seat) (srcs : List VSrc) : bit (st.slotMarks (slotsOf srcs)) 0 =
    (bit st.trap.lstat 0 || (List.finRange 64).any fun n => decide (VSrc.ln n ∈ srcs) && decide (st.ln[n].state = 0)) :=
  (bit_foldl_or (fun l n => bit_mark_empty st.ln[n] st.sched n.val l) _ _).trans (congrArg _ (any_slotsOf srcs _))

theorem Seat.bit_slotMarks_early (st : Seat) (srcs : List VSrc) : bit (st.slotMarks (slotsOf srcs)) 1 =
    (bit st.trap.lstat 1 || (List.finRange 64).any fun n => decide (VSrc.ln n ∈ srcs) && st.ln[n].early st.sched) :=
  (bit_foldl_or (fun l n => bit_mark_early st.ln[n] st.sched n.val l) _ _).trans (congrArg _ (any_slotsOf srcs _))

/-- The landing slots after those named have been emptied (R180). -/
def emptied (ln : Vector Slot 64) (slots : List (Fin 64)) : Vector Slot 64 :=
  slots.foldl (fun ln n => vmod ln n fun c => { c with state := 0 }) ln

theorem Seat.emptySlots_eq (st : Seat) (slots : List (Fin 64)) :
    slots.foldl Seat.emptySlot st = { st with ln := emptied st.ln slots } := by
  induction slots generalizing st with
  | nil => rfl
  | cons n r ih =>
    rw [List.foldl_cons, ih]
    rfl

theorem emptied_get (ln : Vector Slot 64) (slots : List (Fin 64)) (m : Fin 64) :
    (emptied ln slots)[m] = if m ∈ slots then { ln[m] with state := 0 } else ln[m] := by
  induction slots generalizing ln with
  | nil => rfl
  | cons n r ih =>
    refine (ih _).trans ?_
    by_cases here : m = n
    · subst here
      have first : (vmod ln m fun c => { c with state := 0 })[m] = { ln[m] with state := 0 } := vmod_self _ _ _
      rw [first, if_pos List.mem_cons_self, ite_self]
    · have other : (vmod ln n fun c => { c with state := 0 })[m] = ln[m] := vmod_ne _ _ here
      rw [other]
      simp only [List.mem_cons, here, false_or]

/-- What reading good landing slots leaves of a seat (R180). -/
def Seat.readLanding (st : Seat) (srcs : List VSrc) : Seat :=
  { st with trap := { st.trap with lstat := st.slotMarks (slotsOf srcs) }, ln := emptied st.ln (slotsOf srcs) }

theorem readSlots_good {s : State} {srcs : List VSrc} (good : SlotsGood s srcs) :
    s.readSlots (slotsOf srcs) = .ok (s.modMySeat fun st => st.readLanding srcs) := by
  have landed : ((slotsOf srcs).any fun n => decide (s.mySeat.ln[n].state = 1)) = false :=
    List.any_eq_false.2 fun n mem => by simpa using (good n (mem_slotsOf.1 mem)).1
  have sound : ((slotsOf srcs).find? fun n => decide (s.mySeat.ln[n].state = 2) && s.mySeat.ln[n].err) = none :=
    List.find?_eq_none.2 fun n mem => by
      rw [(good n (mem_slotsOf.1 mem)).2, Bool.and_false]
      exact Bool.false_ne_true
  unfold State.readSlots
  dsimp only
  rw [landed, sound, State.modMySeat_modMySeat]
  refine congrArg SlotRead.ok (State.modMySeat_congr s ?_)
  rw [Seat.emptySlots_eq, Seat.markSlots_eq]
  rfl

/-! ## Results in C's pipeline -/

/-- What results due `lat` schedule cycles after issue add to C's pipeline (R33). -/
def CSched.due (c : CSched) (lat : Nat) (ws : List CWrite) : List CPend := ws.map (CPend.mk (c.clock + lat))

theorem State.pipe_all (s : State) (lat : Nat) (ws : List CWrite) : ws.foldl (fun t w => t.pipe lat w) s =
    s.modMySeat fun st => { st with c := { st.c with pipe := st.c.pipe ++ st.c.due lat ws } } := by
  induction ws generalizing s with
  | nil =>
    refine s.modMySeat_id.symm.trans (State.modMySeat_congr s ?_)
    simp [CSched.due]
  | cons w r ih =>
    rw [List.foldl_cons, ih]
    unfold State.pipe
    rw [State.modMySeat_modMySeat]
    refine State.modMySeat_congr s ?_
    simp [CSched.due]

/-- The seat after a vector instruction has read its sources and issued, before it goes on. -/
def Seat.issueVector (st : Seat) (srcs : List VSrc) (ws : List CPend) : Seat :=
  { st.readLanding srcs with c := { st.c with pipe := st.c.pipe ++ ws } }

theorem vectorOp_good {s : State} {srcs : List VSrc} (good : SlotsGood s srcs) (lat : Nat) (ws : List CWrite) :
    s.vectorOp true srcs lat ws = .next (s.modMySeat fun st =>
      (st.issueVector srcs (st.c.due lat ws)).goOn s.turn.stream s.now (st.getStr s.turn.stream).advance) := by
  have step : s.vectorOp true srcs lat ws =
      .next ((ws.foldl (fun t w => t.pipe lat w) (s.modMySeat fun st => st.readLanding srcs)).retire) := by
    simp [State.vectorOp, readSlots_good good]
  rw [step, State.pipe_all, State.modMySeat_modMySeat, State.retire_eq, State.modMySeat_modMySeat]
  simp only [State.modMySeat_turn, State.modMySeat_now]
  rfl

theorem vectorWent_goOn (s : State) (srcs : List VSrc) (ws : List CPend) :
    VectorWent s (s.modMySeat fun st => (st.issueVector srcs ws).goOn s.turn.stream s.now (st.getStr s.turn.stream).advance) srcs ws := by
  let issued := s.mySeat.issueVector srcs ws
  let t := s.modMySeat fun st => (st.issueVector srcs ws).goOn s.turn.stream s.now (st.getStr s.turn.stream).advance
  have seat : t.mySeat = issued.goOn s.turn.stream s.now s.me.advance := State.modMySeat_mySeat _ _
  have me : t.me = _ := me_of_goOn (s := s) (t := t) rfl seat
  have keeps : KeepsSeat s.turn.stream issued t.mySeat := seat ▸ keepsSeat_goOn _ _ _ _ (advance_keeps s.me)
  have q : t.mySeat.q = issued.q := seat ▸ Seat.goOn_q _ _ _ _
  have ln : t.mySeat.ln = issued.ln := by rw [← keeps.rest]
  have trap : t.mySeat.trap = issued.trap := by rw [← keeps.rest]
  have lstat : t.mySeat.trap.lstat = s.mySeat.slotMarks (slotsOf srcs) := by rw [trap]; rfl
  obtain ⟨hx, hp, ht⟩ := advance_regs s.me
  refine ⟨onlySeat_modSeat _ _ _, fun _ => rfl, ?rest, ?sched, ?pipe, ?slots, ?empty, ?early, ?others, ?mine, ⟨?x, ?p, ?t⟩, ?went⟩
  case rest =>
    have rest := keeps.rest
    rw [← q] at rest
    exact congrArg (fun b : Seat => { b with
      ln := s.mySeat.ln, c := s.mySeat.c, trap := { b.trap with lstat := s.mySeat.trap.lstat } }) rest
  case sched => exact congrArg (fun c : CSched => { c with pipe := s.mySeat.c.pipe }) keeps.pipe
  case pipe => exact (congrArg (·.c.pipe) seat).trans (Seat.goOn_pipe _ _ _ _)
  case slots =>
    intro n
    show t.mySeat.ln[n] = _
    rw [ln]
    exact (emptied_get s.mySeat.ln (slotsOf srcs) n).trans (if_congr mem_slotsOf rfl rfl)
  case empty =>
    show bit t.mySeat.trap.lstat 0 = _
    rw [lstat]
    exact s.mySeat.bit_slotMarks_empty srcs
  case early =>
    show bit t.mySeat.trap.lstat 1 = _
    rw [lstat]
    exact s.mySeat.bit_slotMarks_early srcs
  case others => exact keeps.others
  case mine => exact keeps.mine
  case x => intro n; show t.me.rdX n = _; rw [me]; unfold Stream.rdX; rw [← hx]
  case p => exact (congrArg Stream.p me).trans hp
  case t => exact (congrArg Stream.t me).trans ht
  case went => exact went_of_goOn rfl seat rfl

/-- A vector instruction that passes its TAG check and whose landing slots have their data goes on with its results due. -/
theorem vectorOp_went {s : State} {tags : Bool} {srcs : List VSrc} (tagged : tags = true) (good : SlotsGood s srcs) (lat : Nat)
    (ws : List CWrite) : ∃ t, s.vectorOp tags srcs lat ws = .next t ∧ VectorWent s t srcs (s.mySeat.c.due lat ws) := by
  refine ⟨_, ?_, vectorWent_goOn s srcs (s.mySeat.c.due lat ws)⟩
  rw [tagged, vectorOp_good good]
  exact congrArg _ (State.modMySeat_congr s rfl)

end Sys2Proof.Machine
end

section
/-! SUPPORT. The lanes that a vector instruction writes, bit by bit (R125, R126, R128, R130), and lane masks (R138). -/
namespace Sys2Proof.Machine

/-! ## Packed elements -/

theorem packLanes_testBit {w : Nat} (hw : 0 < w) (l : List Nat) (b : Nat) :
    (packLanes w l).testBit b = (l.getD (b / w) 0).testBit (b % w) := by
  induction l generalizing b with
  | nil => simp [packLanes]
  | cons x r ih =>
    have split := Nat.testBit_two_pow_mul_add (packLanes w r) (Nat.mod_lt x (Nat.two_pow_pos w)) b
    rw [packLanes, Nat.add_comm, split]
    by_cases first : b < w
    · rw [if_pos first, Nat.testBit_mod_two_pow, Nat.div_eq_of_lt first, Nat.mod_eq_of_lt first]
      simp [first]
    · have shift : b / w = (b - w) / w + 1 := Nat.div_eq_sub_div hw (not_lt.1 first)
      rw [if_neg first, ih, shift, ← Nat.mod_eq_sub_mod (not_lt.1 first)]
      rfl

/-- The bits of a value packed from the elements below n. -/
theorem getLsbD_packed {m w b : Nat} (hw : 0 < w) (hb : b < m) (n : Nat) (g : Nat → Nat) :
    (BitVec.ofNat m (packLanes w ((List.range n).map g))).getLsbD b = (decide (b / w < n) && (g (b / w)).testBit (b % w)) := by
  rw [BitVec.getLsbD_ofNat, packLanes_testBit hw]
  by_cases inside : b / w < n <;> simp [List.getD_eq_getElem?_getD, inside, hb]

theorem lane_lt {n : Nat} (d : BitVec n) (w i : Nat) : lane d w i < 2 ^ w := Nat.mod_lt _ (Nat.two_pow_pos w)

/-- A lane is known by its bits. -/
theorem lane_eq_of_bits {n w i x : Nat} (d : BitVec n) (bits : ∀ j < w, d.getLsbD (w * i + j) = x.testBit j) :
    lane d w i = x % 2 ^ w := by
  refine Nat.eq_of_testBit_eq fun j => ?_
  unfold lane
  rw [Nat.testBit_mod_two_pow, Nat.testBit_mod_two_pow, Nat.testBit_shiftRight]
  by_cases inside : j < w
  · rw [← bits j inside]; rfl
  · simp [inside]

/-! ## The lanes of `runLanes` -/

section
variable {w n : Nat} {act : Nat → Bool} {f : Nat → Nat × FFlags}

theorem runLanes_data : (runLanes w n act f).data =
    BitVec.ofNat 2048 (packLanes w ((List.range n).map fun i => if act i then (f i).1 else 0)) := by
  unfold runLanes
  dsimp only
  rw [List.map_map]
  congr 3
  funext i
  show (match if act i then some (f i) else none with | some x => x.1 | none => 0) = _
  cases act i <;> rfl

theorem runLanes_mask : (runLanes w n act f).mask =
    BitVec.ofNat 2048 (packLanes w ((List.range n).map fun i => if act i then ones w else 0)) := by
  unfold runLanes
  dsimp only
  rw [List.map_map]
  congr 3
  funext i
  show (match if act i then some (f i) else none with | some _ => ones w | none => 0) = _
  cases act i <;> rfl

theorem runLanes_flags_getLsbD (k : Nat) : (runLanes w n act f).flags.getLsbD k =
    (List.range n).any fun i => act i && (f i).2.getLsbD k := by
  have step : ∀ (a : FFlags) (i : Nat), bit (if act i then a ||| (f i).2 else a) k = (bit a k || (act i && (f i).2.getLsbD k)) := by
    intro a i
    cases act i <;> simp [bit]
  have flags : (runLanes w n act f).flags = (List.range n).foldl (fun a i => if act i then a ||| (f i).2 else a) 0 := by
    unfold runLanes
    dsimp only
    rw [List.foldl_map]
    congr 1
    funext a i
    cases act i <;> rfl
  rw [flags]
  exact (bit_foldl_or step 0 _).trans (by simp [bit])

/-- The active lanes of `runLanes` have the values `val`, and the other bits are not written. -/
theorem runLanes_lanesAre (hw : 0 < w) {val : Nat → Nat} (same : ∀ i < n, act i = true → (f i).1 % 2 ^ w = val i % 2 ^ w) :
    LanesAre w n act val (runLanes w n act f).data (runLanes w n act f).mask := by
  refine ⟨fun b hb => ?mask, fun i hi room active => ?data⟩
  case mask =>
    rw [runLanes_mask, getLsbD_packed hw hb]
    cases act (b / w) <;> simp [ones, Nat.testBit_two_pow_sub_one, Nat.mod_lt b hw]
  case data =>
    rw [← same i hi active, runLanes_data]
    refine lane_eq_of_bits _ fun j hj => ?_
    have here : (w * i + j) / w = i ∧ (w * i + j) % w = j := by
      rw [Nat.mul_add_div hw, Nat.mul_add_mod, Nat.div_eq_of_lt hj, Nat.mod_eq_of_lt hj]
      exact ⟨rfl, rfl⟩
    rw [getLsbD_packed hw (by rw [Nat.mul_succ] at room; omega), here.1, here.2]
    simp [hi, active]

theorem runLanes_flagsAre {fl : Nat → FFlags} (same : ∀ i < n, act i = true → (f i).2 = fl i) :
    FlagsAre n act fl (runLanes w n act f).flags := by
  intro k _
  rw [runLanes_flags_getLsbD, Bool.eq_iff_iff, List.any_eq_true, List.any_eq_true]
  refine exists_congr fun i => and_congr_right fun mem => ?_
  cases active : act i
  · simp
  · rw [same i (List.mem_range.1 mem) active]

end

/-! ## Instructions that write lanes -/

theorem runs_of_eq {i : Instr} {s : State} {r : Res} {P : State → Prop} (meaning : exec i s = r) (next : ∃ t, r = .next t ∧ P t) :
    Runs i s P := by
  obtain ⟨t, step, holds⟩ := next
  exact ⟨t, meaning.trans step, holds⟩

section
variable {s : State} {tags : Bool} {srcs : List VSrc} {w n : Nat} {act : Nat → Bool} {f : Nat → Nat × FFlags} {val : Nat → Nat}
  {fl : Nat → FFlags}

/-- A vector instruction that writes the lanes of `f` with `more`: its active lanes take the values `val`, VSTAT the flags `fl`. -/
theorem vectorOp_writes (hw : 0 < w) (tagged : tags = true) (good : SlotsGood s srcs) (lat : Nat) (d : Fin 32) (tag : Fin 16)
    (more : List CWrite) (same : ∀ i < n, act i = true → (f i).1 % 2 ^ w = val i % 2 ^ w ∧ (f i).2 = fl i) :
    ∃ t, s.vectorOp tags srcs lat (s.vwrite d tag (runLanes w n act f) ++ more) = .next t ∧
      VectorWrites s t srcs lat d tag w n act val fl more := by
  obtain ⟨t, step, went⟩ := vectorOp_went tagged good lat (s.vwrite d tag (runLanes w n act f) ++ more)
  refine ⟨t, step, _, _, _, runLanes_lanesAre hw fun i hi active => (same i hi active).1,
    runLanes_flagsAre (w := w) fun i hi active => (same i hi active).2, ?_⟩
  have written : s.vwrite d tag (runLanes w n act f) ++ more =
      CWrite.vreg (physV s.mySeat.vec.rrb d) (runLanes w n act f).data (runLanes w n act f).mask (some tag) ::
        ((if (runLanes w n act f).flags = 0 then [] else [CWrite.vstat (runLanes w n act f).flags]) ++ more) := by
    unfold State.vwrite
    split <;> rfl
  rw [written] at went
  exact went

/-- `vectorOp_writes` of an instruction that writes nothing else. -/
theorem vectorOp_lanes (hw : 0 < w) (tagged : tags = true) (good : SlotsGood s srcs) (lat : Nat) (d : Fin 32) (tag : Fin 16)
    (same : ∀ i < n, act i = true → (f i).1 % 2 ^ w = val i % 2 ^ w ∧ (f i).2 = fl i) :
    ∃ t, s.vectorOp tags srcs lat (s.vwrite d tag (runLanes w n act f)) = .next t ∧
      VectorWrites s t srcs lat d tag w n act val fl [] := by
  have writes := vectorOp_writes hw tagged good lat d tag [] same
  rwa [List.append_nil] at writes

/-- The bits that a comparison gives its mask register. -/
theorem maskWrite_bits (kd : Fin 8) (n : Nat) (act f : Nat → Bool) : ∃ bits : BitVec 256,
    maskWrite kd n act f = .kreg kd bits (BitVec.allOnes 256) ∧
      ∀ i < 256, bits.getLsbD i = (decide (i < n) && act i && f i) := by
  refine ⟨_, rfl, fun i hi => ?_⟩
  rw [getLsbD_packed Nat.one_pos hi, Nat.div_one, Nat.mod_one]
  cases act i <;> cases f i <;> simp

theorem vectorOp_mask (tagged : tags = true) (good : SlotsGood s srcs) (kd : Fin 8) (n : Nat) (act f : Nat → Bool) :
    ∃ t, s.vectorOp tags srcs 2 [maskWrite kd n act f] = .next t ∧
      MaskWrites s t srcs kd fun i => decide (i < n) && act i && f i := by
  obtain ⟨bits, written, are⟩ := maskWrite_bits kd n act f
  obtain ⟨t, step, went⟩ := vectorOp_went tagged good 2 [maskWrite kd n act f]
  rw [written] at went
  exact ⟨t, step, bits, are, went⟩

end

/-! ## Widths -/

theorem fpW_pos (t : FpType) : 0 < fpW t := by cases t <;> decide

theorem laneW_pos (w : LaneW) : 0 < laneW w := by cases w <;> decide

theorem tagWidth_pos (t : Fin 16) : 0 < tagWidth t := by
  revert t
  decide

theorem cvtW_pos (f : CvtFmt) : 0 < cvtW f := by cases f <;> decide

theorem fpFmt_width (t : FpType) : (fpFmt t).width = fpW t := by cases t <;> rfl

/-- The tag of integers as wide as a floating type (R98). -/
theorem intTag_of_fpW (t : FpType) : (if fpW t = 32 then 12 else 11 : Fin 16) = if t = .fp32 then 12 else 11 := by cases t <;> rfl

end Sys2Proof.Machine
end

section
/-! SUPPORT. Floating vector arithmetic, minima, maxima and comparisons (R135, R137, R138, R144), and obligation O11. -/
namespace Sys2Proof.Machine

/-! ## Lanes as integers -/

/-- A lane read as two's complement. -/
theorem toSigned_lane (s : State) (v : VSrc) (w i : Nat) : toSigned w (lane (s.vread v) w i) = s.elem v w true i := by
  have reduced := Nat.mod_eq_of_lt (lane_lt (s.vread v) w i)
  unfold toSigned State.elem
  dsimp only
  rw [reduced]
  by_cases low : lane (s.vread v) w i < 2 ^ (w - 1)
  · simp [low]
  · simp [low, not_lt.1 low]

/-! ## Arithmetic -/

theorem floatOp_of_fpOp {op : FpArgs → Instr} {useD : Bool} {f : FpArgs → FVal → FVal → FVal → FVal}
    (runs : ∀ g s, exec (op g) s = s.fpOp g useD (f g)) : FloatOp op useD f := by
  intro s g good tagged
  have accepted : (g.raw || (s.tagOk g.a (fpTag g.t) && s.tagOk g.b (fpTag g.t) && (!useD || s.tagOk (.v g.d) (fpTag g.t)))) = true := by
    cases useD <;> simpa [and_assoc] using tagged
  exact runs_of_eq (runs g s) (vectorOp_lanes (fpW_pos g.t) accepted good 4 g.d (fpTag g.t) fun _ _ _ => ⟨rfl, rfl⟩)

/-! ## Minima, maxima and comparisons -/

theorem fpMinMax_writes {s : State} {g : FpMinArgs} (good : SlotsGood s [g.a, g.b])
    (tagged : g.raw = true ∨ s.tagOk g.a (fpTag g.t) = true ∧ s.tagOk g.b (fpTag g.t) = true) (mx : Bool) :
    ∃ t, s.fpMinMax g mx = .next t ∧ VectorWrites s t [g.a, g.b] 2 g.d (fpTag g.t) (fpW g.t) (s.lanes (fpW g.t)) (s.masked g.k)
      (fun i => fMinMax (fpFmt g.t) mx (lane (s.vread g.a) (fpW g.t) i) (lane (s.vread g.b) (fpW g.t) i)) (fun _ => 0) [] :=
  vectorOp_lanes (fpW_pos g.t) (by simpa using tagged) good 2 g.d (fpTag g.t) fun _ _ _ => ⟨rfl, rfl⟩

/-- Settles O11: each instruction writes by `vectorOp_lanes` or `vectorOp_mask` the lanes that its definition computes. -/
theorem vectorFloatArithmeticAndCompares : Obligations.VectorFloatArithmeticAndCompares := by
  refine ⟨⟨?vadd, ?vsub, ?vmul, ?vfma, ?vfms, ?vnfma, ?vmadd, ?vscale⟩,
    fun s g good tagged => ⟨fpMinMax_writes good tagged false, fpMinMax_writes good tagged true⟩, ?vcmp⟩
  case vadd => exact floatOp_of_fpOp fun _ _ => rfl
  case vsub => exact floatOp_of_fpOp fun _ _ => rfl
  case vmul => exact floatOp_of_fpOp fun _ _ => rfl
  case vfma => exact floatOp_of_fpOp fun _ _ => rfl
  case vfms => exact floatOp_of_fpOp fun _ _ => rfl
  case vnfma => exact floatOp_of_fpOp fun _ _ => rfl
  case vmadd => exact floatOp_of_fpOp fun _ _ => rfl
  case vscale =>
    intro s g good tagged
    rw [← intTag_of_fpW] at tagged
    refine vectorOp_lanes (fpW_pos g.t) (by simpa using tagged) good 4 g.d (fpTag g.t) fun i _ _ => ?_
    rw [toSigned_lane]
    exact ⟨rfl, rfl⟩
  case vcmp =>
    intro s g good tagged
    exact vectorOp_mask (by simpa using tagged) good g.kd _ _ _

end Sys2Proof.Machine
end

section
/-! SUPPORT. The elementary functions (R148), VTUNPK and VCVT (R96, R97, R151, R152), and obligation O12. -/
namespace Sys2Proof.Machine

/-! ## Integers put into lanes -/

theorem intRange_eq (w : Nat) (sgn : Bool) : intRange w sgn = (intMin w sgn, intMax w sgn) := by
  cases sgn <;> simp [intRange, intMin, intMax]

theorem ofSigned_eq (w : Nat) (x : Int) : ofSigned w x = (x % 2 ^ w).toNat := by
  unfold ofSigned
  rw [Nat.cast_pow, Nat.cast_ofNat]

theorem intMin_le_intMax (w : Nat) (sgn : Bool) : intMin w sgn ≤ intMax w sgn := by
  have half := Nat.two_pow_pos (w - 1)
  have whole := Nat.two_pow_pos w
  cases sgn <;> simp only [intMin, intMax, if_true, Bool.false_eq_true, if_false] <;> omega

/-- An exact integer, wrapped or clamped, and the flag of the clamp (R81, R130). -/
theorem intResult_eq (w : Nat) (sgn sat : Bool) (x : Int) : intResult w sgn sat x = (narrowed w sgn sat x, satMet w sgn sat x) := by
  have ordered := intMin_le_intMax w sgn
  unfold intResult narrowed satMet
  simp only [intRange_eq, ofSigned_eq]
  cases sat
  case false => simp
  case true =>
    by_cases below : x < intMin w sgn
    · have clamped : max (intMin w sgn) (min (intMax w sgn) x) = intMin w sgn := by omega
      simp [below, clamped, fSAT]
    · by_cases above : intMax w sgn < x
      · have clamped : max (intMin w sgn) (min (intMax w sgn) x) = intMax w sgn := by omega
        simp [below, above, clamped, fSAT]
      · have kept : max (intMin w sgn) (min (intMax w sgn) x) = x := by omega
        simp [below, above, kept]

theorem narrowed_wrap (w : Nat) (sgn : Bool) (x : Int) : narrowed w sgn false x = ofSigned w x := (ofSigned_eq w x).symm

/-! ## One floating source -/

theorem floatUnary_of_fpUn {op : FpUnArgs → Instr} {lat : Nat} {tag : FpType → Fin 16} {f : FpUnArgs → Nat → Nat × FFlags}
    (runs : ∀ g s, exec (op g) s = s.fpUn g lat (tag g.t) (f g)) : FloatUnary op lat tag f := by
  intro s g good tagged
  exact runs_of_eq (runs g s) (vectorOp_lanes (fpW_pos g.t) (by simpa using tagged) good lat g.d (tag g.t) fun _ _ _ => ⟨rfl, rfl⟩)

theorem exec_vclass (g : FpUnArgs) (s : State) : exec (.vclass g) s =
    s.fpUn g 3 (if g.t = .fp32 then 12 else 11) fun b => (vclassLane (fpFmt g.t) b, 0) := by
  rw [← intTag_of_fpW]
  rfl

/-! ## VTUNPK -/

/-- The weights of a legal T5 byte are its base-3 digits less 1, the most significant first; an illegal byte has zeros (R97). -/
theorem t5Weight_eq (b : Nat) {i : Nat} (hi : i < 5) :
    t5Weight b i = if b < 243 then ((b / 3 ^ (4 - i) % 3 : Nat) : Int) - 1 else 0 := by
  have digits : ∀ b < 243, ∀ i < 5, t5Weight b i = ((b / 3 ^ (4 - i) % 3 : Nat) : Int) - 1 := by decide +kernel
  split
  case isTrue legal => exact digits b legal i hi
  case isFalse illegal => exact if_pos (not_lt.1 illegal)

/-- Settles O12: a floating function of one source is `State.fpUn`; VTUNPK writes the digits of its bytes, VCVT its converted elements. -/
theorem vectorFunctionsAndConversions : Obligations.VectorFunctionsAndConversions := by
  refine ⟨⟨?vrnd, ?vrcp, ?vrsq, ?vexp2, ?vlog2, ?vclass⟩, ?vtunpk, ?vcvt⟩
  case vrnd => exact floatUnary_of_fpUn fun _ _ => rfl
  case vrcp => exact floatUnary_of_fpUn fun _ _ => rfl
  case vrsq => exact floatUnary_of_fpUn fun _ _ => rfl
  case vexp2 => exact floatUnary_of_fpUn fun _ _ => rfl
  case vlog2 => exact floatUnary_of_fpUn fun _ _ => rfl
  case vclass => exact floatUnary_of_fpUn exec_vclass
  case vtunpk =>
    intro s d a raw k good tagged nb byte digit
    have accepted : (raw || s.tagOk a 14) = true := by simpa using tagged
    obtain ⟨bits, written, are⟩ := maskWrite_bits 0 nb (fun _ => true) fun j => s.masked k j && decide (243 ≤ byte j)
    obtain ⟨t, step, writes⟩ := vectorOp_writes (w := 8) (n := 5 * nb) (act := fun i => s.masked k (i / 5))
      (f := fun i =>
        (ofSigned 8 (t5Weight (byte (i / 5)) (i % 5)), if s.masked k (i / 5) && decide (243 ≤ byte (i / 5)) then fTERN else 0))
      (val := fun i => narrowed 8 true false (if byte (i / 5) < 243 then digit (i / 5) (i % 5) else 0))
      (fl := fun i => if byte (i / 5) < 243 then 0 else 64) (by decide) accepted good 3 d 10
      [maskWrite 0 nb (fun _ => true) fun j => s.masked k j && decide (243 ≤ byte j)] fun i _ active => by
        refine ⟨by rw [narrowed_wrap, t5Weight_eq _ (Nat.mod_lt i (by decide))], ?_⟩
        by_cases legal : byte (i / 5) < 243
        · simp [legal, not_le.2 legal]
        · simp [legal, not_lt.1 legal, show s.masked k (i / 5) = true from active, fTERN]
    rw [written] at writes
    refine ⟨t, step, bits, fun j hj => ?_, writes⟩
    rw [are j hj, Bool.and_true, Bool.and_assoc]
  case vcvt =>
    intro s g good tagged
    exact vectorOp_lanes (cvtW_pos g.dst) tagged good 3 g.d (cvtTag g.dst) fun _ _ _ => ⟨rfl, rfl⟩

end Sys2Proof.Machine
end

section
/-! SUPPORT. The integer and bitwise vector instructions and the dot products (R139 to R141, R143), and obligation O13. -/
namespace Sys2Proof.Machine

/-! ## Lanes of either signedness -/

theorem laneInt_lane (s : State) (v : VSrc) (w : Nat) (sgn : Bool) (i : Nat) :
    laneInt w sgn (lane (s.vread v) w i) = s.elem v w sgn i := by
  cases sgn
  case false => simp [laneInt, State.elem, Nat.mod_eq_of_lt (lane_lt (s.vread v) w i)]
  case true => exact toSigned_lane s v w i

theorem toSigned_eq_toInt {w a : Nat} (hw : 0 < w) (ha : a < 2 ^ w) : toSigned w a = (BitVec.ofNat w a).toInt := by
  have double : 2 ^ w = 2 * 2 ^ (w - 1) := (mul_pow_sub_one hw.ne' 2).symm
  unfold toSigned
  rw [BitVec.toInt_eq_toNat_cond, BitVec.toNat_ofNat, Nat.mod_eq_of_lt ha]
  exact if_congr (by omega) rfl rfl

theorem toSigned_bounds (w a : Nat) : -(2 ^ w : Nat) ≤ toSigned w a ∧ toSigned w a < (2 ^ w : Nat) := by
  have reduced := Nat.mod_lt a (Nat.two_pow_pos w)
  have whole := Nat.two_pow_pos w
  unfold toSigned
  dsimp only
  split <;> omega

theorem laneInt_lt_iff {w a b : Nat} (hw : 0 < w) (sgn : Bool) (ha : a < 2 ^ w) (hb : b < 2 ^ w) : laneInt w sgn a < laneInt w sgn b ↔
    (if sgn then (BitVec.ofNat w a).slt (BitVec.ofNat w b) else decide (a < b)) = true := by
  cases sgn
  case false => simp [laneInt, Nat.mod_eq_of_lt ha, Nat.mod_eq_of_lt hb]
  case true => simp [laneInt, toSigned_eq_toInt hw ha, toSigned_eq_toInt hw hb, BitVec.slt]

/-- A shift by the width or more leaves the sign alone. -/
theorem ediv_pow_min {w b : Nat} {x : Int} (lower : -(2 ^ w : Nat) ≤ x) (upper : x < (2 ^ w : Nat)) :
    x / ((2 ^ min b w : Nat) : Int) = x / 2 ^ b := by
  have sign : ∀ n, w ≤ n → x / (2 ^ n : Int) = if x < 0 then -1 else 0 := by
    intro n hn
    have larger : ((2 ^ w : Nat) : Int) ≤ 2 ^ n := by exact_mod_cast Nat.pow_le_pow_right (by decide) hn
    have pos : (0 : Int) < 2 ^ n := by positivity
    split
    case isTrue neg =>
      have lt := Int.ediv_lt_of_lt_mul pos (show x < 0 * 2 ^ n by omega)
      have le := Int.le_ediv_of_mul_le pos (show -1 * 2 ^ n ≤ x by omega)
      omega
    case isFalse nonneg => exact Int.ediv_eq_zero_of_lt (not_lt.1 nonneg) (by omega)
  rw [Nat.cast_pow, Nat.cast_ofNat]
  rcases le_total b w with small | large
  · rw [min_eq_left small]
  · rw [min_eq_right large, sign w le_rfl, sign b large]

/-! ## Two integer sources -/

theorem integerOp_of_intOp {op : IntSatArgs → Instr} {lat : Nat} {f : Int → Int → Int}
    (runs : ∀ g s, exec (op g) s = s.intOp g lat f) : IntegerOp op lat f := by
  intro s g good tagged
  have accepted : (g.raw || (s.tagOk g.a (laneTag (intLane g.t)) && s.tagOk g.b (laneTag (intLane g.t)))) = true := by
    simpa using tagged
  refine runs_of_eq (runs g s) (vectorOp_lanes (laneW_pos (intLane g.t)) accepted good lat g.d (laneTag (intLane g.t)) fun i _ _ => ?_)
  rw [laneInt_lane, laneInt_lane, intResult_eq]
  exact ⟨rfl, rfl⟩

/-- A typed instruction of major 43, whose function `h` agrees with the model's on lanes. -/
theorem laneOp_of_intLaneOp {op : IntArgs → Instr} {f h : Nat → Bool → Nat → Nat → Nat} (runs : ∀ g s, exec (op g) s = s.intLaneOp g f)
    (same : ∀ w sgn a b, 0 < w → a < 2 ^ w → b < 2 ^ w → f w sgn a b % 2 ^ w = h w sgn a b % 2 ^ w) : LaneOp op true h := by
  intro s g good tagged
  have accepted : (s.tagOk g.a (laneTag (intLane g.t)) && s.tagOk g.b (laneTag (intLane g.t))) = true := by simpa using tagged
  have hw := laneW_pos (intLane g.t)
  exact runs_of_eq (runs g s) (vectorOp_lanes hw accepted good 2 g.d (laneTag (intLane g.t)) fun _ _ _ =>
    ⟨same _ _ _ _ hw (lane_lt _ _ _) (lane_lt _ _ _), rfl⟩)

theorem laneOp_of_bitOp {op : IntArgs → Instr} {f : Nat → Nat → Nat} (runs : ∀ g s, exec (op g) s = s.bitOp g f) :
    LaneOp op false fun _ _ => f := by
  intro s g good _
  exact runs_of_eq (runs g s) (vectorOp_lanes (laneW_pos (intLane g.t)) rfl good 2 g.d (s.vtag g.a) fun _ _ _ => ⟨rfl, rfl⟩)

theorem shl_lane (w a b : Nat) : (if w ≤ b then 0 else a * 2 ^ b % 2 ^ w) % 2 ^ w = (if w ≤ b then 0 else a * 2 ^ b) % 2 ^ w := by
  split
  · rfl
  · exact Nat.mod_mod _ _

theorem sra_lane {w a : Nat} (b : Nat) (hw : 0 < w) (ha : a < 2 ^ w) :
    ofSigned w (Int.fdiv (toSigned w a) ((2 ^ min b w : Nat) : Int)) = ((BitVec.ofNat w a).toInt / 2 ^ b % 2 ^ w).toNat := by
  obtain ⟨lower, upper⟩ := toSigned_bounds w a
  rw [ofSigned_eq, Int.fdiv_eq_ediv_of_nonneg _ (Int.natCast_nonneg _), ediv_pow_min lower upper, toSigned_eq_toInt hw ha]

/-! ## Comparisons -/

theorem laneCond_elem (s : State) (u v : VSrc) (w i : Nat) (c : Cond) :
    laneCond c w (lane (s.vread u) w i) (lane (s.vread v) w i) =
      let x := s.elem u w true i
      let y := s.elem v w true i
      let m := s.elem u w false i
      let n := s.elem v w false i
      match c with
      | .eq => m = n | .ne => m ≠ n | .lt => x < y | .le => x ≤ y | .gt => x > y | .ge => x ≥ y
      | .ltn => m < n | .len => m ≤ n | .gtn => m > n | .gen => m ≥ n := by
  unfold laneCond
  rw [toSigned_lane, toSigned_lane]
  cases c <;> simp [State.elem]

/-! ## Dot products -/

/-- A byte of a dot product's source: zero at or beyond VLEN (R143). -/
def State.dotByte (s : State) (v : VSrc) (sgn : Bool) (j : Nat) : Int := if j < s.mySeat.vec.vlen.toNat then s.elem v 8 sgn j else 0

/-- The exact sum of lane i of a dot product (R143). -/
def State.dotSum (s : State) (g : DotArgs) (sgn : Bool) (f : Int → Int → Int) (i : Nat) : Int :=
  let pair (j : Nat) : Int := f (s.dotByte g.a sgn (4 * i + j)) (s.dotByte g.b sgn (4 * i + j))
  s.elem (.v g.d) 32 sgn i + pair 0 + pair 1 + pair 2 + pair 3

theorem dotOp_writes {s : State} {g : DotArgs} (good : SlotsGood s [g.a, g.b])
    (tagged : g.raw = true ∨ s.tagOk g.a 10 = true ∧ s.tagOk g.b 10 = true ∧ s.tagOk (.v g.d) 12 = true) (sgn : Bool)
    (f : Int → Int → Int) : ∃ t, s.dotOp g sgn f = .next t ∧
      VectorWrites s t [g.a, g.b] 4 g.d 12 32 (s.lanes 32) (s.masked g.k) (fun i => narrowed 32 sgn g.sat (s.dotSum g sgn f i))
        (fun i => satMet 32 sgn g.sat (s.dotSum g sgn f i)) [] := by
  have accepted : (g.raw || (s.tagOk g.a 10 && s.tagOk g.b 10 && s.tagOk (.v g.d) 12)) = true := by simpa [and_assoc] using tagged
  refine vectorOp_lanes (by decide) accepted good 4 g.d 12 fun i _ _ => ?_
  simp only [laneInt_lane, intResult_eq]
  exact ⟨rfl, rfl⟩

/-- Settles O13: each instruction writes by `vectorOp_lanes` or `vectorOp_mask` what its function of the lanes gives. -/
theorem vectorIntegersAndDotProducts : Obligations.VectorIntegersAndDotProducts := by
  refine ⟨⟨?vadd, ?vsub, ?vmul, ?vmin, ?vmax, ?vshl, ?vshr, ?vsra, ?vand, ?vor, ?vxor, ?vcmp⟩, ?dots⟩
  case vadd => exact integerOp_of_intOp fun _ _ => rfl
  case vsub => exact integerOp_of_intOp fun _ _ => rfl
  case vmul => exact integerOp_of_intOp fun _ _ => rfl
  case vmin =>
    refine laneOp_of_intLaneOp (f := fun w sgn a b => if laneInt w sgn b < laneInt w sgn a then b else a) (fun _ _ => rfl) ?_
    exact fun w sgn a b hw ha hb => congrArg (· % 2 ^ w) (if_congr (laneInt_lt_iff hw sgn hb ha) rfl rfl)
  case vmax =>
    refine laneOp_of_intLaneOp (f := fun w sgn a b => if laneInt w sgn a < laneInt w sgn b then b else a) (fun _ _ => rfl) ?_
    exact fun w sgn a b hw ha hb => congrArg (· % 2 ^ w) (if_congr (laneInt_lt_iff hw sgn ha hb) rfl rfl)
  case vshl =>
    exact laneOp_of_intLaneOp (f := fun w _ a b => if w ≤ b then 0 else a * 2 ^ b % 2 ^ w) (fun _ _ => rfl)
      fun w _ a b _ _ _ => shl_lane w a b
  case vshr =>
    exact laneOp_of_intLaneOp (f := fun w _ a b => if w ≤ b then 0 else a / 2 ^ b) (fun _ _ => rfl) fun _ _ _ _ _ _ _ => rfl
  case vsra =>
    exact laneOp_of_intLaneOp (f := fun w _ a b => ofSigned w (Int.fdiv (toSigned w a) ((2 ^ min b w : Nat) : Int))) (fun _ _ => rfl)
      fun w _ _ b hw ha _ => congrArg (· % 2 ^ w) (sra_lane b hw ha)
  case vand => exact laneOp_of_bitOp fun _ _ => rfl
  case vor => exact laneOp_of_bitOp fun _ _ => rfl
  case vxor => exact laneOp_of_bitOp fun _ _ => rfl
  case vcmp =>
    intro s g good tagA tagB
    have accepted : (s.tagOk g.a (laneTag g.w) && s.tagOk g.b (laneTag g.w)) = true := by rw [tagA, tagB]; rfl
    obtain ⟨t, step, bits, are, went⟩ := vectorOp_mask accepted good g.kd (s.lanes (laneW g.w)) (s.masked g.k)
      fun i => laneCond g.c (laneW g.w) (lane (s.vread g.a) (laneW g.w) i) (lane (s.vread g.b) (laneW g.w) i)
    exact ⟨t, step, bits, fun i hi => (are i hi).trans (congrArg _ (laneCond_elem s g.a g.b (laneW g.w) i g.c)), went⟩
  case dots =>
    intro s g good tagged byte sum done
    refine ⟨?i8, ?n8, ?tacc⟩
    case i8 => exact runs_of_eq (r := s.dotOp g true (· * ·)) rfl (dotOp_writes good tagged true (· * ·))
    case n8 => exact runs_of_eq (r := s.dotOp g false (· * ·)) rfl (dotOp_writes good tagged false (· * ·))
    case tacc =>
      exact runs_of_eq rfl (dotOp_writes (g := { g with sat := false }) good tagged true fun a b =>
        if a > 0 then b else if a < 0 then -b else 0)

end Sys2Proof.Machine
end

section
/-! SUPPORT. Vector data movement (R142), and obligation O14. -/
namespace Sys2Proof.Machine

/-- A data movement: lane i of the result is `m` of the data of va, vb and vd, the width, L and i, which is `f` of their lanes. -/
theorem moveOp_of_lanes {op : MoveArgs → Instr} {m : VData → VData → VData → Nat → Nat → Nat → Nat}
    {f : Nat → Nat → (Nat → Nat) → (Nat → Nat) → (Nat → Nat) → Nat}
    (runs : ∀ g s, exec (op g) s = s.moveOp g (m (s.vread g.a) (s.vread g.b) (s.vread (.v g.d))))
    (same : ∀ a b d w n i, i < n → m a b d w n i = f n i (lane a w) (lane b w) (lane d w)) : MoveOp op f := by
  intro s g good
  exact runs_of_eq (runs g s) (vectorOp_lanes (laneW_pos g.w) rfl good 3 g.d (s.vtag g.a) fun i hi _ =>
    ⟨congrArg (· % 2 ^ laneW g.w) (same _ _ _ _ _ i hi), rfl⟩)

section
variable (a b : VData) (w n i : Nat)

theorem zipLane_low : zipLane a b 0 w n i = if n ≤ i / 2 then 0 else if i % 2 = 0 then lane a w (i / 2) else lane b w (i / 2) := by
  unfold zipLane
  dsimp only
  rw [Nat.zero_mul, Nat.zero_add]
  exact if_congr Iff.rfl rfl (apply_ite (lane · w (i / 2)) _ _ _)

theorem zipLane_high : zipLane a b 1 w n i =
    let k := (n + 1) / 2 + i / 2
    if n ≤ k then 0 else if i % 2 = 0 then lane a w k else lane b w k := by
  unfold zipLane
  dsimp only
  rw [Nat.one_mul]
  exact if_congr Iff.rfl rfl (apply_ite (lane · w ((n + 1) / 2 + i / 2)) _ _ _)

/-- The even lanes of two sources: below L every index falls into one of them. -/
theorem uzpLane_even {i : Nat} (hi : i < n) : uzpLane a b 0 w n i = if 2 * i < n then lane a w (2 * i) else lane b w (2 * i - n) := by
  unfold uzpLane
  dsimp only
  rw [Nat.add_zero, if_pos (show 2 * i - n < n by omega)]

theorem uzpLane_odd : uzpLane a b 1 w n i =
    if 2 * i + 1 < n then lane a w (2 * i + 1) else if 2 * i + 1 < 2 * n then lane b w (2 * i + 1 - n) else 0 := by
  unfold uzpLane
  dsimp only
  by_cases first : 2 * i + 1 < n
  · rw [if_pos first, if_pos first]
  · rw [if_neg first, if_neg first]
    exact if_congr (by omega) rfl rfl

end

/-- Settles O14: each movement's index formula is the model's; VSEL is `vectorOp_lanes` with every lane active. -/
theorem vectorMoves : Obligations.VectorMoves := by
  refine ⟨?vsel, ?vperm, ?vshuf, ?vzip0, ?vzip1, ?vuzp0, ?vuzp1, ?vslide0, ?vslide1⟩
  case vsel =>
    intro s g good
    exact vectorOp_lanes (laneW_pos g.w) rfl good 3 g.d (s.vtag g.a) fun _ _ _ => ⟨rfl, rfl⟩
  case vperm =>
    exact moveOp_of_lanes (m := fun a b _ w n i => if lane b w i < n then lane a w (lane b w i) else 0) (fun _ _ => rfl)
      fun _ _ _ _ _ _ _ => rfl
  case vshuf =>
    exact moveOp_of_lanes
      (m := fun a b d w n i => if lane b w i < n then lane a w (lane b w i) else if lane b w i < 2 * n then lane d w (lane b w i - n) else 0)
      (fun _ _ => rfl) fun _ _ _ _ _ _ _ => rfl
  case vzip0 => exact moveOp_of_lanes (m := fun a b _ => zipLane a b 0) (fun _ _ => rfl) fun a b _ w n i _ => zipLane_low a b w n i
  case vzip1 => exact moveOp_of_lanes (m := fun a b _ => zipLane a b 1) (fun _ _ => rfl) fun a b _ w n i _ => zipLane_high a b w n i
  case vuzp0 => exact moveOp_of_lanes (m := fun a b _ => uzpLane a b 0) (fun _ _ => rfl) fun a b _ w n _ hi => uzpLane_even a b w n hi
  case vuzp1 => exact moveOp_of_lanes (m := fun a b _ => uzpLane a b 1) (fun _ _ => rfl) fun a b _ w n i _ => uzpLane_odd a b w n i
  case vslide0 =>
    exact moveOp_of_lanes (m := fun a b _ w _ i => if lane b w 0 ≤ i then lane a w (i - lane b w 0) else 0) (fun _ _ => rfl)
      fun _ _ _ _ _ _ _ => rfl
  case vslide1 =>
    exact moveOp_of_lanes (m := fun a b _ w n i => if i + lane b w 0 < n then lane a w (i + lane b w 0) else 0) (fun _ _ => rfl)
      fun _ _ _ _ _ _ _ => rfl

end Sys2Proof.Machine
end

section
/-! SUPPORT. VMOV, VIDX, VSETVL (R146), VNEG, VABS and VNOT (R147), and obligation O15. -/
namespace Sys2Proof.Machine

/-! ## One scalar source -/

theorem slotsGood_nil (s : State) : SlotsGood s [] := fun _ mem => absurd mem List.not_mem_nil

@[simp] theorem State.take_c (s : State) (a : SSpec) : (s.take a).mySeat.c = s.mySeat.c := by
  rw [State.take_eq, State.modMySeat_mySeat, Seat.takeSrc_c]

@[simp] theorem State.take_vec (s : State) (a : SSpec) : (s.take a).mySeat.vec = s.mySeat.vec := by
  rw [State.take_eq, State.modMySeat_mySeat, Seat.takeSrc_rrb]

/-- A vector instruction of one scalar source, once that is ready (R102). -/
theorem scalarRead_ready {s : State} {a : SSpec} (ready : Ready s [a] []) (r : Res) :
    (if !s.classOk [a] [] then s.raiseClass else match s.blocked [a] [] with | some why => s.stall why | none => r) = r := by
  rw [ready.1, ready.2]
  rfl

theorem exec_vsetvl {s : State} {d : Fin 32} {a : SSpec} {w : LaneW} (ready : Ready s [a] []) :
    let n := min ((s.peek a).toInt.toNat * laneW w / 8) 256
    exec (.vsetvl d a w) s =
      (s.take a).vectorOp true [] 2 [.vlen (BitVec.ofNat 64 n), .xreg d (BitVec.ofNat 64 (n * 8 / laneW w))] :=
  scalarRead_ready ready _

/-! ## Signs -/

/-- The lane that VNEG or VABS gives of a floating lane (R147, log 52). -/
def signLane (t : FpType) (abs : Bool) (b : Nat) : Nat :=
  if (fpFmt t).dec false b = .nan then (fpFmt t).qnan else if abs then b % 2 ^ (fpW t - 1) else b ^^^ 2 ^ (fpW t - 1)

section
variable {s : State} {g : UnArgs}

theorem signOp_fp_writes {t : FpType} {raw : Bool} (type : g.ty = .fp t raw) (good : SlotsGood s [g.a])
    (tagged : raw = true ∨ s.tagOk g.a (fpTag t) = true) (abs : Bool) : ∃ u, s.signOp g abs = .next u ∧
      VectorWrites s u [g.a] 2 g.d (fpTag t) (fpW t) (s.lanes (fpW t)) (s.masked g.k)
        (fun i => signLane t abs (lane (s.vread g.a) (fpW t) i)) (fun _ => 0) [] := by
  unfold State.signOp
  rw [type]
  dsimp only
  rw [fpFmt_width]
  exact vectorOp_lanes (fpW_pos t) (by simpa using tagged) good 2 g.d (fpTag t) fun _ _ _ => ⟨rfl, rfl⟩

theorem signOp_int_writes {w : LaneW} {sat : Bool} (type : g.ty = .int w sat) (good : SlotsGood s [g.a])
    (tagged : s.tagOk g.a (laneTag w) = true) (abs : Bool) :
    let x (i : Nat) : Int := let v := s.elem g.a (laneW w) true i; if abs then |v| else -v
    ∃ u, s.signOp g abs = .next u ∧
      VectorWrites s u [g.a] 2 g.d (laneTag w) (laneW w) (s.lanes (laneW w)) (s.masked g.k)
        (fun i => narrowed (laneW w) true sat (x i)) (fun i => satMet (laneW w) true sat (x i)) [] := by
  unfold State.signOp
  rw [type]
  refine vectorOp_lanes (laneW_pos w) tagged good 2 g.d (laneTag w) fun i _ _ => ?_
  rw [toSigned_lane, intResult_eq, Int.natCast_natAbs]
  exact ⟨rfl, rfl⟩

end

/-- Settles O15: the instructions write by `vectorOp_lanes`; VMOV to a queue and VSETVL are `vectorOp_went` with their results. -/
theorem vectorOneSource : Obligations.VectorOneSource := by
  refine ⟨?vmov, ?vmovQ, ?vidx, ?vsetvl, ?fp, ?int, ?vnot⟩
  case vmov =>
    intro s g good tagged
    have accepted : (decide (g.tag = 0) || s.tagOk g.a g.tag) = true := by
      by_cases copies : g.tag = 0
      · simp [copies]
      · simp [tagged copies]
    exact runs_of_eq (exec_vmov s g) (vectorOp_lanes (by decide) accepted good 2 g.d _ fun _ _ _ => ⟨rfl, rfl⟩)
  case vmovQ =>
    intro s q9 a good room
    have meaning : exec (.vmovQ q9 a) s = s.vectorOp true [a] 2 [.queue (if q9 then 9 else 8) (s.vread a)] :=
      if_neg (by simp [room])
    exact runs_of_eq meaning (vectorOp_went rfl good 2 _)
  case vidx =>
    intro s d w k
    exact vectorOp_lanes (laneW_pos w) rfl (slotsGood_nil s) 2 d (laneTag w) fun _ _ _ => ⟨rfl, rfl⟩
  case vsetvl =>
    intro s d a w ready
    have went := vectorOp_went (s := s.take a) rfl (slotsGood_nil _) 2
      [.vlen (BitVec.ofNat 64 (min ((s.peek a).toInt.toNat * laneW w / 8) 256)),
        .xreg d (BitVec.ofNat 64 (min ((s.peek a).toInt.toNat * laneW w / 8) 256 * 8 / laneW w))]
    rw [State.take_c] at went
    exact runs_of_eq (exec_vsetvl ready) went
  case fp =>
    intro s g t raw type good tagged
    refine ⟨runs_of_eq (r := s.signOp g false) rfl ?neg, runs_of_eq (r := s.signOp g true) rfl ?abs⟩
    case neg => simpa [signLane] using signOp_fp_writes type good tagged false
    case abs => simpa [signLane] using signOp_fp_writes type good tagged true
  case int =>
    intro s g w sat type good tagged
    exact ⟨runs_of_eq rfl (signOp_int_writes type good tagged false), runs_of_eq rfl (signOp_int_writes type good tagged true)⟩
  case vnot =>
    intro s d a w k good
    exact vectorOp_lanes (laneW_pos w) rfl good 2 d (s.vtag a) fun _ _ _ => ⟨rfl, rfl⟩

end Sys2Proof.Machine
end

section
/-! SUPPORT. The reductions (R149), VBCAST and VEXTR (R150), and obligation O16. -/
namespace Sys2Proof.Machine

/-! ## Lane 0 alone -/

/-- The write of lane 0 is that of a single active lane. -/
theorem State.lane0_eq (s : State) (d : Fin 32) (w : Nat) (tag : Fin 16) (x : Nat × FFlags) :
    s.lane0 d w tag x = s.vwrite d tag (runLanes w 1 (fun _ => true) fun _ => x) := by
  have whole : ones w % 2 ^ w = ones w := Nat.mod_eq_of_lt (Nat.sub_lt (Nat.two_pow_pos w) Nat.one_pos)
  have one : runLanes w 1 (fun _ => true) (fun _ => x) = ⟨BitVec.ofNat 2048 (x.1 % 2 ^ w), BitVec.ofNat 2048 (ones w), x.2⟩ := by
    simp [runLanes, packLanes, whole]
  rw [one]
  rfl

theorem vectorOp_lane0 {s : State} {tags : Bool} {srcs : List VSrc} {w v : Nat} {x : Nat × FFlags} {fl : FFlags} (hw : 0 < w)
    (tagged : tags = true) (good : SlotsGood s srcs) (lat : Nat) (d : Fin 32) (tag : Fin 16) (same : x = (v, fl)) :
    ∃ t, s.vectorOp tags srcs lat (s.lane0 d w tag x) = .next t ∧
      VectorWrites s t srcs lat d tag w 1 (fun _ => true) (fun _ => v) (fun _ => fl) [] := by
  rw [State.lane0_eq, same]
  exact vectorOp_lanes hw tagged good lat d tag fun _ _ _ => ⟨rfl, rfl⟩

/-! ## Reductions -/

/-- The active lanes of a source as integers. -/
def State.activeElems (s : State) (a : VSrc) (w : Nat) (sgn : Bool) (k : Fin 8) : List Int :=
  ((List.range (s.lanes w)).filter fun i => s.masked k i).map fun i => s.elem a w sgn i

/-- A reduction of the active lanes as integers. -/
theorem State.foldl_activeLanes (s : State) (a : VSrc) (w : Nat) (sgn : Bool) (k : Fin 8) (f : Int → Int → Int) (x : Int) :
    (s.activeLanes a w k).foldl (fun acc v => f acc (laneInt w sgn v)) x = (s.activeElems a w sgn k).foldl f x := by
  unfold State.activeLanes State.activeElems
  rw [List.foldl_map, List.foldl_map]
  simp only [laneInt_lane]

section
variable {s : State} {g : VredArgs}

theorem vredadd_int_writes {w : LaneW} {un sat raw : Bool} (type : g.ty = .int w un sat raw) (good : SlotsGood s [g.a])
    (tagged : raw = true ∨ s.tagOk g.a (laneTag w) = true) :
    let x := (s.activeElems g.a (laneW w) (!un) g.k).sum
    Runs (.vredadd g) s fun u => VectorWrites s u [g.a] 6 g.d (laneTag w) (laneW w) 1 (fun _ => true)
      (fun _ => narrowed (laneW w) (!un) sat x) (fun _ => satMet (laneW w) (!un) sat x) [] := by
  intro x
  have total : (s.activeLanes g.a (laneW w) g.k).foldl (fun acc v => acc + laneInt (laneW w) (!un) v) 0 = x :=
    (s.foldl_activeLanes g.a (laneW w) (!un) g.k (· + ·) 0).trans List.sum_eq_foldl.symm
  refine runs_of_eq (r := execVredadd g s) rfl ?_
  unfold execVredadd
  rw [type]
  exact vectorOp_lane0 (laneW_pos w) (by simpa using tagged) good 6 g.d (laneTag w) (by rw [total, intResult_eq])

theorem extreme_int_writes {w : LaneW} {un sat raw : Bool} (type : g.ty = .int w un sat raw) (good : SlotsGood s [g.a])
    (tagged : raw = true ∨ s.tagOk g.a (laneTag w) = true) (mx : Bool) :
    let xs := s.activeElems g.a (laneW w) (!un) g.k
    let range := intRange (laneW w) (!un)
    ∃ u, s.extreme g mx = .next u ∧ VectorWrites s u [g.a] 6 g.d (laneTag w) (laneW w) 1 (fun _ => true)
      (fun _ => narrowed (laneW w) (!un) false (if mx then xs.foldl max range.1 else xs.foldl min range.2)) (fun _ => 0) [] := by
  intro xs range
  have best := s.foldl_activeLanes g.a (laneW w) (!un) g.k (fun acc x => if mx then max acc x else min acc x)
    (if mx then range.1 else range.2)
  unfold State.extreme
  rw [type]
  refine vectorOp_lane0 (laneW_pos w) (by simpa using tagged) good 6 g.d (laneTag w) ?_
  simp only [range, intRange_eq] at best
  simp only [range, intRange_eq, narrowed_wrap, best]
  cases mx <;> rfl

/-- The greatest or the least of floating lanes in the order of R138, an infinity when there is none (R149). -/
def fpBest (f : Fmt) (mx : Bool) : List Nat → Nat
  | [] => f.infinity mx
  | x :: l => l.foldl (fMinMax f mx) (fMinMax f mx x x)

theorem extreme_fp_writes {t : FpType} {r : Rnd} {raw : Bool} (type : g.ty = .fp t r raw) (good : SlotsGood s [g.a])
    (tagged : raw = true ∨ s.tagOk g.a (fpTag t) = true) (mx : Bool) :
    ∃ u, s.extreme g mx = .next u ∧ VectorWrites s u [g.a] 6 g.d (fpTag t) (fpW t) 1 (fun _ => true)
      (fun _ => fpBest (fpFmt t) mx (s.activeLanes g.a (fpW t) g.k)) (fun _ => 0) [] := by
  unfold State.extreme
  rw [type]
  refine vectorOp_lane0 (fpW_pos t) (by simpa using tagged) good 6 g.d (fpTag t) ?_
  cases s.activeLanes g.a (fpW t) g.k <;> rfl

theorem vredadd_fp_writes {t : FpType} {r : Rnd} {raw : Bool} (type : g.ty = .fp t r raw) (good : SlotsGood s [g.a])
    (tagged : raw = true ∨ s.tagOk g.a (fpTag t) = true) :
    Runs (.vredadd g) s fun u => VectorWrites s u [g.a] 6 g.d (fpTag t) (fpW t) 1 (fun _ => true)
      (fun _ => (s.fpSum g.a g.k t r).1) (fun _ => (s.fpSum g.a g.k t r).2) [] := by
  refine runs_of_eq (r := execVredadd g s) rfl ?_
  unfold execVredadd
  rw [type]
  exact vectorOp_lane0 (fpW_pos t) (by simpa using tagged) good 6 g.d (fpTag t) rfl

end

/-! ## Between lanes and files -/

theorem State.vwrite_take (s : State) (a : SSpec) (d : Fin 32) (tag : Fin 16) (o : LaneOut) :
    (s.take a).vwrite d tag o = s.vwrite d tag o := by
  unfold State.vwrite
  rw [State.take_vec]

/-- VBCAST of a scalar that is ready. -/
theorem vbcastScalar_writes {s : State} {d : Fin 32} {a : SSpec} {tag : Fin 16} {k : Fin 8} (ready : Ready s [a] []) :
    Runs (.vbcastScalar d a tag k) s fun t => VectorWrites (s.take a) t [] 3 d tag (tagWidth tag) (s.lanes (tagWidth tag)) (s.masked k)
      (fun _ => (s.peek a).toNat) (fun _ => 0) [] := by
  refine runs_of_eq (scalarRead_ready ready _) ?_
  dsimp only
  rw [← State.vwrite_take s a]
  exact vectorOp_lanes (tagWidth_pos tag) rfl (slotsGood_nil _) 3 d tag fun _ _ _ => ⟨Nat.mod_mod _ _, rfl⟩

/-- A lane extended to an x register (R150). -/
theorem extended_lane (s : State) (a : VSrc) (w : Nat) (sgn : Bool) (i : Nat) :
    (if sgn then signExt w (lane (s.vread a) w i) else BitVec.ofNat 64 (lane (s.vread a) w i)) = BitVec.ofInt 64 (s.elem a w sgn i) := by
  cases sgn
  case false => exact (BitVec.ofInt_natCast 64 (lane (s.vread a) w i)).symm
  case true => exact congrArg (BitVec.ofInt 64) (toSigned_lane s a w i)

/-- Settles O16: a reduction is `vectorOp_lane0` with its value, VBCAST `vectorOp_lanes`, VEXTR `vectorOp_went`. -/
theorem vectorReductionsAndBroadcasts : Obligations.VectorReductionsAndBroadcasts := by
  refine ⟨?fp, ?int, ?vbcast, fun s d a tag k ready => vbcastScalar_writes ready, ?vextr⟩
  case fp =>
    intro s g t r raw type good tagged
    refine ⟨vredadd_fp_writes type good tagged, runs_of_eq (r := s.extreme g true) rfl ?max, runs_of_eq (r := s.extreme g false) rfl ?min⟩
    case max => exact extreme_fp_writes type good tagged true
    case min => exact extreme_fp_writes type good tagged false
  case int =>
    intro s g w un sat raw type good tagged
    refine ⟨vredadd_int_writes type good tagged, runs_of_eq (r := s.extreme g true) rfl ?max, runs_of_eq (r := s.extreme g false) rfl ?min⟩
    case max => exact extreme_int_writes type good tagged true
    case min => exact extreme_int_writes type good tagged false
  case vbcast =>
    intro s d a w j k good
    exact vectorOp_lanes (laneW_pos w) rfl good 3 d (s.vtag a) fun _ _ _ => ⟨rfl, rfl⟩
  case vextr =>
    intro s g good
    have went := vectorOp_went rfl good 3 [.xreg g.d (BitVec.ofInt 64 (s.elem g.a (laneW g.w) g.sgn g.j.val))]
    rw [← extended_lane] at went
    rw [← extended_lane]
    exact went

end Sys2Proof.Machine
end

section
/-! SUPPORT. Completion of a matrix command (R162, R175, R257, R283), MZERO (R169), and obligation O30. -/
namespace Sys2Proof.Machine

/-! ## Engine queues and cores -/

@[simp] theorem Seat.modEng_getEng (st : Seat) (e : EngineId) (f : EngineCtx → EngineCtx) : (st.modEng e f).getEng e = f (st.getEng e) :=
  vmod_self _ _ _

@[simp] theorem Seat.modEng_tile (st : Seat) (e : EngineId) (f : EngineCtx → EngineCtx) : (st.modEng e f).tile = st.tile := rfl

@[simp] theorem Seat.modEng_vec (st : Seat) (e : EngineId) (f : EngineCtx → EngineCtx) : (st.modEng e f).vec = st.vec := rfl

@[simp] theorem State.modCore_self (s : State) (c : Fin 904) (f : Core → Core) : (s.modCore c f).core[c.val]'c.isLt = f s.core[c] :=
  State.setCore_self _ _ _

/-- What changes a core but not its seats leaves each seat. -/
theorem State.modCore_getSeat (s : State) (r : SeatRef) (f : Core → Core) (seats : (f s.core[r.core]).seat = s.core[r.core].seat) :
    (s.modCore r.core f).getSeat r = s.getSeat r := by
  show ((s.modCore r.core f).core[r.core]).seat[r.seat] = _
  rw [show (s.modCore r.core f).core[r.core] = f s.core[r.core] from State.modCore_self _ _ _, seats]
  rfl

/-! ## What a completion leaves -/

/-- Of memory and of a seat's tiles and vector registers, t has what u has. -/
structure SameFiles (r : SeatRef) (u t : State) : Prop where
  mem  : t.mem = u.mem
  tile : (t.getSeat r).tile = (u.getSeat r).tile
  vec  : (t.getSeat r).vec = (u.getSeat r).vec

variable {s u v t : State} {r : SeatRef}

theorem SameFiles.trans (h : SameFiles r u v) (k : SameFiles r v t) : SameFiles r u t :=
  ⟨k.mem.trans h.mem, k.tile.trans h.tile, k.vec.trans h.vec⟩

theorem sameFiles_ite {c : Prop} [Decidable c] (h : SameFiles r u v) (k : SameFiles r u t) : SameFiles r u (if c then v else t) := by
  split
  · exact h
  · exact k

/-- What changes a seat's engine alone changes none of these. -/
theorem sameFiles_modEng (s : State) (r : SeatRef) (e : EngineId) (f : EngineCtx → EngineCtx) :
    SameFiles r s (s.modSeat r fun st => st.modEng e f) :=
  ⟨rfl, by simp, by simp⟩

/-- What changes a core but not its seats changes none of these. -/
theorem sameFiles_modCore (s : State) (r : SeatRef) (f : Core → Core) (seats : (f s.core[r.core]).seat = s.core[r.core].seat) :
    SameFiles r s (s.modCore r.core f) :=
  have seat := s.modCore_getSeat r f seats
  ⟨rfl, congrArg Seat.tile seat, congrArg Seat.vec seat⟩

theorem sameFiles_finishCmd (s : State) (r : SeatRef) (e : EngineId) (i : Nat) (x : Cmd) : SameFiles r s (s.finishCmd r e i x) := by
  unfold State.finishCmd
  dsimp only
  split
  · refine (sameFiles_modEng s r e _).trans (sameFiles_modCore _ r _ ?_)
    split <;> rfl
  · exact sameFiles_modEng s r e _

/-- A matrix command that is due does its work; what follows its effect concerns the engine and the flags. -/
theorem exec_matrixComplete {i : Nat} {x : Cmd} {j : Instr} (here : ((s.getSeat r).getEng .matrix).queue[i]? = some x)
    (started : x.started = true) (unmoved : x.moved = false) (taken : x.todo = []) (due : x.due ≤ s.core[r.core].live)
    (instr : x.instr .matrix = some j) (runs : s.engineHeld r.core = false) :
    ∃ t, exec (.engineCommandComplete r.core .matrix r.seat i) s = .next t ∧ SameFiles r (s.matrixDo r j x) t := by
  have ready : s.workDue r .matrix x = true := by
    show (decide (x.due ≤ s.core[r.core].live) && x.todo.isEmpty) = true
    rw [taken, decide_eq_true due]
    rfl
  have worked : SameFiles r (s.matrixDo r j x) (s.workCmd r .matrix i x) := by
    unfold State.workCmd
    rw [instr]
    exact (sameFiles_modEng _ r .matrix _).trans (sameFiles_modEng _ r .matrix _)
  have step : exec (.engineCommandComplete r.core .matrix r.seat i) s = execEngineCommandComplete r.core .matrix r.seat i s := rfl
  rw [step]
  unfold execEngineCommandComplete
  simp only [here, started, runs, unmoved, ready, Bool.not_true, Bool.not_false, Bool.or_self, Bool.and_self, if_true, if_false,
    Bool.false_eq_true]
  exact ⟨_, rfl, sameFiles_ite (worked.trans (sameFiles_finishCmd _ r .matrix i x)) worked⟩

/-! ## MZERO -/

/-- Bit k of a word with bit n cleared. -/
theorem bit_and_not_shift (w : Word) (n : Nat) {k : Nat} (hk : k < 64) : bit (w &&& ~~~((1 : Word) <<< n)) k = (bit w k && decide (k ≠ n)) := by
  simp only [bit, BitVec.getLsbD_and, BitVec.getLsbD_not, BitVec.getLsbD_shiftLeft]
  grind

/-- The effect of MZERO on the tiles. -/
theorem Seat.zeroAcc_tile (st : Seat) (a : Fin 4) (m : Bool) :
    let v := (st.zeroAcc a m).tile
    v.a[a] = { data := 0, tag := 15, fp36 := m, hnorm := 0, budget := 0 } ∧ (∀ k, k ≠ a → v.a[k] = st.tile.a[k]) ∧ v.b = st.tile.b ∧
      v.matgeom = st.tile.matgeom ∧ v.srec = st.tile.srec ∧ ∀ k < 64, bit v.mstat k = (bit st.tile.mstat k && decide (k ≠ a.val)) :=
  ⟨vmod_self st.tile.a a fun _ => _, fun _ other => vmod_ne st.tile.a (fun _ => _) other, rfl, rfl, rfl, fun _ hk => bit_and_not_shift _ _ hk⟩

/-- Settles O30: a due MZERO does `Seat.zeroAcc`, and its completion changes nothing else of memory and the tiles. -/
theorem mzeroClearsItsAccumulator : Obligations.MzeroClearsItsAccumulator := by
  refine ⟨?word, rfl, fun s r a m l => rfl, ?effect⟩
  case word =>
    intro a m
    show 0x5000 + a.val * 256 + b2n m * 128 = _
    cases m <;> simp [b2n]
  case effect =>
    intro s r i x a m here started unmoved taken due instr _ runs
    obtain ⟨t, step, same⟩ := exec_matrixComplete here started unmoved taken due instr runs
    refine ⟨t, step, fun k => congrArg (Cells.read · k) same.mem, ?_⟩
    have tile : (t.getSeat r).tile = ((s.getSeat r).zeroAcc a m).tile :=
      same.tile.trans (congrArg Seat.tile (State.modSeat_getSeat s r fun st => st.zeroAcc a m))
    rw [tile]
    exact Seat.zeroAcc_tile (s.getSeat r) a m

end Sys2Proof.Machine
end

section
/-! SUPPORT. A monitor that a store of MSTT wakes (R173, R223), and the refutation of obligation O31. -/
namespace Sys2Proof.Machine

/-! ## A state in which MSTT turns RRB -/

/-- The own slice's word at offset 256. -/
def watchedWord : Place := windowPlace 0x100 false

/-- MSTT b0, started and due, with 8 bytes to store at that word. -/
def storesTile : Cmd :=
  { acc := 1, opc := 17, opnd := 0, attr := Attrs.reset, args := [0x100], met := false, started := true, stuck := false, headAt := 0,
    placedAt := 0, bind := 0, sent := 0, fwd := [], touched := [], due := 0, data := [], todo := [], dest := [(watchedWord, 8)],
    i2 := 0, i1 := 0, k := 0, moved := false }

/-- C at the one instruction of a LOOP's body, in its last trip, where it waits for a word to differ from 0. -/
def waitsAtTripEnd : Stream := { Stream.reset with lc := mkLc 0 1 0 true, ps := 1, wait := .mwait 0x100 0 0 0 [] }

/-- A seat with that command, tile b0 not zero, and that stream. -/
def storesAndWaits : Seat :=
  ({ Seat.reset with tile := { Seat.reset.tile with b := Seat.reset.tile.b.set 0 ⟨1, 0, 0⟩ } }.modEng .matrix fun c =>
    { c with queue := [storesTile] }).modStr .C fun _ => waitsAtTripEnd

/-- The booted package with that seat and the monitor of its C. -/
def wokenByStore : State :=
  { State.reset.setSeat ⟨0, 0⟩ storesAndWaits with bootStat := 1, monitors := [⟨⟨⟨0, 0⟩, .C⟩, watchedWord⟩] }

theorem wokenByStore_rrb : (wokenByStore.getSeat ⟨0, 0⟩).vec.rrb = 0 := by decide +kernel

/-- The store differs from 0, so C's MWAIT ends with the trip, and RRB turns. -/
theorem wokenByStore_turns : ((wokenByStore.matrixDo ⟨0, 0⟩ (.mstt 0 false false) storesTile).getSeat ⟨0, 0⟩).vec.rrb = 1 := by
  decide +kernel

theorem wokenByStore_here : ((wokenByStore.getSeat ⟨0, 0⟩).getEng .matrix).queue[0]? = some storesTile := by decide +kernel

theorem wokenByStore_runs : wokenByStore.engineHeld 0 = false := by decide +kernel

theorem storesTile_instr : storesTile.instr .matrix = some (.mstt 0 false false) := by decide +kernel

/-- Refutes O31: its clause on MSTT has the vector registers unchanged, RRB among them, in every state. Where a stream C at the end of a
trip waits in MWAIT for the bytes stored, the store ends that wait and RRB turns (R119, R223). No run reaches such a state, as MWAIT is
refused to C (`narrowAccepts`), but the clause does not exclude it. -/
theorem not_matrixRegisterCommands : ¬ Obligations.MatrixRegisterCommands := by
  unfold Obligations.MatrixRegisterCommands
  rintro ⟨-, commands⟩
  obtain ⟨-, -, -, -, mstt, -⟩ :=
    commands wokenByStore ⟨0, 0⟩ 0 storesTile wokenByStore_here rfl rfl rfl (Nat.zero_le _) rfl wokenByStore_runs
  obtain ⟨t, step, -, -, vec⟩ := mstt 0 false false storesTile_instr
  obtain ⟨u, effect, same⟩ :=
    exec_matrixComplete wokenByStore_here rfl rfl rfl (Nat.zero_le _) storesTile_instr wokenByStore_runs
  have meets : u = t := Host.Outcome.next.inj (effect.symm.trans step)
  have turned : (t.getSeat ⟨0, 0⟩).vec.rrb = 1 := by rw [← meets, same.vec, wokenByStore_turns]
  rw [vec, wokenByStore_rrb] at turned
  exact absurd turned (by decide)

end Sys2Proof.Machine
end

section
/-! SUPPORT. Placement of a launch word (R277 to R280, R282, R284), the start of an engine's head command (R162, R175, R296, R297, R411),
and obligation O28. -/
namespace Sys2Proof.Machine

/-! ## Placement -/

/-- The core once a command of `Attrs` a has taken its number and has been pushed on its flag. -/
def Core.numbered (c : Core) (a : Attrs) (kind : Fin 4) : Core :=
  if a.s then c.takeAcc.2.pushFlag a.sflag kind c.takeAcc.1 else c.takeAcc.2

/-- But for flags and the next number, the core is as before. -/
theorem Core.numbered_eq (c : Core) (a : Attrs) (kind : Fin 4) :
    c.numbered a kind = { c with flags := (c.numbered a kind).flags, accNext := c.nextAcc + 1 } := by
  unfold Core.numbered
  split <;> rfl

theorem Core.numbered_flags (c : Core) (a : Attrs) (kind : Fin 4) (f : Fin 64) : (c.numbered a kind).flags[f] =
    if a.s && decide (f = a.sflag) then { c.flags[f] with kind := kind, pushed := c.nextAcc.setWidth 32 } else c.flags[f] := by
  unfold Core.numbered
  cases a.s
  case false => rfl
  case true =>
    by_cases same : f = a.sflag
    · subst same
      simp only [decide_true, Bool.and_self, if_true]
      exact vmod_self c.flags _ _
    · simp only [same, decide_false, Bool.and_false, if_true, if_false, Bool.false_eq_true]
      exact vmod_ne c.flags _ same

/-- The command that a launch word of `n` arguments places. -/
def State.newCmd (s : State) (i : Instr) (n bind : Nat) : Cmd :=
  Machine.newCmd i (s.myCore.nextAcc.setWidth 32) s.myEng.attrs (s.myEng.stack.take n) s.myCore.cycle bind
    (s.myEng.queue.all fun x => x.started) (s.onWay s.me.fwd)

/-- The seat once NOTE, when it is pending, has put a command's number in the return queue. -/
def Seat.noted (st : Seat) (note : Bool) (e : EngineId) (acc : BitVec 32) (now : Nat) : Seat :=
  if note then st.modQ (returnQueue e) fun f => f.push (acc.setWidth 2048) now else st

/-- An engine program whose launch word of `n` arguments has queued `x`. -/
def EngineCtx.queued (c : EngineCtx) (x : Cmd) (n : Nat) : EngineCtx :=
  { c with stack := c.stack.drop n, attrs := Attrs.reset, queue := c.queue ++ [x], lastAcc := x.acc, full := false }

/-- An engine program past a launch word of `n` arguments that has placed `x`. -/
def EngineCtx.placed (c : EngineCtx) (x : Cmd) (n now : Nat) : EngineCtx :=
  { c.queued x n with pc := c.pc + 1, stepped := now + 1 }

/-- The running seat after a launch word. -/
def State.placedSeat (s : State) (i : Instr) (n bind : Nat) : Seat :=
  (s.mySeat.noted s.myEng.attrs.note s.turnE (s.newCmd i n bind).acc s.now).modEng s.turnE fun c => c.placed (s.newCmd i n bind) n s.now

/-- The running core after a launch word. -/
def State.placedCore (s : State) (i : Instr) (n bind : Nat) : Core :=
  { s.myCore.numbered s.myEng.attrs s.turnE.idx.castSucc with seat := s.myCore.seat.set s.turn.ref.seat (s.placedSeat i n bind) }

/-- The state after a launch word. -/
def State.placed (s : State) (i : Instr) (n bind : Nat) : State := s.setCore s.turn.ref.core (s.placedCore i n bind)

theorem Seat.modEng_modEng (st : Seat) (e : EngineId) (f g : EngineCtx → EngineCtx) :
    (st.modEng e f).modEng e g = st.modEng e fun c => g (f c) := by
  simp [Seat.modEng, vmod]

theorem Seat.noted_modEng (st : Seat) (note : Bool) (e : EngineId) (acc : BitVec 32) (now : Nat) (f : EngineCtx → EngineCtx) :
    (st.modEng e f).noted note e acc now = (st.noted note e acc now).modEng e f := by
  cases note <;> rfl

theorem Seat.noted_modEng_rest (st : Seat) (note : Bool) (e k : EngineId) (acc : BitVec 32) (now : Nat) (f : EngineCtx → EngineCtx) :
    { (st.noted note e acc now).modEng k f with eng := st.eng, q := st.q } = st := by
  cases note <;> rfl

/-- A word that has executed leaves its program at the next one. -/
theorem State.wordDone_eq (s : State) :
    s.wordDone = s.modMySeat fun st => st.modEng s.turnE fun c => { c with pc := c.pc + 1, stepped := s.now + 1 } :=
  State.modMySeat_congr s (f := fun st => st.modEng s.turnE fun c => { c with pc := s.myEng.pc + 1, stepped := s.now + 1 }) rfl

/-- Replacing the running core and then changing its running seat. -/
theorem State.setCore_modMySeat (s : State) (c : Core) (f : Seat → Seat) : (s.setCore s.turn.ref.core c).modMySeat f =
    s.setCore s.turn.ref.core { c with seat := c.seat.set s.turn.ref.seat (f c.seat[s.turn.ref.seat]) } := by
  simp [State.modMySeat, State.modSeat, State.setSeat, State.getSeat, State.setCore]

variable {s : State} {i : Instr} {n bind : Nat}

/-- Taking the number, popping the arguments, queuing the command, noting it and going on come to the one state `State.placed`. -/
theorem State.placed_eq (s : State) (i : Instr) (n bind : Nat) :
    (((s.setCore s.turn.ref.core (s.myCore.numbered s.myEng.attrs s.turnE.idx.castSucc)).modMySeat fun st =>
      (st.modEng s.turnE fun c => c.queued (s.newCmd i n bind) n).noted s.myEng.attrs.note s.turnE (s.newCmd i n bind).acc s.now).wordDone =
      s.placed i n bind) := by
  have core := s.myCore.numbered_eq s.myEng.attrs s.turnE.idx.castSucc
  rw [State.wordDone_eq, State.modMySeat_now, State.modMySeat_modMySeat, State.setCore_modMySeat]
  have now : (s.setCore s.turn.ref.core (s.myCore.numbered s.myEng.attrs s.turnE.idx.castSucc)).now = s.now := by
    show (s.setCore s.turn.ref.core _).core[s.turn.ref.core].live = _
    rw [show (s.setCore s.turn.ref.core _).core[s.turn.ref.core] = _ from State.setCore_self _ _ _, core]
    rfl
  have seat : (s.myCore.numbered s.myEng.attrs s.turnE.idx.castSucc).seat = s.myCore.seat := by rw [core]
  unfold State.placed State.placedCore
  rw [now, seat]
  refine congrArg (fun st => s.setCore s.turn.ref.core { s.myCore.numbered s.myEng.attrs s.turnE.idx.castSucc with
    seat := s.myCore.seat.set s.turn.ref.seat st }) ?_
  rw [Seat.noted_modEng]
  exact Seat.modEng_modEng _ _ _ _

theorem State.forwardWait_none {c : Core} {a : Attrs}
    (pushed : a.w = true → a.wacc = 0 ∨ a.wacc = c.flags[a.wflag].pushed ∨ accFollows a.wacc c.flags[a.wflag].pushed = true) :
    c.forwardWait a = none := by
  refine if_neg fun waits => ?_
  simp only [Bool.and_eq_true, decide_eq_true_eq, Bool.not_eq_true'] at waits
  obtain ⟨⟨⟨w, notZero⟩, notPushed⟩, notFollowed⟩ := waits
  rcases pushed w with zero | same | follows
  · exact notZero zero
  · exact notPushed same
  · exact absurd follows (by rw [notFollowed]; decide)

/-- A launch word with room, its arguments and no forward wait places its command. -/
theorem State.place_placed (room : s.myEng.queue.length < 16) (gate : s.gated = false) (args : n ≤ s.myEng.stack.length)
    (pushed : s.myEng.attrs.w = true → s.myEng.attrs.wacc = 0 ∨ s.myEng.attrs.wacc = s.myCore.flags[s.myEng.attrs.wflag].pushed ∨
      accFollows s.myEng.attrs.wacc s.myCore.flags[s.myEng.attrs.wflag].pushed = true)
    (noteRoom : s.myEng.attrs.note = true → s.mySeat.qRoom (returnQueue s.turnE) s.now 1 = true) :
    s.place i n bind = .next (s.placed i n bind) := by
  have full : (s.myEng.attrs.note && !s.mySeat.qRoom (returnQueue s.turnE) s.now 1) = false := by
    cases note : s.myEng.attrs.note
    case false => rfl
    case true => rw [noteRoom note]; rfl
  unfold State.place
  simp only [State.forwardWait_none pushed, gate, full, Nat.not_le.2 room, Nat.not_lt.2 args, decide_false, Bool.or_self, if_false,
    Bool.false_eq_true]
  rw [← State.placed_eq]
  cases note : s.myEng.attrs.note
  case false => rfl
  case true => exact congrArg (fun t : State => Host.Outcome.next t.wordDone) (State.modMySeat_modMySeat _ _ _)

theorem EngineId.idx_inj {e k : EngineId} (h : e.idx = k.idx) : e = k := by
  revert h
  cases e <;> cases k <;> decide

theorem State.placed_myCore (s : State) (i : Instr) (n bind : Nat) : (s.placed i n bind).myCore = s.placedCore i n bind :=
  State.setCore_self _ _ _

theorem State.placed_mySeat (s : State) (i : Instr) (n bind : Nat) : (s.placed i n bind).mySeat = s.placedSeat i n bind := by
  show (s.placed i n bind).myCore.seat[s.turn.ref.seat] = _
  rw [State.placed_myCore]
  exact Vector.getElem_set_self _

theorem Seat.noted_eng (st : Seat) (note : Bool) (e : EngineId) (acc : BitVec 32) (now : Nat) : (st.noted note e acc now).eng = st.eng := by
  cases note <;> rfl

theorem Seat.noted_items (st : Seat) (note : Bool) (e : EngineId) (acc : BitVec 32) (now : Nat) (k : Fin 16) :
    if note && decide (k = returnQueue e) then
      Enqueued st.q[k].items (st.noted note e acc now).q[k].items ⟨acc.setWidth 2048, now⟩
    else (st.noted note e acc now).q[k].items = st.q[k].items := by
  cases note
  case false => rfl
  case true =>
    by_cases same : k = returnQueue e
    · subst same
      simp only [decide_true, Bool.and_self, if_true]
      rw [show (st.noted true e acc now).q[returnQueue e] = _ from vmod_self st.q (returnQueue e) fun f => f.push (acc.setWidth 2048) now]
      exact insItem_enqueued _ _
    · simp only [same, decide_false, Bool.and_false, if_false, Bool.false_eq_true]
      exact congrArg Fifo.items (vmod_ne st.q _ same)

theorem State.placed_myEng (s : State) (i : Instr) (n bind : Nat) :
    (s.placed i n bind).myEng = s.myEng.placed (s.newCmd i n bind) n s.now := by
  show (s.placed i n bind).mySeat.getEng s.turnE = _
  rw [State.placed_mySeat]
  refine (Seat.modEng_getEng _ _ _).trans ?_
  unfold Seat.getEng
  rw [Seat.noted_eng]
  rfl

/-- What a launch word has done. -/
theorem State.placed_spec (s : State) (i : Instr) (n bind : Nat) : Placed s (s.placed i n bind) i n bind := by
  have core := State.placed_myCore s i n bind
  have seat := State.placed_mySeat s i n bind
  have numbered := s.myCore.numbered_eq s.myEng.attrs s.turnE.idx.castSucc
  constructor
  case rest => rfl
  case cores => exact fun k other => State.setCore_ne _ _ other
  case mine =>
    rw [core]
    unfold State.placedCore
    rw [numbered]
  case seats =>
    intro k other
    rw [core]
    exact Vector.getElem_set_ne s.turn.ref.seat.isLt k.isLt fun same => other (Fin.ext same.symm)
  case seat =>
    rw [seat]
    exact Seat.noted_modEng_rest s.mySeat _ _ _ _ _ _
  case others =>
    intro e other
    rw [seat]
    refine (vmod_ne _ _ fun same => other (EngineId.idx_inj same)).trans ?_
    rw [Seat.noted_eng]
    rfl
  case number =>
    rw [core]
    unfold State.placedCore
    rw [numbered]
  case ctx => exact ⟨s.newCmd i n bind, State.placed_myEng s i n bind, rfl, rfl, rfl, rfl, rfl, rfl, rfl, rfl, rfl, rfl⟩
  case flags =>
    intro f
    rw [core]
    exact Core.numbered_flags _ _ _ f
  case note =>
    intro k
    rw [seat]
    exact Seat.noted_items s.mySeat s.myEng.attrs.note s.turnE (s.newCmd i n bind).acc s.now k

/-! ## Launch words -/

/-- A word whose meaning is the placement of its command. -/
theorem places_of_place {i : Instr} {n bind : State → Nat} (word : ∀ s, exec i s = s.place i (n s) (bind s)) : Places i n bind :=
  fun s room gate args pushed noteRoom =>
    ⟨_, (word s).trans (State.place_placed room gate args pushed noteRoom), s.placed_spec i (n s) (bind s)⟩

theorem State.placeIf_here (s : State) (i : Instr) (n bind : Nat) : s.placeIf true i n bind = s.place i n bind :=
  if_neg (by simp)

/-- A word of a unit that the part lacks is left unexecuted (R168, R170, R237). -/
theorem wordFaults_of_placeIf {s : State} {i : Instr} {n bind : Nat} (room : s.myEng.queue.length < 16) (gate : s.gated = false)
    (word : exec i s = s.placeIf false i n bind) : WordFaults i s .undefOp 13 := by
  intro running
  have absent : s.placeIf false i n bind = s.wordFault (Flt.mk' .undefOp 13) := if_pos (by simp [room, gate])
  rw [word, absent]
  exact if_neg running

/-- A word of a unit that only the parts of `has` have. -/
theorem placesOn_of_placeIf {has : Part → Bool} {i : Instr} {n bind : State → Nat}
    (word : ∀ s, exec i s = s.placeIf (has s.fuse.part) i (n s) (bind s)) : PlacesOn has i n bind := by
  refine fun s room gate => ⟨fun lacks => wordFaults_of_placeIf room gate ((word s).trans (by rw [lacks])), fun here args pushed noteRoom => ?_⟩
  have placed := (word s).trans ((congrArg (fun b => s.placeIf b i (n s) (bind s)) here).trans (s.placeIf_here i (n s) (bind s)))
  exact ⟨_, placed.trans (State.place_placed room gate args pushed noteRoom), s.placed_spec i (n s) (bind s)⟩

theorem partMx_eq (p : Part) : partMx p = decide (p ≠ .mz5a) := by cases p <;> rfl

theorem partAttention_eq (p : Part) : partAttention p = decide (p ≠ .mz9s) := by cases p <;> rfl

theorem toNat_eq_ite (b : Bool) : b.toNat = if b then 1 else 0 := by cases b <;> rfl

/-- The launch words of the copy engine (R291). -/
theorem places_copy (g : CopyArgs) : let y := if g.sync then 1 else 0
    Places (.copy g) (fun _ => 3 + g.dims.val + y) (fun _ => 0) ∧ Places (.cremote g) (fun _ => 3 + g.dims.val + y) (fun _ => 0) ∧
    Places (.cacc g) (fun _ => 3 + g.dims.val + y) (fun _ => 0) ∧ Places (.cgath g) (fun _ => 4 + y) (fun _ => 0) ∧
    Places (.cscat g) (fun _ => 4 + y) (fun _ => 0) ∧ Places (.cbcast g) (fun _ => 4 + y) (fun _ => 0) ∧
    Places (.cfill g) (fun _ => 3 + y) (fun _ => 0) := by
  intro y
  have sync : g.sync.toNat = y := toNat_eq_ite g.sync
  have strided : 3 + g.sync.toNat + g.dims.val = 3 + g.dims.val + y := by omega
  refine ⟨places_of_place fun s => ?_, places_of_place fun s => ?_, places_of_place fun s => ?_, places_of_place fun s => ?_,
    places_of_place fun s => ?_, places_of_place fun s => ?_, places_of_place fun s => ?_⟩
  · exact congrArg (s.place (.copy g) · 0) strided
  · exact congrArg (s.place (.cremote g) · 0) strided
  · exact congrArg (s.place (.cacc g) · 0) strided
  · exact congrArg (fun k => s.place (.cgath g) (4 + k) 0) sync
  · exact congrArg (fun k => s.place (.cscat g) (4 + k) 0) sync
  · exact congrArg (fun k => s.place (.cbcast g) (4 + k) 0) sync
  · exact congrArg (fun k => s.place (.cfill g) (3 + k) 0) sync

/-- The words of the units that a part may lack (R1): MHAD with a transform, MSREC on, AFOLIO, AQUERY, AAPPEND. -/
theorem placesOn_optional :
    (∀ (b : Fin 8) (z : Fin 4), z ≠ 0 → PlacesOn (fun p => decide (p ≠ .mz5a)) (.mhad b z) (fun _ => 0) (fun _ => 0)) ∧
    (∀ side : Bool, PlacesOn (fun p => decide (p ≠ .mz5a)) (.msrec side true) (fun _ => 1) (fun _ => 0)) ∧
    (∀ (e4m3 : Bool) (hd : Fin 3), PlacesOn (fun p => decide (p ≠ .mz9s)) (.afolio e4m3 hd) (fun _ => 1) (fun _ => 0)) ∧
    (∀ (e4m3 : Bool) (hd : Fin 3) (y : Fin 32), PlacesOn (fun p => decide (p ≠ .mz9s)) (.aquery e4m3 hd y) (fun _ => 6)
      (fun s => s.mySeat.lex[y].b.toNat)) ∧
    PlacesOn (fun p => decide (p ≠ .mz9s)) .aappend (fun _ => 4) (fun _ => 0) := by
  refine ⟨fun b z some => placesOn_of_placeIf fun s => ?_, fun side => placesOn_of_placeIf fun s => ?_,
    fun e4m3 hd => placesOn_of_placeIf fun s => ?_, fun e4m3 hd y => placesOn_of_placeIf fun s => ?_, placesOn_of_placeIf fun s => ?_⟩
  · show s.placeIf (decide (z = 0) || partMx s.fuse.part) _ _ _ = _
    rw [decide_eq_false some, Bool.false_or, partMx_eq]
  · exact congrArg (s.placeIf · (.msrec side true) 1 0) (partMx_eq s.fuse.part)
  · exact congrArg (s.placeIf · (.afolio e4m3 hd) 1 0) (partAttention_eq s.fuse.part)
  · exact congrArg (s.placeIf · (.aquery e4m3 hd y) 6 s.mySeat.lex[y].b.toNat) (partAttention_eq s.fuse.part)
  · exact congrArg (s.placeIf · .aappend 4 0) (partAttention_eq s.fuse.part)

/-! ## Starting -/

/-- The queue once command i has started, with what `f` makes of it, and the next one has come to the head. -/
def startedQueue (q : List Cmd) (i cycle : Nat) (f : Cmd → Cmd) : List Cmd :=
  (q.modify i fun x => { f x with started := true, sent := 0 }).modify (i + 1) fun x => { x with headAt := cycle }

/-- That queue, command by command. -/
theorem startedQueue_spec {q : List Cmd} {i : Nat} {y : Cmd} (here : q[i]? = some y) (cycle : Nat) (f : Cmd → Cmd) :
    let q' := startedQueue q i cycle f
    q'.length = q.length ∧ q'[i]? = some { f y with started := true, sent := 0 } ∧ (∀ k, k ≠ i → k ≠ i + 1 → q'[k]? = q[k]?) ∧
      q'[i + 1]? = q[i + 1]?.map fun c => { c with headAt := cycle } := by
  refine ⟨?_, ?_, fun k notI notNext => ?_, ?_⟩
  · simp [startedQueue]
  · simp [startedQueue, here]
  · simp [startedQueue, Ne.symm notI, Ne.symm notNext]
  · simp [startedQueue]

section
variable {s u w : State} {r : SeatRef} {e : EngineId} {i : Nat} {x y : Cmd} {j : Instr}

/-- A command has begun: its queue is that of `startedQueue`, and its side is noted as served (R162, R411). -/
def Begun (r : SeatRef) (e : EngineId) (i : Nat) (u t : State) (k : Fin 4) (z : Cmd) : Prop :=
  let q := ((u.getSeat r).getEng e).queue
  let q' := ((t.getSeat r).getEng e).queue
  q'.length = q.length ∧ q'[i]? = some { z with started := true, sent := 0 } ∧ (∀ k, k ≠ i → k ≠ i + 1 → q'[k]? = q[k]?) ∧
    q'[i + 1]? = q[i + 1]?.map (fun c => { c with headAt := u.core[r.core].cycle }) ∧ t.core[r.core].served[k] = r.seat

theorem State.startCmd_queue (u : State) (r : SeatRef) (e : EngineId) (i : Nat) (f : Cmd → Cmd) :
    (((u.startCmd r e i f).getSeat r).getEng e).queue = startedQueue ((u.getSeat r).getEng e).queue i u.core[r.core].cycle f := by
  unfold State.startCmd
  rw [State.modSeat_getSeat, Seat.modEng_getEng]
  rfl

/-- The state once a command's side is noted as served. -/
def State.serve (s : State) (r : SeatRef) (k : Fin 4) : State := s.modCore r.core fun c => { c with served := c.served.set k r.seat }

/-- ENGINE_COMMAND_START of a command that can start and does. -/
theorem exec_commandStart (runs : s.engineHeld r.core = false) (able : s.startable r e = some (i, x)) (first : s.otherFirst r e x = false)
    (begun : (s.beginCmd r e i x).hasBegun r e i = true) :
    exec (.engineCommandStart r.core e r.seat) s = .next ((s.beginCmd r e i x).serve r (servedIndex e x)) := by
  show execEngineCommandStart r.core e r.seat s = _
  unfold execEngineCommandStart
  simp only [runs, able, first, begun, Bool.false_eq_true, if_true, if_false]
  rfl

/-- A state whose queue is `startedQueue` is one in which command i has begun. -/
theorem begun_of_queue {f : Cmd → Cmd} (here : ((u.getSeat r).getEng e).queue[i]? = some y)
    (queue : ((w.getSeat r).getEng e).queue = startedQueue ((u.getSeat r).getEng e).queue i u.core[r.core].cycle f) (k : Fin 4) :
    w.hasBegun r e i = true ∧ Begun r e i u (w.serve r k) k (f y) := by
  obtain ⟨len, mine, others, next⟩ := startedQueue_spec here u.core[r.core].cycle f
  have seat : (w.serve r k).getSeat r = w.getSeat r := State.modCore_getSeat _ _ _ rfl
  refine ⟨?_, ?_⟩
  · unfold State.hasBegun
    rw [queue, mine]
  · unfold Begun
    rw [seat, queue]
    refine ⟨len, mine, others, next, ?_⟩
    unfold State.serve
    rw [show (w.modCore r.core _).core[r.core] = _ from State.modCore_self _ _ _]
    exact Vector.getElem_set_self _

/-- A matrix command with what its start read. -/
def Start.into (p : Start) (live : Nat) (c : Cmd) : Cmd := { c with data := p.data, todo := p.todo, dest := p.dest, due := live + p.cost }

/-- A matrix command that passes its start's checks (R163, R175). -/
theorem matrix_starts (runs : s.engineHeld r.core = false) (able : s.startable r .matrix = some (i, x))
    (first : s.otherFirst r .matrix x = false) (kind : x.instr .matrix = some j) {p : Start} (start : s.matrixStart r j x.args = .ok p)
    (here : ((p.st.getSeat r).getEng .matrix).queue[i]? = some y) :
    Runs (.engineCommandStart r.core .matrix r.seat) s fun t =>
      Begun r .matrix i p.st t (servedIndex .matrix x) (p.into s.core[r.core].live y) ∧ { t with core := p.st.core } = p.st := by
  have begin : s.beginCmd r .matrix i x = p.st.startCmd r .matrix i (p.into s.core[r.core].live) := by
    simp only [State.beginCmd, kind, State.beginMatrix, start]
    rfl
  obtain ⟨begun, served⟩ := begun_of_queue here (State.startCmd_queue p.st r .matrix i _) (servedIndex .matrix x)
  rw [← begin] at begun served
  exact ⟨_, exec_commandStart runs able first begun, served, by rw [begin]; rfl⟩

/-- A copy command with the list it read, at its own progress record or at its first byte (R297). -/
def CopyPlan.into (p : CopyPlan) (list : List Nat) (live : Nat) (pr : Progress) (acc : BitVec 32) (c : Cmd) : Cmd :=
  let own : Bool := pr.valid && decide (pr.acc = acc)
  { c with data := list, due := live + 4, moved := decide (p.len = 0), i2 := if own then pr.i2 else 0, i1 := if own then pr.i1 else 0,
           k := if own then pr.k else 0 }

/-- CREMOTE's notice changes the arrivals alone (R295). -/
theorem State.remoteNotice_arrivals (s : State) (r : SeatRef) (p : CopyPlan) (c : Cmd) :
    ∃ l, s.remoteNotice r p c = { s with arrivals := l } := by
  unfold State.remoteNotice
  split
  · exact ⟨_, rfl⟩
  · exact ⟨s.arrivals, rfl⟩

/-- A copy command that passes its start's checks; one of no bytes gives its notice at once (R295, R296). -/
theorem copy_starts (runs : s.engineHeld r.core = false) (able : s.startable r .copy = some (i, x))
    (first : s.otherFirst r .copy x = false) (kind : x.instr .copy = some j) {k : CopyKind} {g : CopyArgs} (word : copyKind j = some (k, g))
    {p : CopyPlan} (plan : copyPlan k g x.args = p) {list : List Nat} (start : s.copyStart r p = .ok (list, u))
    (here : ((u.getSeat r).getEng .copy).queue[i]? = some y) :
    Runs (.engineCommandStart r.core .copy r.seat) s fun t =>
      Begun r .copy i u t 2 (p.into list s.core[r.core].live ((s.getSeat r).getEng .copy).progress x.acc y) ∧
      { t with core := u.core, arrivals := u.arrivals } = u ∧ (p.len ≠ 0 → t.arrivals = u.arrivals) := by
  let f := p.into list s.core[r.core].live ((s.getSeat r).getEng .copy).progress x.acc
  have begin : ∃ l, s.beginCmd r .copy i x = { u.startCmd r .copy i f with arrivals := l } ∧ (p.len ≠ 0 → l = u.arrivals) := by
    have meaning : s.beginCmd r .copy i x =
        if p.len = 0 then (u.startCmd r .copy i f).remoteNotice r p x else u.startCmd r .copy i f := by
      simp only [State.beginCmd, kind, State.beginCopy, word, plan, start]
      rfl
    by_cases none : p.len = 0
    · obtain ⟨l, notice⟩ := (u.startCmd r .copy i f).remoteNotice_arrivals r p x
      exact ⟨l, meaning.trans ((if_pos none).trans notice), fun some => absurd none some⟩
    · exact ⟨u.arrivals, meaning.trans (if_neg none), fun _ => rfl⟩
  obtain ⟨l, begin, same⟩ := begin
  have queue : (((s.beginCmd r .copy i x).getSeat r).getEng .copy).queue = startedQueue ((u.getSeat r).getEng .copy).queue i
      u.core[r.core].cycle f := by
    rw [begin]
    exact State.startCmd_queue u r .copy i f
  obtain ⟨begun, served⟩ := begun_of_queue here queue 2
  exact ⟨_, exec_commandStart runs able first begun, served, by rw [begin]; rfl, fun some => by rw [begin]; exact same some⟩

/-- A query command with what its start read. -/
def QStart.into (p : QStart) (live : Nat) (c : Cmd) : Cmd := { c with data := p.data, dest := p.dest, due := live + p.cost }

/-- A query command that passes its start's checks, none having started in this core cycle, sends its jobs (R242, R411). -/
theorem query_starts (runs : s.engineHeld r.core = false) (able : s.startable r .query = some (i, x))
    (first : s.otherFirst r .query x = false) (kind : x.instr .query = some j)
    (once : s.core[r.core].queryAt ≠ s.core[r.core].live + 1) {p : QStart} (start : s.queryStart r j x = .ok p)
    (here : ((p.st.getSeat r).getEng .query).queue[i]? = some y) :
    Runs (.engineCommandStart r.core .query r.seat) s fun t =>
      Begun r .query i p.st t 3 (p.into s.core[r.core].live y) ∧ t.jobs = p.st.jobs ++ p.jobs ∧
      t.core[r.core].queryAt = p.st.core[r.core].live + 1 ∧ { t with core := p.st.core, jobs := p.st.jobs } = p.st := by
  let f := p.into s.core[r.core].live
  have begin : s.beginCmd r .query i x =
      State.modCore { p.st.startCmd r .query i f with jobs := p.st.jobs ++ p.jobs } r.core fun c => { c with queryAt := c.live + 1 } := by
    simp only [State.beginCmd, kind, State.beginQuery, once, start, if_false]
    rfl
  have queue : (((s.beginCmd r .query i x).getSeat r).getEng .query).queue = startedQueue ((p.st.getSeat r).getEng .query).queue i
      p.st.core[r.core].cycle f := by
    rw [begin, State.modCore_getSeat _ _ _ rfl]
    exact State.startCmd_queue p.st r .query i f
  obtain ⟨begun, served⟩ := begun_of_queue here queue 3
  refine ⟨_, exec_commandStart runs able first begun, served, by rw [begin]; rfl, ?_, by rw [begin]; rfl⟩
  rw [begin]
  simp [State.serve, State.modCore, State.startCmd, State.modSeat, State.setSeat, State.setCore]

end

/-- Settles O28: a launch word is `State.place` with the number of values it pops, or `State.placeIf`; a start is `State.startCmd` after its
checks. -/
theorem launchWordsAndCommandStarts : Obligations.LaunchWordsAndCommandStarts := by
  obtain ⟨mhad, msrec, afolio, aquery, aappend⟩ := placesOn_optional
  refine ⟨⟨?tiles, ?accumulators, ?mhad, ?mdrain, ?msrec, ?mgeom, places_copy, ?query, aappend, places_of_place fun _ => rfl⟩, ?starts⟩
  case tiles => exact fun b side half => ⟨places_of_place fun _ => rfl, places_of_place fun _ => rfl⟩
  case accumulators => exact fun a f => ⟨places_of_place fun _ => rfl, places_of_place fun _ => rfl⟩
  case mhad =>
    intro b z
    split
    case isTrue zero => exact places_of_place fun s => by subst zero; exact s.placeIf_here _ _ _
    case isFalse some => exact mhad b z some
  case mdrain =>
    intro g
    have args : 1 + g.cs.toNat + g.rs.toNat = 1 + (if g.rs then 1 else 0) + (if g.cs then 1 else 0) := by
      rw [toNat_eq_ite, toNat_eq_ite, Nat.add_right_comm]
    exact places_of_place fun s => congrArg (s.place (.mdrain g) · 0) args
  case msrec => exact fun side => ⟨msrec side, places_of_place fun s => s.placeIf_here _ _ _⟩
  case mgeom => exact fun a b sa sb => places_of_place fun _ => rfl
  case query => exact fun e4m3 hd y => ⟨afolio e4m3 hd, aquery e4m3 hd y⟩
  case starts =>
    intro s r e i x y j runs able first kind
    refine ⟨?matrix, ?copy, ?query⟩
    case matrix =>
      rintro rfl p start here
      exact matrix_starts runs able first kind start here
    case copy =>
      rintro rfl k g word p list u start here
      exact copy_starts runs able first kind word rfl start here
    case query =>
      rintro rfl once p start here
      exact query_starts runs able first kind once start here

end Sys2Proof.Machine
end

section
/-! SUPPORT. What a fault does to a seat (R188, R189, R212), and obligation O8. -/
namespace Sys2Proof.Machine

/-! ## Stopping the streams -/

/-- Where a stream stops is read from it and from the load queue. -/
theorem Seat.stopsAt_modStr_ne (st : Seat) (src : Nat) {i j : StreamId} (f : Stream → Stream) (h : j ≠ i) :
    (st.modStr i f).stopsAt src j = st.stopsAt src j := by
  have queue : (st.modStr i f).heldReq j = st.heldReq j := rfl
  unfold Seat.stopsAt
  rw [st.modStr_getStr_ne f h, queue]

theorem Seat.passHeld_eq (st : Seat) (src : Nat) {i : StreamId} (h : i ≠ .C) :
    st.passHeld src i = st.modStr i fun _ => st.stopsAt src i := by
  have same (e : st.stopsAt src i = st.getStr i) : st = st.modStr i fun _ => st.stopsAt src i := (st.modStr_same i _ e).symm
  unfold Seat.passHeld
  cases hw : (st.getStr i).wait with
  | held va d =>
    have stops : st.stopsAt src i =
        if i ≠ .C ∧ i.idx.val ≠ src ∧ (st.heldReq i).isSome then (st.getStr i).advance.1 else st.getStr i := by
      unfold Seat.stopsAt; rw [hw]
    dsimp only
    by_cases hp : i.idx.val ≠ src ∧ (st.heldReq i).isSome = true
    · rw [if_pos (by simp [hp]), stops, if_pos ⟨h, hp⟩]
      rfl
    · rw [if_neg (by simpa using hp)]
      exact same (stops.trans (if_neg fun k => hp k.2))
  | _ => exact same (by unfold Seat.stopsAt; rw [hw])

theorem Seat.stopsAt_C (st : Seat) (src : Nat) : st.stopsAt src .C = st.getStr .C := by
  unfold Seat.stopsAt
  split
  · exact if_neg fun h => h.1 rfl
  · rfl

theorem Seat.clearWaits_getStr (st : Seat) (j : StreamId) :
    st.clearWaits.getStr j = { st.getStr j with wait := .none, waiting := none } := by
  simp [Seat.clearWaits, Seat.getStr]

/-- Each stream stops where `stopsAt` says, and waits for nothing. -/
theorem Seat.stopStreams_getStr (st : Seat) (src : Nat) (j : StreamId) :
    (st.stopStreams src).getStr j = { st.stopsAt src j with wait := .none, waiting := none } := by
  let k := st.modStr .K fun _ => st.stopsAt src .K
  let l := k.modStr .L fun _ => k.stopsAt src .L
  let z := l.modStr .S fun _ => l.stopsAt src .S
  have stopped : st.stopStreams src = z.clearWaits := by
    unfold Seat.stopStreams
    rw [st.passHeld_eq src (by decide : StreamId.K ≠ .C), k.passHeld_eq src (by decide : StreamId.L ≠ .C),
      l.passHeld_eq src (by decide : StreamId.S ≠ .C)]
  have place : z.getStr j = st.stopsAt src j := by
    cases j with
    | K => rw [l.modStr_getStr_ne _ (by decide), k.modStr_getStr_ne _ (by decide), Seat.modStr_getStr]
    | L => rw [l.modStr_getStr_ne _ (by decide), Seat.modStr_getStr, st.stopsAt_modStr_ne src _ (by decide)]
    | C => rw [l.modStr_getStr_ne _ (by decide), k.modStr_getStr_ne _ (by decide), st.modStr_getStr_ne _ (by decide), st.stopsAt_C]
    | S => rw [Seat.modStr_getStr, k.stopsAt_modStr_ne src _ (by decide), st.stopsAt_modStr_ne src _ (by decide)]
  rw [stopped, Seat.clearWaits_getStr, place]

/-- Stream b stands where stream a does, with its registers. -/
structure StandsAs (a b : Stream) : Prop where
  pc      : b.pc = a.pc
  lc      : b.lc = a.lc
  loopPc  : b.loopPc = a.loopPc
  ps      : b.ps = a.ps
  repLeft : b.repLeft = a.repLeft
  x       : b.x = a.x
  p       : b.p = a.p
  t       : b.t = a.t

/-- A seat whose streams a fault of source `src` has stopped: each stands where `stopsAt` says, and nothing else has changed (R189). -/
structure StoppedBy (src : Nat) (a u : Seat) : Prop where
  rest   : u = { a with str := u.str }
  stands : ∀ j, StandsAs (a.stopsAt src j) (u.getStr j)

theorem Seat.stoppedBy_stopStreams (st : Seat) (src : Nat) : StoppedBy src st (st.stopStreams src) := by
  obtain ⟨str, h⟩ := st.stopStreams_eq src
  refine ⟨by rw [h], fun j => ?_⟩
  rw [st.stopStreams_getStr src j]
  exact ⟨rfl, rfl, rfl, rfl, rfl, rfl, rfl, rfl⟩

/-- A stopped stream has its registers. -/
theorem Seat.stopsAt_regs (st : Seat) (src : Nat) (j : StreamId) :
    (st.stopsAt src j).x = (st.getStr j).x ∧ (st.stopsAt src j).p = (st.getStr j).p ∧ (st.stopsAt src j).t = (st.getStr j).t := by
  unfold Seat.stopsAt
  split
  · split
    · exact advance_regs _
    · exact ⟨rfl, rfl, rfl⟩
  · exact ⟨rfl, rfl, rfl⟩

theorem Seat.pcs_idx (st : Seat) (j : StreamId) : st.pcs[j.idx] = (st.getStr j).pc := by
  simp [Seat.pcs, Seat.getStr]

/-! ## Fields of a fault record -/

theorem Cause.code_lt (c : Cause) : c.code < 32 := by cases c <;> decide

theorem bit_mkInfo_low (detail src cause low i : Nat) (hl : low < 2 ^ 16) (hi : i < 16) :
    bit (mkInfo detail src cause low) i = low.testBit i := by
  have split : detail % 2 ^ 32 * 2 ^ 32 + src % 8 * 2 ^ 21 + cause % 32 * 2 ^ 16 + low =
      2 ^ 16 * (detail % 2 ^ 32 * 2 ^ 16 + src % 8 * 2 ^ 5 + cause % 32) + low := by omega
  have width : i < 64 := by omega
  simp only [bit, mkInfo, BitVec.getLsbD_ofNat]
  rw [split, Nat.testBit_two_pow_mul_add _ hl, if_pos hi]
  simp [width]

/-- What the record of a fault says, but for whether a handler starts (R188). -/
structure Records (info : Word) (f : Flt) (src : Nat) : Prop where
  detail : fld info 32 32 = f.detail
  src    : fld info 21 3 = src
  cause  : fld info 16 5 = f.cause.code

theorem records_mkInfo {f : Flt} {src low : Nat} (hs : src < 8) (hd : f.detail < 2 ^ 32) (hl : low < 2 ^ 16) :
    Records (mkInfo f.detail src f.cause.code low) f src :=
  ⟨(fld_mkInfo_detail _ _ _ _ hl).trans (Nat.mod_eq_of_lt hd), (fld_mkInfo_src _ _ _ _ hl).trans (Nat.mod_eq_of_lt hs),
    (fld_mkInfo_cause _ _ _ _ hl).trans (Nat.mod_eq_of_lt f.cause.code_lt)⟩

/-- Setting NESTED leaves the fields above it (R188). -/
theorem fld_or_two (w : Word) (lo len : Nat) (h : 2 ≤ lo) : fld (w ||| 2) lo len = fld w lo len := by
  refine Nat.eq_of_testBit_eq fun k => ?_
  have off : (2 : Word).getLsbD (lo + k) = false := by
    rw [show (2 : Word) = BitVec.twoPow 64 1 from rfl, BitVec.getLsbD_twoPow, decide_eq_false (by omega : ¬1 = lo + k), Bool.and_false]
  simp only [fld, Nat.testBit_mod_two_pow, Nat.testBit_shiftRight, BitVec.testBit_toNat, BitVec.getLsbD_or, off, Bool.or_false]

/-! ## A fault of a seat -/

theorem State.takeFault_getSeat (s : State) (r : SeatRef) (f : Flt) (src : Nat) :
    let t := (s.getSeat r).stopStreams src
    (s.takeFault r f src).getSeat r = (t.takeFault f src t.pcs).lastFault s.core[r.core].cycle src :=
  s.modSeat_getSeat r fun st => let t := st.stopStreams src; (t.takeFault f src t.pcs).lastFault s.core[r.core].cycle src

/-- A fault changes its seat, and the counts of the life record. -/
theorem State.takeFault_frame (s : State) (r : SeatRef) (f : Flt) (src : Nat) :
    SameBytes s (s.takeFault r f src) ∧ ∀ k, k ≠ r.core → (s.takeFault r f src).core[k] = s.core[k] :=
  ⟨fun _ => rfl, fun _ h => State.setCore_ne _ _ h⟩

/-- Seat h has the record of a fault that its handler takes, and K has entered the handler at TRAP_VEC, with no loop; else it is as u
(R188, R189). -/
structure Entered (info addr : Word) (pcs : Vector Word 4) (u h : Seat) : Prop where
  info     : h.trap.info = info
  addr     : h.trap.addr = addr
  entry    : h.trap.vec = u.trap.vec
  pcs      : h.trap.pc = pcs
  shLc     : h.trap.shLc = (u.getStr .K).lc
  shLoopPc : h.trap.shLoopPc = (u.getStr .K).loopPc
  shPs     : h.trap.shPs = (u.getStr .K).ps
  shRep    : h.trap.shRep = (u.getStr .K).repLeft
  held     : h.c.held = true
  pipe     : h.c.pipe = u.c.pipe
  inst     : h.inst = u.inst
  vec      : h.vec = u.vec
  q        : h.q = u.q
  tile     : h.tile = u.tile
  sys      : h.sys = u.sys
  k        : h.getStr .K = { u.getStr .K with
               pc := u.trap.vec, halted := false, comma := none, lc := 0, loopPc := 0, ps := 0, repLeft := 0, stages := [], repStage := none }
  others   : ∀ j, j ≠ .K → h.getStr j = u.getStr j

theorem Seat.entered_enterHandler (st : Seat) (info addr : Word) (pcs : Vector Word 4) :
    Entered info addr pcs st (st.recorded info addr pcs).enterHandler := by
  let a := st.recorded info addr pcs
  have shadow : a.shadowIn.getStr .K = { a.getStr .K with lc := 0, loopPc := 0, ps := 0, repLeft := 0, stages := [], repStage := none } :=
    a.modStr_getStr .K _
  have k : a.enterHandler.getStr .K = { a.shadowIn.getStr .K with pc := a.trap.vec, halted := false, comma := none } :=
    a.shadowIn.modStr_getStr .K _
  refine ⟨rfl, rfl, rfl, rfl, rfl, rfl, rfl, rfl, rfl, rfl, rfl, rfl, rfl, rfl, rfl, ?_, fun j h => ?_⟩
  · rw [k, shadow]; rfl
  · exact (a.shadowIn.modStr_getStr_ne _ h).trans (a.modStr_getStr_ne _ h)

/-- The note of a seat's latest fault is no part of it. -/
theorem Entered.lastFault {info addr : Word} {pcs : Vector Word 4} {u h : Seat} (e : Entered info addr pcs u h) (cycle src : Nat) :
    Entered info addr pcs u (h.lastFault cycle src) :=
  ⟨e.info, e.addr, e.entry, e.pcs, e.shLc, e.shLoopPc, e.shPs, e.shRep, e.held, e.pipe, e.inst, e.vec, e.q, e.tile, e.sys, e.k, e.others⟩

/-- The handler's start leaves the registers of the streams. -/
theorem Entered.regs {info addr : Word} {pcs : Vector Word 4} {u h : Seat} (e : Entered info addr pcs u h) (j : StreamId) :
    (h.getStr j).x = (u.getStr j).x ∧ (h.getStr j).p = (u.getStr j).p ∧ (h.getStr j).t = (u.getStr j).t := by
  by_cases hj : j = .K
  · subst hj; rw [e.k]; exact ⟨rfl, rfl, rfl⟩
  · rw [e.others j hj]; exact ⟨rfl, rfl, rfl⟩

/-- A fault while a handler runs is recorded as nested, and leaves the seat Faulted (R189). -/
theorem Seat.takeFault_active {st : Seat} (h : st.trap.active = true) (f : Flt) (src : Nat) (pcs : Vector Word 4) :
    st.takeFault f src pcs = ({ st with
      trap := { st.trap with info := st.trap.info ||| 2, addr := f.addr, nestInfo := mkInfo f.detail src f.cause.code 1,
                             nestPc := (st.getStr .K).pc },
      c := st.holdC } : Seat).toFaulted := if_pos h

/-- Without a handler running, a fault of class H starts the handler at TRAP_VEC (R189). -/
theorem Seat.takeFault_handled {st : Seat} {f : Flt} (idle : st.trap.active = false) (hsys : f.sys = false) (vec : st.trap.vec ≠ 0)
    (src : Nat) (pcs : Vector Word 4) :
    st.takeFault f src pcs = (st.recorded (mkInfo f.detail src f.cause.code 5) f.addr pcs).enterHandler := by
  have handled : (!f.sys && decide (st.trap.vec ≠ 0)) = true := by
    rw [hsys, decide_eq_true vec]; rfl
  have taken := Seat.takeFault_idle idle f src pcs
  rw [handled] at taken
  exact taken

/-- A fault of class S, or one taken while TRAP_VEC is 0, leaves the seat Faulted (R186, R189). -/
theorem Seat.takeFault_unhandled {st : Seat} {f : Flt} (idle : st.trap.active = false) (h : f.sys = true ∨ st.trap.vec = 0)
    (src : Nat) (pcs : Vector Word 4) :
    st.takeFault f src pcs = (st.recorded (mkInfo f.detail src f.cause.code 1) f.addr pcs).toFaulted := by
  have unhandled : (!f.sys && decide (st.trap.vec ≠ 0)) = false := by rcases h with h | h <;> rw [h] <;> simp
  have taken := Seat.takeFault_idle idle f src pcs
  rw [unhandled] at taken
  exact taken

/-- Settles O8: the seat of a fault is that of `Seat.takeFault` on the stopped streams: in its handler, nested, or Faulted. -/
theorem faultEntries : Obligations.FaultEntries := by
  unfold Obligations.FaultEntries
  refine ⟨fun s r f src hs hd hsys idle vec => ?handled, fun s r f src hs hd => ?faulted⟩
  case handled =>
    intro a t b
    obtain ⟨bytes, cores⟩ := s.takeFault_frame r f src
    have hb : b = _ := s.takeFault_getSeat r f src
    obtain ⟨rest, stands⟩ := a.stoppedBy_stopStreams src
    have pcs := (a.stopStreams src).pcs_idx
    change b = ((a.stopStreams src).takeFault f src (a.stopStreams src).pcs).lastFault _ src at hb
    generalize a.stopStreams src = u at hb rest stands pcs
    have trap : u.trap = a.trap := by rw [rest]
    rw [Seat.takeFault_handled (by rw [trap]; exact idle) hsys (by rw [trap]; exact vec)] at hb
    have low : (5 : Nat) < 2 ^ 16 := by decide
    obtain ⟨detail, source, cause⟩ := records_mkInfo hs hd low
    have flag (i : Nat) (hi : i < 16) := bit_mkInfo_low f.detail src f.cause.code 5 i low hi
    have entered := u.entered_enterHandler (mkInfo f.detail src f.cause.code 5) f.addr u.pcs
    replace entered := entered.lastFault s.core[r.core].cycle src
    rw [← hb] at entered
    have regs := entered.regs
    obtain ⟨info, addr, entry, hpc, shLc, shLoopPc, shPs, shRep, held, pipe, inst, vfile, q, tile, sys, k, others⟩ := entered
    rw [← info] at detail source cause flag
    have stopped := stands .K
    have same : u.c = a.c ∧ u.inst = a.inst ∧ u.vec = a.vec ∧ u.q = a.q ∧ u.tile = a.tile ∧ u.sys = a.sys := by
      rw [rest]; exact ⟨rfl, rfl, rfl, rfl, rfl, rfl⟩
    obtain ⟨same_c, same_inst, same_vec, same_q, same_tile, same_sys⟩ := same
    clear_value b
    rw [k]
    refine ⟨detail, source, cause, flag 3 (by decide), flag 2 (by decide), flag 1 (by decide), flag 0 (by decide), addr,
      entry.trans (congrArg TrapFile.vec trap), fun j => ?pc, shLc.trans stopped.lc, shLoopPc.trans stopped.loopPc, shPs.trans stopped.ps,
      shRep.trans stopped.repLeft, congrArg TrapFile.vec trap, rfl, rfl, rfl, rfl, held, pipe.trans (congrArg CSched.pipe same_c),
      inst.trans same_inst, vfile.trans same_vec, q.trans same_q, tile.trans same_tile, sys.trans same_sys, fun j => ?regs,
      fun j hj => ?other, bytes, cores⟩
    case pc => rw [hpc]; exact (pcs j).trans (stands j).pc
    case regs =>
      obtain ⟨hx, hp, ht⟩ := regs j
      obtain ⟨sx, sp, st⟩ := a.stopsAt_regs src j
      exact ⟨hx.trans ((stands j).x.trans sx), hp.trans ((stands j).p.trans sp), ht.trans ((stands j).t.trans st)⟩
    case other => rw [others j hj]; exact (stands j).pc
  case faulted =>
    intro a b cause
    have hb : b = _ := s.takeFault_getSeat r f src
    obtain ⟨rest, stands⟩ := a.stoppedBy_stopStreams src
    have pcs := (a.stopStreams src).pcs_idx
    change b = ((a.stopStreams src).takeFault f src (a.stopStreams src).pcs).lastFault _ src at hb
    generalize a.stopStreams src = u at hb rest stands pcs
    have trap : u.trap = a.trap := by rw [rest]
    have low : (1 : Nat) < 2 ^ 16 := by decide
    obtain ⟨detail, source, code⟩ := records_mkInfo hs hd low
    have flag (i : Nat) (hi : i < 16) := bit_mkInfo_low f.detail src f.cause.code 1 i low hi
    by_cases active : a.trap.active = true
    · have kept : u.trap.pc = a.trap.pc := congrArg TrapFile.pc trap
      rw [Seat.takeFault_active (by rw [trap]; exact active)] at hb
      rw [if_pos active, hb]
      refine ⟨rfl, rfl, rfl, fun j => (stands j).pc, ?_, (stands .K).pc, kept, detail, source, code,
        flag 0 (by decide), ?_, ?_⟩
      · show (u.trap.info ||| 2).getLsbD 1 = true
        simp
      · exact (fld_or_two u.trap.info 21 3 (by decide)).trans (congrArg TrapFile.src trap)
      · exact (fld_or_two u.trap.info 16 5 (by decide)).trans (congrArg (fun t : TrapFile => fld t.info 16 5) trap)
    · have idle : a.trap.active = false := by simpa using active
      have unhandled : f.sys = true ∨ u.trap.vec = 0 := by
        rw [trap]; exact cause.resolve_left active
      rw [Seat.takeFault_unhandled (by rw [trap]; exact idle) unhandled] at hb
      rw [if_neg active, hb]
      exact ⟨rfl, rfl, rfl, fun j => (stands j).pc, flag 2 (by decide), source, code, detail, flag 0 (by decide),
        fun j => (pcs j).trans (stands j).pc⟩

end Sys2Proof.Machine
end

section
/-! SUPPORT. Samples, freezes that end, and the landing of a slot (R36, R38, R180, R207). -/
namespace Sys2Proof.Machine

/-! ## What a landing changes of the seat -/

/-- A sample changes the lexicon, when it was last counted, and the cut registers (R42, R47). -/
theorem Seat.sample_eq (st : Seat) (par : Word) (cycle : Nat) (y : Fin 32) (m b : Nat) :
    ∃ lex lexAt cut, st.sample par cycle y m b = { st with lex := lex, lexAt := lexAt, cut := cut } := by
  let a : Seat := { st with lex := st.lex.set y (Measure.sample st.lex[y] par st.sched m b), lexAt := (cycle + 1, st.lexAt.2) }
  obtain ⟨l, hl⟩ := a.latchCut_eq
  exact ⟨_, _, _, hl⟩

/-- The slot that an answer has filled (R180). -/
def Slot.filled (c : Slot) (a : Answer) : Slot :=
  { c with data := a.data, err := decide (a.ans ≠ .ok), drst := decide (a.ans = .dieReset), state := 2 }

/-- An answer fills its slot; its sample, and the event of a late one, are counted (R38, R180). -/
theorem Seat.fill_eq (st : Seat) (n : Fin 64) (l : LoadReq) (a : Answer) (par : Word) (now : Nat) : ∃ sys lex lexAt cut,
    st.fill n l a par now = { st with ln := st.ln.set n (st.ln[n].filled a), sys := sys, lex := lex, lexAt := lexAt, cut := cut } := by
  let landed : Seat := { st with ln := st.ln.set n (st.ln[n].filled a) }
  let noted : Seat := if l.b < now - l.issued then landed.count 10 none 1 else landed
  obtain ⟨lex, lexAt, cut, sampled⟩ := noted.sample_eq par now l.sym (now - l.issued) l.b
  have rest : noted = { landed with sys := noted.sys } := by
    dsimp only [noted]
    split <;> rfl
  refine ⟨noted.sys, lex, lexAt, cut, sampled.trans ?_⟩
  exact congrArg (fun x : Seat => { x with lex := lex, lexAt := lexAt, cut := cut }) rest

/-! ## A freeze that ends -/

/-- The end of a freeze changes the freeze, and the life record (R36, R388). -/
theorem State.thaw_eq (s : State) (c : Fin 904) :
    ∃ freeze life, s.thaw c = { s.setCore c { s.core[c] with freeze := freeze } with life := life } := by
  have same : s = { s.setCore c { s.core[c] with freeze := s.core[c].freeze } with life := s.life } := (s.setCore_same c).symm
  unfold State.thaw
  split
  · dsimp only
    generalize (decide (_ = (1 : Fin 4)) || _) = pending
    cases pending with
    | true => exact ⟨_, _, same⟩
    | false =>
      rw [if_neg Bool.false_ne_true]
      split <;> exact ⟨_, _, rfl⟩
  · exact ⟨_, _, same⟩

theorem State.thaw_getSeat (s : State) (c : Fin 904) (r : SeatRef) : (s.thaw c).getSeat r = s.getSeat r := by
  obtain ⟨freeze, life, h⟩ := s.thaw_eq c
  rw [h]
  show ((s.setCore c { s.core[c] with freeze := freeze }).core[r.core]).seat[r.seat] = s.core[r.core].seat[r.seat]
  by_cases hc : r.core = c
  · subst hc
    exact s.modCore_getSeat r (fun a => { a with freeze := freeze }) rfl
  · exact congrArg (fun x : Core => x.seat[r.seat]) (s.setCore_ne _ hc)

/-- A freeze on one slot ends when the slot is no longer PENDING. -/
theorem State.thaw_ends {s : State} {c : Fin 904} {k : Fin 2} {n : Fin 64} (frozen : s.core[c].freeze = some (.slot k n none))
    (landed : s.core[c].seat[k].ln[n].state ≠ 1) : (s.thaw c).core[c].freeze = none := by
  have core (v : Core) : (s.setCore c v).core[c] = v := s.setCore_self c v
  unfold State.thaw
  rw [frozen]
  dsimp only
  rw [if_neg (by simpa using landed)]
  split
  · rw [core]
  · exact congrArg Core.freeze (core _)

/-- A freeze on two slots goes on while the other is PENDING. -/
theorem State.thaw_waits {s : State} {c : Fin 904} {k : Fin 2} {n m : Fin 64} (frozen : s.core[c].freeze = some (.slot k n (some m)))
    (pending : s.core[c].seat[k].ln[m].state = 1) : s.thaw c = s := by
  unfold State.thaw
  rw [frozen]
  exact if_pos (by simp only [Bool.or_eq_true, decide_eq_true_eq]; exact .inr pending)

/-! ## Requests that leave the load queue -/

/-- The seat without request l. -/
def Seat.dropLoad (st : Seat) (l : LoadReq) : Seat := { st with loads := st.loads.filter fun m => decide (m.seq ≠ l.seq) }

theorem State.dropLoad_eq (s : State) (r : SeatRef) (l : LoadReq) : s.dropLoad r l = s.modSeat r fun st => st.dropLoad l := rfl

/-- Of a core, a change of a seat leaves all but its seats. -/
theorem State.modSeat_core (s : State) (r : SeatRef) (f : Seat → Seat) :
    (s.modSeat r f).core[r.core] = { s.core[r.core] with seat := s.core[r.core].seat.set r.seat (f (s.getSeat r)) } :=
  s.setCore_self r.core _

/-! ## LANDING -/

/-- The answer of a PENDING slot's request lands (R180, R207). -/
theorem exec_landing {s : State} {r : SeatRef} {n : Fin 64} {l : LoadReq} {a : Answer}
    (hl : ((s.getSeat r).loads.find? fun l => decide (l.kind = .slot n)) = some l) (ha : s.answerNow r l = some a) :
    exec (.landing r n) s = .next ((s.modSeat r fun st =>
      (st.dropLoad l).fill n l a s.core[r.core].lexParam s.core[r.core].cycle).thaw r.core) := by
  show execLanding r n s = _
  unfold execLanding
  rw [hl]
  dsimp only
  rw [ha]
  dsimp only
  rw [State.dropLoad_eq, State.modSeat_modSeat]

/-- A landing, as O22 has it: slot n is FULL with the answer, its request has gone, and a freeze that waits for the slot alone ends (R36,
R180, R207). -/
theorem landing_lands {s : State} {r : SeatRef} {n : Fin 64} {l : LoadReq} {a : Answer}
    (hl : ((s.getSeat r).loads.find? fun l => decide (l.kind = .slot n)) = some l) (ha : s.answerNow r l = some a) :
    Runs (.landing r n) s fun t => SameBytes s t ∧ t.flights = s.flights ∧ t.die = s.die ∧
      (t.getSeat r).ln[n] = (s.getSeat r).ln[n].filled a ∧
      (∀ k, k ≠ n → (t.getSeat r).ln[k] = (s.getSeat r).ln[k]) ∧
      (t.getSeat r).loads = (s.getSeat r).loads.filter (fun m => decide (m.seq ≠ l.seq)) ∧
      (t.getSeat r).stores = (s.getSeat r).stores ∧ (t.getSeat r).q = (s.getSeat r).q ∧ (t.getSeat r).vec = (s.getSeat r).vec ∧
      (s.core[r.core].freeze = some (.slot r.seat n none) → t.core[r.core].freeze = none) ∧
      (∀ m, m ≠ n → s.core[r.core].freeze = some (.slot r.seat n (some m)) → (s.getSeat r).ln[m].state = 1 →
        t.core[r.core].freeze = s.core[r.core].freeze) ∧
      ∀ j, ((t.getSeat r).getStr j).x = ((s.getSeat r).getStr j).x ∧ ((t.getSeat r).getStr j).pc = ((s.getSeat r).getStr j).pc := by
  let f : Seat → Seat := fun st => (st.dropLoad l).fill n l a s.core[r.core].lexParam s.core[r.core].cycle
  refine ⟨_, exec_landing hl ha, ?_⟩
  obtain ⟨freeze, life, thawed⟩ := (s.modSeat r f).thaw_eq r.core
  obtain ⟨sys, lex, lexAt, cut, filled⟩ := ((s.getSeat r).dropLoad l).fill_eq n l a s.core[r.core].lexParam s.core[r.core].cycle
  have seat : (s.modSeat r f).getSeat r = _ := (s.modSeat_getSeat r f).trans filled
  have froze : (s.modSeat r f).core[r.core].freeze = s.core[r.core].freeze := by rw [s.modSeat_core]
  have same (c : Slot) : ((s.getSeat r).ln.set n c)[n] = c := by simp
  have other (c : Slot) {k : Fin 64} (h : k ≠ n) : ((s.getSeat r).ln.set n c)[k] = (s.getSeat r).ln[k] :=
    vmod_ne (s.getSeat r).ln (fun _ => c) h
  have slot : ((s.modSeat r f).getSeat r).ln[n] = (s.getSeat r).ln[n].filled a := by rw [seat]; exact same _
  have slots {k : Fin 64} (h : k ≠ n) : ((s.modSeat r f).getSeat r).ln[k] = (s.getSeat r).ln[k] := by rw [seat]; exact other _ h
  refine ⟨fun _ => by rw [thawed]; rfl, by rw [thawed]; rfl, by rw [thawed]; rfl, ?_⟩
  rw [State.thaw_getSeat]
  refine ⟨slot, fun k h => slots h, by rw [seat]; rfl, by rw [seat]; rfl, by rw [seat]; rfl, by rw [seat]; rfl, fun h => ?_,
    fun m hm h pending => ?_, fun j => by rw [seat]; exact ⟨rfl, rfl⟩⟩
  · refine State.thaw_ends (froze.trans h) ?_
    show ((s.modSeat r f).getSeat r).ln[n].state ≠ 1
    rw [slot]
    exact (by decide : (2 : Fin 4) ≠ 1)
  · have waits := State.thaw_waits (froze.trans h) (show ((s.modSeat r f).getSeat r).ln[m].state = 1 by rw [slots hm]; exact pending)
    rw [show (s.modSeat r _).thaw r.core = _ from waits, froze]

end Sys2Proof.Machine
end

section
/-! SUPPORT. Answers of a stream's requests (R181, R189, R208, R211, R219). -/
namespace Sys2Proof.Machine

/-! ## A value delivered -/

/-- The seat in which a value has reached a destination of stream i in live cycle `now` (R208). -/
def Seat.deliver (st : Seat) (i : StreamId) (now : Nat) (d : SSpec) (v : Word) : Seat :=
  match d with
  | .x n => st.modStr i fun t => t.wrX n v
  | .q n => st.modQ n fun f => f.push (v.setWidth 2048) now

/-- A request has gone and its value has reached its destination. -/
theorem State.deliver_dropLoad (s : State) (w : Who) (l : LoadReq) (d : SSpec) (v : Word) : (s.dropLoad w.ref l).deliver w d v =
    s.modSeat w.ref fun st => (st.dropLoad l).deliver w.stream s.core[w.ref.core].live d v := by
  have live : (s.dropLoad w.ref l).core[w.ref.core].live = s.core[w.ref.core].live := by rw [State.dropLoad_eq, State.modSeat_core]
  unfold State.deliver
  rw [live, State.dropLoad_eq, State.modSeat_modSeat]
  cases d <;> rfl

section
variable (st : Seat) (i : StreamId) (now : Nat) (d : SSpec) (v : Word)

/-- The delivery changes a register or a queue. -/
theorem Seat.deliver_rest : (st.deliver i now d v).loads = st.loads ∧ (st.deliver i now d v).trap = st.trap := by
  cases d <;> exact ⟨rfl, rfl⟩

theorem Seat.deliver_mine : ((st.deliver i now d v).getStr i).p = (st.getStr i).p ∧
    ((st.deliver i now d v).getStr i).pc = (st.getStr i).pc := by
  cases d with
  | x n =>
    show ((st.modStr i _).getStr i).p = _ ∧ ((st.modStr i _).getStr i).pc = _
    rw [Seat.modStr_getStr]
    unfold Stream.wrX
    split <;> exact ⟨rfl, rfl⟩
  | q n => exact ⟨rfl, rfl⟩

theorem Seat.deliver_rdX (k : Fin 32) :
    ((st.deliver i now d v).getStr i).rdX k = if k ≠ 0 ∧ d = .x k then v else (st.getStr i).rdX k := by
  cases d with
  | q n => simp [Seat.deliver]
  | x n =>
    show ((st.modStr i _).getStr i).rdX k = _
    rw [Seat.modStr_getStr]
    by_cases n0 : n = 0
    · have none : ¬(k ≠ 0 ∧ SSpec.x n = .x k) := by rintro ⟨k0, e⟩; injection e with e; exact k0 (e ▸ n0)
      rw [if_neg none, Stream.wrX, if_pos n0]
    · rw [wrX_rdX _ _ _ _ n0]
      by_cases e : k = n
      · rw [if_pos e, if_pos ⟨e ▸ n0, by rw [e]⟩]
      · rw [if_neg e, if_neg fun h => e (by injection h.2 with h; exact h.symm)]

theorem Seat.deliver_items (k : Fin 16) :
    if d = .q k then Enqueued st.q[k].items (st.deliver i now d v).q[k].items ⟨v.setWidth 2048, now⟩
    else (st.deliver i now d v).q[k].items = st.q[k].items := by
  cases d with
  | x n => exact (if_neg (by simp)).mpr rfl
  | q n => simpa [Seat.wrDest, Seat.deliver] using st.wrDest_items .K now (.q n) 0 0 v k

end

/-! ## POISON, precisely at the load -/

/-- A fault leaves the load queue, and the registers of the streams. -/
theorem Seat.takeFault_kept (st : Seat) (f : Flt) (src : Nat) (pcs : Vector Word 4) :
    (st.takeFault f src pcs).loads = st.loads ∧ KeepsFiles st.str (st.takeFault f src pcs).str := by
  by_cases active : st.trap.active = true
  · rw [Seat.takeFault_active active]
    exact ⟨rfl, keepsFiles_refl _⟩
  · rw [Seat.takeFault_idle (by simpa using active)]
    generalize mkInfo _ _ _ _ = info
    split
    · obtain ⟨rest, files, -⟩ := st.recorded_enterHandler info f.addr pcs
      generalize (st.recorded info f.addr pcs).enterHandler = u at rest files ⊢
      exact ⟨by rw [← rest], files⟩
    · exact ⟨rfl, keepsFiles_refl _⟩

/-- The record of a fault taken while no handler runs (R188). -/
theorem Seat.takeFault_idle_trap {st : Seat} (idle : st.trap.active = false) (f : Flt) (src : Nat) (pcs : Vector Word 4) :
    let u := st.takeFault f src pcs
    fld u.trap.info 16 5 = f.cause.code ∧ u.trap.addr = f.addr ∧ u.trap.pc = pcs := by
  have record (low : Nat) (hl : low < 2 ^ 16) : fld (mkInfo f.detail src f.cause.code low) 16 5 = f.cause.code :=
    (fld_mkInfo_cause _ _ _ _ hl).trans (Nat.mod_eq_of_lt f.cause.code_lt)
  rw [Seat.takeFault_idle idle]
  dsimp only
  split
  · exact ⟨record 5 (by decide), rfl, rfl⟩
  · exact ⟨record 1 (by decide), rfl, rfl⟩

/-- The stream that has gone back to where it made a request, waiting for nothing (R189). -/
def Stream.backAt (t : Stream) (p : Site) : Stream := { t.backTo p with wait := .none }

/-- A fault at a request leaves memory, the rest of the load queue, and the registers of its stream (R189). -/
theorem State.faultAt_kept (s : State) (w : Who) (l : LoadReq) (f : Flt) :
    SameBytes s (s.faultAt w l f) ∧ ((s.faultAt w l f).getSeat w.ref).loads = (s.getSeat w.ref).loads ∧
      ((s.faultAt w l f).getStr w).x = (s.getStr w).x := by
  have fault (t : State) : SameBytes t (t.takeFault w.ref f w.stream.idx.val) ∧
      ((t.takeFault w.ref f w.stream.idx.val).getSeat w.ref).loads = (t.getSeat w.ref).loads ∧
      ((t.takeFault w.ref f w.stream.idx.val).getStr w).x = (t.getStr w).x := by
    obtain ⟨bytes, -⟩ := t.takeFault_frame w.ref f w.stream.idx.val
    obtain ⟨rest, -⟩ := (t.getSeat w.ref).stoppedBy_stopStreams w.stream.idx.val
    have stopped := keepsFiles_stopStreams (t.getSeat w.ref) w.stream.idx.val
    have seat := t.takeFault_getSeat w.ref f w.stream.idx.val
    dsimp only at seat
    generalize (t.getSeat w.ref).stopStreams w.stream.idx.val = u at rest stopped seat
    obtain ⟨loads, files⟩ := u.takeFault_kept f w.stream.idx.val u.pcs
    generalize u.takeFault f w.stream.idx.val u.pcs = b at loads files seat
    refine ⟨bytes, ?_, ?_⟩
    · rw [seat]
      exact loads.trans (by rw [rest])
    · unfold State.getStr
      rw [seat]
      exact (files w.stream.idx).x.trans (stopped w.stream.idx).x
  unfold State.faultAt
  split
  · exact fault s
  · obtain ⟨bytes, loads, x⟩ := fault (s.modStr w fun t => t.backAt l.site)
    have seat : (s.modStr w fun t => t.backAt l.site).getSeat w.ref = _ := s.modSeat_getSeat w.ref _
    refine ⟨bytes, loads.trans (by rw [seat]; rfl), x.trans ?_⟩
    unfold State.getStr
    rw [seat, Seat.modStr_getStr]
    rfl

/-- A fault at a request, no handler running, is recorded at the instruction that made it (R188, R189). -/
theorem State.faultAt_record (s : State) (w : Who) (l : LoadReq) (f : Flt) (idle : (s.getSeat w.ref).trap.active = false) :
    let trap := ((s.faultAt w l f).getSeat w.ref).trap
    fld trap.info 16 5 = f.cause.code ∧ trap.addr = f.addr ∧ trap.pc[w.stream.idx] = l.site.pc := by
  have back : s.faultAt w l f = (s.modStr w fun t => t.backAt l.site).takeFault w.ref f w.stream.idx.val := by
    unfold State.faultAt
    rw [idle]
    rfl
  have stood : (s.modStr w fun t => t.backAt l.site).getSeat w.ref =
      (s.getSeat w.ref).modStr w.stream fun t => t.backAt l.site := s.modSeat_getSeat w.ref _
  have seat := (s.modStr w fun t => t.backAt l.site).takeFault_getSeat w.ref f w.stream.idx.val
  rw [← back, stood] at seat
  dsimp only at seat
  generalize hu : ((s.getSeat w.ref).modStr w.stream fun t => t.backAt l.site) = a at seat
  have mine : a.getStr w.stream = ((s.getSeat w.ref).getStr w.stream).backAt l.site := by rw [← hu, Seat.modStr_getStr]
  have stands : (a.stopsAt w.stream.idx.val w.stream).pc = l.site.pc := by
    have waits : (a.getStr w.stream).wait = .none := by rw [mine]; rfl
    unfold Seat.stopsAt
    rw [waits, mine]
    rfl
  have quiet : (a.stopStreams w.stream.idx.val).trap.active = false := by
    rw [(a.stoppedBy_stopStreams _).rest, ← hu]; exact idle
  obtain ⟨cause, addr, pcs⟩ := Seat.takeFault_idle_trap quiet f w.stream.idx.val (a.stopStreams w.stream.idx.val).pcs
  have pc := ((a.stopStreams w.stream.idx.val).pcs_idx w.stream).trans ((a.stoppedBy_stopStreams _).stands w.stream).pc
  generalize (a.stopStreams w.stream.idx.val).takeFault f w.stream.idx.val (a.stopStreams w.stream.idx.val).pcs = b at cause addr pcs seat
  dsimp only
  rw [seat]
  refine ⟨cause, addr, ?_⟩
  show b.trap.pc[w.stream.idx] = l.site.pc
  rw [pcs]
  exact pc.trans stands

/-! ## SCALAR_ANSWER -/

/-- Another stream of the seat has faulted in this core cycle (R189). -/
def State.faultBeside (s : State) (r : SeatRef) : Prop :=
  (s.getSeat r).trap.last.1 = s.core[r.core].cycle + 1 ∧ (s.getSeat r).trap.last.2 ≤ 3

section
variable {s : State} {w : Who} {l : LoadReq} {a : Ans}

theorem State.errorAnswer_alone (h : ¬s.faultBeside w.ref) :
    s.errorAnswer w l a = (s.dropLoad w.ref l).faultAt w l (Flt.at' .poison a.detail l.va) := by
  unfold State.errorAnswer
  exact if_neg (by simpa [State.faultBeside] using h)

/-- Behind a fault of lower SRC the stream stops before its load (R189; log 51). -/
theorem State.errorAnswer_behind (h : s.faultBeside w.ref)
    (lower : (s.getSeat w.ref).trap.last.2 < w.stream.idx.val ∧ (s.getSeat w.ref).trap.nested = false) :
    s.errorAnswer w l a = s.modSeat w.ref fun st => ({ st.dropLoad l with
      trap := { st.trap with pc := st.trap.pc.set w.stream.idx l.site.pc } } : Seat).modStr w.stream fun t => t.backAt l.site := by
  unfold State.errorAnswer
  refine (if_pos (by simpa [State.faultBeside] using h)).trans ((if_pos (by simpa using lower)).trans ?_)
  rw [State.dropLoad_eq, State.modSeat_modSeat]
  exact State.modSeat_modSeat s w.ref _ _

/-- Before a fault of higher SRC, and behind a nested one, the answer waits (log 51). -/
theorem State.errorAnswer_waits (h : s.faultBeside w.ref)
    (higher : ¬((s.getSeat w.ref).trap.last.2 < w.stream.idx.val ∧ (s.getSeat w.ref).trap.nested = false)) :
    s.errorAnswer w l a = s := by
  unfold State.errorAnswer
  exact (if_pos (by simpa [State.faultBeside] using h)).trans (if_neg (by simpa using higher))

end

section
variable {s : State} {w : Who} {i : Nat} {l : LoadReq} {a : Answer} (hl : s.nthAnswer w i = some l) (ha : s.answerNow w.ref l = some a)
include hl ha

/-- A prefetch ends with its sample (R211). -/
theorem exec_scalarAnswer_pref (kind : l.kind = .pref) : exec (.scalarAnswer w i) s = .next (s.modSeat w.ref fun st =>
    (st.dropLoad l).sample s.core[w.ref.core].lexParam s.core[w.ref.core].cycle l.sym (s.core[w.ref.core].cycle - l.issued) l.b) := by
  show execScalarAnswer w i s = _
  simp only [execScalarAnswer, hl, ha, kind, ne_eq, not_true_eq_false, decide_false, Bool.and_false, Bool.false_eq_true, if_false]
  rw [State.dropLoad_eq, State.modSeat_modSeat]

/-- In a freeze of the core no other answer ends its instruction (R18; log 53). -/
theorem exec_scalarAnswer_held (kind : l.kind ≠ .pref) (held : s.coreHeld w.ref.core = true) : exec (.scalarAnswer w i) s = .next s := by
  show execScalarAnswer w i s = _
  simp [execScalarAnswer, hl, ha, kind, held]

variable (runs : s.coreHeld w.ref.core = false)
include runs

section
variable {d : SSpec} (kind : l.kind = .scalar d) (turn : s.queueTurn w.ref l d = true)
include kind turn

theorem exec_scalarAnswer_value (ok : a.ans = .ok) : exec (.scalarAnswer w i) s =
    .next (((s.dropLoad w.ref l).deliver w d (a.data.setWidth 64)).fullHazard w l.full) := by
  show execScalarAnswer w i s = _
  simp [execScalarAnswer, hl, ha, runs, kind, turn, ok]

theorem exec_scalarAnswer_error (bad : a.ans ≠ .ok) : exec (.scalarAnswer w i) s = .next (s.errorAnswer w l a.ans) := by
  show execScalarAnswer w i s = _
  simp [execScalarAnswer, hl, ha, runs, kind, turn, bad]

end

theorem exec_scalarAnswer_amo {op : AtomOp} {d : SSpec} {v e : Word} {pe : Fin 8} (kind : l.kind = .amo op d v e pe)
    (turn : s.queueTurn w.ref l d = true) : exec (.scalarAnswer w i) s =
    .next ((((s.dropLoad w.ref l).deliver w d (a.data.setWidth 64)).modStr w fun t =>
      t.wrP ⟨pe.val, by omega⟩ (decide (a.ans ≠ .ok))).fullHazard w l.full) := by
  show execScalarAnswer w i s = _
  simp [execScalarAnswer, hl, ha, runs, kind, turn]

end

end Sys2Proof.Machine
end

section
/-! SUPPORT. Writes in the window (R202), an atomic at its home (R218, R219), and obligation O22. -/
namespace Sys2Proof.Machine

/-! ## Bytes of the window -/

/-- A place in the window, that is not skewed, of at least n bytes: its bytes stand at their own addresses (R195, R202). -/
structure Place.Plain (p : Place) (n : Nat) : Prop where
  below : p.key + n ≤ physBase
  skew  : p.skew = false

theorem Place.Plain.keyOf {p : Place} {n : Nat} (h : p.Plain n) (i : Nat) : p.keyOf i = p.key + i := by
  unfold Place.keyOf
  rw [h.skew]
  rfl

theorem isPhys_of_below {k : Nat} (h : k < physBase) : isPhys k = false := by
  unfold isPhys
  exact decide_eq_false (by omega)

theorem State.writeKeyed_window (s : State) (slot : Option (Fin 64)) {k : Nat} (b : Byte) (h : k < physBase) :
    s.writeKeyed slot k b = { s with mem := Cells.write s.mem k b } := by
  unfold State.writeKeyed
  rw [isPhys_of_below h]
  rfl

theorem State.readKeyed_window (s : State) (slot : Option (Fin 64)) {k : Nat} (h : k < physBase) : s.readKeyed slot k = s.byteAt k := by
  unfold State.readKeyed
  rw [isPhys_of_below h]
  rfl

/-- The bytes that a write leaves, from byte i of the place on. -/
theorem State.writeFrom_byteAt (s : State) {p : Place} (v i n : Nat) (plain : p.Plain (i + n)) (wf : Memory.wf s.mem = true) :
    (∀ j < n, (s.writeFrom p v i n).byteAt (p.key + (i + j)) = BitVec.ofNat 8 (v / 256 ^ j)) ∧
      ∀ k, k < p.key + i ∨ p.key + (i + n) ≤ k → (s.writeFrom p v i n).byteAt k = s.byteAt k := by
  induction n generalizing s v i with
  | zero => exact ⟨fun j hj => absurd hj (by omega), fun _ _ => rfl⟩
  | succ n ih =>
    have below := plain.below
    let u : State := { s with mem := Cells.write s.mem (p.key + i) (BitVec.ofNat 8 v) }
    have first : s.writeKeyed p.slot (p.keyOf i) (BitVec.ofNat 8 v) = u := by
      rw [plain.keyOf]; exact s.writeKeyed_window _ _ (by omega)
    have step : s.writeFrom p v i (n + 1) = u.writeFrom p (v / 256) (i + 1) n := by rw [State.writeFrom, first]
    obtain ⟨inside, outside⟩ := ih u (v / 256) (i + 1) ⟨by omega, plain.skew⟩ (Cells.write_wf _ _ _ wf)
    rw [step]
    refine ⟨fun j hj => ?_, fun k hk => ?_⟩
    · cases j with
      | zero =>
        rw [outside _ (by omega), pow_zero, Nat.div_one]
        exact Cells.read_write_same s.mem _ _ wf
      | succ j =>
        rw [show p.key + (i + (j + 1)) = p.key + (i + 1 + j) by omega, inside j (by omega), Nat.div_div_eq_div_mul, pow_succ,
          Nat.mul_comm]
    · rw [outside k (by omega)]
      exact Cells.read_write_ne s.mem _ _ _ wf (by omega)

/-- A write in the window leaves its bytes there, and every other byte as before (R202). -/
theorem State.writePlace_byteAt (s : State) {p : Place} {n : Nat} (v : Nat) (plain : p.Plain n) (wf : Memory.wf s.mem = true) :
    (∀ j < n, (s.writePlace p n v).byteAt (p.key + j) = BitVec.ofNat 8 (v / 256 ^ j)) ∧
      ∀ k, k < p.key ∨ p.key + n ≤ k → (s.writePlace p n v).byteAt k = s.byteAt k := by
  obtain ⟨inside, outside⟩ := s.writeFrom_byteAt v 0 n (by rw [Nat.zero_add]; exact plain) wf
  refine ⟨fun j hj => ?_, fun k hk => ?_⟩
  · have := inside j hj
    rwa [Nat.zero_add] at this
  · exact outside k (by omega)

/-- What a place of the window reads as is read from memory alone. -/
theorem State.readPlace_congr {s t : State} {p : Place} {n : Nat} (plain : p.Plain n) (mem : t.mem = s.mem) :
    t.readPlace p n = s.readPlace p n := by
  have from' (i m : Nat) (h : i + m ≤ n) : t.readFrom p i m = s.readFrom p i m := by
    induction m generalizing i with
    | zero => rfl
    | succ m ih =>
      have below := plain.below
      have byte : t.byteAt (p.key + i) = s.byteAt (p.key + i) := by unfold State.byteAt; rw [mem]
      rw [State.readFrom, State.readFrom, ih (i + 1) (by omega), plain.keyOf, t.readKeyed_window _ (by omega),
        s.readKeyed_window _ (by omega), byte]
  exact from' 0 n (by omega)

theorem State.readPlace_lt (s : State) (p : Place) (n : Nat) : s.readPlace p n < 256 ^ n := by
  have from' (i m : Nat) : s.readFrom p i m < 256 ^ m := by
    induction m generalizing i with
    | zero => exact Nat.one_pos
    | succ m ih =>
      have byte := (s.readKeyed p.slot (p.keyOf i)).isLt
      have rest := ih (i + 1)
      rw [State.readFrom, pow_succ]
      omega
  exact from' 0 n

/-! ## An atomic at its home -/

/-- The state of an atomic at its home once its answer is taken, before its bytes are written (R219, R253). -/
def State.amoRead (s : State) (r : SeatRef) (l : LoadReq) : State :=
  (s.noteCorr (some r) l.place l.size).hear ⟨r, l.stream⟩ l.acq (s.heardAt l.place l.size)

theorem State.amoRead_mem (s : State) (r : SeatRef) (l : LoadReq) : (s.amoRead r l).mem = s.mem :=
  (State.hear_mem _ _ _ _).trans (s.noteCorr_mem _ _ _)

theorem State.homeAct_amo {s : State} {r : SeatRef} {l : LoadReq} {op : AtomOp} {d : SSpec} {v e : Word} {pe : Fin 8}
    (kind : l.kind = .amo op d v e pe) (ok : s.answerReq r l l.place l.size = .ok) (here : l.place.isLocal = true)
    (plain : l.place.Plain l.size) :
    let old := s.readPlace l.place l.size
    s.homeAct r l = (((s.amoRead r l).writePlace l.place l.size (atomApply op (8 * l.size) old v.toNat e.toNat)).afterWrite
      l.place l.size false false).setReq r { l with got := some ⟨.ok, (BitVec.ofNat 64 old).setWidth 2048, false⟩ } := by
  intro old
  have value : s.dataAt l.place l.size = old := if_pos here
  have again : (s.amoRead r l).dataAt l.place l.size = old :=
    (if_pos here).trans (State.readPlace_congr plain (s.amoRead_mem r l))
  have put : (s.amoRead r l).putAmo l.place l.size op v e =
      ((s.amoRead r l).writePlace l.place l.size (atomApply op (8 * l.size) old v.toNat e.toNat)).afterWrite l.place l.size false false := by
    unfold State.putAmo
    rw [if_pos here, again]
  have applied : s.applyAmo r l op v e = (.ok, BitVec.ofNat 64 old, (s.amoRead r l).putAmo l.place l.size op v e) := by
    unfold State.applyAmo
    dsimp only
    rw [ok, value]
    rfl
  unfold State.homeAct
  rw [kind]
  dsimp only
  rw [applied, put]

/-- A request that now stands with an answer. -/
theorem State.setReq_got (s : State) (r : SeatRef) (l : LoadReq) :
    ∀ m ∈ ((s.setReq r l).getSeat r).loads, m.seq = l.seq → m.got = l.got := by
  intro m hm seq
  rw [State.setReq, State.modSeat_getSeat] at hm
  obtain ⟨x, -, rfl⟩ := List.mem_map.1 hm
  by_cases hx : x.seq = l.seq
  · rw [if_pos hx]
  · rw [if_neg hx] at seq; exact absurd seq hx

/-! ## Obligation O22 -/

theorem State.modSeat_getStr (s : State) (w : Who) (f : Seat → Seat) :
    (s.modSeat w.ref f).getStr w = (f (s.getSeat w.ref)).getStr w.stream :=
  congrArg (fun st : Seat => st.getStr w.stream) (s.modSeat_getSeat w.ref f)

/-- A request of stream w has gone, and its value stands in d (R208). -/
theorem State.deliver_dropLoad_spec (s : State) (w : Who) (l : LoadReq) (d : SSpec) (v : Word) :
    let a := s.getSeat w.ref
    let t := (s.dropLoad w.ref l).deliver w d v
    SameBytes s t ∧ (t.getSeat w.ref).loads = a.loads.filter (fun m => decide (m.seq ≠ l.seq)) ∧
      (∀ k, (t.getStr w).rdX k = if k ≠ 0 ∧ d = .x k then v else (s.getStr w).rdX k) ∧
      (∀ k : Fin 16, if d = .q k then Enqueued a.q[k].items (t.getSeat w.ref).q[k].items ⟨v.setWidth 2048, s.core[w.ref.core].live⟩
        else (t.getSeat w.ref).q[k].items = a.q[k].items) ∧
      (t.getStr w).p = (s.getStr w).p ∧ (t.getStr w).pc = (s.getStr w).pc ∧ (t.getSeat w.ref).trap = a.trap := by
  intro a t
  have whole : t = _ := s.deliver_dropLoad w l d v
  obtain ⟨loads, trap⟩ := (a.dropLoad l).deliver_rest w.stream s.core[w.ref.core].live d v
  obtain ⟨p, pc⟩ := (a.dropLoad l).deliver_mine w.stream s.core[w.ref.core].live d v
  rw [whole, State.modSeat_getSeat, State.modSeat_getStr]
  exact ⟨fun _ => rfl, loads, (a.dropLoad l).deliver_rdX _ _ _ _, (a.dropLoad l).deliver_items _ _ _ _, p, pc, trap⟩

theorem State.modStr_self (s : State) (w : Who) (f : Stream → Stream) : (s.modStr w f).getStr w = f (s.getStr w) :=
  (s.modSeat_getStr w _).trans (Seat.modStr_getStr _ _ _)

theorem State.modStr_getSeat (s : State) (w : Who) (f : Stream → Stream) :
    (s.modStr w f).getSeat w.ref = (s.getSeat w.ref).modStr w.stream f := s.modSeat_getSeat w.ref _

/-- Settles O22: a landing is `landing_lands`; an answer is delivered, raises POISON at its load, or waits; an atomic at its home is
`State.homeAct_amo`. -/
theorem landingsAndScalarAnswers : Obligations.LandingsAndScalarAnswers := by
  unfold Obligations.LandingsAndScalarAnswers
  refine ⟨fun s r n l a hl ha => landing_lands hl ha, fun s w i l a hl ha => ?answer,
    fun s r l op d v e pe kind wf ok here below skew size => ?amo⟩
  case answer =>
    intro left gets
    refine ⟨fun kind => ⟨_, exec_scalarAnswer_pref hl ha kind, ?pref⟩, exec_scalarAnswer_held hl ha, fun d kind runs turn => ?scalar,
      fun op d v e pe kind runs turn => ⟨_, exec_scalarAnswer_amo hl ha runs kind turn, _, rfl, ?atomic⟩⟩
    case pref =>
      obtain ⟨lex, lexAt, cut, sampled⟩ := ((s.getSeat w.ref).dropLoad l).sample_eq s.core[w.ref.core].lexParam
        s.core[w.ref.core].cycle l.sym (s.core[w.ref.core].cycle - l.issued) l.b
      have seat := (State.modSeat_getSeat s w.ref fun st => (st.dropLoad l).sample s.core[w.ref.core].lexParam
        s.core[w.ref.core].cycle l.sym (s.core[w.ref.core].cycle - l.issued) l.b).trans sampled
      dsimp only [left]
      rw [seat]
      exact ⟨rfl, fun _ => rfl, rfl⟩
    case scalar =>
      intro trap beside
      refine ⟨fun good => ⟨_, exec_scalarAnswer_value hl ha runs kind turn good, _, rfl, ?value⟩, fun bad alone => ?poison,
        fun bad near => ?near⟩
      case value =>
        obtain ⟨bytes, loads, regs, queues, p, pc, same⟩ := s.deliver_dropLoad_spec w l d (a.data.setWidth 64)
        exact ⟨bytes, loads, ⟨regs, queues⟩, p, pc, same⟩
      case poison =>
        obtain ⟨bytes, loads, x⟩ := (s.dropLoad w.ref l).faultAt_kept w l (Flt.at' .poison a.ans.detail l.va)
        have seat : (s.dropLoad w.ref l).getSeat w.ref = (s.getSeat w.ref).dropLoad l := s.modSeat_getSeat w.ref _
        have mine : (s.dropLoad w.ref l).getStr w = s.getStr w := s.modSeat_getStr w _
        refine ⟨_, (exec_scalarAnswer_error hl ha runs kind turn bad).trans (by rw [State.errorAnswer_alone alone]), bytes,
          loads.trans (by rw [seat]; rfl), x.trans (by rw [mine]), fun idle => ?_⟩
        exact (s.dropLoad w.ref l).faultAt_record w l (Flt.at' .poison a.ans.detail l.va) (by rw [seat]; exact idle)
      case near =>
        have runsTo := exec_scalarAnswer_error hl ha runs kind turn bad
        split
        · rename_i lower
          rw [State.errorAnswer_behind near lower] at runsTo
          refine ⟨_, runsTo, fun _ => rfl, ?_, ?_, ?_, ?_, ?_⟩
          · exact congrArg Seat.loads (s.modSeat_getSeat w.ref _)
          · rw [State.modSeat_getStr, Seat.modStr_getStr]; rfl
          · rw [State.modSeat_getSeat]
            show (trap.pc.set w.stream.idx l.site.pc)[w.stream.idx] = _
            simp
          · rw [State.modSeat_getSeat]; rfl
          · rw [State.modSeat_getSeat]; rfl
        · rename_i higher
          rwa [State.errorAnswer_waits near higher] at runsTo
    case atomic =>
      obtain ⟨bytes, loads, regs, queues, p, pc, same⟩ := s.deliver_dropLoad_spec w l d (a.data.setWidth 64)
      generalize (s.dropLoad w.ref l).deliver w d (a.data.setWidth 64) = u at bytes loads regs queues p pc same
      obtain ⟨x, -⟩ := wrP_regs (u.getStr w) ⟨pe.val, by omega⟩ (decide (a.ans ≠ .ok))
      obtain ⟨stays, -⟩ := wrP_sameSeq (u.getStr w) ⟨pe.val, by omega⟩ (decide (a.ans ≠ .ok))
      refine ⟨bytes, ?_, ⟨fun k => ?_, fun k => ?_⟩, ?_, fun m => ?_⟩
      · show ((u.modStr w _).getSeat w.ref).loads = _
        rw [State.modStr_getSeat]; exact loads
      · rw [State.modStr_self, ← regs k]
        unfold Stream.rdX
        rw [x]
      · rw [State.modStr_getSeat]; exact queues k
      · rw [State.modStr_self, stays, pc]
      · have others : (u.getStr w).rdP m = (s.getStr w).rdP m := by unfold Stream.rdP; rw [p]
        rw [State.modStr_self, wrP_rdP, others]
        by_cases m0 : m = 0
        · have no : ¬(m = (⟨pe.val, by omega⟩ : Fin 16) ∧ (⟨pe.val, by omega⟩ : Fin 16) ≠ 0) := fun h => h.2 (h.1 ▸ m0)
          rw [if_pos m0, if_neg no, m0]
          rfl
        · have hit : (m = (⟨pe.val, by omega⟩ : Fin 16) ∧ (⟨pe.val, by omega⟩ : Fin 16) ≠ 0) ↔ m.val = pe.val :=
            ⟨fun h => congrArg Fin.val h.1, fun h => have e := Fin.ext h; ⟨e, fun z => m0 (e.trans z)⟩⟩
          rw [if_neg m0]
          exact if_congr hit rfl rfl
  case amo =>
    have plain : l.place.Plain l.size := ⟨below, skew⟩
    intro t old new
    have acted : t = _ := State.homeAct_amo kind ok here plain
    have mem : t.mem = ((s.amoRead r l).writePlace l.place l.size new).mem := by
      rw [acted]; exact State.afterWrite_mem _ _ _ _ _
    obtain ⟨inside, outside⟩ := (s.amoRead r l).writePlace_byteAt new plain (by rw [s.amoRead_mem]; exact wf)
    have byte (k : Nat) : t.byteAt k = ((s.amoRead r l).writePlace l.place l.size new).byteAt k := by
      unfold State.byteAt; rw [mem]
    refine ⟨fun j hj => (byte _).trans (inside j hj), fun k hk => (byte k).trans ((outside k hk).trans ?_), fun m hm seq => ?_⟩
    · unfold State.byteAt; rw [s.amoRead_mem]
    · have small : old < 2 ^ 64 := lt_of_lt_of_le (s.readPlace_lt _ _) (by
        calc 256 ^ l.size ≤ 256 ^ 8 := Nat.pow_le_pow_right (by decide) size
          _ = 2 ^ 64 := by norm_num)
      rw [acted] at hm
      refine (State.setReq_got _ r _ m hm seq).trans ?_
      have same : (BitVec.ofNat 64 old).setWidth 2048 = BitVec.ofNat 2048 old := by
        refine BitVec.eq_of_toNat_eq ?_
        rw [BitVec.toNat_setWidth, BitVec.toNat_ofNat, BitVec.toNat_ofNat, Nat.mod_eq_of_lt small]
      rw [← same]

end Sys2Proof.Machine
end

section
/-! SUPPORT. Changes of the state that leave a core and read of it at most what its seats run (R342, R357, R403, R406). -/
namespace Sys2Proof.Machine

/-! ## Changes apart from a core -/

/-- The seats of two cores run the same. -/
def SameInsts (a b : Core) : Prop := ∀ k : Fin 2, b.seat[k].inst = a.seat[k].inst

/-- F leaves core c, and reads of it at most what its seats run. -/
def ApartFrom (c : Fin 904) (F : State → State) : Prop :=
  ∀ s v, SameInsts s.core[c] v → F (s.setCore c v) = (F s).setCore c v

theorem ApartFrom.core {c : Fin 904} {F : State → State} (h : ApartFrom c F) (s : State) : (F s).core[c] = s.core[c] := by
  have same := h s s.core[c] fun _ => rfl
  rw [s.setCore_same] at same
  rw [same]
  exact (F s).setCore_self c _

theorem ApartFrom.getSeat {F : State → State} {r : SeatRef} (h : ApartFrom r.core F) (s : State) : (F s).getSeat r = s.getSeat r :=
  congrArg (fun x : Core => x.seat[r.seat]) (h.core s)

/-- Such a change, and one of a seat of the core that leaves what it runs, are made in either order. -/
theorem ApartFrom.modSeat {F : State → State} {r : SeatRef} (h : ApartFrom r.core F) (s : State) {f : Seat → Seat}
    (runs : (f (s.getSeat r)).inst = (s.getSeat r).inst) : F (s.modSeat r f) = (F s).modSeat r f := by
  have insts : SameInsts s.core[r.core] { s.core[r.core] with seat := s.core[r.core].seat.set r.seat (f (s.getSeat r)) } := by
    intro k
    by_cases e : k = r.seat
    · subst e
      simpa [State.getSeat] using runs
    · exact congrArg Seat.inst (vmod_ne s.core[r.core].seat (fun _ => f (s.getSeat r)) e)
  have set := h s _ insts
  show F (s.setCore r.core _) = (F s).setCore r.core _
  rw [h.getSeat, h.core]
  exact set

theorem apartFrom_comp {c : Fin 904} {F G : State → State} (hF : ApartFrom c F) (hG : ApartFrom c G) : ApartFrom c fun s => G (F s) := by
  intro s v runs
  have next : SameInsts (F s).core[c] v := by rw [hF.core]; exact runs
  exact (congrArg G (hF s v runs)).trans (hG _ v next)

theorem apartFrom_foldl {α : Type} {c : Fin 904} {g : State → α → State} (h : ∀ a, ApartFrom c fun s => g s a) (l : List α) :
    ApartFrom c fun s => l.foldl g s := by
  induction l with
  | nil => exact fun _ _ _ => rfl
  | cons a l ih => exact apartFrom_comp (h a) ih

/-! ## Requests of the clock plan (R406) -/

theorem apartFrom_toPort (c : Fin 904) (a : Stand) (x : OutFlit) : ApartFrom c fun s => (s.toPort a x).getD s := by
  intro s v _
  have route : (s.setCore c v).route a x.pkg = s.route a x.pkg := rfl
  simp only [State.toPort, route]
  cases s.route a x.pkg <;> rfl

/-- The change of a die leaves its group's request as it was, or the die has no group: no notice goes out (R406). -/
def State.requestKept (s : State) (d : Fin 8) (f : Die → Die) : Bool :=
  let t := (s.modDie d f).recordSteps
  let g := t.die[d].group
  g = 0 || (t.die[d].request = s.die[d].request && g = s.die[d].group)

/-- The notices of a die's request to the other packages of its group (R406). -/
def State.notices (t : State) (d : Fin 8) : State :=
  (Config.groupPackages t.die[d].group).foldl (fun (s : State) k => (s.toPort ⟨none, d.val⟩ (OutFlit.of k 1 none)).getD s) t

theorem State.requestChange_eq (s : State) (d : Fin 8) (f : Die → Die) : s.requestChange d f =
    if s.requestKept d f then (s.modDie d f).recordSteps else (s.modDie d f).recordSteps.notices d := rfl

theorem apartFrom_notices (c : Fin 904) (d : Fin 8) : ApartFrom c fun s => s.notices d :=
  fun s v runs => apartFrom_foldl (fun _ => apartFrom_toPort c _ _) (Config.groupPackages s.die[d].group) s v runs

theorem apartFrom_requestChange (c : Fin 904) (d : Fin 8) (f : Die → Die) : ApartFrom c fun s => s.requestChange d f := by
  intro s v runs
  have kept : (s.setCore c v).requestKept d f = s.requestKept d f := rfl
  have next : ((s.setCore c v).modDie d f).recordSteps = (s.modDie d f).recordSteps.setCore c v := rfl
  dsimp only
  rw [State.requestChange_eq, State.requestChange_eq, kept, next]
  split
  · rfl
  · exact apartFrom_notices c d _ v runs

/-- The notices of a request fill the queues of the ports alone. -/
theorem State.notices_eq (t : State) (d : Fin 8) : ∃ port, t.notices d = { t with port := port } := by
  have go (l : List Nat) (u : State) : ∃ port,
      l.foldl (fun (s : State) k => (s.toPort ⟨none, d.val⟩ (OutFlit.of k 1 none)).getD s) u = { u with port := port } := by
    induction l generalizing u with
    | nil => exact ⟨u.port, rfl⟩
    | cons k l ih =>
      have one : ∃ port, (u.toPort ⟨none, d.val⟩ (OutFlit.of k 1 none)).getD u = { u with port := port } := by
        unfold State.toPort
        cases u.route _ _ with
        | none => exact ⟨u.port, rfl⟩
        | some n => exact ⟨_, rfl⟩
      obtain ⟨p, hp⟩ := one
      obtain ⟨q, hq⟩ := ih { u with port := p }
      exact ⟨q, by rw [List.foldl_cons, hp, hq]⟩
  exact go _ t

/-- A change of a die's request changes the dies and the queues of the ports. -/
theorem State.requestChange_ports (s : State) (d : Fin 8) (f : Die → Die) :
    ∃ port, s.requestChange d f = { (s.modDie d f).recordSteps with port := port } := by
  obtain ⟨port, h⟩ := (s.modDie d f).recordSteps.notices_eq d
  rw [State.requestChange_eq]
  split
  · exact ⟨_, rfl⟩
  · exact ⟨port, h⟩

/-! ## The reset of a die (R403) -/

/-- A change of each core that leaves core c does not read it. -/
theorem mapFinIdx_set {n : Nat} {α : Type} (v : Vector α n) (c : Fin n) (x : α) (f : (i : Nat) → α → i < n → α)
    (h : ∀ y, f c y c.isLt = y) : (v.set c x).mapFinIdx f = (v.mapFinIdx f).set c x := by
  refine Vector.ext fun i hi => ?_
  rw [Vector.getElem_mapFinIdx, Vector.getElem_set, Vector.getElem_set]
  split
  · next e => subst e; exact h x
  · rw [Vector.getElem_mapFinIdx]

theorem State.setCore_getSeat_ne (s : State) {c : Fin 904} (v : Core) {r : SeatRef} (h : r.core ≠ c) : (s.setCore c v).getSeat r = s.getSeat r :=
  congrArg (fun x : Core => x.seat[r.seat]) (s.setCore_ne v h)

/-- What a seat runs is read as before where a core's seats run the same. -/
theorem State.setCore_inst (s : State) {c : Fin 904} {v : Core} (runs : SameInsts s.core[c] v) (r : SeatRef) :
    ((s.setCore c v).getSeat r).inst = (s.getSeat r).inst := by
  by_cases h : r.core = c
  · subst h
    have self : (s.setCore r.core v).getSeat r = v.seat[r.seat] := congrArg (fun x : Core => x.seat[r.seat]) (s.setCore_self r.core v)
    rw [self]
    exact runs r.seat
  · rw [s.setCore_getSeat_ne v h]

theorem apartFrom_setSeat {c : Fin 904} {r : SeatRef} (h : r.core ≠ c) (a : Seat) : ApartFrom c fun s => s.setSeat r a := by
  intro s v _
  have ne : c.val ≠ r.core.val := fun e => h (Fin.ext e.symm)
  have read : (s.setCore c v).core[r.core] = s.core[r.core] := s.setCore_ne v h
  show (s.setCore c v).setCore r.core { (s.setCore c v).core[r.core] with seat := (s.setCore c v).core[r.core].seat.set r.seat a } = _
  rw [read]
  simp only [State.setSeat, State.setCore]
  rw [Vector.set_comm _ _ ne]

/-- An abort changes each core but the system cores, and drops the jobs of the seats given up (R25). -/
theorem State.abortSeats_eq (q : Fin 512) : ∃ f : (i : Nat) → Core → i < 904 → Core, (∀ i x h, 896 ≤ i → f i x h = x) ∧
    ∀ s : State, s.abortSeats q = { s with
      core := s.core.mapFinIdx f,
      jobs := s.jobs.filter fun j => !(decide ((s.getSeat ⟨j.core, j.seat⟩).inst.phase ≠ .free) &&
        decide ((s.getSeat ⟨j.core, j.seat⟩).inst.q = q)) } := by
  refine ⟨_, ?_, fun s => rfl⟩
  exact fun i x h sys => if_pos sys

theorem apartFrom_abortSeats {c : Fin 904} (sys : 896 ≤ c.val) (q : Fin 512) : ApartFrom c fun s => s.abortSeats q := by
  intro s v runs
  obtain ⟨f, fixed, eq⟩ := State.abortSeats_eq q
  dsimp only
  rw [eq, eq]
  simp only [s.setCore_inst runs]
  have cores : (s.setCore c v).core.mapFinIdx f = (s.core.mapFinIdx f).set c v :=
    mapFinIdx_set s.core c v f fun y => fixed c y c.isLt sys
  rw [cores]
  rfl

theorem apartFrom_abortLaunch {c : Fin 904} (sys : 896 ≤ c.val) (l : Launch) : ApartFrom c fun s => s.abortLaunch l :=
  apartFrom_comp (apartFrom_abortSeats sys l.q) (G := fun s => s.completeLaunch { l with aborted := true }) fun _ _ _ => rfl

theorem dieSeats_core {d : Fin 8} {r : SeatRef} (h : r ∈ dieSeats d) : r.core.val < 896 := by
  obtain ⟨k, -, h⟩ := List.mem_flatMap.1 h
  obtain ⟨x, -, rfl⟩ := List.mem_map.1 h
  show d.val * 112 + k.val < 896
  omega

/-- Which launches run on a die is read from the die's own cores (R20, log 36). -/
theorem State.launchesOn_setCore (s : State) {c : Fin 904} (sys : 896 ≤ c.val) (v : Core) (d : Fin 8) :
    (s.setCore c v).launchesOn d = s.launchesOn d := by
  have seats (l : Launch) : (s.setCore c v).launchOn d l = s.launchOn d l := by
    rw [Bool.eq_iff_iff]
    simp only [State.launchOn, List.any_eq_true]
    refine exists_congr fun r => and_congr_right fun hr => ?_
    have ne : r.core ≠ c := fun e => by have := dieSeats_core hr; rw [e] at this; omega
    rw [s.setCore_getSeat_ne v ne]
  exact List.filter_congr fun l _ => seats l

theorem coreDie_of_sys {c : Fin 904} (h : 896 ≤ c.val) : (coreDie c).val = c.val - 896 := by
  unfold coreDie
  rw [if_neg (by omega)]
  exact Nat.mod_eq_of_lt (by omega)

theorem coreDie_sysRef (d : Fin 8) : coreDie (sysRef d).core = d := by
  have val : (sysRef d).core.val = 896 + d.val := rfl
  have die := coreDie_of_sys (c := (sysRef d).core) (by omega)
  exact Fin.ext (by omega)

/-- The launch queues of a die stop with DIE_LOST (R403). -/
def State.stopQueues (s : State) (d : Fin 8) : State :=
  (List.finRange 64).foldl (fun (s : State) (i : Fin 64) => s.stopQueue ⟨d.val * 64 + i.val, by omega⟩ 3) s

/-- A die's mark of its reset, and of when it began (R403). -/
def State.markReset (s : State) (d : Fin 8) (n : Nat) : State :=
  { s with die := vmod s.die d fun x => { x with inReset := true, resetAt := n }, dieRst := s.dieRst ||| ((1 : Word) <<< (8 + d.val)) }

/-- The start of a die's reset, in its steps. -/
theorem State.startDieReset_eq (s : State) (d : Fin 8) : s.startDieReset d =
    if s.dieInReset d.val then s
    else ((((((s.launchesOn d).foldl State.abortLaunch s).stopQueues d).zeroDie d).setSeat (sysRef d) Seat.reset).markReset d s.seq) := rfl

section
variable {c : Fin 904} {d : Fin 8} (other : coreDie c ≠ d)
include other

theorem apartFrom_zeroDie : ApartFrom c fun s => s.zeroDie d := by
  intro s v _
  have eq : ∃ f : (i : Nat) → Core → i < 904 → Core, (∀ y, f c y c.isLt = y) ∧
      (s.zeroDie d).core = s.core.mapFinIdx f ∧
      (s.setCore c v).zeroDie d = { s.zeroDie d with core := (s.core.set c v).mapFinIdx f } := by
    refine ⟨_, ?_, rfl, rfl⟩
    exact fun y => if_neg other
  obtain ⟨f, fixed, core, next⟩ := eq
  dsimp only
  rw [next, mapFinIdx_set s.core c v f fixed, ← core]
  rfl

theorem sysRef_core_ne : (sysRef d).core ≠ c := fun e => other (by rw [← e]; exact coreDie_sysRef d)

theorem apartFrom_startDieReset (sys : 896 ≤ c.val) : ApartFrom c fun s => s.startDieReset d := by
  have aborts (s : State) : ApartFrom c fun u => (s.launchesOn d).foldl State.abortLaunch u :=
    apartFrom_foldl (fun l => apartFrom_abortLaunch sys l) _
  have queues : ApartFrom c fun s => s.stopQueues d := apartFrom_foldl (fun _ _ _ _ => rfl) _
  have cleared : ApartFrom c fun s => (s.zeroDie d).setSeat (sysRef d) Seat.reset :=
    apartFrom_comp (apartFrom_zeroDie other) (apartFrom_setSeat (sysRef_core_ne other) _)
  have marked (n : Nat) : ApartFrom c fun s => s.markReset d n := fun _ _ _ => rfl
  intro s v runs
  have held : (s.setCore c v).dieInReset d.val = s.dieInReset d.val := rfl
  have seq : (s.setCore c v).seq = s.seq := rfl
  dsimp only
  rw [State.startDieReset_eq, State.startDieReset_eq, held, seq, s.launchesOn_setCore sys v d]
  split
  · rfl
  · exact apartFrom_comp (apartFrom_comp (apartFrom_comp (aborts s) queues) cleared) (marked s.seq) s v runs

end

end Sys2Proof.Machine
end

section
/-! SUPPORT. A write of a system register leaves the running stream, and commutes with reading a source (R184). -/
namespace Sys2Proof.Machine

/-! ## The running stream of a state that a register write makes -/

theorem foldl_turn {α : Type} {g : State → α → State} (h : ∀ s a, (g s a).turn = s.turn) (l : List α) (s : State) :
    (l.foldl g s).turn = s.turn := by
  induction l generalizing s with
  | nil => rfl
  | cons a l ih => exact (ih (g s a)).trans (h s a)

theorem State.requestChange_turn (s : State) (d : Fin 8) (f : Die → Die) : (s.requestChange d f).turn = s.turn := by
  obtain ⟨port, h⟩ := s.requestChange_ports d f
  rw [h]
  rfl

theorem State.stopQueue_turn (s : State) (q : Fin 512) (k : Nat) : (s.stopQueue q k).turn = s.turn := rfl

theorem State.stopQueues_turn (s : State) (d : Fin 8) : (s.stopQueues d).turn = s.turn := by
  unfold State.stopQueues
  exact foldl_turn (fun s i => s.stopQueue_turn _ 3) _ s

theorem State.abortLaunch_turn (s : State) (l : Launch) : (s.abortLaunch l).turn = s.turn := rfl

theorem State.startDieReset_turn (s : State) (d : Fin 8) : (s.startDieReset d).turn = s.turn := by
  have cleared (u : State) : (((u.zeroDie d).setSeat (sysRef d) Seat.reset).markReset d s.seq).turn = u.turn := rfl
  rw [State.startDieReset_eq]
  split
  · rfl
  · rw [cleared, State.stopQueues_turn]
    exact foldl_turn State.abortLaunch_turn _ s

/-- The resets that a write to DIE_RST begins (R403). -/
def State.startResets (s : State) (v : Word) : State :=
  (List.finRange 8).foldl (fun (s : State) (e : Fin 8) => if e ≠ 0 && bit v e.val then s.startDieReset e else s) s

theorem State.startResets_turn (s : State) (v : Word) : (s.startResets v).turn = s.turn := by
  refine foldl_turn (fun s e => ?_) _ s
  split
  · exact s.startDieReset_turn e
  · rfl

/-- The cases of a write to a register of a die or of the package: what it changes besides dies and package registers. -/
theorem State.writeDieReg_cases (P : (State → State) → Prop) (d : Fin 8) (n : Nat) (v : Word)
    (die : ∀ f : Die → Die, P fun s => s.modDie d f) (same : P fun s => s)
    (root : ∀ x, P fun s => { s with hostRoot := x }) (dom : ∀ x, P fun s => { s with domRoot := x })
    (quar : ∀ x, P fun s => { s with quar := x }) (hbar : ∀ x, P fun s => { s with hbarVa := x })
    (request : ∀ f : Die → Die, P fun s => s.requestChange d f) (resets : n = 0x0908 → P fun s => s.startResets v) :
    P fun s => s.writeDieReg d n v := by
  unfold State.writeDieReg
  split
  · exact die _
  · split
    · exact die _
    · split
      · exact die _
      · split
        · exact die _
        · exact root _
        · exact dom _
        · exact quar _
        · exact die _
        · exact die _
        · exact request _
        · exact request _
        · exact resets rfl
        · exact hbar _
        · exact same

theorem State.writeDieReg_turn (s : State) (d : Fin 8) (n : Nat) (v : Word) : (s.writeDieReg d n v).turn = s.turn :=
  State.writeDieReg_cases (fun F => ∀ s, (F s).turn = s.turn) d n v (fun _ _ => rfl) (fun _ => rfl) (fun _ _ => rfl) (fun _ _ => rfl)
    (fun _ _ => rfl) (fun _ _ => rfl) (fun f s => s.requestChange_turn d f) (fun _ s => s.startResets_turn v) s

/-- A register of a die is written apart from a core whose die DIE_RST does not reset (R403). -/
theorem apartFrom_writeDieReg {c : Fin 904} {n : Nat} (h : n = 0x0908 → 896 ≤ c.val ∧ coreDie c = 0) (d : Fin 8) (v : Word) :
    ApartFrom c fun s => s.writeDieReg d n v := by
  refine State.writeDieReg_cases (ApartFrom c) d n v (fun _ _ _ _ => rfl) (fun _ _ _ => rfl) (fun _ _ _ _ => rfl) (fun _ _ _ _ => rfl)
    (fun _ _ _ _ => rfl) (fun _ _ _ _ => rfl) (fun f => apartFrom_requestChange c d f) fun rst => ?_
  obtain ⟨sys, zero⟩ := h rst
  refine apartFrom_foldl (fun e => ?_) _
  by_cases on : (e ≠ 0 && bit v e.val) = true
  · have other : coreDie c ≠ e := by
      rw [zero]
      exact fun eq => by simp [← eq] at on
    simpa only [if_pos on] using apartFrom_startDieReset other sys
  · simp only [if_neg on]
    exact fun _ _ _ => rfl

/-! ## A write by the running stream -/

theorem State.sysWrite_turn (s : State) (w : Who) (n : Nat) (v : Word) : (s.sysWrite w n v).turn = s.turn := by
  unfold State.sysWrite
  split
  · rfl
  · split
    · rfl
    · exact s.writeDieReg_turn _ n v

end Sys2Proof.Machine
end

section
/-! SUPPORT. SRW: the write of a register and the reading of its source are made in either order (R184). -/
namespace Sys2Proof.Machine

/-! ## Queue registers, which no register write touches -/

/-- Replacing the queue registers. -/
def Seat.withQ (st : Seat) (q : Vector Fifo 16) : Seat := { st with q := q }

theorem Seat.latchCut_withQ (st : Seat) (q : Vector Fifo 16) : (st.withQ q).latchCut = st.latchCut.withQ q := by
  have latch : (st.withQ q).newLatch = st.newLatch := rfl
  rw [Seat.latchCut_newLatch, Seat.latchCut_newLatch, latch]
  rfl

theorem Seat.bookmarkDue_withQ (st : Seat) (q : Vector Fifo 16) : (st.withQ q).bookmarkDue = st.bookmarkDue.withQ q := by
  by_cases due : (bit st.sys.bmark 0 && !st.cut.bookmark && decide (fld st.sys.bmark 32 32 ≤ st.topPass + 1)) = true
  · have latched := Seat.latchCut_withQ { st with cut := { st.cut with bookmark := true } } q
    exact (if_pos due).trans (latched.trans (congrArg (Seat.withQ · q) (if_pos due).symm))
  · exact (if_neg due).trans (congrArg (Seat.withQ · q) (if_neg due).symm)

/-- The cases of a register write: one file of the seat changes, or a bookmark is armed (R390). -/
theorem Seat.writeReg_cases (P : (Seat → Seat) → Prop) (n : Nat) (v : Word)
    (cut : ∀ f : CutFile → CutFile, P fun st => { st with cut := f st.cut })
    (trap : ∀ f : TrapFile → TrapFile, P fun st => { st with trap := f st.trap })
    (sys : ∀ f : SysFile → SysFile, P fun st => { st with sys := f st.sys })
    (vec : ∀ f : VecFile → VecFile, P fun st => { st with vec := f st.vec })
    (tile : ∀ f : TileFile → TileFile, P fun st => { st with tile := f st.tile })
    (bookmark : P fun st => st.armBookmark v) (same : P fun st => st) : P fun st => st.writeReg n v := by
  unfold Seat.writeReg
  split
  · exact cut fun c => { c with pc := c.pc.set (Fin.ofNat 4 (n - 0x0104)) (v &&& ~~~3) }
  split
  · exact trap fun c => { c with pc := c.pc.set (Fin.ofNat 4 (n - 0x0404)) (v &&& ~~~3) }
  split
  · exact sys fun c => { c with perfCnt := c.perfCnt.set (Fin.ofNat 16 (n - 0x0500)) (v + c.perfNow[Fin.ofNat 16 (n - 0x0500)]) }
  split
  · exact sys fun c => { c with perfSel := c.perfSel.set (Fin.ofNat 16 (n - 0x0510)) (v &&& 0x800FFFFF) }
  split
  · exact sys fun c => { c with win := c.win.set (Fin.ofNat 8 (n - 0x0880)) (v &&& ~~~0x3FFFFF0) }
  split
  · exact cut fun c => { c with retimeVec := v &&& ~~~3 }
  · exact cut fun c => { c with commaLimit := if v.toNat < 1024 then 1024 else v &&& 0xFFFFFFFF }
  · exact vec fun c => { c with vlen := if v.toNat ≤ 256 then v else 256 }
  · exact vec fun c => { c with vstat := v &&& 127 }
  · exact tile fun c => { c with mstat := v &&& 0xFF }
  · exact trap fun c => { c with vec := v &&& ~~~3 }
  · exact trap fun c => { c with lstat := v &&& 0x3F03 }
  · exact trap fun c => { c with scratch := c.scratch.set 0 v }
  · exact trap fun c => { c with scratch := c.scratch.set 1 v }
  · exact trap fun c => { c with saveBase := v &&& ~~~0xFFF }
  · exact bookmark
  · exact sys fun c => { c with dbgCtl := v &&& 0xFFFF0001 }
  · exact sys fun c => { c with xlatRoot := v &&& ~~~0xF0000000000#64 }
  · exact same

theorem Seat.armBookmark_withQ (st : Seat) (v : Word) (q : Vector Fifo 16) : (st.withQ q).armBookmark v = (st.armBookmark v).withQ q :=
  Seat.bookmarkDue_withQ { st with sys := { st.sys with bmark := v &&& 0xFFFFFFFF00000001#64 } } q

theorem Seat.writeReg_withQ (st : Seat) (n : Nat) (v : Word) (q : Vector Fifo 16) :
    (st.withQ q).writeReg n v = (st.writeReg n v).withQ q :=
  Seat.writeReg_cases (fun F => ∀ st : Seat, F (st.withQ q) = (F st).withQ q) n v (fun _ _ => rfl) (fun _ _ => rfl)
    (fun _ _ => rfl) (fun _ _ => rfl) (fun _ _ => rfl) (fun st => st.armBookmark_withQ v q) (fun _ => rfl) st

theorem Seat.armBookmark_str (st : Seat) (v : Word) : (st.armBookmark v).str = st.str ∧ (st.armBookmark v).q = st.q := by
  obtain ⟨b, l, h⟩ := Seat.bookmarkDue_eq { st with sys := { st.sys with bmark := v &&& 0xFFFFFFFF00000001#64 } }
  unfold Seat.armBookmark
  rw [h]
  exact ⟨rfl, rfl⟩

theorem Seat.writeReg_str (st : Seat) (n : Nat) (v : Word) : (st.writeReg n v).str = st.str ∧ (st.writeReg n v).q = st.q :=
  Seat.writeReg_cases (fun F => ∀ st : Seat, (F st).str = st.str ∧ (F st).q = st.q) n v (fun _ _ => ⟨rfl, rfl⟩) (fun _ _ => ⟨rfl, rfl⟩)
    (fun _ _ => ⟨rfl, rfl⟩) (fun _ _ => ⟨rfl, rfl⟩) (fun _ _ => ⟨rfl, rfl⟩) (fun st => st.armBookmark_str v) (fun _ => ⟨rfl, rfl⟩) st

theorem Seat.writeReg_takeSrc (st : Seat) (n : Nat) (v : Word) (now : Nat) (a : SSpec) :
    (st.takeSrc now a).writeReg n v = (st.writeReg n v).takeSrc now a := by
  cases a with
  | x m => rfl
  | q m =>
    have set := st.writeReg_withQ n v (vmod st.q m fun f => f.pop now)
    have q := (st.writeReg_str n v).2
    refine set.trans ?_
    rw [← q]
    rfl

/-! ## Core registers -/

/-- Replacing the seats of a core. -/
def Core.withSeats (c : Core) (x : Vector Seat 2) : Core := { c with seat := x }

/-- A register of a core is no part of its seats, and its clocks do not depend on it. -/
theorem Core.writeReg_seat (c : Core) (n : Nat) (v : Word) : (c.writeReg n v).seat = c.seat ∧ (c.writeReg n v).live = c.live ∧
    ∀ x, (c.withSeats x).writeReg n v = (c.writeReg n v).withSeats x := by
  unfold Core.writeReg
  split <;> exact ⟨rfl, rfl, fun _ => rfl⟩

theorem State.modSeat_writeCore (s : State) (r : SeatRef) (n : Nat) (v : Word) (f : Seat → Seat) :
    (s.modSeat r f).modCore r.core (fun c => c.writeReg n v) = (s.modCore r.core fun c => c.writeReg n v).modSeat r f := by
  obtain ⟨seat, -, set⟩ := s.core[r.core].writeReg_seat n v
  let x := s.core[r.core].seat.set r.seat (f (s.getSeat r))
  have first : (s.modSeat r f).modCore r.core (fun c => c.writeReg n v) = s.setCore r.core ((s.core[r.core].withSeats x).writeReg n v) := by
    show (s.setCore r.core _).setCore r.core (((s.setCore r.core (s.core[r.core].withSeats x)).core[r.core]).writeReg n v) = _
    rw [show (s.setCore r.core (s.core[r.core].withSeats x)).core[r.core] = _ from s.setCore_self _ _]
    simp [State.setCore]
  have core : (s.modCore r.core fun c => c.writeReg n v).core[r.core] = s.core[r.core].writeReg n v := s.setCore_self _ _
  have getSeat : (s.modCore r.core fun c => c.writeReg n v).getSeat r = s.getSeat r := by
    unfold State.getSeat
    rw [core, seat]
  rw [first, set]
  unfold State.modSeat State.setSeat
  rw [getSeat, core, seat]
  simp [State.modCore, State.setCore, Core.withSeats, x]

/-! ## The running stream's write -/

section
variable {s : State} {n : Nat} (allowed : n = 0x0908 → 896 ≤ s.turn.ref.core.val ∧ coreDie s.turn.ref.core = 0) (v : Word)
include allowed

/-- A register that the running stream may write leaves its streams and its core's clock. -/
theorem State.sysWrite_keeps : (s.sysWrite s.turn n v).now = s.now ∧ (s.sysWrite s.turn n v).mySeat.str = s.mySeat.str := by
  unfold State.sysWrite
  split
  · obtain ⟨seat, live, -⟩ := s.core[s.turn.ref.core].writeReg_seat n v
    have core : (s.modCore s.turn.ref.core fun c => c.writeReg n v).core[s.turn.ref.core] = s.core[s.turn.ref.core].writeReg n v :=
      s.setCore_self _ _
    have turn : (s.modCore s.turn.ref.core fun c => c.writeReg n v).turn = s.turn := rfl
    simp only [State.now, State.myCore, State.mySeat, State.getSeat, turn, core, live, seat, and_self]
  · split
    · refine ⟨State.modMySeat_now s _, ?_⟩
      show ((s.modMySeat _).mySeat).str = _
      rw [State.modMySeat_mySeat]
      exact (Seat.writeReg_str _ n v).1
    · have core := (apartFrom_writeDieReg allowed (coreDie s.turn.ref.core) v).core s
      have turn := s.writeDieReg_turn (coreDie s.turn.ref.core) n v
      simp only [State.now, State.myCore, State.mySeat, State.getSeat, turn, core, and_self]

theorem State.sysWrite_me : (s.sysWrite s.turn n v).me = s.me := by
  have str := (State.sysWrite_keeps allowed v).2
  unfold State.mySeat at str
  rw [s.sysWrite_turn] at str
  unfold State.me State.getStr Seat.getStr
  rw [s.sysWrite_turn, str]

/-- Reading the source before the write or after it is the same. -/
theorem State.sysWrite_take (a : SSpec) : (s.take a).sysWrite s.turn n v = (s.sysWrite s.turn n v).take a := by
  have now := (State.sysWrite_keeps allowed v).1
  rw [State.take_eq, State.take_eq, now]
  unfold State.modMySeat
  rw [s.sysWrite_turn]
  unfold State.sysWrite
  split
  · exact s.modSeat_writeCore _ n v _
  · split
    · rw [State.modSeat_modSeat, State.modSeat_modSeat]
      exact congrArg _ (funext fun st => st.writeReg_takeSrc n v _ a)
    · exact (apartFrom_writeDieReg allowed (coreDie s.turn.ref.core) v).modSeat s (by cases a <;> rfl)

end

end Sys2Proof.Machine
end

section
/-! SUPPORT. SRR, SRW and HUB_DATA_ACCESS complete or fault (R182 to R184, R357). -/
namespace Sys2Proof.Machine

/-! ## A source read and the stream gone on -/

/-- An instruction that has read its one source and goes on in sequence. -/
theorem moved_take_retire (u : State) (a : SSpec) : Moved u (u.take a).retire [a] u.me.advance.1 u.me.advance.2 := by
  have step : (u.take a).retire = u.modMySeat fun st => (st.takeAll u.now [a]).goOn u.turn.stream u.now u.me.advance := by
    rw [State.retire_eq, State.take_turn, State.take_now, State.take_eq, State.modMySeat_modMySeat]
    exact State.modMySeat_congr u (by rw [Seat.takeSrc_getStr]; rfl)
  rw [step]
  exact moved_goOn u [a] (advance_keeps u.me) (advance_regs u.me)

theorem State.take_retire_eq (u : State) (a : SSpec) : ∃ f, (u.take a).retire = u.modMySeat f := by
  rw [State.retire_eq, State.take_eq, State.modMySeat_modMySeat]
  exact ⟨_, rfl⟩

/-! ## A register write in C -/

/-- The seat of C after an SRW: its source read, the write on its way, C gone on (R33, R184). -/
def Seat.sysWriteStep (st : Seat) (i : StreamId) (now : Nat) (a : SSpec) (w : CWrite) : Seat :=
  let st1 := st.takeAll now [a]
  let st2 : Seat := { st1 with c := { st1.c with pipe := st1.c.pipe ++ [⟨st1.c.clock + 2, w⟩] } }
  st2.goOn i now (st2.getStr i).advance

theorem State.sysWriteStep_eq (s : State) (a : SSpec) (w : CWrite) :
    ((s.take a).pipe 2 w).retire = s.modMySeat fun st => st.sysWriteStep s.turn.stream s.now a w := by
  rw [State.retire_eq, State.pipe, State.modMySeat_modMySeat, State.take_eq, State.modMySeat_modMySeat]
  simp only [State.modMySeat_turn, State.modMySeat_now]
  rfl

theorem sysWriteStep_result (s : State) (a : SSpec) (w : CWrite) :
    let t := s.modMySeat fun st => st.sysWriteStep s.turn.stream s.now a w
    Keeps s t ∧ WentOn s t ∧ SameRegs s t ∧ Queues s t [a] none 0 0 ∧
      t.mySeat.c.pipe = s.mySeat.c.pipe ++ [⟨s.mySeat.c.clock + 2, w⟩] := by
  intro t
  let i := s.turn.stream
  let st0 := s.mySeat.takeAll s.now [a]
  let st : Seat := { st0 with c := { st0.c with pipe := st0.c.pipe ++ [⟨st0.c.clock + 2, w⟩] } }
  have seat : t.mySeat = st.goOn i s.now (st.getStr i).advance := State.modMySeat_mySeat _ _
  have mine : st.getStr i = s.me := s.takeAll_mine [a]
  have vec : st.vec = s.mySeat.vec := Seat.takeAll_vec _ _ _
  have sched : st0.c = s.mySeat.c := Seat.takeAll_c _ _ _
  have keeps : KeepsSeat i s.mySeat st := keepsSeat_trans (Seat.takeAll_keeps _ _ _ _) (keepsSeat_pipe i st0 _)
  have same : SameSeq s.me (st.getStr i) := by rw [mine]; exact ⟨rfl, rfl, rfl, rfl, rfl⟩
  obtain ⟨hx, hp, ht⟩ := advance_regs (st.getStr i)
  have me : t.me = _ := me_of_goOn (s := s) (t := t) rfl seat
  refine ⟨keeps_modMySeat s _ (keepsSeat_trans keeps (keepsSeat_goOn _ _ _ _ (advance_keeps _))),
    wentOn_of_goOn rfl seat (by rw [vec]) same keeps.mine.loopPc, ⟨fun m => ?x, ?p, ?t⟩, queues_takeAll ?q, ?pipe⟩
  case x => rw [me]; unfold Stream.rdX; dsimp only; rw [hx, mine]
  case p => rw [me]; exact hp.trans (by rw [mine])
  case t => rw [me]; exact ht.trans (by rw [mine])
  case q => rw [seat]; exact Seat.goOn_q _ _ _ _
  case pipe =>
    rw [seat, ← sched]
    exact Seat.goOn_pipe _ _ _ _

/-! ## SRR -/

section
variable {s : State} {a : SSpec} {i : BitVec 16}

theorem hubData_iff : i.toNat = 0x08F2 ↔ i = 0x08F2 := BitVec.toNat_inj (y := 0x08F2#16)

theorem exec_srr_undefined (undefined : sysregDefined i.toNat = false) : exec (.srr a i) s = s.raise (Flt.mk' .undefOp 0) := by
  show execSrr a i s = _
  simp [execSrr, undefined]

theorem exec_srw_undefined (undefined : sysregDefined i.toNat = false) : exec (.srw a i) s = s.raise (Flt.mk' .undefOp 0) := by
  show execSrw a i s = _
  simp [execSrw, undefined]

section
variable (known : sysregDefined i.toNat = true) (ready : Ready s [] [a])
include known ready

theorem exec_srr_refused (refused : srrAllowed s.turn.isY i.toNat = false) : exec (.srr a i) s = s.raise sysregFlt := by
  show execSrr a i s = _
  simp [execSrr, known, ready.1, refused]

variable (allowed : srrAllowed s.turn.isY i.toNat = true)
include allowed

theorem exec_srr_hub (hub : i = 0x08F2) : (s.hubSelect (coreDie s.turn.ref.core) = none → exec (.srr a i) s = s.raise sysregFlt) ∧
    ∀ h, s.hubSelect (coreDie s.turn.ref.core) = some h → exec (.srr a i) s = s.alu0 a 1 2 (s.hubDataRead h) := by
  rw [hubData_iff.2 hub] at known allowed
  show (_ → execSrr a i s = _) ∧ ∀ h, _ → execSrr a i s = _
  unfold execSrr
  rw [hubData_iff.2 hub]
  refine ⟨fun sel => ?_, fun h sel => ?_⟩ <;> simp [known, ready.1, allowed, sel]

theorem exec_srr (other : i ≠ 0x08F2) : exec (.srr a i) s = s.alu0 a 1 2 (s.sysRead s.turn i.toNat) := by
  show execSrr a i s = _
  simp [execSrr, known, ready.1, allowed, mt hubData_iff.1 other]

end

/-! ## SRW -/

section
variable (known : sysregDefined i.toNat = true) (ready : Ready s [a] [])
include known ready

theorem exec_srw_refused (refused : s.srwAllowed s.turn i.toNat = false) : exec (.srw a i) s = s.raise sysregFlt := by
  show execSrw a i s = _
  simp [execSrw, known, ready.1, refused]

variable (allowed : s.srwAllowed s.turn i.toNat = true)
include allowed

theorem exec_srw_hub (hub : i = 0x08F2) :
    (s.hubDataWrite (coreDie s.turn.ref.core) (s.peek a) = none → exec (.srw a i) s = s.raise sysregFlt) ∧
    ∀ t, s.hubDataWrite (coreDie s.turn.ref.core) (s.peek a) = some t → exec (.srw a i) s = .next (t.take a).retire := by
  rw [hubData_iff.2 hub] at known allowed
  show (_ → execSrw a i s = _) ∧ ∀ t, _ → execSrw a i s = _
  unfold execSrw
  rw [hubData_iff.2 hub]
  refine ⟨fun write => ?_, fun t write => ?_⟩ <;> simp [known, ready.1, ready.2, allowed, write]

theorem exec_srw (other : i ≠ 0x08F2) : exec (.srw a i) s = .next ((s.take a).srwEffect i (s.peek a)).retire := by
  show execSrw a i s = _
  simp [execSrw, known, ready.1, ready.2, allowed, mt hubData_iff.1 other]

end

/-- The registers that SRW reaches only from die 0, or in a stream Y (R182, R354, R403). -/
theorem State.srwAllowed_sys (h : s.srwAllowed s.turn i.toNat = true) :
    (i.toNat = 0x0908 → 896 ≤ s.turn.ref.core.val ∧ coreDie s.turn.ref.core = 0) ∧ (i = 0x08F2 → 896 ≤ s.turn.ref.core.val) := by
  refine ⟨fun e => ?_, fun e => ?_⟩
  · rw [e] at h
    simpa [State.srwAllowed, show regAcc 0x0908 = .priv from by decide, Who.isY, SeatRef.isSys] using h
  · rw [hubData_iff.2 e] at h
    simpa [State.srwAllowed, show regAcc 0x08F2 = .priv from by decide, Who.isY, SeatRef.isSys] using h

/-- In K, L and S a register is written at once (R184). -/
theorem exec_srw_now (known : sysregDefined i.toNat = true) (ready : Ready s [a] []) (allowed : s.srwAllowed s.turn i.toNat = true)
    (other : i ≠ 0x08F2) (now : s.isC = false) :
    Runs (.srw a i) s fun t => Moved (s.sysWrite s.turn i.toNat (s.peek a)) t [a] s.me.advance.1 s.me.advance.2 := by
  have rst := (State.srwAllowed_sys allowed).1
  have isC : (s.take a).isC = false := by unfold State.isC at now ⊢; rwa [State.take_turn]
  have effect : (s.take a).srwEffect i (s.peek a) = (s.sysWrite s.turn i.toNat (s.peek a)).take a := by
    unfold State.srwEffect
    rw [isC, State.take_turn]
    exact State.sysWrite_take rst _ a
  refine ⟨_, exec_srw known ready allowed other, ?_⟩
  have moved := moved_take_retire (s.sysWrite s.turn i.toNat (s.peek a)) a
  rw [effect]
  rwa [State.sysWrite_me rst] at moved

/-- In C a register is written two schedule cycles later (R184). -/
theorem exec_srw_C (known : sysregDefined i.toNat = true) (ready : Ready s [a] []) (allowed : s.srwAllowed s.turn i.toNat = true)
    (other : i ≠ 0x08F2) (c : s.isC = true) :
    Runs (.srw a i) s fun t => Keeps s t ∧ WentOn s t ∧ SameRegs s t ∧ Queues s t [a] none 0 0 ∧
      t.mySeat.c.pipe = s.mySeat.c.pipe ++ [⟨s.mySeat.c.clock + 2, .sysreg i (s.peek a)⟩] := by
  have isC : (s.take a).isC = true := by unfold State.isC at c ⊢; rwa [State.take_turn]
  have effect : ((s.take a).srwEffect i (s.peek a)).retire = ((s.take a).pipe 2 (.sysreg i (s.peek a))).retire := by
    unfold State.srwEffect
    rw [isC]
    rfl
  exact ⟨_, exec_srw known ready allowed other, by rw [effect, State.sysWriteStep_eq]; exact sysWriteStep_result s a _⟩

/-! ## The hub register window -/

/-- A register of another core's stream is read as before a change of the running seat. -/
theorem State.sysRead_modMySeat (u : State) (f : Seat → Seat) {w : Who} (other : w.ref.core ≠ u.turn.ref.core) (n : Nat) :
    (u.modMySeat f).sysRead w n = u.sysRead w n := by
  have core : (u.modMySeat f).core[w.ref.core] = u.core[w.ref.core] := u.setCore_ne _ other
  have seat : (u.modMySeat f).getSeat w.ref = u.getSeat w.ref := u.setCore_getSeat_ne _ other
  have die : (u.modMySeat f).dieReg (coreDie w.ref.core) n = u.dieReg (coreDie w.ref.core) n := rfl
  unfold State.sysRead State.seatReg
  rw [core, seat, die]

/-- The hub register window selects registers of the streams K of the tile cores (R357). -/
theorem State.hubSelect_tile {d : Fin 8} {w : Who} {n : Nat} (h : s.hubSelect d = some (.reg w n)) : w.ref.core.val < 896 := by
  unfold State.hubSelect at h
  extract_lets sel i td core at h
  split at h
  · next tile =>
    extract_lets r at h
    split at h
    · split at h
      · cases h
      · have at' : w = ⟨r, .K⟩ := (HubSel.reg.inj (Option.some.inj h)).1.symm
        rw [at']
        show td.val * 112 + core < 896
        omega
    · split at h <;> cases h
    · split at h
      · split at h <;> cases h
      · cases h
    · cases h
  · cases h

theorem hubWrite_result (known : sysregDefined i.toNat = true) (ready : Ready s [a] []) (allowed : s.srwAllowed s.turn i.toNat = true)
    (hub : i = 0x08F2) {w : Who} {n : Nat} (sel : s.hubSelect (coreDie s.turn.ref.core) = some (.reg w n))
    (may : s.hubWritable (coreDie s.turn.ref.core) (.reg w n) = true) :
    Runs (.srw a i) s fun t => t.turn = s.turn ∧ t.me.pc = (s.sysWrite w n (s.peek a)).me.advance.1.pc ∧
      t.sysRead w n = (s.sysWrite w n (s.peek a)).sysRead w n := by
  let u := s.sysWrite w n (s.peek a)
  have turn : u.turn = s.turn := s.sysWrite_turn w n (s.peek a)
  have write : s.hubDataWrite (coreDie s.turn.ref.core) (s.peek a) = some u := by
    unfold State.hubDataWrite
    rw [sel]
    exact if_pos may
  have other : w.ref.core ≠ u.turn.ref.core := by
    have sys := (State.srwAllowed_sys allowed).2 hub
    have tile := State.hubSelect_tile sel
    rw [turn]
    exact fun e => by rw [e] at tile; omega
  obtain ⟨f, step⟩ := u.take_retire_eq a
  obtain ⟨-, ⟨pc, -⟩, -⟩ := moved_take_retire u a
  refine ⟨(u.take a).retire, (exec_srw_hub known ready allowed hub).2 u write, ?_, pc, ?_⟩
  · rw [step]
    exact turn
  · rw [step]
    exact u.sysRead_modMySeat f other n

end

end Sys2Proof.Machine
end

section
/-! SUPPORT. What registers keep of a write (R5, R30, R50, R129, R188, R342, R383, R405), and SRR, SRW, HUB_DATA_ACCESS and QCNT as stated. -/
namespace Sys2Proof.Machine

/-! ## Registers of a seat -/

section
variable (s : State) (w : Who) (v : Word)

/-- A register of a seat reads what the seat keeps of the write. -/
theorem State.read_written {n : Nat} (get : Seat → Word) (wr : s.sysWrite w n v = s.modSeat w.ref fun st => st.writeReg n v)
    (rd : ∀ u : State, u.sysRead w n = get (u.getSeat w.ref)) : (s.sysWrite w n v).sysRead w n = get ((s.getSeat w.ref).writeReg n v) := by
  rw [wr, rd, State.modSeat_getSeat]

theorem State.scratch_written : (s.sysWrite w 0x0408 v).sysRead w 0x0408 = v ∧ (s.sysWrite w 0x0409 v).sysRead w 0x0409 = v := by
  have first := s.read_written w v (n := 0x0408) (fun st => st.trap.scratch[(0 : Fin 2)]) rfl fun _ => rfl
  have second := s.read_written w v (n := 0x0409) (fun st => st.trap.scratch[(1 : Fin 2)]) rfl fun _ => rfl
  exact ⟨first.trans (by simp [show ∀ st : Seat, (st.writeReg 0x0408 v).trap.scratch = st.trap.scratch.set 0 v from fun _ => rfl]),
    second.trans (by simp [show ∀ st : Seat, (st.writeReg 0x0409 v).trap.scratch = st.trap.scratch.set 1 v from fun _ => rfl])⟩

/-- AGE_LIMIT, a register of the core (R30). -/
theorem State.ageLimit_written : (s.sysWrite w 0x0002 v).sysRead w 0x0002 = BitVec.ofNat 64 (min (max v.toNat 8) 1024) := by
  have core : (s.modCore w.ref.core fun c => c.writeReg 0x0002 v).core[w.ref.core] = s.core[w.ref.core].writeReg 0x0002 v :=
    s.setCore_self _ _
  show (s.modCore w.ref.core fun c => c.writeReg 0x0002 v).core[w.ref.core].ageLimit = _
  rw [core]
  rfl

/-! ## Counters (R383) -/

theorem inRange_perfCnt : ∀ k : Fin 16, inRange (0x0500 + k.val) 0x0104 4 = false ∧ inRange (0x0500 + k.val) 0x0208 8 = false ∧
    inRange (0x0500 + k.val) 0x0404 4 = false ∧ inRange (0x0500 + k.val) 0x0500 16 = true ∧
    Fin.ofNat 16 (0x0500 + k.val - 0x0500) = k ∧ seatOwned (0x0500 + k.val) = true := by decide

theorem inRange_perfSel : ∀ k : Fin 16, inRange (0x0510 + k.val) 0x0104 4 = false ∧ inRange (0x0510 + k.val) 0x0208 8 = false ∧
    inRange (0x0510 + k.val) 0x0404 4 = false ∧ inRange (0x0510 + k.val) 0x0500 16 = false ∧ inRange (0x0510 + k.val) 0x0510 16 = true ∧
    Fin.ofNat 16 (0x0510 + k.val - 0x0510) = k ∧ seatOwned (0x0510 + k.val) = true := by decide

/-- A register of a seat that is none of the core's. -/
theorem State.sysWrite_seat {n : Nat} (core : ¬(n = 0x0002 ∨ n = 0x0520 ∨ n = 0x0521 ∨ n = 0x0600)) (owned : seatOwned n = true) :
    s.sysWrite w n v = s.modSeat w.ref fun st => st.writeReg n v := by
  unfold State.sysWrite
  rw [if_neg (by simpa [and_assoc] using core), if_pos owned]

theorem State.perfCnt_written (k : Fin 16) :
    (s.sysWrite w (0x0500 + k.val) v).sysRead w (0x0500 + k.val) = v + (s.getSeat w.ref).sys.perfNow[k] := by
  obtain ⟨cut, ps, trap, cnt, idx, owned⟩ := inRange_perfCnt k
  have rd (u : State) : u.sysRead w (0x0500 + k.val) = (u.getSeat w.ref).sys.perfCnt[k] := by
    unfold State.sysRead State.seatReg
    simp only [cut, ps, trap, cnt, idx, owned]
    rfl
  have keeps (st : Seat) : (st.writeReg (0x0500 + k.val) v).sys.perfCnt = st.sys.perfCnt.set k (v + st.sys.perfNow[k]) := by
    unfold Seat.writeReg
    simp only [cut, trap, cnt, idx]
    rfl
  rw [s.read_written w v (fun st => st.sys.perfCnt[k]) (s.sysWrite_seat w v (by omega) owned) rd, keeps]
  simp

theorem State.perfSel_written (k : Fin 16) : (s.sysWrite w (0x0510 + k.val) v).sysRead w (0x0510 + k.val) = v &&& 0x800FFFFF := by
  obtain ⟨cut, ps, trap, cnt, sel, idx, owned⟩ := inRange_perfSel k
  have rd (u : State) : u.sysRead w (0x0510 + k.val) = (u.getSeat w.ref).sys.perfSel[k] := by
    unfold State.sysRead State.seatReg
    simp only [cut, ps, trap, cnt, sel, idx, owned]
    rfl
  have keeps (st : Seat) : (st.writeReg (0x0510 + k.val) v).sys.perfSel = st.sys.perfSel.set k (v &&& 0x800FFFFF) := by
    unfold Seat.writeReg
    simp only [cut, trap, cnt, sel, idx]
    rfl
  rw [s.read_written w v (fun st => st.sys.perfSel[k]) (s.sysWrite_seat w v (by omega) owned) rd, keeps]
  simp

/-! ## The clock plan (R405, R406) -/

/-- Recording the steps leaves a die's plan and group. -/
theorem State.recordSteps_die (s : State) (d : Fin 8) :
    s.recordSteps.die[d].clkPlan = s.die[d].clkPlan ∧ s.recordSteps.die[d].collGrp = s.die[d].collGrp := by
  simp only [State.recordSteps, Fin.getElem_fin, Vector.getElem_ofFn]
  split <;> exact ⟨rfl, rfl⟩

theorem State.requestChange_die (s : State) (d : Fin 8) (f : Die → Die) :
    (s.requestChange d f).die[d].clkPlan = (f s.die[d]).clkPlan ∧ (s.requestChange d f).die[d].collGrp = (f s.die[d]).collGrp := by
  obtain ⟨port, h⟩ := s.requestChange_ports d f
  obtain ⟨plan, grp⟩ := (s.modDie d f).recordSteps_die d
  have die : (s.modDie d f).die[d] = f s.die[d] := by simp [State.modDie, vmod]
  rw [h]
  exact ⟨plan.trans (congrArg Die.clkPlan die), grp.trans (congrArg Die.collGrp die)⟩

/-- REQ as the plan holds it. -/
theorem putFld_and_req (x : Word) {m : Nat} (h : m < 16) : putFld x 8 4 m &&& 0xF00 = BitVec.ofNat 64 (256 * m) := by
  have mask : ∀ i < 64, (0xF00 : Word).getLsbD i = decide (8 ≤ i ∧ i < 12) := by decide
  refine BitVec.eq_of_getLsbD_eq fun i hi => ?_
  rw [BitVec.getLsbD_and, getLsbD_putFld _ _ _ _ _ hi, mask i hi, BitVec.getLsbD_ofNat, show 256 * m = 2 ^ 8 * m from rfl,
    Nat.testBit_two_pow_mul]
  by_cases low : 8 ≤ i
  · by_cases high : i < 12
    · simp [low, high, hi]
    · have above : m.testBit (i - 8) = false := Nat.testBit_lt_two_pow (by
        calc m < 2 ^ 4 := h
          _ ≤ 2 ^ (i - 8) := Nat.pow_le_pow_right (by decide) (by omega))
      simp [high, above]
  · simp [low]

theorem State.clkPlan_written :
    (s.sysWrite w 0x0900 v).sysRead w 0x0900 &&& 0xF00 = BitVec.ofNat 64 (256 * min (v.toNat / 256) 12) := by
  have plan := (s.requestChange_die (coreDie w.ref.core) fun x => { x with clkPlan := putFld x.clkPlan 8 4 (min (v.toNat >>> 8) 12) }).1
  show (s.requestChange (coreDie w.ref.core) _).die[coreDie w.ref.core].clkPlan &&& 0xF00 = _
  rw [plan]
  exact (putFld_and_req _ (by omega)).trans (by rw [Nat.shiftRight_eq_div_pow])

theorem State.collGrp_written : (s.sysWrite w 0x0901 v).sysRead w 0x0901 = v &&& 0xFFFF :=
  (s.requestChange_die (coreDie w.ref.core) fun x => { x with collGrp := v &&& 0xFFFF }).2

end

/-! ## HUB_DATA_ACCESS (R357) -/

section
variable {s : State} {d : Fin 8}

theorem hubDataAccess_none (sel : s.hubSelect d = none) : exec (.hubDataAccess d none) s = .next (s.takeFault (sysRef d) sysregFlt 0) ∧
    ∀ v, exec (.hubDataAccess d (some v)) s = .next (s.takeFault (sysRef d) sysregFlt 0) := by
  show execHubDataAccess d none s = _ ∧ ∀ v, execHubDataAccess d (some v) s = _
  simp [execHubDataAccess, State.hubDataWrite, sel]

theorem hubDataAccess_read {h : HubSel} (sel : s.hubSelect d = some h) : exec (.hubDataAccess d none) s = .next s := by
  show execHubDataAccess d none s = _
  simp [execHubDataAccess, sel]

theorem hubDataAccess_write {h : HubSel} (sel : s.hubSelect d = some h) (v : Word) : exec (.hubDataAccess d (some v)) s = .next
    (match h with
    | .reg w n => if s.hubWritable d (.reg w n) then s.sysWrite w n v else s.takeFault (sysRef d) sysregFlt 0
    | _ => s.takeFault (sysRef d) sysregFlt 0) := by
  show execHubDataAccess d (some v) s = _
  cases h with
  | reg w n =>
    by_cases may : s.hubWritable d (.reg w n) = true <;> simp [execHubDataAccess, State.hubDataWrite, sel, may]
  | log r i k => simp [execHubDataAccess, State.hubDataWrite, sel]
  | table k i => simp [execHubDataAccess, State.hubDataWrite, sel]

end

/-! ## The statement -/

theorem srr_stated {s : State} {a : SSpec} {i : BitVec 16} (known : sysregDefined i.toNat = true) (ready : Ready s [] [a]) :
    if srrAllowed s.turn.isY i.toNat = false then exec (.srr a i) s = s.raise sysregFlt
    else if i = 0x08F2 then match s.hubSelect (coreDie s.turn.ref.core) with
      | none => exec (.srr a i) s = s.raise sysregFlt
      | some h => Runs (.srr a i) s fun t => ScalarResult s t [] a 1 2 (s.hubDataRead h)
    else Runs (.srr a i) s fun t => ScalarResult s t [] a 1 2 (s.sysRead s.turn i.toNat) := by
  split
  · next refused => exact exec_srr_refused known ready refused
  · next may =>
    have allowed : srrAllowed s.turn.isY i.toNat = true := by simpa using may
    split
    · next hub =>
      split
      · next sel => exact (exec_srr_hub known ready allowed hub).1 sel
      · next h sel =>
        obtain ⟨t, runs, result⟩ := alu0_result s a 1 2 (s.hubDataRead h) ready.1 ready.2
        exact ⟨t, ((exec_srr_hub known ready allowed hub).2 h sel).trans runs, result⟩
    · next other =>
      obtain ⟨t, runs, result⟩ := alu0_result s a 1 2 (s.sysRead s.turn i.toNat) ready.1 ready.2
      exact ⟨t, (exec_srr known ready allowed other).trans runs, result⟩

theorem srw_stated {s : State} {a : SSpec} {i : BitVec 16} (known : sysregDefined i.toNat = true) (ready : Ready s [a] []) :
    if s.srwAllowed s.turn i.toNat = false then exec (.srw a i) s = s.raise sysregFlt
    else if i = 0x08F2 then match s.hubSelect (coreDie s.turn.ref.core) with
      | some (.reg w n) => if s.hubWritable (coreDie s.turn.ref.core) (.reg w n) then
            Runs (.srw a i) s fun t => t.turn = s.turn ∧ t.me.pc = (s.sysWrite w n (s.peek a)).me.advance.1.pc ∧
              t.sysRead w n = (s.sysWrite w n (s.peek a)).sysRead w n
          else exec (.srw a i) s = s.raise sysregFlt
      | _ => exec (.srw a i) s = s.raise sysregFlt
    else if s.isC then Runs (.srw a i) s fun t => Keeps s t ∧ WentOn s t ∧ SameRegs s t ∧ Queues s t [a] none 0 0 ∧
      t.mySeat.c.pipe = s.mySeat.c.pipe ++ [⟨s.mySeat.c.clock + 2, .sysreg i (s.peek a)⟩]
    else Runs (.srw a i) s fun t => Moved (s.sysWrite s.turn i.toNat (s.peek a)) t [a] s.me.advance.1 s.me.advance.2 := by
  split
  · next refused => exact exec_srw_refused known ready refused
  · next may =>
    have allowed : s.srwAllowed s.turn i.toNat = true := by simpa using may
    split
    · next hub =>
      have refuses := (exec_srw_hub known ready allowed hub).1
      split
      · next w n sel =>
        split
        · next may => exact hubWrite_result known ready allowed hub sel may
        · next kept =>
          refine refuses ?_
          unfold State.hubDataWrite
          rw [sel]
          exact if_neg kept
      · next noReg =>
        refine refuses ?_
        unfold State.hubDataWrite
        split
        · next w n sel => exact absurd sel (noReg w n)
        · rfl
    · next other =>
      split
      · next c => exact exec_srw_C known ready allowed other c
      · next now => exact exec_srw_now known ready allowed other (by simpa using now)

/-- Settles O35: SRR is `srr_stated`, SRW is `srw_stated`, whose write at once is made before its source is read (`State.sysWrite_take`);
the values are read back from the seat, the core or the die that keeps them, and QCNT is `alu0_result`. -/
theorem systemRegisters : Obligations.SystemRegisters := by
  refine ⟨fun s i a => ⟨fun undefined => ⟨exec_srr_undefined undefined, exec_srw_undefined undefined⟩, srr_stated, srw_stated⟩,
    fun s d => ?access, fun s w v => ?values, fun s d n ready => ?counts⟩
  case access =>
    dsimp only
    cases sel : s.hubSelect d with
    | none => exact hubDataAccess_none sel
    | some h =>
      cases h with
      | reg w n => exact ⟨hubDataAccess_read sel, hubDataAccess_write sel⟩
      | log r i k => exact ⟨hubDataAccess_read sel, hubDataAccess_write sel⟩
      | table k i => exact ⟨hubDataAccess_read sel, hubDataAccess_write sel⟩
  case values =>
    obtain ⟨scratch0, scratch1⟩ := s.scratch_written w v
    exact ⟨s.read_written w v (fun st => st.trap.vec) rfl fun _ => rfl, s.read_written w v (fun st => st.cut.retimeVec) rfl fun _ => rfl,
      s.read_written w v (fun st => st.cut.commaLimit) rfl fun _ => rfl, scratch0, scratch1,
      s.read_written w v (fun st => st.tile.mstat) rfl fun _ => rfl, s.read_written w v (fun st => st.trap.lstat) rfl fun _ => rfl,
      s.read_written w v (fun st => st.vec.vlen) rfl fun _ => rfl, s.read_written w v (fun st => st.vec.vstat) rfl fun _ => rfl,
      s.ageLimit_written w v, s.read_written w v (fun st => st.sys.xlatRoot) rfl fun _ => rfl,
      fun k => ⟨s.perfCnt_written w v k, s.perfSel_written w v k⟩, s.clkPlan_written w v, s.collGrp_written w v⟩
  case counts => exact ⟨alu0_result s d 1 2 _ ready.1 ready.2, alu0_result s d 1 2 _ ready.1 ready.2⟩

end Sys2Proof.Machine
end

section
/-!
SUPPORT. Memory in canonical form (R195, R250, R353), for obligation O58: a result that keeps it, and what the model's first half does to
it: operands, calls, traps, accesses, stores and answers.
-/
namespace Sys2Proof.Machine

/-- A result whose next state holds its memory in canonical form. -/
def Canon (o : Res) : Prop := ∀ t, o = .next t → Memory.wf t.mem = true

@[simp] theorem canon_next (t : State) : Canon (.next t) ↔ Memory.wf t.mem = true :=
  ⟨fun h => h t rfl, fun h _ e => Host.Outcome.next.inj e ▸ h⟩

@[simp] theorem canon_fault (f : Fault) : Canon (.fault f) := fun _ e => nomatch e

@[simp] theorem canon_refused (r : Refusal) : Canon (.refused r) := fun _ e => nomatch e

/-! ## Functions of Machine/Ops -/

@[simp] theorem State.bump_mem (s : State) : (s.bump).mem = s.mem := rfl
@[simp] theorem State.retire_mem (s : State) : (s.retire).mem = s.mem := rfl
@[simp] theorem State.retireTo_mem (s : State) (pc' : Word) : (s.retireTo pc').mem = s.mem := rfl

@[simp] theorem State.stall_canon (s : State) (why : Option Bool) (h : Memory.wf s.mem = true) : Canon (s.stall why) := by
  unfold State.stall
  simp [h]

@[simp] theorem State.jumpTo_mem (s : State) (target : Word) : (s.jumpTo target).mem = s.mem := rfl
@[simp] theorem State.lifeFault_mem (s : State) (d : Fin 8) (c : Cause) : (s.lifeFault d c).mem = s.mem := rfl
@[simp] theorem State.takeFault_mem (s : State) (r : SeatRef) (f : Flt) (src : Nat) : (s.takeFault r f src).mem = s.mem := rfl

@[simp] theorem State.fullHazard_mem (s : State) (w : Who) (full : Bool) : (s.fullHazard w full).mem = s.mem := by
  unfold State.fullHazard
  split <;> simp

@[simp] theorem State.takeCutFault_mem (s : State) (r : SeatRef) (f : Flt) : (s.takeCutFault r f).mem = s.mem := rfl

@[simp] theorem State.raise_canon (s : State) (f : Flt) (h : Memory.wf s.mem = true) : Canon (s.raise f) := by
  unfold State.raise
  simp [h]

@[simp] theorem State.raiseAfter_canon (s : State) (f : Flt) (h : Memory.wf s.mem = true) : Canon (s.raiseAfter f) := by
  unfold State.raiseAfter
  simp [h]

/-! ## Functions of Machine/Operands -/

@[simp] theorem State.pipe_mem (s : State) (lat : Nat) (w : CWrite) : (s.pipe lat w).mem = s.mem := rfl

@[simp] theorem State.wr_mem (s : State) (d : SSpec) (lat : Nat) (latC : Nat) (v : Word) : (s.wr d lat latC v).mem = s.mem := by
  unfold State.wr
  (repeat' split) <;> simp

@[simp] theorem State.wrTarget_mem (s : State) (n : Fin 8) (v : Word) : (s.wrTarget n v).mem = s.mem := by
  unfold State.wrTarget
  split <;> simp

@[simp] theorem State.raiseClass_canon (s : State) (h : Memory.wf s.mem = true) : Canon (s.raiseClass) := by
  unfold State.raiseClass
  simp [h]

@[simp] theorem State.alu2_canon (s : State) (d : SSpec) (a : SSpec) (b : SSpec) (lat : Nat) (latC : Nat) (f : Word → Word → Word)
    (h : Memory.wf s.mem = true) :
    Canon (s.alu2 d a b lat latC f) := by
  unfold State.alu2
  (repeat' split) <;> simp [h]

@[simp] theorem State.alu1_canon (s : State) (d : SSpec) (a : SSpec) (lat : Nat) (latC : Nat) (f : Word → Word)
    (h : Memory.wf s.mem = true) :
    Canon (s.alu1 d a lat latC f) := by
  unfold State.alu1
  (repeat' split) <;> simp [h]

@[simp] theorem State.alu0_canon (s : State) (d : SSpec) (lat : Nat) (latC : Nat) (v : Word) (h : Memory.wf s.mem = true) :
    Canon (s.alu0 d lat latC v) := by
  unfold State.alu0
  (repeat' split) <;> simp [h]

/-! ## Functions of Machine/Xlat -/

@[simp] theorem State.noteWalk_mem (s : State) (l : List Place) : (s.noteWalk l).mem = s.mem := foldl_keeps_mem _ l s fun _ _ => by simp

@[simp] theorem State.streamWalk_mem (s : State) (w : Who) (l : List Place) : (s.streamWalk w l).mem = s.mem := by
  unfold State.streamWalk
  simp

@[simp] theorem State.streamPrefetch_mem (s : State) (w : Who) (base : Nat) (size : Nat) : (s.streamPrefetch w base size).mem = s.mem := by
  unfold State.streamPrefetch
  dsimp only
  split <;> simp

theorem State.check_mem (s : State) (w : Who) (va : Word) (size : Nat) (r : Right) (skew write : Bool) :
    (s.check w va size r skew write).2.mem = s.mem := by
  unfold State.check
  dsimp only
  repeat' split
  all_goals simp

/-- The state that a check leaves holds the same bytes. -/
theorem State.mem_of_check {s t : State} {w : Who} {va : Word} {size : Nat} {r : Right} {skew write : Bool} {a : Acc}
    (h : s.check w va size r skew write = (a, t)) : t.mem = s.mem :=
  (congrArg (fun x : Acc × State => x.2.mem) h).symm.trans (s.check_mem w va size r skew write)

/-! ## Functions of Machine/Fetch -/

@[simp] theorem State.startFill_mem (s : State) (r : SeatRef) (a : Word) : (s.startFill r a).mem = s.mem := by
  unfold State.startFill
  dsimp only
  (repeat' split) <;> simp

@[simp] theorem State.ahead_mem (s : State) (w : Who) : (s.ahead w).mem = s.mem := by
  unfold State.ahead
  dsimp only
  (repeat' split) <;> simp

@[simp] theorem State.aheadWord_mem (s : State) (core : Fin 904) (e : EngineId) (seat : Fin 2) : (s.aheadWord core e seat).mem = s.mem := by
  unfold State.aheadWord
  dsimp only
  (repeat' split) <;> simp

@[simp] theorem State.lifeFreeze_mem (s : State) (d : Fin 8) (len : Nat) : (s.lifeFreeze d len).mem = s.mem := rfl

@[simp] theorem State.noteThaw_mem (s : State) (frozen : Bool) (c : Fin 904) : (s.noteThaw frozen c).mem = s.mem := by
  unfold State.noteThaw
  dsimp only
  split <;> simp

@[simp] theorem execFetchFill_canon (die : Fin 8) (i : Nat) (s : State) (h : Memory.wf s.mem = true) : Canon (execFetchFill die i s) := by
  unfold execFetchFill
  split
  · simp [h]
  · dsimp only
    rw [canon_next, foldl_keeps_mem _ _ _ fun t c => by simp]
    exact h

/-! ## Functions of Machine/Arb -/

@[simp] theorem execPipeGrant_canon (core : Fin 904) (vector : Bool) (s : State) (h : Memory.wf s.mem = true) :
    Canon (execPipeGrant core vector s) := by
  unfold execPipeGrant
  dsimp only
  (repeat' split) <;> simp [h]

@[simp] theorem State.cycleAct_mem (s : State) (c : Fin 904) : (s.cycleAct c).mem = s.mem := by
  unfold State.cycleAct
  split <;> simp

/-! ## Functions of Machine/Control -/

@[simp] theorem execNop_canon (s : State) (h : Memory.wf s.mem = true) : Canon (execNop s) := by
  unfold execNop
  simp [h]

@[simp] theorem execPbr_canon (t : Fin 8) (i : BitVec 16) (s : State) (h : Memory.wf s.mem = true) : Canon (execPbr t i s) := by
  unfold execPbr
  simp [h]

@[simp] theorem execBr_canon (t : Fin 8) (p : Fin 16) (s : State) (h : Memory.wf s.mem = true) : Canon (execBr t p s) := by
  unfold execBr
  (repeat' split) <;> simp [h]

@[simp] theorem execCall_canon (t : Fin 8) (p : Fin 16) (s : State) (h : Memory.wf s.mem = true) : Canon (execCall t p s) := by
  unfold execCall
  (repeat' split) <;> simp [h]

@[simp] theorem execRet_canon (p : Fin 16) (s : State) (h : Memory.wf s.mem = true) : Canon (execRet p s) := by
  unfold execRet
  (repeat' split) <;> simp [h]

@[simp] theorem execHalt_canon (s : State) (h : Memory.wf s.mem = true) : Canon (execHalt s) := by
  unfold execHalt
  simp [h]

@[simp] theorem execPbri_canon (t : Fin 8) (a : SSpec) (i : BitVec 11) (s : State) (h : Memory.wf s.mem = true) :
    Canon (execPbri t a i s) := by
  unfold execPbri
  dsimp only
  (repeat' split) <;> simp [h]

@[simp] theorem State.loopWith_canon (s : State) (stg : Fin 8) (len : Nat) (stages : List (Fin 8)) (count : Int)
    (h : Memory.wf s.mem = true) :
    Canon (s.loopWith stg len stages count) := by
  unfold State.loopWith
  dsimp only
  split <;> simp [h]

@[simp] theorem execLoopReg_canon (sv : Fin 8) (a : SSpec) (b : BitVec 11) (s : State) (h : Memory.wf s.mem = true) :
    Canon (execLoopReg sv a b s) := by
  unfold execLoopReg
  (repeat' split) <;> simp [h]

@[simp] theorem execLoopImm_canon (b : BitVec 6) (c : BitVec 16) (sv : Fin 8) (s : State) (h : Memory.wf s.mem = true) :
    Canon (execLoopImm b c sv s) := by
  unfold execLoopImm
  split <;> simp [h]

@[simp] theorem State.repWith_canon (s : State) (n : Nat) (h : Memory.wf s.mem = true) : Canon (s.repWith n) := by
  unfold State.repWith
  split <;> simp [h]

@[simp] theorem execRepReg_canon (a : SSpec) (s : State) (h : Memory.wf s.mem = true) : Canon (execRepReg a s) := by
  unfold execRepReg
  (repeat' split) <;> simp [h]

@[simp] theorem execRepImm_canon (n : BitVec 16) (s : State) (h : Memory.wf s.mem = true) : Canon (execRepImm n s) := by
  unfold execRepImm
  split <;> simp [h]

@[simp] theorem State.skipSlot_canon (s : State) (isRep : Bool) (h : Memory.wf s.mem = true) : Canon (s.skipSlot isRep) := by
  unfold State.skipSlot
  split <;> simp [h]

@[simp] theorem execGap_canon (y : Fin 32) (k : BitVec 16) (s : State) (h : Memory.wf s.mem = true) : Canon (execGap y k s) := by
  unfold execGap
  simp [h]

@[simp] theorem execComma_canon (n : BitVec 10) (m : BitVec 6) (s : State) (h : Memory.wf s.mem = true) : Canon (execComma n m s) := by
  unfold execComma
  split <;> simp [h]

@[simp] theorem execTrap_canon (i : BitVec 16) (s : State) (h : Memory.wf s.mem = true) : Canon (execTrap i s) := by
  unfold execTrap
  simp [h]

@[simp] theorem execEret_canon (s : State) (h : Memory.wf s.mem = true) : Canon (execEret s) := by
  unfold execEret
  split <;> simp [h]

@[simp] theorem execUndefinedEncoding_canon (w : IWord) (s : State) (h : Memory.wf s.mem = true) : Canon (execUndefinedEncoding w s) := by
  unfold execUndefinedEncoding
  split <;> simp [h]

/-! ## Functions of Machine/Lexicon -/

@[simp] theorem execSymrd_canon (d : SSpec) (y : Fin 32) (w : Fin 8) (s : State) (h : Memory.wf s.mem = true) :
    Canon (execSymrd d y w s) := by
  unfold execSymrd
  simp [h]

@[simp] theorem State.symset_mem (s : State) (y : Fin 32) (f : LexEntry → LexEntry) : (s.symset y f).mem = s.mem := rfl

@[simp] theorem execSymsetB_canon (sv : SSpec) (y : Fin 32) (s : State) (h : Memory.wf s.mem = true) : Canon (execSymsetB sv y s) := by
  unfold execSymsetB
  (repeat' split) <;> simp [h]

@[simp] theorem execSymsetPol_canon (sv : SSpec) (y : Fin 32) (s : State) (h : Memory.wf s.mem = true) : Canon (execSymsetPol sv y s) := by
  unfold execSymsetPol
  dsimp only
  (repeat' split) <;> simp [h]

@[simp] theorem execSymsetClr_canon (y : Fin 32) (s : State) (h : Memory.wf s.mem = true) : Canon (execSymsetClr y s) := by
  unfold execSymsetClr
  simp [h]

/-! ## Functions of Machine/Path -/

@[simp] theorem State.endReleases_mem (s : State) (p : Place) (n : Nat) : (s.endReleases p n).mem = s.mem := rfl
@[simp] theorem State.carry_mem (s : State) (f : Flight) (p : Place) (n : Nat) : (s.carry f p n).mem = s.mem := rfl

@[simp] theorem State.upset_mem (s : State) (key : Nat) (hard : Bool) : (s.upset key hard).mem = s.mem := by
  unfold State.upset
  (repeat' split) <;> simp

@[simp] theorem State.disarm_mem (s : State) (w : Who) : (s.disarm w).mem = s.mem := rfl
@[simp] theorem State.as_mem (s : State) (w : Who) (f : State → State) : (s.as w f).mem = (f { s with turn := w }).mem := rfl

/-! ## Functions of Machine/Memory -/

@[simp] theorem State.holdPage_canon (s : State) (va : Word) (d : Nat) (h : Memory.wf s.mem = true) : Canon (s.holdPage va d) := by
  unfold State.holdPage
  simp [h]

@[simp] theorem State.pushLoad_mem (s : State) (l : LoadReq) : (s.pushLoad l).mem = s.mem := rfl
@[simp] theorem State.takeSlot_mem (s : State) (n : Fin 64) (y : Fin 32) (vec : Bool) : (s.takeSlot n y vec).mem = s.mem := rfl

@[simp] theorem State.noteHint_mem (s : State) (va : Word) (h : Option (Fin 8)) (p : Place) : (s.noteHint va h p).mem = s.mem := by
  unfold State.noteHint
  (repeat' split) <;> simp

@[simp] theorem State.landingLoad_canon (s : State) (n : Fin 64) (va : Word) (size : Nat) (y : Fin 32) (vec skew : Bool) (acq : Option Scope)
    (hint : Option (Fin 8)) (h : Memory.wf s.mem = true) : Canon (s.landingLoad n va size y vec skew acq hint) := by
  unfold State.landingLoad
  split
  · next e => simp [State.mem_of_check e, h]
  · next e => split <;> simp [State.mem_of_check e, h]
  · next e => split <;> simp [State.mem_of_check e, h]

@[simp] theorem State.scalarLoad_canon (s : State) (d : SSpec) (va : Word) (size : Nat) (skew : Bool) (acq : Option Scope)
    (hint : Option (Fin 8)) (h : Memory.wf s.mem = true) : Canon (s.scalarLoad d va size skew acq hint) := by
  unfold State.scalarLoad
  split
  · next e => simp [State.mem_of_check e, h]
  · next e => split <;> simp [State.mem_of_check e, h]
  · next e => split <;> simp [State.mem_of_check e, h]

@[simp] theorem execLd_canon (d : Fin 64) (b : Fin 32) (y : Fin 32) (z : Fin 4) (o : BitVec 8) (s : State) (h : Memory.wf s.mem = true) :
    Canon (execLd d b y z o s) := by
  unfold execLd
  split <;> simp [h]

@[simp] theorem execLdV_canon (d : Fin 64) (b : Fin 32) (y : Fin 32) (z : Fin 4) (o : BitVec 8) (s : State) (h : Memory.wf s.mem = true) :
    Canon (execLdV d b y z o s) := by
  unfold execLdV
  split <;> simp [h]

@[simp] theorem State.attributedLoad_canon (s : State) (dest : LdDest) (b : Fin 32) (y : Fin 32) (z : Fin 4) (vec : Bool) (skew : Bool)
    (acq : Option Scope) (hint : Option (Fin 8)) (h : Memory.wf s.mem = true) :
    Canon (s.attributedLoad dest b y z vec skew acq hint) := by
  unfold State.attributedLoad
  (repeat' split) <;> simp [h]

@[simp] theorem execLdx_canon (g : LdxArgs) (s : State) (h : Memory.wf s.mem = true) : Canon (execLdx g s) := by
  unfold execLdx
  simp [h]

@[simp] theorem execLda_canon (g : LdaArgs) (s : State) (h : Memory.wf s.mem = true) : Canon (execLda g s) := by
  unfold execLda
  simp [h]

@[simp] theorem execPref_canon (b y : Fin 32) (z : Fin 4) (o : BitVec 8) (s : State) (h : Memory.wf s.mem = true) :
    Canon (execPref b y z o s) := by
  unfold execPref
  split
  · simp [h]
  · dsimp only
    split
    · next e => split <;> simp [State.mem_of_check e, h]
    · next e => simp [State.mem_of_check e, h]

@[simp] theorem State.pushStore_mem (s : State) (r : StoreReq) : (s.pushStore r).mem = s.mem := rfl
@[simp] theorem State.pushLog_mem (s : State) (r : StoreReq) (kind : Fin 8) (elem : Nat) : (s.pushLog r kind elem).mem = s.mem := rfl

theorem State.placeStore_mem {s t : State} {acc : Acc} {va : Word} {n : Nat} {k : WKind} {data : VData} {rel : Option Scope}
    {hint : Option (Fin 8)} {kind : Fin 8} (h : s.placeStore acc va n k data rel hint kind = some t) : t.mem = s.mem := by
  unfold State.placeStore at h
  dsimp only at h
  repeat' split at h
  all_goals cases h <;> simp

@[simp] theorem State.storeAt_canon (s : State) (d : SSpec) (b : Fin 32) (va : Word) (size : Nat) (skew : Bool) (rel : Option Scope)
    (hint : Option (Fin 8)) (h : Memory.wf s.mem = true) : Canon (s.storeAt d b va size skew rel hint) := by
  unfold State.storeAt
  split
  · simp [h]
  split
  · simp [h]
  split
  · next e => simp [State.mem_of_check e, h]
  · next e =>
    split
    · simp [h]
    · next e' => simp [State.placeStore_mem e', State.mem_of_check e, h]

@[simp] theorem execSt_canon (d : SSpec) (b : Fin 32) (z : Fin 4) (o : BitVec 8) (s : State) (h : Memory.wf s.mem = true) :
    Canon (execSt d b z o s) := by
  unfold execSt
  simp [h]

@[simp] theorem execStx_canon (g : StxArgs) (s : State) (h : Memory.wf s.mem = true) : Canon (execStx g s) := by
  unfold execStx
  simp [h]

@[simp] theorem execStl_canon (g : StlArgs) (s : State) (h : Memory.wf s.mem = true) : Canon (execStl g s) := by
  unfold execStl
  simp [h]

/-! ## Functions of Machine/Answers -/

@[simp] theorem State.setReq_mem (s : State) (r : SeatRef) (l : LoadReq) : (s.setReq r l).mem = s.mem := rfl

@[simp] theorem State.noteForward_mem (s : State) (w : Who) (acq : Option Scope) (f : Flight) : (s.noteForward w acq f).mem = s.mem := by
  unfold State.noteForward
  simp

@[simp] theorem State.conjHeard_mem (s : State) (r : SeatRef) (l : LoadReq) : (s.conjHeard r l).mem = s.mem := by
  unfold State.conjHeard
  dsimp only
  split <;> simp

@[simp] theorem State.enter_mem (s : State) (r : SeatRef) (l : LoadReq) (k : Nat) : (s.enter r l k).mem = s.mem := by
  unfold State.enter
  dsimp only
  (repeat' split) <;> simp

theorem State.toPort_mem {s t : State} {a : Stand} {x : OutFlit} (h : s.toPort a x = some t) : t.mem = s.mem := by
  obtain ⟨n, -, rfl⟩ := Option.map_eq_some_iff.1 h
  rfl

@[simp] theorem State.toPort_getD_mem (s : State) (a : Stand) (x : OutFlit) : ((s.toPort a x).getD s).mem = s.mem := by
  cases h : s.toPort a x with
  | none => rfl
  | some t => exact State.toPort_mem h

@[simp] theorem State.askRemote_mem (s : State) (r : SeatRef) (l : LoadReq) (t : Transit) : (s.askRemote r l t).mem = s.mem := by
  unfold State.askRemote
  split
  · rfl
  split
  · next e => simp [State.toPort_mem e]
  · rfl

@[simp] theorem State.readTo_mem (s : State) (r : SeatRef) (l : LoadReq) (stop : Nat) (beats : Nat) :
    (s.readTo r l stop beats).1.mem = s.mem := by
  unfold State.readTo
  simp

@[simp] theorem State.badAmo_mem (s : State) (p : Place) (n : Nat) : (s.badAmo p n).mem = s.mem := by
  unfold State.badAmo
  (repeat' split) <;> simp

@[simp] theorem State.putAmo_wf (s : State) (p : Place) (n : Nat) (op : AtomOp) (v e : Word) (h : Memory.wf s.mem = true) :
    Memory.wf (s.putAmo p n op v e).mem = true := by
  unfold State.putAmo
  split
  · simpa using State.writePlace_wf s p n _ h
  · exact h

@[simp] theorem State.applyAmo_wf (s : State) (r : SeatRef) (l : LoadReq) (op : AtomOp) (v : Word) (e : Word) (h : Memory.wf s.mem = true) :
    Memory.wf (s.applyAmo r l op v e).2.2.mem = true := by
  unfold State.applyAmo
  dsimp only
  (repeat' split) <;> simp [h]

@[simp] theorem State.arm_mem (s : State) (w : Who) (p : Place) : (s.arm w p).mem = s.mem := rfl

@[simp] theorem State.armAt_mem (s : State) (r : SeatRef) (l : LoadReq) (done : Nat → Bool) : (s.armAt r l done).mem = s.mem := by
  unfold State.armAt
  dsimp only
  (repeat' split) <;> simp

@[simp] theorem State.homeAct_wf (s : State) (r : SeatRef) (l : LoadReq) (h : Memory.wf s.mem = true) :
    Memory.wf (s.homeAct r l).mem = true := by
  unfold State.homeAct
  split <;> simp [h]

@[simp] theorem State.passReq_wf (s : State) (r : SeatRef) (i : Nat) (h : Memory.wf s.mem = true) :
    Memory.wf (s.passReq r i).mem = true := by
  unfold State.passReq
  (repeat' split) <;> simp [h]

@[simp] theorem State.readBeat_mem (s : State) (r : SeatRef) (i : Nat) : (s.readBeat r i).mem = s.mem := by
  unfold State.readBeat
  dsimp only
  (repeat' split) <;> simp

@[simp] theorem State.remoteWake_mem (s : State) (w : Who) : (s.remoteWake w).mem = s.mem := by
  unfold State.remoteWake
  dsimp only
  (repeat' split) <;> simp

@[simp] theorem State.dropLoad_mem (s : State) (r : SeatRef) (l : LoadReq) : (s.dropLoad r l).mem = s.mem := rfl

@[simp] theorem State.thaw_mem (s : State) (c : Fin 904) : (s.thaw c).mem = s.mem := by
  unfold State.thaw
  dsimp only
  (repeat' split) <;> simp

@[simp] theorem execLanding_canon (r : SeatRef) (slot : Fin 64) (s : State) (h : Memory.wf s.mem = true) :
    Canon (execLanding r slot s) := by
  unfold execLanding
  (repeat' split) <;> simp [h]

@[simp] theorem State.deliver_mem (s : State) (w : Who) (d : SSpec) (v : Word) : (s.deliver w d v).mem = s.mem := rfl

@[simp] theorem State.faultAt_mem (s : State) (w : Who) (l : LoadReq) (f : Flt) : (s.faultAt w l f).mem = s.mem := by
  unfold State.faultAt
  split <;> simp

@[simp] theorem State.errorAnswer_mem (s : State) (w : Who) (l : LoadReq) (a : Ans) : (s.errorAnswer w l a).mem = s.mem := by
  unfold State.errorAnswer
  dsimp only
  (repeat' split) <;> simp

@[simp] theorem State.armAnswer_mem (s : State) (w : Who) (l : LoadReq) (a : Answer) : (s.armAnswer w l a).mem = s.mem := by
  unfold State.armAnswer
  dsimp only
  (repeat' split) <;> simp

@[simp] theorem execScalarAnswer_canon (w : Who) (i : Nat) (s : State) (h : Memory.wf s.mem = true) : Canon (execScalarAnswer w i s) := by
  unfold execScalarAnswer
  (repeat' split) <;> simp [h]

@[simp] theorem State.feedElems_mem (s : State) (r : SeatRef) : (s.feedElems r).mem = s.mem := by
  unfold State.feedElems
  split <;> simp

@[simp] theorem execStoreDepart_canon (r : SeatRef) (s : State) (h : Memory.wf s.mem = true) : Canon (execStoreDepart r s) := by
  unfold execStoreDepart
  (repeat' split) <;> simp [h]

theorem State.postFlight_mem {s t : State} {f : Flight} (h : s.postFlight f = some t) : t.mem = s.mem := by
  unfold State.postFlight at h
  dsimp only at h
  split at h
  · next e =>
    refine (State.toPort_mem h).trans ?_
    split at e
    · exact State.toPort_mem e
    · obtain rfl := Option.some.inj e; rfl
  · exact nomatch h

@[simp] theorem State.countArrival_mem (s : State) (f : Flight) (bytes : Nat) : (s.countArrival f bytes).mem = s.mem := by
  unfold State.countArrival
  (repeat' split) <;> simp

@[simp] theorem State.performTo_wf (s : State) (f : Flight) (stop : Nat) (h : Memory.wf s.mem = true) :
    Memory.wf (s.performTo f stop).mem = true := by
  unfold State.performTo
  dsimp only
  rw [State.countArrival_mem]
  apply State.performParts_wf
  split <;> simpa using h

@[simp] theorem execStorePerform_canon (i : Nat) (s : State) (h : Memory.wf s.mem = true) : Canon (execStorePerform i s) := by
  unfold execStorePerform
  (repeat' split) <;> simp [h]

@[simp] theorem State.mergedAct_wf (s : State) (l : List Nat) (h : Memory.wf s.mem = true) : Memory.wf (s.mergedAct l).mem = true := by
  have carried (fs : List Flight) (t : State) (p : Place) (n : Nat) : (fs.foldl (fun t h => t.carry h p n) t).mem = t.mem :=
    foldl_keeps_mem _ _ _ fun _ _ => rfl
  have dropped (fs : List Flight) (t : State) : (fs.foldl (fun t h => t.dropWrite h.src) t).mem = t.mem :=
    foldl_keeps_mem _ _ _ fun _ _ => State.dropWrite_mem _ _
  unfold State.mergedAct
  dsimp only
  split
  · split
    · split
      · refine State.performParts_wf _ _ _ _ _ _ _ _ ?_
        split
        · rw [carried]; exact h
        · rw [dropped]; exact h
      · exact h
    · exact h
  · exact h

@[simp] theorem State.beatFlight_wf (s : State) (i : Nat) (h : Memory.wf s.mem = true) : Memory.wf (s.beatFlight i).mem = true := by
  unfold State.beatFlight
  dsimp only
  (repeat' split) <;> simp [h]

@[simp] theorem State.moveFlight_mem (s : State) (i : Nat) : (s.moveFlight i).mem = s.mem := by
  unfold State.moveFlight
  split
  · rfl
  dsimp only
  split
  · rfl
  split
  · simp
  split
  · split
    · next e => simp [State.postFlight_mem e]
    · rfl
  · rfl

@[simp] theorem State.failHeld_mem (s : State) (w : Who) (l : LoadReq) (f : Flt) : (s.failHeld w l f).mem = s.mem := by
  unfold State.failHeld
  simp

@[simp] theorem State.replayLoad_mem (s : State) (w : Who) (l : LoadReq) (p : Place) : (s.replayLoad w l p).mem = s.mem := by
  unfold State.replayLoad
  dsimp only
  split <;> simp

@[simp] theorem execLoadReplay_canon (w : Who) (giveUp : Bool) (s : State) (h : Memory.wf s.mem = true) :
    Canon (execLoadReplay w giveUp s) := by
  unfold execLoadReplay
  split
  · split
    · simp [h]
    · split
      all_goals next e => simp [State.mem_of_check e, h]
  · split
    · split
      · simp [h]
      · split <;> simp [h]
    · simp [h]

@[simp] theorem execSideLogReplay_canon (r : SeatRef) (i : Nat) (s : State) (h : Memory.wf s.mem = true) :
    Canon (execSideLogReplay r i s) := by
  unfold execSideLogReplay
  split
  · simp [h]
  split
  · next e =>
    dsimp only
    split
    · simp [State.mem_of_check e, h]
    · simp [h]
  · next e => simp [State.mem_of_check e, h]

/-! ## Functions of Machine/Order -/

@[simp] theorem State.takes_mem (s : State) (l : List SSpec) : (s.takes l).mem = s.mem := by
  unfold State.takes
  simp

@[simp] theorem execAmo_canon (g : AmoArgs) (s : State) (h : Memory.wf s.mem = true) : Canon (execAmo g s) := by
  unfold execAmo
  split
  · simp [h]
  split
  · simp [h]
  split
  · simp [h]
  dsimp only
  split
  all_goals next e => simp [State.mem_of_check e, h]

@[simp] theorem execRed_canon (g : RedArgs) (s : State) (h : Memory.wf s.mem = true) : Canon (execRed g s) := by
  unfold execRed
  split
  · simp [h]
  split
  · simp [h]
  dsimp only
  split
  · next e => simp [State.mem_of_check e, h]
  · next e =>
    split
    · simp [h]
    · next e' => simp [State.placeStore_mem e', State.mem_of_check e, h]

@[simp] theorem execVamo_canon (g : AmoArgs) (s : State) (h : Memory.wf s.mem = true) : Canon (execVamo g s) := by
  unfold execVamo
  split
  · simp [h]
  split
  · simp [h]
  dsimp only
  split
  · split
    · simp [h]
    · generalize s.returnPlace g.d _ _ _ = ret
      obtain _ | _ | q := ret <;> split <;> simp [apply_ite State.mem, State.performWrite_wf, h]
  · split
    · simp [h]
    split
    · split <;> simp [h]
    split
    · next e => simp [State.mem_of_check e, h]
    · next e => simp [State.mem_of_check e, h]
    · next e =>
      split
      · simp [State.mem_of_check e, h]
      · split
        · simp [h]
        · simp [State.mem_of_check e, h]

/-- The state after the checks of every element, or after the one that faults, holds the same bytes. -/
theorem State.checkElems_mem (base : Word) (idx : VData) (n k e : Nat) (s : State) :
    (∀ l t, s.checkElems base idx n k e = .ok (l, t) → t.mem = s.mem) ∧ ∀ f t, s.checkElems base idx n k e = .error (f, t) → t.mem = s.mem := by
  induction k generalizing s e with
  | zero => exact ⟨fun _ _ h => by cases h; rfl, fun _ _ h => nomatch h⟩
  | succ k ih =>
    unfold State.checkElems
    dsimp only
    split
    · next e => exact ⟨fun _ _ h => (nomatch h), fun _ _ h => by cases h; exact State.mem_of_check e⟩
    · next c =>
      split
      · next e => exact ⟨fun _ _ h => (nomatch h), fun _ _ h => by cases h; exact ((ih _ _).2 _ _ e).trans (State.mem_of_check c)⟩
      · next e => exact ⟨fun _ _ h => by cases h; exact ((ih _ _).1 _ _ e).trans (State.mem_of_check c), fun _ _ h => nomatch h⟩

@[simp] theorem execVmred_canon (g : RedArgs) (s : State) (h : Memory.wf s.mem = true) : Canon (execVmred g s) := by
  unfold execVmred
  split
  · simp [h]
  split
  · simp [h]
  dsimp only
  split
  · next e => simp [(State.checkElems_mem _ _ _ _ _ s).2 _ _ e, h]
  · next e => simp [(State.checkElems_mem _ _ _ _ _ s).1 _ _ e, h]

@[simp] theorem State.passFence_mem (s : State) (c : Scope) (k : FenceKind) : (s.passFence c k).mem = s.mem := by
  unfold State.passFence
  dsimp only
  split <;> simp

@[simp] theorem execFence_canon (c : Scope) (k : FenceKind) (s : State) (h : Memory.wf s.mem = true) : Canon (execFence c k s) := by
  unfold execFence
  (repeat' split) <;> simp [h]

@[simp] theorem State.takeEvent_mem (s : State) (w : Who) (c : Scope) : (s.takeEvent w c).mem = s.mem := rfl

@[simp] theorem execScOrderEvent_canon (core : Fin 904) (s : State) (h : Memory.wf s.mem = true) : Canon (execScOrderEvent core s) := by
  unfold execScOrderEvent
  dsimp only
  (repeat' split) <;> simp [h]

@[simp] theorem execDomainFenceSettle_canon (w : Who) (s : State) (h : Memory.wf s.mem = true) : Canon (execDomainFenceSettle w s) := by
  unfold execDomainFenceSettle
  (repeat' split) <;> simp [h]

@[simp] theorem execConj_canon (t : Fin 64) (s : State) (h : Memory.wf s.mem = true) : Canon (execConj t s) := by
  unfold execConj
  simp [h]

@[simp] theorem State.xfenceHeard_mem (s : State) : (s.xfenceHeard).mem = s.mem := by
  unfold State.xfenceHeard
  dsimp only
  split <;> simp

@[simp] theorem execXfence_canon (s : State) (h : Memory.wf s.mem = true) : Canon (execXfence s) := by
  unfold execXfence
  dsimp only
  (repeat' split) <;> simp [h]

@[simp] theorem execMwait_canon (g : MwaitArgs) (s : State) (h : Memory.wf s.mem = true) : Canon (execMwait g s) := by
  unfold execMwait
  split
  · simp [h]
  split
  · split <;> simp [h]
  · simp [h]
  split
  · simp [h]
  split
  · simp [h]
  dsimp only
  split
  all_goals next e => simp [State.mem_of_check e, h]

@[simp] theorem execMwaitTimeout_canon (w : Who) (s : State) (h : Memory.wf s.mem = true) : Canon (execMwaitTimeout w s) := by
  unfold execMwaitTimeout
  (repeat' split) <;> simp [h]

/-! ## Functions of Machine/Engine -/

@[simp] theorem State.modMyEng_mem (s : State) (f : EngineCtx → EngineCtx) : (s.modMyEng f).mem = s.mem := rfl
@[simp] theorem State.engineFault_mem (s : State) (r : SeatRef) (e : EngineId) (f : Flt) : (s.engineFault r e f).mem = s.mem := rfl

@[simp] theorem State.stopProgram_canon (s : State) (f : Flt) (h : Memory.wf s.mem = true) : Canon (s.stopProgram f) := by
  unfold State.stopProgram
  split <;> simp [h]

@[simp] theorem State.wordFault_canon (s : State) (f : Flt) (h : Memory.wf s.mem = true) : Canon (s.wordFault f) := by
  unfold State.wordFault
  simp [h]

@[simp] theorem State.wordTo_mem (s : State) (pc : Nat) : (s.wordTo pc).mem = s.mem := rfl
@[simp] theorem State.wordDone_mem (s : State) : (s.wordDone).mem = s.mem := rfl

@[simp] theorem State.stackWord_canon (s : State) (n : Nat) (f : List Word → List Word) (h : Memory.wf s.mem = true) :
    Canon (s.stackWord n f) := by
  unfold State.stackWord
  (repeat' split) <;> simp [h]

@[simp] theorem execLit_canon (v : BitVec 15) (s : State) (h : Memory.wf s.mem = true) : Canon (execLit v s) := by
  unfold execLit
  simp [h]

@[simp] theorem execLitx_canon (next : EWord) (s : State) (h : Memory.wf s.mem = true) : Canon (execLitx next s) := by
  unfold execLitx
  (repeat' split) <;> simp [h]

@[simp] theorem execDup_canon (s : State) (h : Memory.wf s.mem = true) : Canon (execDup s) := by
  unfold execDup
  simp [h]

@[simp] theorem execDrop_canon (s : State) (h : Memory.wf s.mem = true) : Canon (execDrop s) := by
  unfold execDrop
  simp [h]

@[simp] theorem execSwap_canon (s : State) (h : Memory.wf s.mem = true) : Canon (execSwap s) := by
  unfold execSwap
  simp [h]

@[simp] theorem execOver_canon (s : State) (h : Memory.wf s.mem = true) : Canon (execOver s) := by
  unfold execOver
  simp [h]

@[simp] theorem State.stackWord2_canon (s : State) (f : Word → Word → Word) (h : Memory.wf s.mem = true) : Canon (s.stackWord2 f) := by
  unfold State.stackWord2
  simp [h]

@[simp] theorem execAddw_canon (s : State) (h : Memory.wf s.mem = true) : Canon (execAddw s) := by
  unfold execAddw
  simp [h]

@[simp] theorem execSubw_canon (s : State) (h : Memory.wf s.mem = true) : Canon (execSubw s) := by
  unfold execSubw
  simp [h]

@[simp] theorem execMulw_canon (s : State) (h : Memory.wf s.mem = true) : Canon (execMulw s) := by
  unfold execMulw
  simp [h]

@[simp] theorem execShlw_canon (n : Fin 64) (s : State) (h : Memory.wf s.mem = true) : Canon (execShlw n s) := by
  unfold execShlw
  simp [h]

@[simp] theorem execQpop_canon (s : State) (h : Memory.wf s.mem = true) : Canon (execQpop s) := by
  unfold execQpop
  dsimp only
  (repeat' split) <;> simp [h]

@[simp] theorem execLoopw_canon (d : BitVec 10) (s : State) (h : Memory.wf s.mem = true) : Canon (execLoopw d s) := by
  unfold execLoopw
  dsimp only
  (repeat' split) <;> simp [h]

@[simp] theorem execEndw_canon (s : State) (h : Memory.wf s.mem = true) : Canon (execEndw s) := by
  unfold execEndw
  (repeat' split) <;> simp [h]

@[simp] theorem execStopw_canon (s : State) (h : Memory.wf s.mem = true) : Canon (execStopw s) := by
  unfold execStopw
  split <;> simp [h]

@[simp] theorem execUndefinedEngineWord_canon (_w : EWord) (s : State) (h : Memory.wf s.mem = true) :
    Canon (execUndefinedEngineWord _w s) := by
  unfold execUndefinedEngineWord
  simp [h]

@[simp] theorem execWaitf_canon (acq : Option Scope) (n : Fin 64) (s : State) (h : Memory.wf s.mem = true) : Canon (execWaitf acq n s) := by
  unfold execWaitf
  (repeat' split) <;> simp [h]

@[simp] theorem execSigf_canon (note : Bool) (t : SigTarget) (s : State) (h : Memory.wf s.mem = true) : Canon (execSigf note t s) := by
  unfold execSigf
  split <;> simp [h]

@[simp] theorem State.modCore_mem (s : State) (c : Fin 904) (f : Core → Core) : (s.modCore c f).mem = s.mem := rfl

@[simp] theorem State.waitRecord_wf (s : State) (core : Fin 904) (seat : Option (Fin 2)) (waiter flag setter acc cycles : Nat)
    (h : Memory.wf s.mem = true) : Memory.wf (s.waitRecord core seat waiter flag setter acc cycles).mem = true := by
  unfold State.waitRecord
  dsimp only
  split
  · simpa using h
  split
  · split <;> simpa using h
  · rw [State.modCore_mem]
    exact State.performWrite_wf _ _ _ _ _ _ _ _ (by simpa using h)

@[simp] theorem State.place_canon (s : State) (i : Instr) (n : Nat) (bind : Nat) (h : Memory.wf s.mem = true) :
    Canon (s.place i n bind) := by
  unfold State.place
  dsimp only
  (repeat' split) <;> simp [h]

@[simp] theorem State.placeIf_canon (s : State) (here : Bool) (i : Instr) (n : Nat) (bind : Nat) (h : Memory.wf s.mem = true) :
    Canon (s.placeIf here i n bind) := by
  unfold State.placeIf
  split <;> simp [h]

@[simp] theorem execFork_canon (e : EngineId) (i : BitVec 16) (s : State) (h : Memory.wf s.mem = true) : Canon (execFork e i s) := by
  unfold execFork
  split <;> simp [h]

@[simp] theorem execJoin_canon (e : EngineId) (s : State) (h : Memory.wf s.mem = true) : Canon (execJoin e s) := by
  unfold execJoin
  dsimp only
  (repeat' split) <;> simp [h]

@[simp] theorem execFlagWaitMet_canon (core : Fin 904) (e : EngineId) (seat : Fin 2) (s : State) (h : Memory.wf s.mem = true) :
    Canon (execFlagWaitMet core e seat s) := by
  unfold execFlagWaitMet
  dsimp only
  (repeat' split) <;> simp [h]

end Sys2Proof.Machine
end

section
/-!
SUPPORT. Memory in canonical form, for obligation O58: order, atomics, fences, the matrix, vector and engine units.
-/
namespace Sys2Proof.Machine

/-! ## Functions of Machine/EngineMem -/

@[simp] theorem State.engWalk_mem (s : State) (r : SeatRef) (e : EngineId) (l : List Place) : (s.engWalk r e l).mem = s.mem := by
  unfold State.engWalk
  dsimp only
  split <;> simp

/-- The state that an engine's stop brings holds memory `m`. -/
def EngStop.Mem (m : Cells) : EngStop → Prop
  | .fault _ t => t.mem = m
  | .missing _ _ t => t.mem = m
  | .wait => True

/-- The state that an engine's result brings, of success or of a stop, holds memory `m`. -/
def EngMem {α : Type} (m : Cells) (st : α → State) : Except EngStop α → Prop
  | .ok a => (st a).mem = m
  | .error x => x.Mem m

theorem EngMem.ok {α : Type} {m : Cells} {st : α → State} {x : Except EngStop α} {a : α} (h : EngMem m st x) (e : x = .ok a) :
    (st a).mem = m := by rw [e] at h; exact h

theorem EngMem.error {α : Type} {m : Cells} {st : α → State} {x : Except EngStop α} {k : EngStop} (h : EngMem m st x)
    (e : x = .error k) : k.Mem m := by rw [e] at h; exact h

theorem State.engCheck_mem {s : State} {m : Cells} (h : s.mem = m) (r : SeatRef) (e : EngineId) (va : Word) (rt : Right)
    (skew write : Bool) : EngMem m Prod.snd (s.engCheck r e va rt skew write) := by
  have walked : ∀ (c : Core) (l : List Place), ((s.setCore r.core c).engWalk r e l).mem = m := fun c l => by simp [h]
  unfold State.engCheck
  dsimp only
  split
  · split
    · exact h
    · split <;> exact h
  · split <;> exact walked _ _

theorem State.spanCheck_mem {s : State} {m : Cells} (h : s.mem = m) (r : SeatRef) (e : EngineId) (rt : Right) (skew write own : Bool)
    (l : List (Word × Nat)) : EngMem m Prod.snd (s.spanCheck r e rt skew write own l) := by
  induction l generalizing s with
  | nil => exact h
  | cons x l ih =>
    unfold State.spanCheck
    split
    · exact h
    have checked := State.engCheck_mem h r e x.1 rt skew write
    split
    · next e => exact checked.error e
    · next e =>
      have rest := ih (checked.ok e)
      split
      · next e => exact rest.error e
      · next e => exact (rest.ok e :)

theorem State.rowsCheck_mem {s : State} {m : Cells} (h : s.mem = m) (r : SeatRef) (e : EngineId) (rt : Right) (skew write own : Bool)
    (n : Nat) (l : List Word) : EngMem m Prod.snd (s.rowsCheck r e rt skew write own n l) := by
  induction l generalizing s with
  | nil => exact h
  | cons a l ih =>
    unfold State.rowsCheck
    have checked := State.spanCheck_mem h r e rt skew write own (blocksOf a n)
    split
    · next e => exact checked.error e
    · next e =>
      have rest := ih (checked.ok e)
      split
      · next e => exact rest.error e
      · next e => exact (rest.ok e :)

@[simp] theorem State.engForward_mem (s : State) (r : SeatRef) (e : EngineId) (i : Nat) (f : Flight) :
    (s.engForward r e i f).mem = s.mem := rfl

theorem State.readBlk_mem {s : State} {m : Cells} (h : s.mem = m) (r : SeatRef) (e : EngineId) (i : Nat) (b : Blk) :
    EngMem m Prod.snd (s.readBlk r e i b) := by
  unfold State.readBlk
  split
  · trivial
  · exact (State.engForward_mem _ _ _ _ _).trans h
  · split
    · exact (State.noteCorr_mem _ _ _ _).trans h
    · exact (State.noteBad_mem _ _ _ _).trans h
    · exact h

theorem State.readSpan_mem {s : State} {m : Cells} (h : s.mem = m) (r : SeatRef) (e : EngineId) (i : Nat) (l : List Blk) :
    EngMem m Prod.snd (s.readSpan r e i l) := by
  induction l generalizing s with
  | nil => exact h
  | cons b l ih =>
    unfold State.readSpan
    have read := State.readBlk_mem h r e i b
    split
    · next e => exact read.error e
    · next e =>
      have rest := ih (read.ok e)
      split
      · next e => exact rest.error e
      · next e => exact (rest.ok e :)

theorem State.readRows_mem {s : State} {m : Cells} (h : s.mem = m) (r : SeatRef) (e : EngineId) (l : List (List Blk)) :
    EngMem m Prod.snd (s.readRows r e l) := by
  induction l generalizing s with
  | nil => exact h
  | cons b l ih =>
    unfold State.readRows
    have read := State.readSpan_mem h r e (s.curIndex r e) b
    split
    · next e => exact read.error e
    · next e =>
      have rest := ih (read.ok e)
      split
      · next e => exact rest.error e
      · next e => exact (rest.ok e :)

theorem State.loadRows_mem {s : State} {m : Cells} (h : s.mem = m) (r : SeatRef) (e : EngineId) (skew own : Bool) (n : Nat)
    (l : List Word) : EngMem m Prod.snd (s.loadRows r e skew own n l) := by
  unfold State.loadRows
  have checked := State.rowsCheck_mem h r e .rd skew false own n l
  split
  · next e => exact checked.error e
  · next e => exact State.readRows_mem (checked.ok e) _ _ _

theorem State.rowsToRead_mem {s : State} {m : Cells} (h : s.mem = m) (r : SeatRef) (e : EngineId) (skew own : Bool) (n : Nat)
    (l : List Word) : EngMem m Prod.snd (s.rowsToRead r e skew own n l) := by
  unfold State.rowsToRead
  have checked := State.rowsCheck_mem h r e .rd skew false own n l
  split
  · next e => exact checked.error e
  · next e => exact (checked.ok e :)

@[simp] theorem State.engSend_mem (s : State) (core : Fin 904) (src : Source) (k : WKind) (p : Place) (n : Nat) (data : VData)
    (sync : Option Nat) (bad : Bool) :
    (s.engSend core src k p n data sync bad).mem = s.mem := rfl

@[simp] theorem State.engStore_wf (s : State) (core : Fin 904) (src : Source) (p : Place) (n : Nat) (data : Nat)
    (h : Memory.wf s.mem = true) :
    Memory.wf (s.engStore core src p n data).mem = true := by
  unfold State.engStore
  split <;> simp [h, State.performWrite_wf]

/-- A fold of steps that keep the canonical form keeps it. -/
theorem foldl_wf {α : Type} (g : State → α → State) (l : List α) (s : State) (h : Memory.wf s.mem = true)
    (step : ∀ t a, Memory.wf t.mem = true → Memory.wf (g t a).mem = true) : Memory.wf (l.foldl g s).mem = true := by
  induction l generalizing s with
  | nil => exact h
  | cons a l ih => exact ih _ (step s a h)

@[simp] theorem State.engStores_wf (s : State) (core : Fin 904) (src : Source) (v : Nat) (l : List (Place × Nat))
    (h : Memory.wf s.mem = true) : Memory.wf (s.engStores core src v l).mem = true := by
  induction l generalizing s v with
  | nil => exact h
  | cons x l ih => exact ih _ _ (State.engStore_wf _ _ _ _ _ _ h)

theorem State.engHold_mem {s : State} {x : EngStop} (h : x.Mem s.mem) (r : SeatRef) (e : EngineId) (i : Nat) :
    (s.engHold r e i x).mem = s.mem := by
  have held (t : State) (h : t.mem = s.mem) (f : Cmd → Cmd) (k : Flt) : (if (t.getSeat r).inst.phase = .faulted then t
      else (t.modSeat r fun st => st.modEng e fun c => c.modCmd i f).engineFault r e k).mem = s.mem := by
    split <;> simpa using h
  unfold State.engHold
  dsimp only
  split
  · simp
  · exact held _ h _ _
  · split
    · exact held _ h _ _
    · exact h

/-! ## Functions of Machine/Matrix -/

@[simp] theorem execMldt_canon (b : Fin 8) (sideB : Bool) (half : Bool) (s : State) (h : Memory.wf s.mem = true) :
    Canon (execMldt b sideB half s) := by
  unfold execMldt
  simp [h]

@[simp] theorem execMstt_canon (b : Fin 8) (sideB : Bool) (half : Bool) (s : State) (h : Memory.wf s.mem = true) :
    Canon (execMstt b sideB half s) := by
  unfold execMstt
  simp [h]

@[simp] theorem execMma_canon (a : Fin 4) (raw : Bool) (s : State) (h : Memory.wf s.mem = true) : Canon (execMma a raw s) := by
  unfold execMma
  simp [h]

@[simp] theorem execMhad_canon (b : Fin 8) (z : Fin 4) (s : State) (h : Memory.wf s.mem = true) : Canon (execMhad b z s) := by
  unfold execMhad
  simp [h]

@[simp] theorem execMzero_canon (a : Fin 4) (fp36 : Bool) (s : State) (h : Memory.wf s.mem = true) : Canon (execMzero a fp36 s) := by
  unfold execMzero
  simp [h]

@[simp] theorem execMdrain_canon (g : DrainArgs) (s : State) (h : Memory.wf s.mem = true) : Canon (execMdrain g s) := by
  unfold execMdrain
  simp [h]

@[simp] theorem execMsrec_canon (sideB : Bool) (en : Bool) (s : State) (h : Memory.wf s.mem = true) : Canon (execMsrec sideB en s) := by
  unfold execMsrec
  simp [h]

@[simp] theorem execMgeom_canon (a : Fin 16) (b : Fin 16) (askew : Bool) (bskew : Bool) (s : State) (h : Memory.wf s.mem = true) :
    Canon (execMgeom a b askew bskew s) := by
  unfold execMgeom
  simp [h]

theorem State.mmaRows_mem {s : State} {m : Cells} (h : s.mem = m) (r : SeatRef) (v : Word) (sideB : Bool) (n rows : Nat) :
    EngMem m Prod.snd (s.mmaRows r v sideB n rows) := by
  unfold State.mmaRows
  dsimp only
  split
  · exact h
  split
  · exact h
  · exact State.rowsToRead_mem h _ _ _ _ _ _

theorem State.mmaScales_mem {s : State} {m : Cells} (h : s.mem = m) (r : SeatRef) (rec : Word) (rows : Nat) :
    EngMem m Prod.snd (s.mmaScales r rec rows) := by
  unfold State.mmaScales
  split
  · exact State.rowsToRead_mem h _ _ _ _ _ _
  · exact h

theorem State.startMma_mem {s : State} {m : Cells} (h : s.mem = m) (r : SeatRef) (a : Fin 4) (raw : Bool) (args : List Word) :
    EngMem m Start.st (s.startMma r a raw args) := by
  unfold State.startMma
  dsimp only
  split
  · exact h
  split
  · next e => exact (State.mmaRows_mem h _ _ _ _ _).error e
  next e =>
  replace h := (State.mmaRows_mem h _ _ _ _ _).ok e
  split
  · next e => exact (State.mmaRows_mem h _ _ _ _ _).error e
  next e =>
  replace h := (State.mmaRows_mem h _ _ _ _ _).ok e
  split
  · exact h
  split
  · next e => exact (State.mmaScales_mem h _ _ _).error e
  next e =>
  replace h := (State.mmaScales_mem h _ _ _).ok e
  split
  · next e => exact (State.mmaScales_mem h _ _ _).error e
  · next e => exact ((State.mmaScales_mem h _ _ _).ok e :)

theorem State.drainScales_mem {s : State} {m : Cells} (h : s.mem = m) (r : SeatRef) (on : Bool) (a : Word) (n : Nat) :
    EngMem m Prod.snd (s.drainScales r on a n) := by
  unfold State.drainScales
  split
  · exact h
  split
  · exact h
  · exact State.rowsToRead_mem h _ _ _ _ _ _

theorem State.startDrain_mem {s : State} {m : Cells} (h : s.mem = m) (r : SeatRef) (g : DrainArgs) (args : List Word) :
    EngMem m Start.st (s.startDrain r g args) := by
  unfold State.startDrain
  dsimp only
  split
  · next e => exact (State.drainScales_mem h _ _ _ _).error e
  next e =>
  have h1 := (State.drainScales_mem h _ _ _ _).ok e
  split
  · next e => exact (State.drainScales_mem h1 _ _ _ _).error e
  next e =>
  have h2 := (State.drainScales_mem h1 _ _ _ _).ok e
  split
  · split
    · exact h
    · exact h2
  split
  · exact h
  split
  · next e => exact (State.rowsCheck_mem h2 _ _ _ _ _ _ _ _).error e
  · next e => exact ((State.rowsCheck_mem h2 _ _ _ _ _ _ _ _).ok e :)

theorem State.matrixStart_mem {s : State} {m : Cells} (h : s.mem = m) (r : SeatRef) (i : Instr) (args : List Word) :
    EngMem m Start.st (s.matrixStart r i args) := by
  unfold State.matrixStart
  dsimp only
  split
  · split <;> exact h
  · split
    · exact h
    split
    · exact h
    split
    · next e => exact (State.rowsCheck_mem h _ _ _ _ _ _ _ _).error e
    · next e => exact ((State.rowsCheck_mem h _ _ _ _ _ _ _ _).ok e :)
  · exact h
  · exact h
  · split
    · exact h
    split
    · next e => exact (State.rowsCheck_mem h _ _ _ _ _ _ _ _).error e
    · next e => exact ((State.rowsCheck_mem h _ _ _ _ _ _ _ _).ok e :)
  · split
    · exact h
    split
    · next e => exact (State.rowsCheck_mem h _ _ _ _ _ _ _ _).error e
    · next e => exact ((State.rowsCheck_mem h _ _ _ _ _ _ _ _).ok e :)
  · exact State.startMma_mem h _ _ _ _
  · exact State.startDrain_mem h _ _ _
  · exact h

@[simp] theorem State.doDrain_wf (s : State) (r : SeatRef) (g : DrainArgs) (c : Cmd) (h : Memory.wf s.mem = true) :
    Memory.wf (s.doDrain r g c).mem = true := by
  unfold State.doDrain
  split <;> simp [h]

@[simp] theorem State.matrixDo_wf (s : State) (r : SeatRef) (i : Instr) (c : Cmd) (h : Memory.wf s.mem = true) :
    Memory.wf (s.matrixDo r i c).mem = true := by
  unfold State.matrixDo
  split <;> simp [h]

/-! ## Functions of Machine/Copy -/

@[simp] theorem execCopy_canon (g : CopyArgs) (s : State) (h : Memory.wf s.mem = true) : Canon (execCopy g s) := by
  unfold execCopy
  simp [h]

@[simp] theorem execCgath_canon (g : CopyArgs) (s : State) (h : Memory.wf s.mem = true) : Canon (execCgath g s) := by
  unfold execCgath
  simp [h]

@[simp] theorem execCscat_canon (g : CopyArgs) (s : State) (h : Memory.wf s.mem = true) : Canon (execCscat g s) := by
  unfold execCscat
  simp [h]

@[simp] theorem execCfill_canon (g : CopyArgs) (s : State) (h : Memory.wf s.mem = true) : Canon (execCfill g s) := by
  unfold execCfill
  simp [h]

@[simp] theorem execCbcast_canon (g : CopyArgs) (s : State) (h : Memory.wf s.mem = true) : Canon (execCbcast g s) := by
  unfold execCbcast
  simp [h]

@[simp] theorem execCremote_canon (g : CopyArgs) (s : State) (h : Memory.wf s.mem = true) : Canon (execCremote g s) := by
  unfold execCremote
  simp [h]

@[simp] theorem execCacc_canon (g : CopyArgs) (s : State) (h : Memory.wf s.mem = true) : Canon (execCacc g s) := by
  unfold execCacc
  simp [h]

theorem State.probeCheck_mem {s : State} {m : Cells} (h : s.mem = m) (r : SeatRef) (rt : Right) (write : Bool) (pkg : Option Bool)
    (l : List Word) : EngMem m id (s.probeCheck r rt write pkg l) := by
  induction l generalizing s with
  | nil => exact h
  | cons a l ih =>
    unfold State.probeCheck
    split
    · exact h
    have checked := State.engCheck_mem h r .copy a rt false write
    split
    · next e => exact ih (checked.error e)
    · next e => exact checked.error e
    · next e =>
      split
      · exact h
      · exact ih (checked.ok e)

theorem State.syncCheck_mem {s : State} {m : Cells} (h : s.mem = m) (r : SeatRef) (e : EngineId) (here : Bool) (a : Word) :
    EngMem m id (s.syncCheck r e here a) := by
  unfold State.syncCheck
  split
  · exact h
  split
  · exact h
  split
  · exact h
  split
  · next e => exact (State.engCheck_mem h _ _ _ _ _ _).error e
  · next e => exact ((State.engCheck_mem h _ _ _ _ _ _).ok e :)

theorem State.syncChecks_mem {s : State} {m : Cells} (h : s.mem = m) (r : SeatRef) (here : Bool) (l : List (Option Word)) :
    EngMem m id (s.syncChecks r here l) := by
  induction l generalizing s with
  | nil => exact h
  | cons a l ih =>
    cases a with
    | none => exact ih h
    | some a =>
      unfold State.syncChecks
      have checked := State.syncCheck_mem h r .copy here a
      split
      · next e => exact checked.error e
      · next e => exact ih (checked.ok e)

theorem State.runChecks_mem {s : State} {m : Cells} (h : s.mem = m) (r : SeatRef) (p : CopyPlan) (l : List (Word × Word)) :
    EngMem m id (s.runChecks r p l) := by
  induction l generalizing s with
  | nil => exact h
  | cons x l ih =>
    unfold State.runChecks
    split
    · exact h
    split
    · next e => exact (State.probeCheck_mem h _ _ _ _ _).error e
    next e =>
    replace h := (State.probeCheck_mem h _ _ _ _ _).ok e
    split
    · next e => exact (State.probeCheck_mem h _ _ _ _ _).error e
    · next e => exact ih ((State.probeCheck_mem h _ _ _ _ _).ok e)

theorem State.readList_mem {s : State} {m : Cells} (h : s.mem = m) (r : SeatRef) (p : CopyPlan) : EngMem m Prod.snd (s.readList r p) := by
  unfold State.readList
  split
  · exact h
  split
  · exact h
  split
  · exact h
  · exact State.loadRows_mem h _ _ _ _ _ _

theorem State.copyStart_mem {s : State} {m : Cells} (h : s.mem = m) (r : SeatRef) (p : CopyPlan) : EngMem m Prod.snd (s.copyStart r p) := by
  unfold State.copyStart
  split
  · exact h
  split
  · exact h
  split
  · next e => exact (State.readList_mem h _ _).error e
  next e =>
  replace h := (State.readList_mem h _ _).ok e
  dsimp only
  split
  · next e => exact (State.runChecks_mem h _ _ _).error e
  next e =>
  replace h := (State.runChecks_mem h _ _ _).ok e
  split
  · next e => exact (State.syncChecks_mem h _ _ _).error e
  · next e => exact ((State.syncChecks_mem h _ _ _).ok e :)

@[simp] theorem State.copyPrefetch_mem (s : State) (r : SeatRef) (va : Word) : (s.copyPrefetch r va).mem = s.mem := by
  unfold State.copyPrefetch
  dsimp only
  (repeat' split) <;> simp

@[simp] theorem State.copyHint_mem (s : State) (r : SeatRef) (h : Option (Fin 8)) (va : Word) (p : Place) :
    (s.copyHint r h va p).mem = s.mem := by
  unfold State.copyHint
  (repeat' split) <;> simp

theorem State.readPiece_mem {s : State} {m : Cells} (h : s.mem = m) (r : SeatRef) (hint : Option (Fin 8)) (a : Word) (n elem : Nat) :
    EngMem m PieceRead.st (s.readPiece r hint a n elem) := by
  unfold State.readPiece
  dsimp only
  have checked := State.engCheck_mem h r .copy a .rd false false
  split
  · next e => exact checked.error e
  next e =>
  have h1 : (_ : State).mem = m := checked.ok e
  split
  · trivial
  · simpa [EngMem] using h1
  · split <;> simpa [EngMem] using h1

@[simp] theorem State.remoteNotice_mem (s : State) (r : SeatRef) (p : CopyPlan) (c : Cmd) : (s.remoteNotice r p c).mem = s.mem := by
  unfold State.remoteNotice
  split <;> rfl

theorem State.copyStop_mem {s : State} {x : EngStop} (h : x.Mem s.mem) (r : SeatRef) (i : Nat) (c : Cmd) :
    (s.copyStop r i c x).mem = s.mem := by
  unfold State.copyStop
  dsimp only
  split
  · exact State.engHold_mem (show EngStop.Mem _ .wait from trivial) _ _ _
  · split
    · rfl
    · have h1 : (_ : State).mem = s.mem := h
      exact (State.engHold_mem (show EngStop.Mem _ (.fault _ _) from State.modSeat_mem _ _ _) _ _ _).trans h1
  · split
    · exact State.engHold_mem (show EngStop.Mem _ (.missing _ _ _) from (State.modSeat_mem _ _ _).trans h) _ _ _
    · exact h

@[simp] theorem State.movePiece_mem (s : State) (r : SeatRef) (i : Nat) (c : Cmd) (p : CopyPlan) : (s.movePiece r i c p).mem = s.mem := by
  unfold State.movePiece
  dsimp only
  split
  · next e =>
    refine State.copyStop_mem ?_ r i c
    split at e
    · exact nomatch e
    · exact (State.readPiece_mem rfl _ _ _ _ _).error e
  next g e =>
  have h : g.st.mem = s.mem := by
    split at e
    · cases e; rfl
    · exact ((State.readPiece_mem rfl _ _ _ _ _).ok e :)
  split
  · next e => exact State.copyStop_mem ((State.engCheck_mem h _ _ _ _ _ _).error e) r i c
  next e =>
  have h1 : (_ : State).mem = s.mem := (State.engCheck_mem h _ _ _ _ _ _).ok e
  split
  · exact State.copyStop_mem (show EngStop.Mem _ (.fault _ _) from h1) r i c
  · split <;> simpa using h1

@[simp] theorem State.pieceHere_mem (s : State) (r : SeatRef) : (s.pieceHere r).mem = s.mem := by
  unfold State.pieceHere
  (repeat' split) <;> simp

@[simp] theorem State.pieceAct_mem (s : State) (core : Fin 904) (seat : Fin 2) : (s.pieceAct core seat).mem = s.mem := by
  unfold State.pieceAct
  dsimp only
  split <;> simp

/-! ## Functions of Machine/Query -/

@[simp] theorem execAfolio_canon (e4m3 : Bool) (hd : Fin 3) (s : State) (h : Memory.wf s.mem = true) : Canon (execAfolio e4m3 hd s) := by
  unfold execAfolio
  simp [h]

@[simp] theorem execAappend_canon (s : State) (h : Memory.wf s.mem = true) : Canon (execAappend s) := by
  unfold execAappend
  simp [h]

@[simp] theorem execAquery_canon (e4m3 : Bool) (hd : Fin 3) (y : Fin 32) (s : State) (h : Memory.wf s.mem = true) :
    Canon (execAquery e4m3 hd y s) := by
  unfold execAquery
  simp [h]

@[simp] theorem execAstat_canon (s : State) (h : Memory.wf s.mem = true) : Canon (execAstat s) := by
  unfold execAstat
  simp [h]

theorem State.folioCheck_mem {s : State} {m : Cells} (h : s.mem = m) (r : SeatRef) (va : Word) (rt : Right) :
    EngMem m Prod.snd (s.folioCheck r va rt) := by
  unfold State.folioCheck
  dsimp only
  have checked := State.engCheck_mem h r .query va rt false (decide (rt ≠ .rd))
  split
  · exact h
  split
  · next e => exact checked.error e
  · next e => split <;> exact (checked.ok e :)

theorem State.windowCheck'_mem {s : State} {m : Cells} (h : s.mem = m) (r : SeatRef) (al : Nat) (a : Word) :
    EngMem m id (s.windowCheck' r al a) := by
  unfold State.windowCheck'
  split
  · exact h
  split
  · exact h
  split
  · next e => exact (State.engCheck_mem h _ _ _ _ _ _).error e
  · next e => exact ((State.engCheck_mem h _ _ _ _ _ _).ok e :)

theorem State.windowChecks_mem {s : State} {m : Cells} (h : s.mem = m) (r : SeatRef) (al : Nat) (l : List Word) :
    EngMem m id (s.windowChecks r al l) := by
  induction l generalizing s with
  | nil => exact h
  | cons a l ih =>
    unfold State.windowChecks
    split
    · next e => exact (State.windowCheck'_mem h _ _ _).error e
    · next e => exact ih ((State.windowCheck'_mem h _ _ _).ok e)

theorem State.queryFolios_mem {s : State} {m : Cells} (h : s.mem = m) (r : SeatRef) (list : Word) (t0 cnt n i : Nat) :
    EngMem m Prod.snd (s.queryFolios r list t0 cnt n i) := by
  induction n generalizing s i with
  | zero => exact h
  | succ n ih =>
    unfold State.queryFolios
    split
    · next e => exact (State.loadRows_mem h _ _ _ _ _ _).error e
    next e =>
    replace h := (State.loadRows_mem h _ _ _ _ _ _).ok e
    split
    · next e => exact (State.folioCheck_mem h _ _ _).error e
    next e =>
    replace h := (State.folioCheck_mem h _ _ _).ok e
    dsimp only
    split
    · next e => exact (ih h _).error e
    · next e => exact ((ih h _).ok e :)

theorem State.startQuery_mem {s : State} {m : Cells} (h : s.mem = m) (r : SeatRef) (hd : Nat) (c : Cmd) :
    EngMem m QStart.st (s.startQuery r hd c) := by
  unfold State.startQuery
  dsimp only
  split
  · exact h
  split
  · exact h
  split
  · next e => exact (State.windowChecks_mem h _ _ _).error e
  next e =>
  have h1 := (State.windowChecks_mem h _ _ _).ok e
  split
  · next e => exact (State.windowChecks_mem h1 _ _ _).error e
  next e =>
  replace h1 := (State.windowChecks_mem h1 _ _ _).ok e
  split
  · exact h
  split
  · exact h1
  split
  · next e => exact (State.loadRows_mem h1 _ _ _ _ _ _).error e
  next e =>
  replace h1 := (State.loadRows_mem h1 _ _ _ _ _ _).ok e
  split
  · next e => exact (State.queryFolios_mem h1 _ _ _ _ _ _).error e
  next e =>
  replace h1 := (State.queryFolios_mem h1 _ _ _ _ _ _).ok e
  split
  · next e => exact (State.windowChecks_mem h1 _ _ _).error e
  next e =>
  replace h1 := (State.windowChecks_mem h1 _ _ _).ok e
  split
  · next e => exact (State.windowChecks_mem h1 _ _ _).error e
  · next e => exact ((State.windowChecks_mem h1 _ _ _).ok e :)

theorem State.queryStart_mem {s : State} {m : Cells} (h : s.mem = m) (r : SeatRef) (i : Instr) (c : Cmd) :
    EngMem m QStart.st (s.queryStart r i c) := by
  unfold State.queryStart
  dsimp only
  split
  · split
    · next e => exact (State.folioCheck_mem h _ _ _).error e
    · next e => exact ((State.folioCheck_mem h _ _ _).ok e :)
  · split
    · exact h
    split
    · next e => exact (State.windowChecks_mem h _ _ _).error e
    next e =>
    have h1 := (State.windowChecks_mem h _ _ _).ok e
    split
    · next e => exact (State.folioCheck_mem h1 _ _ _).error e
    next e =>
    have h2 := (State.folioCheck_mem h1 _ _ _).ok e
    split <;> exact h2
  · split
    · exact h
    split
    · next e => exact (State.windowChecks_mem h _ _ _).error e
    · next e => exact ((State.windowChecks_mem h _ _ _).ok e :)
  · exact State.startQuery_mem h _ _ _
  · exact h

@[simp] theorem State.scanError_mem (s : State) (p : Place) (o : Nat) : (s.scanError p o).mem = s.mem := by
  unfold State.scanError
  split <;> simp

@[simp] theorem State.setOut_mem (s : State) (i : Nat) (o : JobOut) : (s.setOut i o).mem = s.mem := rfl
@[simp] theorem State.leave_mem (s : State) (i : Nat) (j : CtlJob) (x : Nat) : (s.leave i j x).mem = s.mem := rfl

@[simp] theorem State.queryWrite_wf (s : State) (j : CtlJob) (p : Place) (n data : Nat) (sync : Option Nat) (h : Memory.wf s.mem = true) :
    Memory.wf (s.queryWrite j p n data sync).mem = true := by
  have written : ∀ src, Memory.wf (s.performWrite src .store p n data false false).mem = true :=
    fun src => State.performWrite_wf _ _ _ _ _ _ _ _ h
  unfold State.queryWrite
  dsimp only
  split
  · split <;> exact written _
  · exact written _

@[simp] theorem State.endScan_mem (s : State) (i : Nat) (j : CtlJob) (since : Nat) (d : Nat) (rec' : Nat) :
    (s.endScan i j since d rec').mem = s.mem := rfl

@[simp] theorem State.headAcquire_mem (s : State) (j : CtlJob) : (s.headAcquire j).mem = s.mem := by
  unfold State.headAcquire
  dsimp only
  split <;> simp

@[simp] theorem State.beginSlice_mem (s : State) (i : Nat) (j : CtlJob) (e4m3 : Bool) (hd : Nat) :
    (s.beginSlice i j e4m3 hd).mem = s.mem := by
  unfold State.beginSlice
  dsimp only
  (repeat' split) <;> simp

@[simp] theorem State.scanRow_mem (s : State) (i : Nat) (j : CtlJob) (c : Cmd) (e4m3 : Bool) (hd : Nat) (since : Nat) (next : Nat)
    (stop : Nat) (units : List (Nat ⊕ Nat)) (x : SliceScan) :
    (s.scanRow i j c e4m3 hd since next stop units x).mem = s.mem := by
  unfold State.scanRow
  dsimp only
  (repeat' split) <;> simp

@[simp] theorem execAttentionSlice_canon (i : Nat) (s : State) (h : Memory.wf s.mem = true) : Canon (execAttentionSlice i s) := by
  unfold execAttentionSlice
  (repeat' split) <;> simp [h]

@[simp] theorem State.beginAppend_mem (s : State) (i : Nat) (j : CtlJob) : (s.beginAppend i j).mem = s.mem := by
  unfold State.beginAppend
  dsimp only
  (repeat' split) <;> simp

@[simp] theorem State.appendRow_wf (s : State) (i : Nat) (j : CtlJob) (k : Word) (v : Word) (u : Nat) (h : Nat) (read : List Nat)
    (written : Nat) (wf : Memory.wf s.mem = true) :
    Memory.wf (s.appendRow i j k v u h read written).mem = true := by
  unfold State.appendRow
  dsimp only
  (repeat' split) <;> simp [wf, State.performWrite_wf]

@[simp] theorem State.fillAdvance_wf (s : State) (j : CtlJob) (c : Cmd) (t : Nat) (h : Memory.wf s.mem = true) :
    Memory.wf (s.fillAdvance j c t).mem = true := by
  unfold State.fillAdvance
  dsimp only
  split <;> simp [h, State.performWrite_wf]

@[simp] theorem execAppendAtController_canon (i : Nat) (s : State) (h : Memory.wf s.mem = true) : Canon (execAppendAtController i s) := by
  unfold execAppendAtController
  (repeat' split) <;> simp [h]

@[simp] theorem State.folioJob_wf (s : State) (i : Nat) (j : CtlJob) (h : Nat) (wf : Memory.wf s.mem = true) :
    Memory.wf (s.folioJob i j h).mem = true := by
  unfold State.folioJob
  (repeat' split) <;> simp [wf, State.performWrite_wf]

@[simp] theorem State.jobRowAct_wf (s : State) (i : Nat) (h : Memory.wf s.mem = true) : Memory.wf (s.jobRowAct i).mem = true := by
  unfold State.jobRowAct
  (repeat' split) <;> simp [h]

@[simp] theorem State.querySample_mem (s : State) (r : SeatRef) (y : Fin 32) (c : Cmd) : (s.querySample r y c).mem = s.mem := rfl

@[simp] theorem State.queryDo_wf (s : State) (r : SeatRef) (i : Instr) (c : Cmd) (h : Memory.wf s.mem = true) :
    Memory.wf (s.queryDo r i c).mem = true := by
  unfold State.queryDo
  split <;> simp [h, State.performWrite_wf]

/-! ## Functions of Machine/Engines -/

@[simp] theorem State.startCmd_mem (s : State) (r : SeatRef) (e : EngineId) (i : Nat) (f : Cmd → Cmd) :
    (s.startCmd r e i f).mem = s.mem := rfl

@[simp] theorem State.beginMatrix_mem (s : State) (r : SeatRef) (i : Nat) (x : Cmd) (j : Instr) : (s.beginMatrix r i x j).mem = s.mem := by
  unfold State.beginMatrix
  have start := State.matrixStart_mem (m := s.mem) rfl r j x.args
  split
  · next e => exact State.engHold_mem (start.error e) _ _ _
  · next e => simpa using start.ok e

@[simp] theorem State.rowAct_mem (s : State) (core : Fin 904) (seat : Fin 2) (i : Nat) : (s.rowAct core seat i).mem = s.mem := by
  unfold State.rowAct
  dsimp only
  split
  · rfl
  split
  · rfl
  split
  · next b _ _ =>
    have read := State.readSpan_mem (m := s.mem) rfl ⟨core, seat⟩ .matrix i b
    split
    · next e => exact State.engHold_mem (read.error e) _ _ _
    · next e => simpa using read.ok e
  · rfl

@[simp] theorem State.beginCopy_mem (s : State) (r : SeatRef) (i : Nat) (x : Cmd) (j : Instr) : (s.beginCopy r i x j).mem = s.mem := by
  unfold State.beginCopy
  split
  · rfl
  next k g _ =>
  have start := State.copyStart_mem (m := s.mem) rfl r (copyPlan k g x.args)
  dsimp only
  split
  · next e => exact State.engHold_mem (start.error e) _ _ _
  · next e => split <;> simpa using start.ok e

@[simp] theorem State.beginQuery_mem (s : State) (r : SeatRef) (i : Nat) (x : Cmd) (j : Instr) : (s.beginQuery r i x j).mem = s.mem := by
  unfold State.beginQuery
  have start := State.queryStart_mem (m := s.mem) rfl r j x
  split
  · rfl
  split
  · next e => exact State.engHold_mem (start.error e) _ _ _
  · next e => simpa using start.ok e

@[simp] theorem State.beginCmd_mem (s : State) (r : SeatRef) (e : EngineId) (i : Nat) (x : Cmd) : (s.beginCmd r e i x).mem = s.mem := by
  unfold State.beginCmd
  (repeat' split) <;> simp

@[simp] theorem execEngineCommandStart_canon (core : Fin 904) (e : EngineId) (seat : Fin 2) (s : State) (h : Memory.wf s.mem = true) :
    Canon (execEngineCommandStart core e seat s) := by
  unfold execEngineCommandStart
  dsimp only
  (repeat' split) <;> simp [h]

@[simp] theorem State.finishCmd_mem (s : State) (r : SeatRef) (e : EngineId) (i : Nat) (x : Cmd) : (s.finishCmd r e i x).mem = s.mem := by
  unfold State.finishCmd
  dsimp only
  split <;> simp

@[simp] theorem State.workCmd_wf (s : State) (r : SeatRef) (e : EngineId) (i : Nat) (x : Cmd) (h : Memory.wf s.mem = true) :
    Memory.wf (s.workCmd r e i x).mem = true := by
  unfold State.workCmd
  split <;> simp [h]

@[simp] theorem execEngineCommandComplete_canon (core : Fin 904) (e : EngineId) (seat : Fin 2) (i : Nat) (s : State)
    (h : Memory.wf s.mem = true) :
    Canon (execEngineCommandComplete core e seat i s) := by
  unfold execEngineCommandComplete
  dsimp only
  (repeat' split) <;> simp [h]

/-! ## Functions of Machine/Sync -/

@[simp] theorem State.endSwait_wf (s : State) (w : Who) (d : SSpec) (srcs : List SSpec) (since : Nat) (gen : Nat)
    (h : Memory.wf s.mem = true) :
    Memory.wf (s.endSwait w d srcs since gen).mem = true := by
  unfold State.endSwait
  split <;> simp [h]

@[simp] theorem State.setSync_wf (s : State) (p : Place) (w adv : Nat) (h : Memory.wf s.mem = true) :
    Memory.wf (s.setSync p w adv).mem = true := by
  have written : Memory.wf ((s.writePlace p 16 w).afterWrite p 16 true false).mem = true := by simpa using State.writePlace_wf s p 16 w h
  unfold State.setSync
  dsimp only
  split
  · split
    · split
      · simpa using written
      · exact written
    · exact written
  · exact written

@[simp] theorem State.applyArrival_wf (s : State) (a : Arrival) (h : Memory.wf s.mem = true) : Memory.wf (s.applyArrival a).mem = true := by
  unfold State.applyArrival
  dsimp only
  split <;> simp [h]

@[simp] theorem execSyncArrival_canon (i : Nat) (s : State) (h : Memory.wf s.mem = true) : Canon (execSyncArrival i s) := by
  unfold execSyncArrival
  split
  · simp [h]
  dsimp only
  split
  · simp [h]
  split
  · simp [h]
  split
  · next e => simp [State.toPort_mem e, h]
  · simp [h]

@[simp] theorem State.sarm_canon (s : State) (d : SSpec) (a : SSpec) (b : SSpec) (flag : Option (Fin 64)) (h : Memory.wf s.mem = true) :
    Canon (s.sarm d a b flag) := by
  unfold State.sarm
  dsimp only
  (repeat' split) <;> simp [h]

@[simp] theorem execSarm_canon (a : SSpec) (b : SSpec) (s : State) (h : Memory.wf s.mem = true) : Canon (execSarm a b s) := by
  unfold execSarm
  simp [h]

@[simp] theorem execSarmFlag_canon (d : SSpec) (a : SSpec) (b : SSpec) (f : Fin 64) (s : State) (h : Memory.wf s.mem = true) :
    Canon (execSarmFlag d a b f s) := by
  unfold execSarmFlag
  simp [h]

@[simp] theorem execSwait_canon (d : SSpec) (a : SSpec) (b : SSpec) (s : State) (h : Memory.wf s.mem = true) :
    Canon (execSwait d a b s) := by
  unfold execSwait
  dsimp only
  (repeat' split) <;> simp [h]

/-! ## Functions of Machine/Hub -/

@[simp] theorem State.hubWalk_mem (s : State) (d : Fin 8) (va : Nat) : (s.hubWalk d va).mem = s.mem := by
  unfold State.hubWalk
  split <;> simp

@[simp] theorem State.hubNote_mem (s : State) (d : Fin 8) (va n : Nat) : (s.hubNote d va n).mem = s.mem := (onlyNotes_hubNote s d va n).mem

@[simp] theorem State.hubWrite_wf (s : State) (d : Fin 8) (va : Nat) (n : Nat) (v : Nat) (h : Memory.wf s.mem = true) :
    Memory.wf (s.hubWrite d va n v).mem = true := by
  unfold State.hubWrite
  dsimp only
  split <;> simp [h, State.performWrite_wf]

@[simp] theorem State.hubWriteWords_wf (s : State) (d : Fin 8) (va : Nat) (l : List Word) (h : Memory.wf s.mem = true) :
    Memory.wf (s.hubWriteWords d va l).mem = true := by
  induction l generalizing s va with
  | nil => exact h
  | cons w l ih => exact ih _ _ (State.hubWrite_wf _ _ _ _ _ h)

/-! ## Functions of Machine/Lanes -/

@[simp] theorem State.freezeOn_canon (s : State) (l : List (Fin 64)) (h : Memory.wf s.mem = true) : Canon (s.freezeOn l) := by
  unfold State.freezeOn
  split <;> simp [h]

/-- What reading landing slots leaves of memory. -/
theorem State.readSlots_mem (s : State) (l : List (Fin 64)) :
    (∀ t, s.readSlots l = .ok t → t.mem = s.mem) ∧ ∀ d t, s.readSlots l = .poison d t → t.mem = s.mem := by
  unfold State.readSlots
  dsimp only
  split
  · exact ⟨fun _ e => (nomatch e), fun _ _ e => (nomatch e)⟩
  split
  · exact ⟨fun _ e => (nomatch e), fun _ _ e => by cases e; simp⟩
  · exact ⟨fun _ e => by cases e; simp, fun _ _ e => (nomatch e)⟩

@[simp] theorem State.vectorOp_canon (s : State) (tags : Bool) (srcs : List VSrc) (lat : Nat) (ws : List CWrite)
    (h : Memory.wf s.mem = true) : Canon (s.vectorOp tags srcs lat ws) := by
  unfold State.vectorOp
  split
  · simp [h]
  split
  · simp [h]
  · next e => simp [(s.readSlots_mem _).2 _ _ e, h]
  · next s1 e =>
    have piped : (ws.foldl (fun t w => t.pipe lat w) s1).mem = s1.mem := foldl_keeps_mem _ _ _ fun _ _ => State.pipe_mem _ _ _
    simp [piped, (s.readSlots_mem _).1 _ e, h]

/-! ## Functions of Machine/Save -/

@[simp] theorem State.mapNote_mem (s : State) (r : SeatRef) (m : Nat) : (s.mapNote r m).mem = s.mem := by
  unfold State.mapNote
  (repeat' split) <;> simp

@[simp] theorem State.saveContext_wf (s : State) (r : SeatRef) (h : Memory.wf s.mem = true) : Memory.wf (s.saveContext r).mem = true :=
  foldl_wf _ _ _ (by rw [(onlyNotes_mapNote s r _).mem]; exact h) fun _ _ h => State.hubWrite_wf _ _ _ _ _ h

@[simp] theorem State.restoreContext_mem (s : State) (r : SeatRef) : (s.restoreContext r).mem = s.mem := by
  unfold State.restoreContext
  simp

/-! ## Functions of Machine/Cut -/

@[simp] theorem State.lifeCut_mem (s : State) (d : Fin 8) (rebound : Nat) (bound : Nat) : (s.lifeCut d rebound bound).mem = s.mem := rfl

@[simp] theorem State.applyCut_mem (s : State) (r : SeatRef) (n : BitVec 32) (index : BitVec 10) (map : BitVec 6) (atRetire : Bool) :
    (s.applyCut r n index map atRetire).1.mem = s.mem := rfl

@[simp] theorem State.deliverPreempt_wf (s : State) (r : SeatRef) (mark : Bool) (h : Memory.wf s.mem = true) :
    Memory.wf (s.deliverPreempt r mark).mem = true := by
  unfold State.deliverPreempt
  simp [h]

@[simp] theorem State.deliverBookmark_mem (s : State) (r : SeatRef) : (s.deliverBookmark r).mem = s.mem := rfl
@[simp] theorem State.deliverBound_mem (s : State) (r : SeatRef) (y : Fin 32) : (s.deliverBound r y).mem = s.mem := rfl

@[simp] theorem State.performCut_wf (s : State) (r : SeatRef) (n : BitVec 32) (h : Memory.wf s.mem = true) :
    Memory.wf (s.performCut r n).mem = true := by
  unfold State.performCut
  dsimp only
  (repeat' split) <;> simp [h]

@[simp] theorem State.commaTimeout_mem (s : State) (r : SeatRef) (detail : Nat) : (s.commaTimeout r detail).mem = s.mem := rfl

@[simp] theorem execCut_canon (r : SeatRef) (s : State) (h : Memory.wf s.mem = true) : Canon (execCut r s) := by
  unfold execCut
  dsimp only
  (repeat' split) <;> simp [h]

@[simp] theorem State.limits_mem (s : State) (r : SeatRef) : (s.limits r).mem = s.mem := by
  unfold State.limits
  dsimp only
  (repeat' split) <;> simp

@[simp] theorem execCommaTimeout_canon (r : SeatRef) (s : State) (h : Memory.wf s.mem = true) : Canon (execCommaTimeout r s) := by
  unfold execCommaTimeout
  simp [h]

end Sys2Proof.Machine
end

section
/-!
SUPPORT. Memory in canonical form, for obligation O58: system functions, boards, launches, cuts, the fabric and the host.
-/
namespace Sys2Proof.Machine

/-! ## Functions of Machine/Cut -/

@[simp] theorem execPreemptRequest_canon (r : SeatRef) (s : State) (h : Memory.wf s.mem = true) : Canon (execPreemptRequest r s) := by
  unfold execPreemptRequest
  split <;> simp [h]

@[simp] theorem execBmarkArm_canon (r : SeatRef) (pass : BitVec 32) (s : State) (h : Memory.wf s.mem = true) :
    Canon (execBmarkArm r pass s) := by
  unfold execBmarkArm
  simp [h]

@[simp] theorem execFaultServiceResume_canon (r : SeatRef) (s : State) (h : Memory.wf s.mem = true) :
    Canon (execFaultServiceResume r s) := by
  unfold execFaultServiceResume
  split <;> simp [h]

/-! ## Functions of Machine/Launch -/

@[simp] theorem State.modDie_mem (s : State) (d : Fin 8) (f : Die → Die) : (s.modDie d f).mem = s.mem := rfl
@[simp] theorem State.modLq_mem (s : State) (q : Fin 512) (f : LaunchQ → LaunchQ) : (s.modLq q f).mem = s.mem := rfl
@[simp] theorem State.stopQueue_mem (s : State) (q : Fin 512) (err : Nat) : (s.stopQueue q err).mem = s.mem := rfl

@[simp] theorem State.enqueue_wf (s : State) (q : Fin 512) (dw : List Word) (h : Memory.wf s.mem = true) :
    Memory.wf (s.enqueue q dw).mem = true := by
  unfold State.enqueue
  split <;> simp [h]

@[simp] theorem State.descNote_mem (s : State) (q : Fin 512) (desc : Nat) : (s.descNote q desc).mem = s.mem := by
  unfold State.descNote
  simp

@[simp] theorem State.clearEntry_wf (s : State) (d : Fin 8) (tcat : Nat) (h : Memory.wf s.mem = true) :
    Memory.wf (s.clearEntry d tcat).mem = true := by
  unfold State.clearEntry
  (repeat' split) <;> simp [h]

@[simp] theorem State.launchWith_canon (s : State) (d : SSpec) (srcs : List SSpec) (q : Fin 512) (dw : List Word)
    (h : Memory.wf s.mem = true) :
    Canon (s.launchWith d srcs q dw) := by
  unfold State.launchWith
  dsimp only
  (repeat' split) <;> simp [h]

/-- The state that reading a launch packet leaves holds the same bytes. -/
theorem State.readSlot_mem (s : State) (va : Word) :
    (∀ f t, s.readSlot va = .fault f t → t.mem = s.mem) ∧ ∀ v t, s.readSlot va = .ok v t → t.mem = s.mem := by
  unfold State.readSlot
  split
  · next c => exact ⟨fun _ _ e => by cases e; exact State.mem_of_check c, fun _ _ e => (nomatch e)⟩
  · exact ⟨fun _ _ e => (nomatch e), fun _ _ e => (nomatch e)⟩
  · next c =>
    split
    · exact ⟨fun _ _ e => (nomatch e), fun _ _ e => (nomatch e)⟩
    split
    · exact ⟨fun _ _ e => (nomatch e), fun _ _ e => by cases e; simp [State.mem_of_check c]⟩
    · exact ⟨fun _ _ e => by cases e; simp [State.mem_of_check c], fun _ _ e => (nomatch e)⟩
    · exact ⟨fun _ _ e => by cases e; exact State.mem_of_check c, fun _ _ e => (nomatch e)⟩

@[simp] theorem execLaunch_canon (d a b : SSpec) (s : State) (h : Memory.wf s.mem = true) : Canon (execLaunch d a b s) := by
  unfold execLaunch
  split
  · simp [h]
  split
  · simp [h]
  dsimp only
  split
  · simp [h]
  · simp [h]
  · next e => simp [(s.readSlot_mem _).1 _ _ e, h]
  next lo s1 e =>
  have h1 : Memory.wf s1.mem = true := by rw [(s.readSlot_mem _).2 _ _ e]; exact h
  split
  · simp [h1]
  split
  · simp [h]
  · simp [h]
  · next e => simp [(s1.readSlot_mem _).1 _ _ e, h1]
  · next e => simp [(s1.readSlot_mem _).2 _ _ e, h1]

@[simp] theorem execPacketAtHead_canon (q : Fin 512) (s0 : State) (h : Memory.wf s0.mem = true) : Canon (execPacketAtHead q s0) := by
  unfold execPacketAtHead
  dsimp only
  (repeat' split) <;> simp [h]

@[simp] theorem State.syncNote_mem (s : State) (q : Fin 512) (dw : List Word) : (s.syncNote q dw).mem = s.mem := by
  unfold State.syncNote
  dsimp only
  (repeat' split) <;> simp

@[simp] theorem State.recordWait_wf (s : State) (w : Word) (since : Nat) (h : Memory.wf s.mem = true) :
    Memory.wf (s.recordWait w since).mem = true := by
  unfold State.recordWait
  split <;> simp [h]

@[simp] theorem State.stepWait_wf (s : State) (w : Word) (since : Nat) (met : Bool) (h : Memory.wf s.mem = true) :
    Memory.wf (s.stepWait w since met).1.mem = true := by
  unfold State.stepWait
  (repeat' split) <;> simp [h]

@[simp] theorem State.completeLaunch_mem (s : State) (l : Launch) : (s.completeLaunch l).mem = s.mem := rfl

@[simp] theorem State.activate_mem (s : State) (q : Fin 512) (dw : List Word) (desc : List Word) : (s.activate q dw desc).mem = s.mem := by
  unfold State.activate
  split <;> simp

@[simp] theorem execLaunchActivation_canon (q : Fin 512) (s : State) (h : Memory.wf s.mem = true) : Canon (execLaunchActivation q s) := by
  unfold execLaunchActivation
  dsimp only
  (repeat' split) <;> simp [h]

@[simp] theorem execLqRestart_canon (q : Fin 512) (s : State) (h : Memory.wf s.mem = true) : Canon (execLqRestart q s) := by
  unfold execLqRestart
  simp [h]

@[simp] theorem execAbortedClear_canon (q : Fin 512) (s : State) (h : Memory.wf s.mem = true) : Canon (execAbortedClear q s) := by
  unfold execAbortedClear
  simp [h]

@[simp] theorem State.grantNote_mem (s : State) (d : Fin 8) (lexd : Nat) (wins : Nat) : (s.grantNote d lexd wins).mem = s.mem := by
  unfold State.grantNote
  (repeat' split) <;> simp

@[simp] theorem execSeatGrant_canon (die : Fin 8) (s : State) (h : Memory.wf s.mem = true) : Canon (execSeatGrant die s) := by
  unfold execSeatGrant
  (repeat' split) <;> simp [h]

@[simp] theorem execInstanceStart_canon (r : SeatRef) (s : State) (h : Memory.wf s.mem = true) : Canon (execInstanceStart r s) := by
  unfold execInstanceStart
  dsimp only
  (repeat' split) <;> simp [h]

@[simp] theorem State.retireInst_mem (s : State) (r : SeatRef) (l : Launch) : (s.retireInst r l).mem = s.mem := by
  unfold State.retireInst
  dsimp only
  split <;> simp

@[simp] theorem execRetirement_canon (r : SeatRef) (s : State) (h : Memory.wf s.mem = true) : Canon (execRetirement r s) := by
  unfold execRetirement
  dsimp only
  (repeat' split) <;> simp [h]

@[simp] theorem State.abortSeats_mem (s : State) (q : Fin 512) : (s.abortSeats q).mem = s.mem := rfl
@[simp] theorem State.abortLaunch_mem (s : State) (l : Launch) : (s.abortLaunch l).mem = s.mem := rfl

@[simp] theorem execLaunchAbort_canon (q : Fin 512) (s : State) (h : Memory.wf s.mem = true) : Canon (execLaunchAbort q s) := by
  unfold execLaunchAbort
  (repeat' split) <;> simp [h]

@[simp] theorem State.arrive_mem (s : State) (q : Fin 512) (j : Nat) (key : Nat) (wid : Word) (ids : List Nat) :
    (s.arrive q j key wid ids).mem = s.mem := by
  unfold State.arrive
  split <;> simp

@[simp] theorem State.barAcquire_mem (s : State) (j : Nat) (key : Nat) : (s.barAcquire j key).mem = s.mem := by
  unfold State.barAcquire
  split <;> simp

@[simp] theorem State.barWait_canon (s : State) (d : SSpec) (j : Nat) (key : Nat) (g : BitVec 32) (h : Memory.wf s.mem = true) :
    Canon (s.barWait d j key g) := by
  unfold State.barWait
  dsimp only
  (repeat' split) <;> simp [h]

@[simp] theorem execBar_canon (d : SSpec) (j : Fin 7) (s : State) (h : Memory.wf s.mem = true) : Canon (execBar d j s) := by
  unfold execBar
  dsimp only
  (repeat' split) <;> simp [h]

@[simp] theorem execBarrierOpen_canon (i : Nat) (s : State) (h : Memory.wf s.mem = true) : Canon (execBarrierOpen i s) := by
  unfold execBarrierOpen
  dsimp only
  (repeat' split) <;> simp [h]

/-! ## Functions of Machine/Boards -/

@[simp] theorem State.boardWrite_wf (s : State) (a : Nat) (v : Nat) (h : Memory.wf s.mem = true) :
    Memory.wf (s.boardWrite a v).mem = true := by
  unfold State.boardWrite
  simp [h, State.performWrite_wf]

theorem State.mem_of_boardCheck {s t : State} {va : Word} {rt : Right} {a : Acc} (h : s.boardCheck va rt = (a, t)) : t.mem = s.mem := by
  unfold State.boardCheck at h
  split at h
  · next e => split at h <;> (cases h; exact State.mem_of_check e)
  · exact State.mem_of_check h

@[simp] theorem State.setBstatus_mem (s : State) (code : Nat) : (s.setBstatus code).mem = s.mem := rfl

@[simp] theorem State.acquireView_mem (s : State) (w : Who) (h : BoardHdr) (v : BitVec 1024) : (s.acquireView w h v).mem = s.mem := by
  unfold State.acquireView
  simp

@[simp] theorem State.endPview_mem (s : State) (w : Who) (d : SSpec) (vm : Fin 4) (srcs : List SSpec) (va : Word) (x : BoardAns)
    (full : Bool) :
    (s.endPview w d vm srcs va x full).mem = s.mem := by
  unfold State.endPview
  split <;> simp

@[simp] theorem State.heardPview_mem (s : State) (w : Who) (d : SSpec) (vm : Fin 4) (srcs : List SSpec) (va : Word) (x : BoardAns)
    (full : Bool) :
    (s.heardPview w d vm srcs va x full).mem = s.mem := by
  unfold State.heardPview
  split <;> simp

@[simp] theorem execPview_canon (g : PviewArgs) (s : State) (h : Memory.wf s.mem = true) : Canon (execPview g s) := by
  unfold execPview
  split
  · simp [h]
  split
  · simp [h]
  · simp [h]
  split
  · simp [h]
  dsimp only
  split
  · next e => simp [State.mem_of_boardCheck e, h]
  · next e => simp [State.mem_of_boardCheck e, h]
  next e =>
  split
  · simp [h]
  split
  · simp [State.mem_of_boardCheck e, h]
  split
  · simp [State.mem_of_boardCheck e, h]
  split
  · simp [h]
  split
  · simp [State.mem_of_boardCheck e, h]
  split
  · next e' => simp [State.toPort_mem e', State.mem_of_boardCheck e, h]
  · simp [h]

@[simp] theorem State.writeSlot_wf (s : State) (h : BoardHdr) (lvl : Nat) (p : Post) (wf : Memory.wf s.mem = true) :
    Memory.wf (s.writeSlot h lvl p).mem = true := by
  unfold State.writeSlot
  split <;> simp [wf]

@[simp] theorem State.answerPost_mem (s : State) (x : Post × BoardAns) : (s.answerPost x).mem = s.mem := by
  unfold State.answerPost
  split
  · simp
  split
  · split
    · dsimp only
      split <;> simp
    · rfl
  · rfl

@[simp] theorem State.remoteBoard_mem (s : State) (w : Who) : (s.remoteBoard w).mem = s.mem := by
  unfold State.remoteBoard
  (repeat' split) <;> simp

@[simp] theorem execBoardRound_canon (a : Nat) (late : List Nat) (s : State) (h : Memory.wf s.mem = true) :
    Canon (execBoardRound a late s) := by
  have answered (l : List (Post × BoardAns)) (t : State) : (l.foldl State.answerPost t).mem = t.mem :=
    foldl_keeps_mem _ _ _ State.answerPost_mem
  unfold execBoardRound
  dsimp only
  split
  · simp [h]
  split
  · rw [canon_next, foldl_keeps_mem _ _ _ fun t p => State.answerPost_mem t _]
    exact h
  rw [canon_next, answered]
  split
  · exact h
  · exact State.boardWrite_wf _ _ _ (State.boardWrite_wf _ _ _ (foldl_wf _ _ _ h fun _ _ h => State.writeSlot_wf _ _ _ _ h))

@[simp] theorem State.boardAt_canon (s : State) (d : SSpec) (srcs : List SSpec) (rt : Right) (f : State → BoardHdr → Word → State × BoardAns)
    (g : Word → Nat → BoardAns) (h : Memory.wf s.mem = true)
    (keeps : ∀ t b v, Memory.wf t.mem = true → Memory.wf (f t b v).1.mem = true) : Canon (s.boardAt d srcs rt f g) := by
  unfold State.boardAt
  split
  · simp [h]
  split
  · simp [h]
  dsimp only
  split
  · next e => simp [State.mem_of_boardCheck e, h]
  · next e => simp [State.mem_of_boardCheck e, h]
  next p s1 e =>
  have h1 : Memory.wf s1.mem = true := by rw [State.mem_of_boardCheck e]; exact h
  split
  · simp [h]
  split
  · simp [h1]
  cases home : p.isLocal with
  | false => simp only [Bool.not_false, if_true]; split <;> simp [h1, h]
  | true =>
    cases (s.boardHdr (s.peek (srcs.headD (.x 0))).toNat).refuses (some (callerDie s.turn)) with
    | some k => simp [h1]
    | none => simp only [Bool.not_true, Bool.false_eq_true, if_false]; split <;> simp [keeps, h1, h]

@[simp] theorem State.breadAt_mem (lvl : Bool) (s : State) (h : BoardHdr) (v : Word) : (State.breadAt lvl s h v).1.mem = s.mem := by
  unfold State.breadAt
  dsimp only
  (repeat' split) <;> simp

@[simp] theorem execBread_canon (d : SSpec) (a : SSpec) (b : SSpec) (s : State) (h : Memory.wf s.mem = true) :
    Canon (execBread d a b s) := by
  unfold execBread
  simp [h]

@[simp] theorem execBreadLvl_canon (d : SSpec) (a : SSpec) (b : SSpec) (s : State) (h : Memory.wf s.mem = true) :
    Canon (execBreadLvl d a b s) := by
  unfold execBreadLvl
  simp [h]

@[simp] theorem State.clearSlots_wf (s : State) (a n t : Nat) (h : Memory.wf s.mem = true) : Memory.wf (s.clearSlots a n t).mem = true := by
  induction n generalizing s t with
  | zero => exact h
  | succ n ih => exact ih _ _ (State.boardWrite_wf _ _ _ (State.boardWrite_wf _ _ _ h))

@[simp] theorem State.endEdition_wf (s : State) (b : BoardHdr) (h : Memory.wf s.mem = true) : Memory.wf (s.endEdition b).mem = true :=
  State.boardWrite_wf _ _ _ (State.boardWrite_wf _ _ _ (State.clearSlots_wf _ _ _ _ h))

@[simp] theorem State.bresetAt_wf (force : Bool) (s : State) (h : BoardHdr) (v : Word) (wf : Memory.wf s.mem = true) :
    Memory.wf (State.bresetAt force s h v).1.mem = true := by
  unfold State.bresetAt
  dsimp only
  split <;> simp [wf]

@[simp] theorem State.boardServe_wf (s : State) (pkg : Nat) (a : Nat) (l : FlitLoad) (h : Memory.wf s.mem = true) :
    Memory.wf (s.boardServe pkg a l).1.mem = true := by
  unfold State.boardServe
  dsimp only
  (repeat' split) <;> simp [h]

@[simp] theorem execBreset_canon (d a b : SSpec) (s : State) (h : Memory.wf s.mem = true) : Canon (execBreset d a b s) :=
  State.boardAt_canon _ _ _ _ _ _ h fun _ _ _ h => State.bresetAt_wf _ _ _ _ h

@[simp] theorem execBresetForce_canon (d a b : SSpec) (s : State) (h : Memory.wf s.mem = true) : Canon (execBresetForce d a b s) :=
  State.boardAt_canon _ _ _ _ _ _ h fun _ _ _ h => State.bresetAt_wf _ _ _ _ h

@[simp] theorem execBinfo_canon (d : SSpec) (a : SSpec) (s : State) (h : Memory.wf s.mem = true) : Canon (execBinfo d a s) := by
  unfold execBinfo
  simp [h]

@[simp] theorem execBinfoVm_canon (d : SSpec) (n : Fin 4) (w : Fin 16) (s : State) (h : Memory.wf s.mem = true) :
    Canon (execBinfoVm d n w s) := by
  unfold execBinfoVm
  simp [h]

/-! ## Functions of Machine/Reset -/

@[simp] theorem State.startY_mem (s : State) (d : Fin 8) : (s.startY d).mem = s.mem := rfl

@[simp] theorem State.zeroDie_wf (s : State) (d : Fin 8) (h : Memory.wf s.mem = true) : Memory.wf (s.zeroDie d).mem = true :=
  Cells.filter_wf _ _ h

@[simp] theorem State.startDieReset_wf (s : State) (d : Fin 8) (h : Memory.wf s.mem = true) : Memory.wf (s.startDieReset d).mem = true := by
  unfold State.startDieReset
  split
  · exact h
  · refine State.zeroDie_wf _ _ ?_
    rw [foldl_keeps_mem _ _ _ fun t i => State.stopQueue_mem _ _ _, foldl_keeps_mem _ _ _ State.abortLaunch_mem]
    exact h

@[simp] theorem execDieResetStart_canon (die : Fin 8) (s : State) (h : Memory.wf s.mem = true) : Canon (execDieResetStart die s) := by
  simp [execDieResetStart, h]

@[simp] theorem execDieResetDone_canon (die : Fin 8) (s : State) (h : Memory.wf s.mem = true) : Canon (execDieResetDone die s) := by
  unfold execDieResetDone
  dsimp only
  (repeat' split) <;> simp [h]

/-! ## Functions of Machine/System -/

@[simp] theorem State.recordSteps_mem (s : State) : (s.recordSteps).mem = s.mem := rfl

@[simp] theorem State.requestChange_mem (s : State) (d : Fin 8) (f : Die → Die) : (s.requestChange d f).mem = s.mem := by
  unfold State.requestChange
  dsimp only
  split
  · simp
  · rw [foldl_keeps_mem _ _ _ fun t k => State.toPort_getD_mem _ _ _]
    simp

@[simp] theorem State.writeDieReg_wf (s : State) (d : Fin 8) (n : Nat) (v : Word) (h : Memory.wf s.mem = true) :
    Memory.wf (s.writeDieReg d n v).mem = true := by
  have change (f : Die → Die) : Memory.wf (s.requestChange d f).mem = true := by rw [State.requestChange_mem]; exact h
  unfold State.writeDieReg
  split
  · exact h
  split
  · exact h
  split
  · exact h
  split
  case h_7 => exact change _
  case h_8 => exact change _
  case h_9 => exact foldl_wf _ _ _ h fun t e h => by split <;> simp [h]
  all_goals exact h

@[simp] theorem State.sysWrite_wf (s : State) (w : Who) (n : Nat) (v : Word) (h : Memory.wf s.mem = true) :
    Memory.wf (s.sysWrite w n v).mem = true := by
  unfold State.sysWrite
  (repeat' split) <;> simp [h]

theorem State.hubDataWrite_wf {s t : State} {d : Fin 8} {v : Word} (h : Memory.wf s.mem = true) (e : s.hubDataWrite d v = some t) :
    Memory.wf t.mem = true := by
  unfold State.hubDataWrite at e
  split at e
  · split at e <;> cases e
    exact State.sysWrite_wf _ _ _ _ h
  · cases e

@[simp] theorem execHubDataAccess_canon (die : Fin 8) (write : Option Word) (s : State) (h : Memory.wf s.mem = true) :
    Canon (execHubDataAccess die write s) := by
  unfold execHubDataAccess
  split
  · split <;> simp [h]
  · split
    · next e => simp [State.hubDataWrite_wf h e]
    · simp [h]

@[simp] theorem execSrr_canon (d : SSpec) (i : BitVec 16) (s : State) (h : Memory.wf s.mem = true) : Canon (execSrr d i s) := by
  unfold execSrr
  dsimp only
  (repeat' split) <;> simp [h]

@[simp] theorem State.srwEffect_wf (s : State) (i : BitVec 16) (v : Word) (h : Memory.wf s.mem = true) :
    Memory.wf (s.srwEffect i v).mem = true := by
  unfold State.srwEffect
  split <;> simp [h]

@[simp] theorem execSrw_canon (sv : SSpec) (i : BitVec 16) (s : State) (h : Memory.wf s.mem = true) : Canon (execSrw sv i s) := by
  unfold execSrw
  dsimp only
  split
  · simp [h]
  split
  · simp [h]
  split
  · simp [h]
  split
  · simp [h]
  split
  · split
    · simp [h]
    · next e => simp [State.hubDataWrite_wf h e]
  · simp [h]

@[simp] theorem execQcnt_canon (d : SSpec) (n : Fin 16) (s : State) (h : Memory.wf s.mem = true) : Canon (execQcnt d n s) := by
  unfold execQcnt
  simp [h]

@[simp] theorem execQcntFree_canon (d : SSpec) (n : Fin 16) (s : State) (h : Memory.wf s.mem = true) : Canon (execQcntFree d n s) := by
  unfold execQcntFree
  simp [h]

@[simp] theorem State.shootCore_mem (s : State) (i : Nat) (c : Fin 904) : (s.shootCore i c).mem = s.mem := by
  unfold State.shootCore
  split <;> simp

@[simp] theorem State.shootAll_mem (s : State) (i : Nat) : (s.shootAll i).mem = s.mem := by
  unfold State.shootAll
  split <;> simp

@[simp] theorem State.broadcast_mem (s : State) (page : Option Nat) (asid : Option (BitVec 16)) : (s.broadcast page asid).mem = s.mem := rfl

@[simp] theorem State.tlbi_canon (s : State) (srcs : List SSpec) (page : Option Nat) (asid : Option (BitVec 16))
    (h : Memory.wf s.mem = true) :
    Canon (s.tlbi srcs page asid) := by
  unfold State.tlbi
  (repeat' split) <;> simp [h]

@[simp] theorem execTlbiPage_canon (a : SSpec) (b : SSpec) (s : State) (h : Memory.wf s.mem = true) : Canon (execTlbiPage a b s) := by
  unfold execTlbiPage
  simp [h]

@[simp] theorem execTlbiAsid_canon (b : SSpec) (s : State) (h : Memory.wf s.mem = true) : Canon (execTlbiAsid b s) := by
  unfold execTlbiAsid
  simp [h]

@[simp] theorem execTlbiAll_canon (s : State) (h : Memory.wf s.mem = true) : Canon (execTlbiAll s) := by
  unfold execTlbiAll
  simp [h]

@[simp] theorem execTlbiVa_canon (a : SSpec) (s : State) (h : Memory.wf s.mem = true) : Canon (execTlbiVa a s) := by
  unfold execTlbiVa
  simp [h]

@[simp] theorem execTlbfence_canon (s : State) (h : Memory.wf s.mem = true) : Canon (execTlbfence s) := by
  unfold execTlbfence
  dsimp only
  split <;> simp [h]

@[simp] theorem execKeyld_canon (a : SSpec) (b : SSpec) (s : State) (h : Memory.wf s.mem = true) : Canon (execKeyld a b s) := by
  unfold execKeyld
  dsimp only
  (repeat' split) <;> simp [h, State.performWrite_wf]

@[simp] theorem execKeyldClr_canon (b : SSpec) (s : State) (h : Memory.wf s.mem = true) : Canon (execKeyldClr b s) := by
  unfold execKeyldClr
  dsimp only
  (repeat' split) <;> simp [h]

@[simp] theorem State.retireQuad_mem (s : State) (stk : Fin 24) (quad : Fin 256) : (s.retireQuad stk quad).mem = s.mem := by
  unfold State.retireQuad
  dsimp only
  split <;> simp

@[simp] theorem execCapq_canon (d : SSpec) (i : BitVec 16) (p : Fin 8) (s : State) (h : Memory.wf s.mem = true) :
    Canon (execCapq d i p s) := by
  unfold execCapq
  (repeat' split) <;> simp [h]

@[simp] theorem execCodesync_canon (s : State) (h : Memory.wf s.mem = true) : Canon (execCodesync s) := by
  unfold execCodesync
  dsimp only
  (repeat' split) <;> simp [h]

/-! ## Functions of Machine/Outside -/

@[simp] theorem execClockPlanTick_canon (die : Fin 8) (s : State) (h : Memory.wf s.mem = true) : Canon (execClockPlanTick die s) := by
  unfold execClockPlanTick
  dsimp only
  split <;> simp [h]

@[simp] theorem State.setMgmt_mem (s : State) (die : Fin 8) (n : Nat) : (s.setMgmt die n).mem = s.mem := by
  unfold State.setMgmt
  simp

@[simp] theorem execMgmtRaise_canon (die : Fin 8) (s : State) (h : Memory.wf s.mem = true) : Canon (execMgmtRaise die s) := by
  unfold execMgmtRaise
  split <;> simp [h]

@[simp] theorem execMgmtLower_canon (die : Fin 8) (s : State) (h : Memory.wf s.mem = true) : Canon (execMgmtLower die s) := by
  unfold execMgmtLower
  split <;> simp [h]

@[simp] theorem execJunctionOvertemp_canon (die : Fin 8) (s : State) (h : Memory.wf s.mem = true) : Canon (execJunctionOvertemp die s) := by
  unfold execJunctionOvertemp
  split <;> simp [h]

@[simp] theorem State.junctionAct_mem (s : State) (die : Fin 8) (c : Int) : (s.junctionAct die c).mem = s.mem := by
  unfold State.junctionAct
  (repeat' split) <;> simp

@[simp] theorem execTemperatureReading_canon (stk : Fin 24) (celsius : Int) (s : State) (h : Memory.wf s.mem = true) :
    Canon (execTemperatureReading stk celsius s) := by
  unfold execTemperatureReading
  dsimp only
  split <;> simp [h]

@[simp] theorem execRefresh_canon (_stk : Fin 24) (_bank : Fin 1024) (s : State) (h : Memory.wf s.mem = true) :
    Canon (execRefresh _stk _bank s) := by
  unfold execRefresh
  simp [h]

@[simp] theorem execScrub_canon (stk : Fin 24) (unit : Nat) (s : State) (h : Memory.wf s.mem = true) : Canon (execScrub stk unit s) := by
  unfold execScrub
  dsimp only
  (repeat' split) <;> simp [h]

@[simp] theorem State.logItem_mem (s : State) (x : RecItem) : (s.logItem x).mem = s.mem := by
  unfold State.logItem
  split <;> simp

@[simp] theorem State.streamLog_mem (s : State) : (s.streamLog).mem = s.mem := by
  unfold State.streamLog
  split <;> simp

@[simp] theorem State.draw_mem (s : State) (x : BitVec 512) : (s.draw x).2.mem = s.mem := by
  unfold State.draw
  dsimp only
  split <;> simp

@[simp] theorem State.nanosAct_mem (s : State) (n : Nat) : (s.nanosAct n).mem = s.mem := by
  unfold State.nanosAct
  split <;> simp

@[simp] theorem execLifeRecord_canon (s : State) (h : Memory.wf s.mem = true) : Canon (execLifeRecord s) := by
  unfold execLifeRecord
  dsimp only
  split <;> simp [h]

@[simp] theorem execFreezeLineAssert_canon (s : State) (h : Memory.wf s.mem = true) : Canon (execFreezeLineAssert s) := by
  unfold execFreezeLineAssert
  simp [h]

@[simp] theorem execFreezeLineRelease_canon (s : State) (h : Memory.wf s.mem = true) : Canon (execFreezeLineRelease s) := by
  unfold execFreezeLineRelease
  split <;> simp [h]

@[simp] theorem execTimebaseMarker_canon (port : Fin 64) (drift : Int) (s : State) (h : Memory.wf s.mem = true) :
    Canon (execTimebaseMarker port drift s) := by
  unfold execTimebaseMarker
  split <;> simp [h]

@[simp] theorem State.noticeFrom_mem (s : State) (g : FlitReq) : (s.noticeFrom g).mem = s.mem := by
  unfold State.noticeFrom
  split <;> simp

@[simp] theorem State.denyRef_mem (s : State) (port : Fin 64) : (s.denyRef port).mem = s.mem := rfl

@[simp] theorem State.portPlace_mem (s : State) (port : Fin 64) (a : Nat) (n : Nat) (rt : Right) :
    (s.portPlace port a n rt).2.mem = s.mem := by
  unfold State.portPlace
  dsimp only
  (repeat' split) <;> simp

@[simp] theorem State.postFrom_mem (s : State) (src : Nat) (g : FlitReq) (rank : Nat) (xk v : Word) :
    (s.postFrom src g rank xk v).mem = s.mem := by
  unfold State.postFrom
  split <;> simp

theorem State.mem_of_portPlace {s t : State} {port : Fin 64} {a n : Nat} {rt : Right} {p : Option Place}
    (h : s.portPlace port a n rt = (p, t)) : t.mem = s.mem :=
  (congrArg (fun x : Option Place × State => x.2.mem) h).symm.trans (s.portPlace_mem port a n rt)

theorem State.postedWrite_wf (s : State) (port : Fin 64) (g : FlitReq) (k : WKind) (h : Memory.wf s.mem = true) :
    Memory.wf (s.postedWrite port g k).st.mem = true := by
  unfold State.postedWrite
  dsimp only
  split
  · next e => exact State.performWrite_wf _ _ _ _ _ _ _ _ (by rw [State.mem_of_portPlace e]; exact h)
  · next e => simpa [State.mem_of_portPlace e] using h

theorem State.readInto_mem (s : State) (port : Fin 64) (a n : Nat) : (s.readInto port a n).st.mem = s.mem := by
  unfold State.readInto
  split
  · next e => simp [State.mem_of_portPlace e]
  · next e => simp [State.mem_of_portPlace e]

theorem State.atomicFrom_wf (s : State) (port : Fin 64) (a n : Nat) (op : AtomOp) (v e : Word) (h : Memory.wf s.mem = true) :
    Memory.wf (s.atomicFrom port a n op v e).st.mem = true := by
  unfold State.atomicFrom
  split
  · next c => split <;> simp [State.mem_of_portPlace c, h]
  · next c => simp [State.mem_of_portPlace c, h]

theorem State.boardFrom_wf (s : State) (src a : Nat) (l : FlitLoad) (h : Memory.wf s.mem = true) :
    Memory.wf (s.boardFrom src a l).st.mem = true := by
  unfold State.boardFrom
  split
  · exact State.boardServe_wf _ _ _ _ h
  · exact h

@[simp] theorem Served.respond_mem (x : Served) (src a : Nat) : (x.respond src a).mem = x.st.mem := State.toPort_getD_mem _ _ _

@[simp] theorem State.releaseFlags_mem (s : State) (port : Fin 64) : (s.releaseFlags port).mem = s.mem :=
  foldl_keeps_mem _ _ _ fun t g => State.noticeFrom_mem t g.2

@[simp] theorem State.landWrite_mem (s : State) (port : Fin 64) (src : Nat) : (s.landWrite port src).mem = s.mem := by
  unfold State.landWrite
  simp

@[simp] theorem State.takeWrite_wf (s : State) (port : Fin 64) (src : Nat) (q : FlitReq) (k : WKind) (h : Memory.wf s.mem = true) :
    Memory.wf (s.takeWrite port src q k).mem = true := by
  unfold State.takeWrite
  dsimp only
  split <;> simp [State.postedWrite_wf, h]

@[simp] theorem State.takeReq_wf (s : State) (port : Fin 64) (src : Nat) (q : FlitReq) (h : Memory.wf s.mem = true) :
    Memory.wf (s.takeReq port src q).mem = true := by
  unfold State.takeReq
  split <;> simp [State.readInto_mem, State.atomicFrom_wf, State.boardFrom_wf, h]

@[simp] theorem State.takeFlit_wf (s : State) (port : Fin 64) (g : FlitArgs) (h : Memory.wf s.mem = true) :
    Memory.wf (s.takeFlit port g).mem = true := by
  unfold State.takeFlit
  split
  · exact foldl_wf _ _ _ h fun _ _ h => State.takeReq_wf _ _ _ _ h
  · exact h

@[simp] theorem State.portSlot_mem (s : State) (n : Fin 64) : (s.portSlot n).mem = s.mem := by
  unfold State.portSlot
  dsimp only
  (repeat' split) <;> simp

@[simp] theorem State.portAck_mem (s : State) (n : Fin 64) : (s.portAck n).mem = s.mem := by
  unfold State.portAck
  (repeat' split) <;> simp

@[simp] theorem State.refuseFlit_mem (s : State) (port : Fin 64) : (s.refuseFlit port).mem = s.mem := rfl

@[simp] theorem execFlitReceive_canon (port : Fin 64) (g : FlitArgs) (s : State) (h : Memory.wf s.mem = true) :
    Canon (execFlitReceive port g s) := by
  unfold execFlitReceive
  dsimp only
  (repeat' split) <;> simp [h]

@[simp] theorem State.creditAct_mem (s : State) (n : Fin 64) : (s.creditAct n).mem = s.mem := by
  unfold State.creditAct
  split <;> simp

@[simp] theorem State.moveQueue_mem (s : State) (n : Fin 64) : (s.moveQueue n).mem = s.mem := by
  unfold State.moveQueue
  split <;> simp

@[simp] theorem execLinkTrainingTimeout_canon (port : Fin 64) (s : State) (h : Memory.wf s.mem = true) :
    Canon (execLinkTrainingTimeout port s) := by
  unfold execLinkTrainingTimeout
  split <;> simp [h]

@[simp] theorem execLinkRetrainComplete_canon (port : Fin 64) (s : State) (h : Memory.wf s.mem = true) :
    Canon (execLinkRetrainComplete port s) := by
  unfold execLinkRetrainComplete
  simp [h]

@[simp] theorem execLostRequestTimeout_canon (i : Nat) (s : State) (h : Memory.wf s.mem = true) : Canon (execLostRequestTimeout i s) := by
  unfold execLostRequestTimeout
  (repeat' split) <;> simp [h]

@[simp] theorem State.clear_wf (s : State) (h : Memory.wf s.mem = true) : Memory.wf s.clear.mem = true := Cells.filter_wf _ _ h

@[simp] theorem State.powerLoss_wf (s : State) (h : Memory.wf s.mem = true) : Memory.wf s.powerLoss.mem = true := Cells.filter_wf _ _ h

@[simp] theorem State.bootQueue_mem (s : State) (d : Fin 8) : (s.bootQueue d).mem = s.mem := by
  unfold State.bootQueue
  split <;> simp

@[simp] theorem State.bootDie_mem (s : State) (d : Fin 8) : (s.bootDie d).mem = s.mem := by
  unfold State.bootDie
  split <;> simp

@[simp] theorem State.firstReadings_mem (s : State) : s.firstReadings.mem = s.mem := by
  unfold State.firstReadings
  rfl

@[simp] theorem State.noteReadings_mem (s : State) : s.noteReadings.mem = s.mem := by
  unfold State.noteReadings
  exact foldl_keeps_mem _ _ _ fun t n => State.logItem_mem _ _

@[simp] theorem State.bootMode_mem (s : State) : (s.bootMode).mem = s.mem := by
  unfold State.bootMode
  simp

@[simp] theorem State.bootKeys_mem (s : State) : (s.bootKeys).mem = s.mem := by
  unfold State.bootKeys
  simp

@[simp] theorem State.boot_mem (s : State) : s.boot.mem = s.mem := by
  unfold State.boot
  dsimp only
  split
  · simp
  split
  · simp
  split
  · simp only [State.bootMode_mem, apply_ite State.mem, ite_self, State.firstReadings_mem]
  · rw [foldl_keeps_mem _ _ _ fun t d => State.bootDie_mem _ _]
    simp only [State.bootKeys_mem, State.bootMode_mem, apply_ite State.mem, ite_self, State.firstReadings_mem]

@[simp] theorem execPackageReset_canon (s : State) (h : Memory.wf s.mem = true) : Canon (execPackageReset s) := by
  unfold execPackageReset
  simp [h]

@[simp] theorem execPowerUp_canon (s : State) (h : Memory.wf s.mem = true) : Canon (execPowerUp s) := by
  unfold execPowerUp
  simp [h]

end Sys2Proof.Machine
end

section
/-!
SUPPORT. Memory in canonical form, for obligation O58: the loader, translations, ports and what a translated object reads and writes.
-/
namespace Sys2Proof.Machine

/-! ## Functions of Machine/Loader -/

@[simp] theorem State.imageKey_mem (s : State) : (s.imageKey).2.mem = s.mem := by
  unfold State.imageKey
  simp

@[simp] theorem State.writeEntry_wf (s : State) (d : Fin 8) (root : Word) (pa : Nat) (e : Nat) (h : Memory.wf s.mem = true) :
    Memory.wf (s.writeEntry d root pa e).mem = true := by
  unfold State.writeEntry
  simp [h, State.performWrite_wf]

@[simp] theorem State.zeroTable_wf (s : State) (d : Fin 8) (root : Word) (pa : Nat) (h : Memory.wf s.mem = true) :
    Memory.wf (s.zeroTable d root pa).mem = true := foldl_wf _ _ _ h fun _ _ h => State.writeEntry_wf _ _ _ _ _ h

@[simp] theorem State.mapLeaf_wf (s : State) (d : Fin 8) (root : Word) (va leaf t free n : Nat) (h : Memory.wf s.mem = true) :
    Memory.wf (s.mapLeaf d root va leaf t free n).1.mem = true := by
  induction n generalizing s t free with
  | zero => exact State.writeEntry_wf _ _ _ _ _ h
  | succ n ih =>
    unfold State.mapLeaf
    dsimp only
    split
    · exact ih _ _ _ h
    · exact ih _ _ _ (State.writeEntry_wf _ _ _ _ _ (State.zeroTable_wf _ _ _ _ h))

@[simp] theorem State.mapLeaves_wf (s : State) (d : Fin 8) (root : Word) (free : Nat) (l : List (Nat × Nat)) (h : Memory.wf s.mem = true) :
    Memory.wf (s.mapLeaves d root free l).1.mem = true := by
  unfold State.mapLeaves
  induction l generalizing s free with
  | nil => exact h
  | cons x l ih => exact ih _ _ (State.mapLeaf_wf s d root _ _ _ _ 3 h)

@[simp] theorem State.rootWriteWords_wf (s : State) (d : Fin 8) (root : Word) (va : Nat) (l : List Word) (h : Memory.wf s.mem = true) :
    Memory.wf (s.rootWriteWords d root va l).mem = true := by
  induction l generalizing s va with
  | nil => exact h
  | cons w l ih =>
    refine ih _ _ ?_
    split
    · exact State.performWrite_wf _ _ _ _ _ _ _ _ h
    · exact h

@[simp] theorem State.relocate_wf (s : State) (d : Fin 8) (root : Word) (sec v : Nat) (w : Word) (h : Memory.wf s.mem = true) :
    Memory.wf (s.relocate d root sec v w).mem = true := by
  refine foldl_wf _ _ _ h fun t k h => ?_
  split
  · exact State.performWrite_wf _ _ _ _ _ _ _ _ h
  · exact h

@[simp] theorem State.declare_wf (s : State) (d : Fin 8) (root : Word) (die : Nat) (at' : Nat) (q : Fin 64) (w : Word)
    (h : Memory.wf s.mem = true) :
    Memory.wf (s.declare d root die at' q w).mem = true := by
  unfold State.declare
  (repeat' split) <;> simp [h]

@[simp] theorem State.copySect_wf (s : State) (d : Fin 8) (root : Word) (at' : Nat) (before : Nat) (ws : List Word) (kind : Nat)
    (h : Memory.wf s.mem = true) :
    Memory.wf (s.copySect d root at' before ws kind).mem = true := by
  unfold State.copySect
  (repeat' split) <;> simp [h]

@[simp] theorem State.setupQueue_mem (s : State) (q : Fin 64) : (s.setupQueue q).mem = s.mem := by
  refine foldl_keeps_mem _ _ _ fun t d => ?_
  split <;> simp

@[simp] theorem State.loadKey_mem (s : State) : s.loadKey.mem = s.mem := by
  unfold State.loadKey
  split
  · rfl
  · exact State.imageKey_mem s

@[simp] theorem State.layOut_wf (s : State) (d : Fin 8) (a : Nat) (b : Bind) (h : Memory.wf s.mem = true) :
    Memory.wf (s.layOut d a b).1.mem = true := by
  unfold State.layOut
  refine foldl_wf _ _ _ (foldl_wf _ _ _ (foldl_wf _ _ _ (foldl_wf _ _ _ ?tables ?sections) ?relocations) ?descriptors) ?declarations
  case tables => exact State.mapLeaves_wf _ _ _ _ _ (State.zeroTable_wf _ _ _ _ (by simpa using h))
  case sections => exact fun _ _ h => State.copySect_wf _ _ _ _ _ _ _ h
  case relocations => exact fun _ _ h => foldl_wf _ _ _ h fun _ _ h => State.relocate_wf _ _ _ _ _ _ h
  case descriptors => exact fun _ _ h => State.hubWriteWords_wf _ _ _ _ (State.hubWriteWords_wf _ _ _ _ h)
  case declarations => exact fun _ _ h => State.declare_wf _ _ _ _ _ _ _ h

@[simp] theorem State.loadImage_wf (s : State) (d : Fin 8) (a : Nat) (h : Memory.wf s.mem = true) :
    Memory.wf (s.loadImage d a).1.mem = true := by
  unfold State.loadImage
  split <;> simp [h]

@[simp] theorem State.unload_wf (s : State) (d : Fin 8) (i : Nat) (h : Memory.wf s.mem = true) : Memory.wf (s.unload d i).mem = true := by
  unfold State.unload
  split
  · split
    · exact h
    · exact foldl_wf _ _ _ h fun _ _ h => State.hubWrite_wf _ _ _ _ _ h
  · exact h

/-! ## Functions of Machine/VectorFp -/

@[simp] theorem State.fpOp_canon (s : State) (g : FpArgs) (useD : Bool) (f : FVal → FVal → FVal → FVal) (h : Memory.wf s.mem = true) :
    Canon (s.fpOp g useD f) := by
  unfold State.fpOp
  simp [h]

@[simp] theorem execVaddFp_canon (g : FpArgs) (s : State) (h : Memory.wf s.mem = true) : Canon (execVaddFp g s) := by
  unfold execVaddFp
  simp [h]

@[simp] theorem execVsubFp_canon (g : FpArgs) (s : State) (h : Memory.wf s.mem = true) : Canon (execVsubFp g s) := by
  unfold execVsubFp
  simp [h]

@[simp] theorem execVmulFp_canon (g : FpArgs) (s : State) (h : Memory.wf s.mem = true) : Canon (execVmulFp g s) := by
  unfold execVmulFp
  simp [h]

@[simp] theorem execVfma_canon (g : FpArgs) (s : State) (h : Memory.wf s.mem = true) : Canon (execVfma g s) := by
  unfold execVfma
  simp [h]

@[simp] theorem execVfms_canon (g : FpArgs) (s : State) (h : Memory.wf s.mem = true) : Canon (execVfms g s) := by
  unfold execVfms
  simp [h]

@[simp] theorem execVnfma_canon (g : FpArgs) (s : State) (h : Memory.wf s.mem = true) : Canon (execVnfma g s) := by
  unfold execVnfma
  simp [h]

@[simp] theorem execVmadd_canon (g : FpArgs) (s : State) (h : Memory.wf s.mem = true) : Canon (execVmadd g s) := by
  unfold execVmadd
  simp [h]

@[simp] theorem State.fpMinMax_canon (s : State) (g : FpMinArgs) (mx : Bool) (h : Memory.wf s.mem = true) : Canon (s.fpMinMax g mx) := by
  unfold State.fpMinMax
  simp [h]

@[simp] theorem execVminFp_canon (g : FpMinArgs) (s : State) (h : Memory.wf s.mem = true) : Canon (execVminFp g s) := by
  unfold execVminFp
  simp [h]

@[simp] theorem execVmaxFp_canon (g : FpMinArgs) (s : State) (h : Memory.wf s.mem = true) : Canon (execVmaxFp g s) := by
  unfold execVmaxFp
  simp [h]

@[simp] theorem execVcmpFp_canon (g : FpCmpArgs) (s : State) (h : Memory.wf s.mem = true) : Canon (execVcmpFp g s) := by
  unfold execVcmpFp
  simp [h]

@[simp] theorem execVscale_canon (g : FpArgs) (s : State) (h : Memory.wf s.mem = true) : Canon (execVscale g s) := by
  unfold execVscale
  simp [h]

@[simp] theorem State.fpUn_canon (s : State) (g : FpUnArgs) (lat : Nat) (tag : Fin 16) (f : Nat → Nat × FFlags)
    (h : Memory.wf s.mem = true) :
    Canon (s.fpUn g lat tag f) := by
  unfold State.fpUn
  simp [h]

@[simp] theorem execVrnd_canon (g : FpUnArgs) (s : State) (h : Memory.wf s.mem = true) : Canon (execVrnd g s) := by
  unfold execVrnd
  simp [h]

@[simp] theorem execVrcp_canon (g : FpUnArgs) (s : State) (h : Memory.wf s.mem = true) : Canon (execVrcp g s) := by
  unfold execVrcp
  simp [h]

@[simp] theorem execVrsq_canon (g : FpUnArgs) (s : State) (h : Memory.wf s.mem = true) : Canon (execVrsq g s) := by
  unfold execVrsq
  simp [h]

@[simp] theorem execVexp2_canon (g : FpUnArgs) (s : State) (h : Memory.wf s.mem = true) : Canon (execVexp2 g s) := by
  unfold execVexp2
  simp [h]

@[simp] theorem execVlog2_canon (g : FpUnArgs) (s : State) (h : Memory.wf s.mem = true) : Canon (execVlog2 g s) := by
  unfold execVlog2
  simp [h]

@[simp] theorem execVclass_canon (g : FpUnArgs) (s : State) (h : Memory.wf s.mem = true) : Canon (execVclass g s) := by
  unfold execVclass
  simp [h]

/-! ## Functions of Machine/VectorInt -/

@[simp] theorem State.intOp_canon (s : State) (g : IntSatArgs) (lat : Nat) (f : Int → Int → Int) (h : Memory.wf s.mem = true) :
    Canon (s.intOp g lat f) := by
  unfold State.intOp
  simp [h]

@[simp] theorem execVaddInt_canon (g : IntSatArgs) (s : State) (h : Memory.wf s.mem = true) : Canon (execVaddInt g s) := by
  unfold execVaddInt
  simp [h]

@[simp] theorem execVsubInt_canon (g : IntSatArgs) (s : State) (h : Memory.wf s.mem = true) : Canon (execVsubInt g s) := by
  unfold execVsubInt
  simp [h]

@[simp] theorem execVmulInt_canon (g : IntSatArgs) (s : State) (h : Memory.wf s.mem = true) : Canon (execVmulInt g s) := by
  unfold execVmulInt
  simp [h]

@[simp] theorem execVcmpInt_canon (g : IntCmpArgs) (s : State) (h : Memory.wf s.mem = true) : Canon (execVcmpInt g s) := by
  unfold execVcmpInt
  simp [h]

@[simp] theorem State.intLaneOp_canon (s : State) (g : IntArgs) (f : Nat → Bool → Nat → Nat → Nat) (h : Memory.wf s.mem = true) :
    Canon (s.intLaneOp g f) := by
  unfold State.intLaneOp
  simp [h]

@[simp] theorem State.bitOp_canon (s : State) (g : IntArgs) (f : Nat → Nat → Nat) (h : Memory.wf s.mem = true) : Canon (s.bitOp g f) := by
  unfold State.bitOp
  simp [h]

@[simp] theorem execVminInt_canon (g : IntArgs) (s : State) (h : Memory.wf s.mem = true) : Canon (execVminInt g s) := by
  unfold execVminInt
  simp [h]

@[simp] theorem execVmaxInt_canon (g : IntArgs) (s : State) (h : Memory.wf s.mem = true) : Canon (execVmaxInt g s) := by
  unfold execVmaxInt
  simp [h]

@[simp] theorem execVshl_canon (g : IntArgs) (s : State) (h : Memory.wf s.mem = true) : Canon (execVshl g s) := by
  unfold execVshl
  simp [h]

@[simp] theorem execVshr_canon (g : IntArgs) (s : State) (h : Memory.wf s.mem = true) : Canon (execVshr g s) := by
  unfold execVshr
  simp [h]

@[simp] theorem execVsra_canon (g : IntArgs) (s : State) (h : Memory.wf s.mem = true) : Canon (execVsra g s) := by
  unfold execVsra
  simp [h]

@[simp] theorem execVand_canon (g : IntArgs) (s : State) (h : Memory.wf s.mem = true) : Canon (execVand g s) := by
  unfold execVand
  simp [h]

@[simp] theorem execVor_canon (g : IntArgs) (s : State) (h : Memory.wf s.mem = true) : Canon (execVor g s) := by
  unfold execVor
  simp [h]

@[simp] theorem execVxor_canon (g : IntArgs) (s : State) (h : Memory.wf s.mem = true) : Canon (execVxor g s) := by
  unfold execVxor
  simp [h]

@[simp] theorem State.moveOp_canon (s : State) (g : MoveArgs) (f : Nat → Nat → Nat → Nat) (h : Memory.wf s.mem = true) :
    Canon (s.moveOp g f) := by
  unfold State.moveOp
  simp [h]

@[simp] theorem execVsel_canon (g : MoveArgs) (s : State) (h : Memory.wf s.mem = true) : Canon (execVsel g s) := by
  unfold execVsel
  simp [h]

@[simp] theorem execVperm_canon (g : MoveArgs) (s : State) (h : Memory.wf s.mem = true) : Canon (execVperm g s) := by
  unfold execVperm
  simp [h]

@[simp] theorem execVshuf_canon (g : MoveArgs) (s : State) (h : Memory.wf s.mem = true) : Canon (execVshuf g s) := by
  unfold execVshuf
  simp [h]

@[simp] theorem execVzip0_canon (g : MoveArgs) (s : State) (h : Memory.wf s.mem = true) : Canon (execVzip0 g s) := by
  unfold execVzip0
  simp [h]

@[simp] theorem execVzip1_canon (g : MoveArgs) (s : State) (h : Memory.wf s.mem = true) : Canon (execVzip1 g s) := by
  unfold execVzip1
  simp [h]

@[simp] theorem execVuzp0_canon (g : MoveArgs) (s : State) (h : Memory.wf s.mem = true) : Canon (execVuzp0 g s) := by
  unfold execVuzp0
  simp [h]

@[simp] theorem execVuzp1_canon (g : MoveArgs) (s : State) (h : Memory.wf s.mem = true) : Canon (execVuzp1 g s) := by
  unfold execVuzp1
  simp [h]

@[simp] theorem execVslide0_canon (g : MoveArgs) (s : State) (h : Memory.wf s.mem = true) : Canon (execVslide0 g s) := by
  unfold execVslide0
  simp [h]

@[simp] theorem execVslide1_canon (g : MoveArgs) (s : State) (h : Memory.wf s.mem = true) : Canon (execVslide1 g s) := by
  unfold execVslide1
  simp [h]

@[simp] theorem State.dotOp_canon (s : State) (g : DotArgs) (sgn : Bool) (f : Int → Int → Int) (h : Memory.wf s.mem = true) :
    Canon (s.dotOp g sgn f) := by
  unfold State.dotOp
  simp [h]

@[simp] theorem execVdot4I8_canon (g : DotArgs) (s : State) (h : Memory.wf s.mem = true) : Canon (execVdot4I8 g s) := by
  unfold execVdot4I8
  simp [h]

@[simp] theorem execVdot4N8_canon (g : DotArgs) (s : State) (h : Memory.wf s.mem = true) : Canon (execVdot4N8 g s) := by
  unfold execVdot4N8
  simp [h]

@[simp] theorem execVtacc_canon (g : DotArgs) (s : State) (h : Memory.wf s.mem = true) : Canon (execVtacc g s) := by
  unfold execVtacc
  simp [h]

/-! ## Functions of Machine/VectorOne -/

@[simp] theorem execVmov_canon (g : VmovArgs) (s : State) (h : Memory.wf s.mem = true) : Canon (execVmov g s) := by
  unfold execVmov
  simp [h]

@[simp] theorem execVmovQ_canon (q9 : Bool) (a : VSrc) (s : State) (h : Memory.wf s.mem = true) : Canon (execVmovQ q9 a s) := by
  unfold execVmovQ
  dsimp only
  (repeat' split) <;> simp [h]

@[simp] theorem execVidx_canon (d : Fin 32) (w : LaneW) (k : Fin 8) (s : State) (h : Memory.wf s.mem = true) :
    Canon (execVidx d w k s) := by
  unfold execVidx
  simp [h]

@[simp] theorem execVsetvl_canon (d : Fin 32) (a : SSpec) (w : LaneW) (s : State) (h : Memory.wf s.mem = true) :
    Canon (execVsetvl d a w s) := by
  unfold execVsetvl
  (repeat' split) <;> simp [h]

@[simp] theorem State.signOp_canon (s : State) (g : UnArgs) (abs : Bool) (h : Memory.wf s.mem = true) : Canon (s.signOp g abs) := by
  unfold State.signOp
  split <;> simp [h]

@[simp] theorem execVneg_canon (g : UnArgs) (s : State) (h : Memory.wf s.mem = true) : Canon (execVneg g s) := by
  unfold execVneg
  simp [h]

@[simp] theorem execVabs_canon (g : UnArgs) (s : State) (h : Memory.wf s.mem = true) : Canon (execVabs g s) := by
  unfold execVabs
  simp [h]

@[simp] theorem execVnot_canon (d : Fin 32) (a : VSrc) (w : LaneW) (k : Fin 8) (s : State) (h : Memory.wf s.mem = true) :
    Canon (execVnot d a w k s) := by
  unfold execVnot
  simp [h]

@[simp] theorem execVredadd_canon (g : VredArgs) (s : State) (h : Memory.wf s.mem = true) : Canon (execVredadd g s) := by
  unfold execVredadd
  split <;> simp [h]

@[simp] theorem State.extreme_canon (s : State) (g : VredArgs) (mx : Bool) (h : Memory.wf s.mem = true) : Canon (s.extreme g mx) := by
  unfold State.extreme
  split <;> simp [h]

@[simp] theorem execVredmax_canon (g : VredArgs) (s : State) (h : Memory.wf s.mem = true) : Canon (execVredmax g s) := by
  unfold execVredmax
  simp [h]

@[simp] theorem execVredmin_canon (g : VredArgs) (s : State) (h : Memory.wf s.mem = true) : Canon (execVredmin g s) := by
  unfold execVredmin
  simp [h]

@[simp] theorem execVbcast_canon (d : Fin 32) (a : VSrc) (w : LaneW) (j : Fin 16) (k : Fin 8) (s : State) (h : Memory.wf s.mem = true) :
    Canon (execVbcast d a w j k s) := by
  unfold execVbcast
  simp [h]

@[simp] theorem execVbcastScalar_canon (d : Fin 32) (a : SSpec) (tag : Fin 16) (k : Fin 8) (s : State) (h : Memory.wf s.mem = true) :
    Canon (execVbcastScalar d a tag k s) := by
  unfold execVbcastScalar
  (repeat' split) <;> simp [h]

@[simp] theorem execVextr_canon (g : VextrArgs) (s : State) (h : Memory.wf s.mem = true) : Canon (execVextr g s) := by
  unfold execVextr
  simp [h]

@[simp] theorem execVtunpk_canon (d : Fin 32) (a : VSrc) (raw : Bool) (k : Fin 8) (s : State) (h : Memory.wf s.mem = true) :
    Canon (execVtunpk d a raw k s) := by
  unfold execVtunpk
  simp [h]

@[simp] theorem execVcvt_canon (g : VcvtArgs) (s : State) (h : Memory.wf s.mem = true) : Canon (execVcvt g s) := by
  unfold execVcvt
  simp [h]

/-! ## Functions of Machine/Portable -/

@[simp] theorem State.portCheck_mem (s : State) (r : SeatRef) (va : Nat) (write : Bool) : (s.portCheck r va write).2.mem = s.mem :=
  State.check_mem _ _ _ _ _ _ _

theorem State.portPlaceOf_mem {s t : State} {r : SeatRef} {va : Nat} {write : Bool} {p : Place}
    (h : s.portPlaceOf r va write = .ok (p, t)) : t.mem = s.mem := by
  unfold State.portPlaceOf at h
  split at h
  · next e => split at h <;> cases h; exact State.mem_of_check e
  · cases h
  · cases h

theorem State.portRead_mem {s t : State} {r : SeatRef} {first : Bool} {va n v : Nat} (h : s.portRead r first va n = .ok (v, t)) :
    t.mem = s.mem := by
  induction n generalizing s first va v with
  | zero => cases h; rfl
  | succ n ih =>
    unfold State.portRead at h
    dsimp only at h
    split at h
    · cases h
    next e =>
    split at h
    · cases h
    next e' =>
    cases h
    refine (ih e').trans (Eq.trans ?_ (State.portPlaceOf_mem e))
    exact (apply_ite State.mem _ _ _).trans (by rw [State.noteCorr_mem, ite_self])

theorem State.portWrite_wf {s t : State} {r : SeatRef} {va v n : Nat} (h : Memory.wf s.mem = true) (e : s.portWrite r va v n = .ok t) :
    Memory.wf t.mem = true := by
  induction n generalizing s va v with
  | zero => cases e; exact h
  | succ n ih =>
    unfold State.portWrite at e
    split at e
    · cases e
    · next c => exact ih (State.performWrite_wf _ _ _ _ _ _ _ _ (by rw [State.portPlaceOf_mem c]; exact h)) e

theorem State.loadElem_mem {s t : State} {r : SeatRef} {x : PStream} {e : Nat} {v : PVal} (h : s.loadElem r x e = .ok (v, t)) :
    t.mem = s.mem := by
  unfold State.loadElem at h
  dsimp only at h
  split at h
  · cases h
  · next c => cases h; exact State.portRead_mem c

theorem State.storeElem_wf {s t : State} {r : SeatRef} {x : PStream} {e v : Nat} (h : Memory.wf s.mem = true)
    (c : s.storeElem r x e v = .ok t) : Memory.wf t.mem = true := by
  unfold State.storeElem at c
  dsimp only at c
  split at c
  · exact State.portWrite_wf h c
  split at c
  · cases c
  · next c' => exact State.portWrite_wf (by rw [State.portRead_mem c']; exact h) c

theorem PBody.element_mem {b : PBody} {r : SeatRef} {t : Translation} {i e : Nat} {v : PVal} {u : State}
    (h : b.element r t i e = .ok (v, u)) : u.mem = b.st.mem := by
  unfold PBody.element at h
  dsimp only at h
  split at h
  · cases h; rfl
  · exact State.loadElem_mem h

theorem PBody.op_wf {b c : PBody} {r : SeatRef} {t : Translation} {e : Nat} {w : Word × Nat} (h : Memory.wf b.st.mem = true)
    (k : b.op r t e w = .ok c) : Memory.wf c.st.mem = true := by
  unfold PBody.op at k
  dsimp only at k
  split at k
  · split at k
    · cases k
    · next k' => cases k; rw [show _ = b.st.mem from PBody.element_mem k']; exact h
  · split at k
    · cases k
    · next k' => cases k; exact State.storeElem_wf h k'
  · cases k; exact h
  · cases k; exact h

theorem PBody.runOps_wf {b c : PBody} {r : SeatRef} {t : Translation} {e : Nat} {l : List (Word × Nat)} (h : Memory.wf b.st.mem = true)
    (k : b.runOps r t e l = .ok c) : Memory.wf c.st.mem = true := by
  induction l generalizing b with
  | nil => cases k; exact h
  | cons w l ih =>
    unfold PBody.runOps at k
    split at k
    · cases k
    · next k' => exact ih (PBody.op_wf h k') k

theorem PBody.elements_wf {b c : PBody} {r : SeatRef} {t : Translation} {e n : Nat} (h : Memory.wf b.st.mem = true)
    (k : b.elements r t e n = .ok c) : Memory.wf c.st.mem = true := by
  induction n generalizing b e with
  | zero => cases k; exact h
  | succ n ih =>
    unfold PBody.elements at k
    split at k
    · cases k
    · next k' => exact ih (PBody.runOps_wf (b := { b with env := [] }) h k') k

theorem State.writeSums_wf {s t : State} {r : SeatRef} {o : PortObj} {l : List (Nat × Nat)} (h : Memory.wf s.mem = true)
    (e : s.writeSums r o l = .ok t) : Memory.wf t.mem = true := by
  induction l generalizing s with
  | nil => cases e; exact h
  | cons x l ih =>
    unfold State.writeSums at e
    dsimp only at e
    split at e
    · cases e
    next c =>
    split at e
    · cases e
    · next c' => exact ih (State.storeElem_wf (by rw [State.loadElem_mem c]; exact h) c') e

@[simp] theorem State.portStop_canon (s : State) (r : SeatRef) (x2 : PortStop) (h : Memory.wf s.mem = true) : Canon (s.portStop r x2) := by
  unfold State.portStop
  split <;> simp [h]

theorem State.loadElems_mem {s t : State} {r : SeatRef} {x : PStream} {e n : Nat} {l : List (Nat × Nat)}
    (h : s.loadElems r x e n = .ok (l, t)) : t.mem = s.mem := by
  induction n generalizing s e l with
  | zero => cases h; rfl
  | succ n ih =>
    unfold State.loadElems at h
    split at h
    · cases h
    next c =>
    split at h
    · cases h
    · next c' => cases h; exact (ih c').trans (State.loadElem_mem c)

/-- Bytes stored one after the other from a place of the window on. -/
theorem State.storeBytes_wf (src : Source) (a : Nat) (l : List (BitVec 8 × Nat)) (s : State) (h : Memory.wf s.mem = true) :
    Memory.wf (l.foldl (fun (s : State) b =>
      s.performWrite src .store (windowPlace (a + b.2) false) 1 b.1.toNat false false) s).mem = true :=
  foldl_wf _ _ _ h fun _ _ h => State.performWrite_wf _ _ _ _ _ _ _ _ h

@[simp] theorem State.stage_wf (s : State) (r : SeatRef) (dig : BitVec 512) (i trip : Nat) (x : PStream) (l : List (Nat × Nat))
    (h : Memory.wf s.mem = true) : Memory.wf (s.stage r dig i trip x l).mem = true := by
  unfold State.stage
  extract_lets w acc bytes a s1
  have h1 : Memory.wf s1.mem = true := by unfold s1; simpa using h
  exact State.storeBytes_wf (.engine r.core .copy r.seat acc.1) a bytes.zipIdx s1 h1

@[simp] theorem State.loadTrip_canon (s : State) (r : SeatRef) (t : Translation) (p : PortRun) (i : Nat) (h : Memory.wf s.mem = true) :
    Canon (s.loadTrip r t p i) := by
  unfold State.loadTrip
  extract_lets st x k e cyc
  split
  · exact (canon_next s).2 h
  split
  · exact State.portStop_canon _ _ _ h
  next l s1 hl =>
  have h1 : Memory.wf s1.mem = true := by rw [State.loadElems_mem hl]; exact h
  refine (canon_next _).2 ((State.modSeat_mem _ _ _).symm ▸ ?_)
  split
  · exact State.stage_wf _ _ _ _ _ _ _ h1
  · exact h1

theorem State.runStrips_wf {s t : State} {r : SeatRef} {x : Translation} {p q : PortRun} {n : Nat} (h : Memory.wf s.mem = true)
    (e : s.runStrips r x p n = .ok (t, q)) : Memory.wf t.mem = true := by
  induction n generalizing s p with
  | zero => cases e; exact h
  | succ n ih =>
    unfold State.runStrips at e
    dsimp only at e
    split at e
    · cases e
    · next c => exact ih (PBody.elements_wf h c) e

@[simp] theorem State.stripAct_canon (s : State) (r : SeatRef) (h : Memory.wf s.mem = true) : Canon (s.stripAct r) := by
  unfold State.stripAct
  dsimp only
  split
  · simp [h]
  split
  · simp [h]
  split
  · simp [h]
  split
  · split
    · simp [h]
    · next e => simp [State.runStrips_wf h e]
  · split
    · simp [h]
    · next e => simp [State.writeSums_wf h e]

@[simp] theorem State.insert_wf (s : State) (d : Fin 8) (i : Nat) (x : Image) (o : PortObj) (h : Memory.wf s.mem = true) :
    Memory.wf (s.insert d i x o).mem = true := by
  unfold State.insert
  refine State.hubWrite_wf _ _ _ _ _ (State.hubWriteWords_wf _ _ _ _ (State.hubWriteWords_wf _ _ _ _ (State.hubWriteWords_wf _ _ _ _
    (State.hubWriteWords_wf _ _ _ _ (State.hubWriteWords_wf _ _ _ _ (foldl_wf _ _ _ (State.mapLeaves_wf _ _ _ _ _ h) ?_))))))
  exact fun _ _ h => State.rootWriteWords_wf _ _ _ _ _ h

@[simp] theorem State.translate_wf (s : State) (r : SeatRef) (i : Nat) (k : Nat) (h : Memory.wf s.mem = true) :
    Memory.wf (s.translate r i k).mem = true := by
  unfold State.translate
  dsimp only
  (repeat' split) <;> simp [h]

/-! ## Functions of Machine/HostPort -/

@[simp] theorem State.mailbox_canon (s : State) (die : Fin 8) (f : Die → Die) (h : Memory.wf s.mem = true) : Canon (s.mailbox die f) := by
  unfold State.mailbox
  split <;> simp [h]

@[simp] theorem execDoorbell_canon (die : Fin 8) (s : State) (h : Memory.wf s.mem = true) : Canon (execDoorbell die s) := by
  unfold execDoorbell
  simp [h]

@[simp] theorem execLostClear_canon (die : Fin 8) (s : State) (h : Memory.wf s.mem = true) : Canon (execLostClear die s) := by
  unfold execLostClear
  simp [h]

@[simp] theorem execMailboxMessageWrite_canon (die : Fin 8) (dw : Fin 8) (v : Word) (s : State) (h : Memory.wf s.mem = true) :
    Canon (execMailboxMessageWrite die dw v s) := by
  unfold execMailboxMessageWrite
  simp [h]

@[simp] theorem State.hostWrite_wf (s : State) (d : Fin 8) (a : Nat) (n : Nat) (v : Nat) (h : Memory.wf s.mem = true) :
    Memory.wf (s.hostWrite d a n v).mem = true := by
  unfold State.hostWrite
  simp [h, State.performWrite_wf]

@[simp] theorem State.raiseMsix_mem (s : State) (d : Fin 8) : (s.raiseMsix d).mem = s.mem := rfl

@[simp] theorem State.hostBytes_wf (s : State) (d : Fin 8) (a : Nat) (l : List Byte) (h : Memory.wf s.mem = true) :
    Memory.wf (s.hostBytes d a l).mem = true := by
  induction l generalizing s a with
  | nil => exact h
  | cons b l ih => exact ih _ _ (State.hostWrite_wf _ _ _ _ _ h)

@[simp] theorem State.attest_wf (s : State) (d : Fin 8) (nonce : Word) (a : Nat) (h : Memory.wf s.mem = true) :
    Memory.wf (s.attest d nonce a).mem = true := by
  unfold State.attest
  simp [h]

@[simp] theorem State.runnerLaunch_wf (s : State) (d : Fin 8) (q : Fin 64) (arg : Word) (r : List Word) (h : Memory.wf s.mem = true) :
    Memory.wf (s.runnerLaunch d q arg r).1.mem = true := by
  unfold State.runnerLaunch
  dsimp only
  (repeat' split) <;> simp [h]

@[simp] theorem State.runRecords_wf (s : State) (g : Graph) (l : List (List Word)) (h : Memory.wf s.mem = true) :
    Memory.wf (s.runRecords g l).1.mem = true := by
  induction l generalizing s g with
  | nil => exact h
  | cons r l ih =>
    have sent := State.runnerLaunch_wf s g.die g.q g.arg r h
    unfold State.runRecords
    split
    · exact h
    · next e => rw [e] at sent; exact ih _ _ sent
    · next e => rw [e] at sent; exact ih _ _ sent

@[simp] theorem State.runGraph_wf (s : State) (d : Fin 8) (i : Image) (g : Nat) (arg : Word) (compl : Word) (recs : List (List Word))
    (h : Memory.wf s.mem = true) :
    Memory.wf (s.runGraph d i g arg compl recs).mem = true := by
  unfold State.runGraph
  simp [h]

@[simp] theorem State.graphAct_wf (s : State) (i : Nat) (h : Memory.wf s.mem = true) : Memory.wf (s.graphAct i).mem = true := by
  unfold State.graphAct
  (repeat' split) <;> simp [h]

@[simp] theorem State.accept_mem (s : State) (d : Fin 8) (err : Nat) : (s.accept d err).mem = s.mem := rfl

@[simp] theorem State.refuse_wf (s : State) (d : Fin 8) (compl : Word) (err : Nat) (h : Memory.wf s.mem = true) :
    Memory.wf (s.refuse d compl err).mem = true := by
  unfold State.refuse
  simp [h]

@[simp] theorem execMailboxTake_canon (die : Fin 8) (s : State) (h : Memory.wf s.mem = true) : Canon (execMailboxTake die s) := by
  unfold execMailboxTake
  dsimp only
  (repeat' split) <;> simp [h]

@[simp] theorem execGraphCompletion_canon (i : Nat) (s : State) (h : Memory.wf s.mem = true) : Canon (execGraphCompletion i s) := by
  unfold execGraphCompletion
  (repeat' split) <;> simp [h]

@[simp] theorem State.owe_mem (s : State) (c : HostCpl) : (s.owe c).mem = s.mem := rfl

@[simp] theorem State.completeAct_mem (s : State) : (s.completeAct).mem = s.mem := by
  unfold State.completeAct
  split <;> simp

@[simp] theorem State.bar2Write_wf (s : State) (p : Place) (n data : Nat) (h : Memory.wf s.mem = true) :
    Memory.wf (s.bar2Write p n data).mem = true := by
  unfold State.bar2Write
  split
  · exact State.performWrite_wf _ _ _ _ _ _ _ _ h
  · simpa using h

@[simp] theorem State.bar2Read_mem (s : State) (p : Place) (n : Nat) : (s.bar2Read p n).mem = s.mem := by
  unfold State.bar2Read
  dsimp only
  split
  · simp
  split
  · simp
  · next e => simp [State.toPort_mem e]

@[simp] theorem execHostBar2Access_canon (g : Bar2Args) (s : State) (h : Memory.wf s.mem = true) : Canon (execHostBar2Access g s) := by
  unfold execHostBar2Access
  dsimp only
  (repeat' split) <;> simp [h]

@[simp] theorem State.bar0ReadAct_mem (s : State) (off : Nat) : (s.bar0ReadAct off).mem = s.mem := rfl

@[simp] theorem State.bar0WriteAct_canon (s : State) (off : Nat) (v : Word) (h : Memory.wf s.mem = true) :
    Canon (s.bar0WriteAct off v) := by
  unfold State.bar0WriteAct
  (repeat' split) <;> simp [h]

@[simp] theorem execUnsupportedRequest_canon (s : State) (h : Memory.wf s.mem = true) : Canon (execUnsupportedRequest s) := by
  unfold execUnsupportedRequest
  simp [h]

end Sys2Proof.Machine
end

section
/-!
SUPPORT. Memory in canonical form, and obligation O58: the instructions, the detector and the acts of a step.
-/
namespace Sys2Proof.Machine

/-! ## Functions of Machine/Integer -/

@[simp] theorem execAdd_canon (d : SSpec) (a : SSpec) (b : SSpec) (s : State) (h : Memory.wf s.mem = true) : Canon (execAdd d a b s) := by
  unfold execAdd
  simp [h]

@[simp] theorem execSub_canon (d : SSpec) (a : SSpec) (b : SSpec) (s : State) (h : Memory.wf s.mem = true) : Canon (execSub d a b s) := by
  unfold execSub
  simp [h]

@[simp] theorem execMul_canon (d : SSpec) (a : SSpec) (b : SSpec) (s : State) (h : Memory.wf s.mem = true) : Canon (execMul d a b s) := by
  unfold execMul
  simp [h]

@[simp] theorem execMulh_canon (d : SSpec) (a : SSpec) (b : SSpec) (s : State) (h : Memory.wf s.mem = true) : Canon (execMulh d a b s) := by
  unfold execMulh
  simp [h]

@[simp] theorem execAnd_canon (d : SSpec) (a : SSpec) (b : SSpec) (s : State) (h : Memory.wf s.mem = true) : Canon (execAnd d a b s) := by
  unfold execAnd
  simp [h]

@[simp] theorem execOr_canon (d : SSpec) (a : SSpec) (b : SSpec) (s : State) (h : Memory.wf s.mem = true) : Canon (execOr d a b s) := by
  unfold execOr
  simp [h]

@[simp] theorem execXor_canon (d : SSpec) (a : SSpec) (b : SSpec) (s : State) (h : Memory.wf s.mem = true) : Canon (execXor d a b s) := by
  unfold execXor
  simp [h]

@[simp] theorem execAndn_canon (d : SSpec) (a : SSpec) (b : SSpec) (s : State) (h : Memory.wf s.mem = true) : Canon (execAndn d a b s) := by
  unfold execAndn
  simp [h]

@[simp] theorem execShl_canon (d : SSpec) (a : SSpec) (b : SSpec) (s : State) (h : Memory.wf s.mem = true) : Canon (execShl d a b s) := by
  unfold execShl
  simp [h]

@[simp] theorem execShr_canon (d : SSpec) (a : SSpec) (b : SSpec) (s : State) (h : Memory.wf s.mem = true) : Canon (execShr d a b s) := by
  unfold execShr
  simp [h]

@[simp] theorem execSra_canon (d : SSpec) (a : SSpec) (b : SSpec) (s : State) (h : Memory.wf s.mem = true) : Canon (execSra d a b s) := by
  unfold execSra
  simp [h]

@[simp] theorem execRotr_canon (d : SSpec) (a : SSpec) (b : SSpec) (s : State) (h : Memory.wf s.mem = true) : Canon (execRotr d a b s) := by
  unfold execRotr
  simp [h]

@[simp] theorem execMin_canon (d : SSpec) (a : SSpec) (b : SSpec) (s : State) (h : Memory.wf s.mem = true) : Canon (execMin d a b s) := by
  unfold execMin
  simp [h]

@[simp] theorem execMax_canon (d : SSpec) (a : SSpec) (b : SSpec) (s : State) (h : Memory.wf s.mem = true) : Canon (execMax d a b s) := by
  unfold execMax
  simp [h]

@[simp] theorem State.divide_canon (s : State) (d : SSpec) (a : SSpec) (b : SSpec) (rem : Bool) (h : Memory.wf s.mem = true) :
    Canon (s.divide d a b rem) := by
  unfold State.divide
  (repeat' split) <;> simp [h]

@[simp] theorem execDiv_canon (d : SSpec) (a : SSpec) (b : SSpec) (s : State) (h : Memory.wf s.mem = true) : Canon (execDiv d a b s) := by
  unfold execDiv
  simp [h]

@[simp] theorem execRem_canon (d : SSpec) (a : SSpec) (b : SSpec) (s : State) (h : Memory.wf s.mem = true) : Canon (execRem d a b s) := by
  unfold execRem
  simp [h]

@[simp] theorem execDividerRelease_canon (w : Who) (s : State) (h : Memory.wf s.mem = true) : Canon (execDividerRelease w s) := by
  unfold execDividerRelease
  (repeat' split) <;> simp [h]

@[simp] theorem execClz_canon (d : SSpec) (a : SSpec) (s : State) (h : Memory.wf s.mem = true) : Canon (execClz d a s) := by
  unfold execClz
  simp [h]

@[simp] theorem execPopc_canon (d : SSpec) (a : SSpec) (s : State) (h : Memory.wf s.mem = true) : Canon (execPopc d a s) := by
  unfold execPopc
  simp [h]

@[simp] theorem execExt_canon (d : SSpec) (a : SSpec) (pos : Fin 64) (len : Fin 64) (s : State) (h : Memory.wf s.mem = true) :
    Canon (execExt d a pos len s) := by
  unfold execExt
  simp [h]

@[simp] theorem execIns_canon (d : SSpec) (a : SSpec) (pos : Fin 64) (len : Fin 64) (s : State) (h : Memory.wf s.mem = true) :
    Canon (execIns d a pos len s) := by
  unfold execIns
  simp [h]

@[simp] theorem execAddi_canon (d : SSpec) (a : SSpec) (i : BitVec 11) (s : State) (h : Memory.wf s.mem = true) :
    Canon (execAddi d a i s) := by
  unfold execAddi
  simp [h]

@[simp] theorem execAndi_canon (d : SSpec) (a : SSpec) (i : BitVec 11) (s : State) (h : Memory.wf s.mem = true) :
    Canon (execAndi d a i s) := by
  unfold execAndi
  simp [h]

@[simp] theorem execOri_canon (d : SSpec) (a : SSpec) (i : BitVec 11) (s : State) (h : Memory.wf s.mem = true) :
    Canon (execOri d a i s) := by
  unfold execOri
  simp [h]

@[simp] theorem execXori_canon (d : SSpec) (a : SSpec) (i : BitVec 11) (s : State) (h : Memory.wf s.mem = true) :
    Canon (execXori d a i s) := by
  unfold execXori
  simp [h]

@[simp] theorem execLimm_canon (d : SSpec) (v : BitVec 16) (h : Fin 4) (s : State) (wf : Memory.wf s.mem = true) :
    Canon (execLimm d v h s) := by
  unfold execLimm
  split <;> simp [wf]

@[simp] theorem execScale_canon (d : SSpec) (a : SSpec) (m : BitVec 11) (sh : Fin 8) (s : State) (h : Memory.wf s.mem = true) :
    Canon (execScale d a m sh s) := by
  unfold execScale
  simp [h]

@[simp] theorem execCmp_canon (p : Fin 16) (a : SSpec) (b : SSpec) (c : Cond) (s : State) (h : Memory.wf s.mem = true) :
    Canon (execCmp p a b c s) := by
  unfold execCmp
  (repeat' split) <;> simp [h]

@[simp] theorem execSel_canon (d : SSpec) (a : SSpec) (b : SSpec) (n : Fin 16) (s : State) (h : Memory.wf s.mem = true) :
    Canon (execSel d a b n s) := by
  unfold execSel
  split <;> simp [h]

@[simp] theorem execCmpi_canon (p : Fin 16) (a : SSpec) (i : BitVec 11) (c : CondI) (s : State) (h : Memory.wf s.mem = true) :
    Canon (execCmpi p a i c s) := by
  unfold execCmpi
  (repeat' split) <;> simp [h]

@[simp] theorem State.predOp_canon (s : State) (d : Fin 16) (a : Fin 16) (b : Fin 16) (f : Bool → Bool → Bool)
    (h : Memory.wf s.mem = true) :
    Canon (s.predOp d a b f) := by
  unfold State.predOp
  split <;> simp [h]

@[simp] theorem execPand_canon (d : Fin 16) (a : Fin 16) (b : Fin 16) (s : State) (h : Memory.wf s.mem = true) :
    Canon (execPand d a b s) := by
  unfold execPand
  simp [h]

@[simp] theorem execPor_canon (d : Fin 16) (a : Fin 16) (b : Fin 16) (s : State) (h : Memory.wf s.mem = true) :
    Canon (execPor d a b s) := by
  unfold execPor
  simp [h]

@[simp] theorem execPxor_canon (d : Fin 16) (a : Fin 16) (b : Fin 16) (s : State) (h : Memory.wf s.mem = true) :
    Canon (execPxor d a b s) := by
  unfold execPxor
  simp [h]

@[simp] theorem execPnot_canon (d : Fin 16) (a : Fin 16) (s : State) (h : Memory.wf s.mem = true) : Canon (execPnot d a s) := by
  unfold execPnot
  simp [h]

/-! ## Functions of Machine/Dispatch -/

@[simp] theorem exec_canon (i : Instr) (s : State) (h : Memory.wf s.mem = true) : Canon (exec i s) := by
  unfold exec
  split <;> simp [h]

/-! ## Functions of Machine/Hazard -/

@[simp] theorem State.markFull_mem (s : State) (w : Who) (since : Nat) (div : Bool) : (s.markFull w since div).mem = s.mem := rfl

@[simp] theorem State.detect_mem (s s' : State) (w : Who) (i : Instr) : (s.detect s' w i).mem = s'.mem := by
  unfold State.detect
  extract_lets s1
  have h1 : s1.mem = s'.mem := by
    unfold s1
    split
    · exact State.markFull_mem _ _ _ _
    · rfl
  split
  · rfl
  split
  · split
    · rw [State.takeFault_mem, h1]
    · exact h1
  · exact h1

@[simp] theorem State.detectWord_mem (s s' : State) (r : SeatRef) (e : EngineId) : (s.detectWord s' r e).mem = s'.mem := by
  unfold State.detectWord
  dsimp only
  split
  · exact State.engineFault_mem _ _ _ _
  · rfl

/-! ## Functions of Machine/Issue -/

@[simp] theorem State.raiseStream_canon (s : State) (h : Memory.wf s.mem = true) : Canon (s.raiseStream) := by
  unfold State.raiseStream
  simp [h]

@[simp] theorem State.forgetVamo_mem (s : State) : (s.forgetVamo).mem = s.mem := by
  unfold State.forgetVamo
  split <;> simp

@[simp] theorem State.askPipe_mem (s : State) (vector : Bool) (ask : Bool) : (s.askPipe vector ask).mem = s.mem := rfl

@[simp] theorem State.runInstr_canon (s : State) (word : Nat) (i : Instr) (h : Memory.wf s.mem = true) : Canon (s.runInstr word i) := by
  unfold State.runInstr
  extract_lets s0
  have h0 : Memory.wf s0.mem = true := by rw [State.forgetVamo_mem]; exact h
  split
  next s' e =>
    have h' : Memory.wf s'.mem = true := exec_canon i s0 h0 s' e
    (repeat' split) <;> simp [h0, h']
  · exact exec_canon i s0 h0

@[simp] theorem State.runWord_canon (s : State) (w : IWord) (h : Memory.wf s.mem = true) : Canon (s.runWord w) := by
  unfold State.runWord
  (repeat' split) <;> simp [h]

@[simp] theorem State.awaitFetch_canon (s : State) (h : Memory.wf s.mem = true) : Canon (s.awaitFetch) := by
  unfold State.awaitFetch
  split <;> simp [h]

@[simp] theorem State.countIssue_mem (s' : State) (s : State) : (s'.countIssue s).mem = s'.mem := by
  unfold State.countIssue
  dsimp only
  split <;> simp

@[simp] theorem State.issueHere_canon (s : State) (h : Memory.wf s.mem = true) : Canon s.issueHere := by
  unfold State.issueHere
  split
  · simp [h]
  · simp [h]
  next w _ =>
  split
  next s' e => exact (canon_next _).2 (by rw [State.countIssue_mem]; exact State.runWord_canon s w h s' e)
  · exact State.runWord_canon s w h

@[simp] theorem State.issueAct_canon (s : State) (w : Who) (h : Memory.wf s.mem = true) : Canon (s.issueAct w) := by
  unfold State.issueAct
  split <;> simp [h]

@[simp] theorem State.wordFetchFault_canon (s : State) (f : Flt) (h : Memory.wf s.mem = true) : Canon (s.wordFetchFault f) := by
  unfold State.wordFetchFault
  simp [h]

@[simp] theorem State.wordHere_canon (s : State) (h : Memory.wf s.mem = true) : Canon s.wordHere := by
  unfold State.wordHere
  extract_lets st e pc
  split
  · simp [h]
  · simp [h]
  next w _ =>
  extract_lets run
  have hrun : ∀ next, Canon (run next) := fun next => by
    unfold run
    split
    next s' c => exact (canon_next _).2 (by rw [State.detectWord_mem]; exact exec_canon _ s h s' c)
    · exact exec_canon _ s h
  split
  · split
    · simp [h]
    · simp [h]
    · exact hrun _
  · exact hrun 0

@[simp] theorem State.wordAct_canon (s : State) (core : Fin 904) (e : EngineId) (seat : Fin 2) (h : Memory.wf s.mem = true) :
    Canon (s.wordAct core e seat) := by
  unfold State.wordAct
  dsimp only
  split <;> simp [h]

@[simp] theorem State.record_mem (s : State) (a : Act) : (s.record a).mem = s.mem := by
  unfold State.record
  split <;> simp

@[simp] theorem State.eventAct_canon (s : State) (i : Instr) (h : Memory.wf s.mem = true) : Canon (s.eventAct i) := by
  unfold State.eventAct
  split
  · exact exec_canon i s h
  · exact (canon_next s).2 h

@[simp] theorem State.coreCycle_mem (s : State) (c : Fin 904) : (s.coreCycle c).mem = s.mem := by
  rw [State.coreCycle, State.limits_mem, State.limits_mem, State.feedElems_mem, State.feedElems_mem, State.cycleAct_mem]

@[simp] theorem State.doAct_canon (s : State) (a : Act) (h : Memory.wf s.mem = true) : Canon (s.doAct a) := by
  cases a
  case remoteWake w =>
    refine (canon_next _).2 ?_
    split <;> simp [h]
  all_goals simp [State.doAct, h]

@[simp] theorem State.injectAct_canon (s : State) (h : Memory.wf s.mem = true) : Canon (s.injectAct) := by
  unfold State.injectAct
  (repeat' split) <;> simp [h]

@[simp] theorem State.act_canon (s : State) (a : Act) (h : Memory.wf s.mem = true) : Canon (s.act a) := by
  unfold State.act
  (repeat' split) <;> simp [h]

@[simp] theorem State.turnPage_mem (s : State) : (s.turnPage).mem = s.mem := rfl

@[simp] theorem State.stepAct_canon (s : State) (h : Memory.wf s.mem = true) : Canon (s.stepAct) := by
  unfold State.stepAct
  dsimp only
  (repeat' split) <;> simp [h]

/-! ## Functions of Machine/Step -/

@[simp] theorem step_canon (s : State) (h : Memory.wf s.mem = true) : Canon (step s) := by
  unfold step
  simp [h]

/-- Settles O58: a step is one act, and every function that an act can reach either leaves memory as it is or writes it place by place
through `writePlace`, which keeps the canonical form. -/
theorem memoryStaysCanonical : Obligations.MemoryStaysCanonical := by
  unfold Obligations.MemoryStaysCanonical
  intro s t h e
  exact step_canon s h t e

end Sys2Proof.Machine
end

section
/-! SUPPORT. An access that has read queue operands and goes on, and obligation O20 (R208 to R211). -/
namespace Sys2Proof.Machine

/-! ## Going on behind read operands -/

/-- Reading sources changes queue registers alone. -/
theorem Seat.takeAll_eq (st : Seat) (now : Nat) (srcs : List SSpec) : st.takeAll now srcs = { st with q := (st.takeAll now srcs).q } := by
  unfold Seat.takeAll
  induction srcs generalizing st with
  | nil => rfl
  | cons a r ih =>
    rw [List.foldl_cons]
    refine (ih _).trans ?_
    cases a <;> rfl

theorem Seat.goOn_withQ (st : Seat) (q : Vector Fifo 16) (i : StreamId) (now : Nat) (r : Stream × Bool) :
    ({ st with q := q } : Seat).goOn i now r = { st.goOn i now r with q := q } := by
  unfold Seat.goOn Seat.turnRrb
  dsimp only
  split <;> split <;> rfl

theorem AccessWent.turn {s t : State} {srcs : List SSpec} (h : AccessWent s t srcs) : t.turn = s.turn := by rw [← h.rest]

/-- An access that has gone on, and has read sources beside. -/
theorem AccessWent.taking {s t : State} (h : AccessWent s t []) {q : Vector Fifo 16} {srcs : List SSpec}
    (items : ∀ n : Fin 16, q[n].items = s.mySeat.q[n].items.drop (qCount n srcs)) :
    AccessWent s (t.modMySeat fun st => { st with q := q }) srcs := by
  let u := t.modMySeat fun st => { st with q := q }
  have turn := h.turn
  obtain ⟨⟨-, cores⟩, mine, seats⟩ : OnlySeat s.turn.ref t u := turn ▸ onlySeat_modSeat t t.turn.ref _
  have seat : u.mySeat = { t.mySeat with q := q } := State.modMySeat_mySeat _ _
  have me : u.me = t.me := State.modMySeat_me _ _
  refine ⟨h.rest, fun k hk => (cores k hk).trans (h.cores k hk), ?mine, fun k hk => (seats k hk).trans (h.seats k hk), h.errors, ?seat,
    ?sched, fun j hj => ?others, ?stream, ?regs, fun n => ?queues, ?went⟩
  case mine =>
    have := congrArg (fun c : Core => { c with seat := s.core[s.turn.ref.core].seat }) mine
    exact this.trans h.mine
  case seat => rw [show (t.modMySeat _).mySeat = _ from seat]; exact h.seat
  case sched => rw [show (t.modMySeat _).mySeat = _ from seat]; exact h.sched
  case others => rw [show (t.modMySeat _).mySeat = _ from seat]; exact h.others j hj
  case stream => rw [show (t.modMySeat _).me = _ from me]; exact h.stream
  case regs => unfold SameRegs; rw [show (t.modMySeat _).me = _ from me]; exact h.regs
  case queues =>
    rw [show (t.modMySeat _).mySeat = _ from seat]
    simpa using items n
  case went => unfold WentOn Went; rw [show (t.modMySeat _).me = _ from me, show (t.modMySeat _).mySeat = _ from seat]; exact h.went

/-! ## Issuing -/

/-- The seat that has read its sources and goes on in sequence. -/
def Seat.accessDone (st : Seat) (i : StreamId) (now : Nat) (srcs : List SSpec) : Seat :=
  (st.takeAll now srcs).goOn i now (st.getStr i).advance

theorem Seat.accessDone_queues (st : Seat) (i : StreamId) (now : Nat) (srcs : List SSpec) :
    (st.accessDone i now srcs).ln = st.ln ∧ (st.accessDone i now srcs).loads = st.loads ∧
      (st.accessDone i now srcs).stores = st.stores ∧ (st.accessDone i now srcs).sideLog = st.sideLog := by
  have keeps : KeepsSeat i st (st.accessDone i now srcs) := by
    refine keepsSeat_trans (Seat.takeAll_keeps i now srcs st) (keepsSeat_goOn i _ now _ ?_)
    rw [Seat.takeAll_getStr]
    exact advance_keeps _
  exact keeps.queues

/-- The running stream of a state whose seat has become `c` reads its sources and goes on. -/
theorem State.retire_takes {s n : State} (notes : OnlyNotes s n) (g : Seat → Seat) (k : Nat) (srcs : List SSpec) :
    (State.takes { n.modMySeat g with seq := k } srcs).retire =
      ({ n with seq := k } : State).modMySeat fun _ => (g s.mySeat).accessDone s.turn.stream s.now srcs := by
  let u : State := { n with seq := k }
  have turn : u.turn = s.turn := by show n.turn = _; rw [notes.rest]
  have seat : u.mySeat = s.mySeat := by unfold State.mySeat State.getSeat; rw [turn, show u.core = _ from notes.core]
  have now : (u.modMySeat g).now = s.now := (State.modMySeat_now _ _).trans notes.now
  show (State.takes (u.modMySeat g) srcs).retire = _
  rw [State.takes, State.retire_eq, State.takeAll_now, State.takeAll_modMySeat, State.modMySeat_modMySeat, now]
  refine State.modMySeat_congr u ?_
  show Seat.goOn (Seat.takeAll _ _ _) (State.turn _).stream _ (Seat.getStr _ _).advance = _
  rw [State.takeAll_turn, show (u.modMySeat g).turn = s.turn from turn, seat, Seat.takeAll, Seat.takeAll_getStr]
  rfl

theorem accessWent_issued {s n : State} (notes : OnlyNotes s n) (k : Nat) {c : Seat} (acc : Accessed s.turn.stream s.mySeat c)
    (srcs : List SSpec) :
    AccessWent s (({ n with seq := k } : State).modMySeat fun _ => c.accessDone s.turn.stream s.now srcs) srcs := by
  have went := accessWent_goOn notes k acc
  have q : c.q = s.mySeat.q := by rw [← acc.rest]
  have items (m : Fin 16) : (c.takeAll s.now srcs).q[m].items = s.mySeat.q[m].items.drop (qCount m srcs) := by
    rw [← q]; exact Seat.takeAll_items s.now srcs c m
  have done : c.accessDone s.turn.stream s.now srcs =
      { c.goOn s.turn.stream s.now (c.getStr s.turn.stream).advance with q := (c.takeAll s.now srcs).q } := by
    rw [Seat.accessDone, Seat.takeAll_eq, Seat.goOn_withQ]
  have := went.taking items
  rw [State.modMySeat_modMySeat] at this
  rw [done]
  exact this

/-! ## Scalar loads and prefetches -/

/-- The seat after the issue of a load request that takes no slot. -/
def Seat.requested (st : Seat) (i : StreamId) (m : Marks) (counted : Bool) (l : LoadReq) : Seat := ((st.marked i m).hinted counted).addLoad l

theorem Seat.accessed_hinted (st : Seat) (i : StreamId) (counted : Bool) : Accessed i st (st.hinted counted) := by
  cases counted with
  | true => exact accessed_count _ i 11 1
  | false => exact accessed_ln _ i _

theorem Seat.accessed_requested (st : Seat) (i : StreamId) (m : Marks) (counted : Bool) (l : LoadReq) :
    Accessed i st (st.requested i m counted l) :=
  accessed_trans (accessed_marked st i m) (accessed_trans (Seat.accessed_hinted _ i counted) (accessed_loads _ i _))

/-- A load request enters the queue from the state in which its address has been looked up, and its stream goes on. -/
theorem requested_issued {s f : State} (notes : OnlyNotes s f) (m : Marks) (counted : Bool) (l : LoadReq) {t : State}
    (ht : t = (((f.modMySeat fun st => st.marked s.turn.stream m).modMySeat fun st => st.hinted counted).pushLoad l).retire) :
    AccessWent s t [] ∧ t.mySeat.ln = s.mySeat.ln ∧ t.mySeat.stores = s.mySeat.stores ∧ t.mySeat.sideLog = s.mySeat.sideLog ∧
      t.mySeat.loads = s.mySeat.loads ++ [l] := by
  let c := s.mySeat.requested s.turn.stream m counted l
  have seq : f.seq = s.seq := by rw [notes.rest]
  have run : t = ({ f with seq := s.seq + 1 } : State).modMySeat fun _ => c.accessDone s.turn.stream s.now [] := by
    rw [ht, ← State.retire_takes notes (fun st => st.requested s.turn.stream m counted l) (s.seq + 1) [], State.pushLoad,
      State.modMySeat_modMySeat, State.modMySeat_modMySeat, State.bump, ← seq]
    rfl
  have same : c.ln = s.mySeat.ln ∧ c.stores = s.mySeat.stores ∧ c.sideLog = s.mySeat.sideLog ∧ c.loads = s.mySeat.loads ++ [l] := by
    cases counted <;> exact ⟨rfl, rfl, rfl, rfl⟩
  obtain ⟨ln, loads, stores, sideLog⟩ := c.accessDone_queues s.turn.stream s.now []
  obtain ⟨ln', stores', sideLog', loads'⟩ := same
  rw [run, State.modMySeat_mySeat]
  exact ⟨accessWent_issued notes _ (Seat.accessed_requested _ _ _ _ _) [], ln.trans ln', stores.trans stores', sideLog.trans sideLog',
    loads.trans loads'⟩

/-- A scalar load whose address has passed its checks, fewer than 16 being in flight (R208, R209). -/
theorem scalarLoad_ok {s : State} {va : Word} {size : Nat} {skew : Bool} {p : Place} (room : s.mySeat.scalarLoads < 16)
    (ok : (s.check s.turn va size .rd skew false).1 = .ok p) (d : SSpec) (acq : Option Scope) (hint : Option (Fin 8)) :
    ∃ t, s.scalarLoad d va size skew acq hint = .next t ∧ ScalarLoadIssued s t d p va size acq := by
  obtain ⟨f, m, notes, look⟩ := looked_check s va size .rd skew false
  obtain ⟨counted, hc⟩ := (f.modMySeat fun st => st.marked s.turn.stream m).noteHint_eq va hint p
  let l : LoadReq := { s.newReq (.scalar d) p va size 0 acq with
    got := (s.mySeat.forwarded s.turn.stream s.seq p size).map fun v => ⟨.ok, v, true⟩ }
  have checked : s.check s.turn va size .rd skew false = (.ok p, f.modMySeat fun st => st.marked s.turn.stream m) := Prod.ext ok look
  obtain ⟨went, ln, stores, sideLog, loads⟩ := requested_issued notes m counted l rfl
  refine ⟨_, ?_, went, ln, stores, sideLog, loads⟩
  unfold State.scalarLoad
  rw [checked]
  dsimp only
  rw [if_neg (by omega), hc]
  rfl

theorem attributedLoad_scalar {s : State} {b : Fin 32} {d : SSpec} (ready : Ready s [.x b] [d]) (gate : s.gated = false) (y : Fin 32)
    (z : Fin 4) (vec skew : Bool) (acq : Option Scope) (hint : Option (Fin 8)) :
    s.attributedLoad (.scalar d) b y z vec skew acq hint = s.scalarLoad d (s.me.rdX b) (2 ^ z.val) skew acq hint := by
  have ok : s.classOk [] [d] = true := by simpa [State.classOk, srcClass] using ready.1
  have wait : s.memWait [.x b] [d] = none := by
    unfold State.memWait
    rw [ready.2]
    simp [gate]
  unfold State.attributedLoad
  dsimp only
  rw [ok, wait]
  rfl

/-- A prefetch that is dropped: its stream goes on behind what its address's look-up has changed (R211). -/
theorem looked_retire {s t : State} (look : Looked s t) :
    AccessWent s t.retire [] ∧ t.retire.mySeat.ln = s.mySeat.ln ∧ t.retire.mySeat.loads = s.mySeat.loads := by
  obtain ⟨f, m, notes, rfl⟩ := look
  have run := State.retire_takes notes (fun st => st.marked s.turn.stream m) f.seq []
  obtain ⟨ln, loads, -, -⟩ := (s.mySeat.marked s.turn.stream m).accessDone_queues s.turn.stream s.now []
  rw [show (f.modMySeat fun st => st.marked s.turn.stream m).retire = _ from run, State.modMySeat_mySeat]
  exact ⟨accessWent_issued notes _ (accessed_marked _ _ _) [], ln, loads⟩

theorem pref_issued {s : State} {b : Fin 32} (ready : Ready s [.x b] []) (gate : s.gated = false) (y : Fin 32) (z : Fin 4)
    (o : BitVec 8) :
    let size : Nat := 32 * 2 ^ z.val
    let va := s.me.rdX b + BitVec.ofInt 64 (o.toInt * size)
    Runs (.pref b y z o) s fun t => AccessWent s t [] ∧ t.mySeat.ln = s.mySeat.ln ∧
      match (s.check s.turn va size .rd false false).1 with
      | .ok p => if isWindow va then t.mySeat.loads = s.mySeat.loads else Requested s t .pref p va size y none none
      | _ => t.mySeat.loads = s.mySeat.loads := by
  intro size va
  have look := looked_check s va size .rd false false
  have run : exec (.pref b y z o) s = execPref b y z o s := rfl
  rw [Runs, run, execPref, memWait_none ready gate]
  show ∃ t, (match s.check s.turn va size .rd false false with
    | (.ok p, s1) => if isWindow va then .next s1.retire else .next ((s1.pushLoad (s.newReq .pref p va size y none)).retire)
    | (_, s1) => .next s1.retire) = Host.Outcome.next t ∧ _
  generalize s.check s.turn va size .rd false false = c at look ⊢
  obtain ⟨a, s1⟩ := c
  cases a with
  | fault f => exact ⟨_, rfl, looked_retire look⟩
  | missing d => exact ⟨_, rfl, looked_retire look⟩
  | ok p =>
    dsimp only
    by_cases window : isWindow va = true
    · simp only [if_pos window]
      exact ⟨_, rfl, looked_retire look⟩
    · simp only [if_neg window]
      obtain ⟨f, m, notes, rfl⟩ := look
      obtain ⟨went, ln, stores, sideLog, loads⟩ := requested_issued notes m false (s.newReq .pref p va size y none) rfl
      rw [show ((f.modMySeat fun st => st.marked s.turn.stream m).modMySeat fun st => st.hinted false) =
        f.modMySeat fun st => st.marked s.turn.stream m from State.modMySeat_id _] at went ln stores sideLog loads
      exact ⟨_, rfl, went, ln, stores, sideLog, loads⟩

/-- Settles O20: a scalar load is `scalarLoad` at its address, and a prefetch goes on whatever its checks say. -/
theorem scalarLoadsAndPrefetches : Obligations.ScalarLoadsAndPrefetches := by
  unfold Obligations.ScalarLoadsAndPrefetches
  refine ⟨fun s d b p ready gate room => ⟨fun g hd hb ok => ?ldx, fun g hd hb ok => ?lda⟩, fun s b y z o ready gate => ?pref⟩
  case ldx =>
    subst hb
    have run : exec (.ldx g) s = s.scalarLoad d (s.me.rdX g.base) (2 ^ g.size.val) g.skew none g.hint := by
      rw [← attributedLoad_scalar ready gate g.sym g.size g.vec, ← hd]
      rfl
    rw [Runs, run]
    exact scalarLoad_ok room ok d none g.hint
  case lda =>
    subst hb
    have run : exec (.lda g) s = s.scalarLoad d (s.me.rdX g.base) (2 ^ g.size.val) g.skew (some g.scope) none := by
      rw [← attributedLoad_scalar ready gate g.sym g.size g.vec, ← hd]
      rfl
    rw [Runs, run]
    exact scalarLoad_ok room ok d (some g.scope) none
  case pref => exact pref_issued ready gate y z o

end Sys2Proof.Machine
end

section
/-! SUPPORT. Stores and reductions that go on into the store queue or the side log, and obligation O21 (R206, R209, R213, R220). -/
namespace Sys2Proof.Machine

/-! ## An entry of the store queue or of the side log -/

/-- A store or reduction of the data given stands in the store queue, or in the side log when it joins it. -/
def Stored (s t : State) (k : WKind) (kind : Fin 8) (va : Word) (size : Nat) (data : VData) (rel : Option Scope) (hint : Option (Fin 8))
    (joins : Bool) (p : Place) : Prop :=
  if joins then
    t.mySeat.stores = s.mySeat.stores ∧ ∃ e : LogEntry, t.mySeat.sideLog = s.mySeat.sideLog ++ [e] ∧ e.kind = kind ∧
      e.src = s.turn.stream ∧ e.size = size ∧ e.rel = rel ∧ e.hint = hint ∧ e.va = va ∧ e.data = data ∧ e.seq = s.seq ∧ e.conj = s.myConj
  else
    t.mySeat.sideLog = s.mySeat.sideLog ∧ t.mySeat.stores = s.mySeat.stores ++ [{ s.newStore k p va size data rel with hint := hint }]

/-- A store that has gone on, by the entry it has made. -/
theorem storeIssued_of {s t : State} {srcs : List SSpec} {k : WKind} {kind : Fin 8} {va : Word} {size : Nat} {data : VData}
    {bits : Nat → Bool} {rel : Option Scope} {hint : Option (Fin 8)} {joins : Bool} {p : Place} (went : AccessWent s t srcs)
    (ln : t.mySeat.ln = s.mySeat.ln) (loads : t.mySeat.loads = s.mySeat.loads)
    (stored : Stored s t k kind va size data rel hint joins p)
    (hdata : ∀ b < 2048, data.getLsbD b = (decide (b < 8 * size) && bits b)) :
    StoreIssued s t srcs k kind va size bits rel hint joins p := ⟨went, ln, loads, data, hdata, stored⟩

/-- An access that has changed its seat by `g` takes its number, reads its sources and goes on. -/
theorem numbered_issued {s f : State} (notes : OnlyNotes s f) (g : Seat → Seat) (acc : Accessed s.turn.stream s.mySeat (g s.mySeat))
    (srcs : List SSpec) :
    let t := (State.takes (f.modMySeat g).bump srcs).retire
    AccessWent s t srcs ∧ t.mySeat.ln = (g s.mySeat).ln ∧ t.mySeat.loads = (g s.mySeat).loads ∧
      t.mySeat.stores = (g s.mySeat).stores ∧ t.mySeat.sideLog = (g s.mySeat).sideLog := by
  intro t
  have run : t = ({ f with seq := f.seq + 1 } : State).modMySeat fun _ => (g s.mySeat).accessDone s.turn.stream s.now srcs :=
    State.retire_takes notes g (f.seq + 1) srcs
  rw [run, State.modMySeat_mySeat]
  exact ⟨accessWent_issued notes _ acc srcs, (g s.mySeat).accessDone_queues s.turn.stream s.now srcs⟩

theorem accessed_stores (st : Seat) (i : StreamId) (l : List StoreReq) : Accessed i st { st with stores := l } :=
  ⟨rfl, fun _ _ => rfl, st.marks i, rfl⟩

theorem accessed_sideLog (st : Seat) (i : StreamId) (l : List LogEntry) : Accessed i st { st with sideLog := l } :=
  ⟨rfl, fun _ _ => rfl, st.marks i, rfl⟩

theorem accessed_toLog (st : Seat) (i : StreamId) (r : StoreReq) (kind : Fin 8) (e : Nat) : Accessed i st (st.toLog r kind e) :=
  accessed_trans (accessed_sideLog st i _) (accessed_count _ i 13 1)

section
variable {s f : State} {m : Marks} (notes : OnlyNotes s f)
include notes

theorem OnlyNotes.turn : f.turn = s.turn := by rw [notes.rest]

/-- The marks of a look-up leave the running seat's queues, and what an entry of them records. -/
theorem newStore_looked (k : WKind) (p : Place) (va : Word) (n : Nat) (data : VData) (rel : Option Scope) :
    (f.modMySeat fun st => st.marked s.turn.stream m).newStore k p va n data rel = s.newStore k p va n data rel := by
  have core : (f.modMySeat fun st => st.marked s.turn.stream m).myCore.cycle = s.myCore.cycle := by
    simp [State.myCore, State.modMySeat, State.modSeat, State.setSeat, notes.core, notes.turn]
  have conj : (f.modMySeat fun st => st.marked s.turn.stream m).myConj = s.myConj := by
    unfold State.myConj
    rw [State.modMySeat_mySeat, show (f.modMySeat fun st => st.marked s.turn.stream m).turn = s.turn from notes.turn,
      show f.mySeat = s.mySeat by unfold State.mySeat; rw [notes.getSeat, notes.turn]]
    rfl
  unfold State.newStore
  rw [core, conj, show (f.modMySeat fun st => st.marked s.turn.stream m).turn = s.turn from notes.turn,
    show (f.modMySeat fun st => st.marked s.turn.stream m).seq = s.seq by show f.seq = _; rw [notes.rest]]

/-- The entry goes into the side log. -/
theorem pushLog_issued (k : WKind) (p : Place) (va : Word) (n : Nat) (data : VData) (rel : Option Scope) (hint : Option (Fin 8))
    (kind : Fin 8) (srcs : List SSpec) (q : Place) :
    let t := (State.takes ((f.modMySeat fun st => st.marked s.turn.stream m).pushLog
      { s.newStore k p va n data rel with hint := hint } kind 0) srcs).retire
    AccessWent s t srcs ∧ t.mySeat.ln = s.mySeat.ln ∧ t.mySeat.loads = s.mySeat.loads ∧
      Stored s t k kind va n data rel hint true q := by
  let r : StoreReq := { s.newStore k p va n data rel with hint := hint }
  have acc := accessed_trans (accessed_marked s.mySeat s.turn.stream m) (accessed_toLog _ _ r kind 0)
  obtain ⟨went, ln, loads, stores, sideLog⟩ := numbered_issued notes (fun st => (st.marked s.turn.stream m).toLog r kind 0) acc srcs
  rw [State.pushLog, State.modMySeat_modMySeat]
  exact ⟨went, ln, loads, stores, _, sideLog, rfl, rfl, rfl, rfl, rfl, rfl, rfl, rfl, rfl⟩

/-- The entry goes into the store queue. -/
theorem pushStore_issued (k : WKind) (p : Place) (va : Word) (n : Nat) (data : VData) (rel : Option Scope) (hint : Option (Fin 8))
    (kind : Fin 8) (srcs : List SSpec) :
    let t := (State.takes (((f.modMySeat fun st => st.marked s.turn.stream m).noteHint va hint p).pushStore
      { s.newStore k p va n data rel with hint := hint }) srcs).retire
    AccessWent s t srcs ∧ t.mySeat.ln = s.mySeat.ln ∧ t.mySeat.loads = s.mySeat.loads ∧
      Stored s t k kind va n data rel hint false p := by
  let r : StoreReq := { s.newStore k p va n data rel with hint := hint }
  obtain ⟨counted, hc⟩ := (f.modMySeat fun st => st.marked s.turn.stream m).noteHint_eq va hint p
  let g (st : Seat) : Seat := let a := (st.marked s.turn.stream m).hinted counted; { a with stores := a.stores ++ [r] }
  have acc : Accessed s.turn.stream s.mySeat (g s.mySeat) :=
    accessed_trans (accessed_marked s.mySeat s.turn.stream m) (accessed_trans (Seat.accessed_hinted _ _ counted) (accessed_stores _ _ _))
  obtain ⟨went, ln, loads, stores, sideLog⟩ := numbered_issued notes g acc srcs
  rw [hc, State.pushStore, State.modMySeat_modMySeat, State.modMySeat_modMySeat]
  have same : (g s.mySeat).ln = s.mySeat.ln ∧ (g s.mySeat).loads = s.mySeat.loads ∧ (g s.mySeat).stores = s.mySeat.stores ++ [r] ∧
      (g s.mySeat).sideLog = s.mySeat.sideLog := by
    cases counted <;> exact ⟨rfl, rfl, rfl, rfl⟩
  obtain ⟨ln', loads', stores', sideLog'⟩ := same
  exact ⟨went, ln.trans ln', loads.trans loads', sideLog.trans sideLog', stores.trans stores'⟩

end

/-! ## Placing -/

section
variable {s s1 : State} (look : Looked s s1) (room : s.mySeat.storeRoom s.myCore.cycle = true) (log : s.mySeat.sideLog.length < 64)
  (k : WKind) (kind : Fin 8) (va : Word) (n : Nat) (data : VData) (rel : Option Scope) (hint : Option (Fin 8)) (srcs : List SSpec)
include look

theorem Looked.mySeat : s1.mySeat.stores = s.mySeat.stores ∧ s1.mySeat.sideLog = s.mySeat.sideLog ∧ s1.mySeat.left = s.mySeat.left ∧
    s1.myCore.cycle = s.myCore.cycle := by
  obtain ⟨f, m, notes, rfl⟩ := look
  have seat : f.mySeat = s.mySeat := by unfold State.mySeat; rw [notes.getSeat, notes.turn]
  rw [State.modMySeat_mySeat, seat]
  refine ⟨rfl, rfl, rfl, ?_⟩
  simp [State.myCore, State.modMySeat, State.modSeat, State.setSeat, notes.core, notes.turn]

include log

/-- A store whose page is missing goes into the side log (R213). -/
theorem placeStore_missing (d : Nat) : ∃ s2, s1.placeStore (.missing d) va n k data rel hint kind = some s2 ∧
    let t := (s2.takes srcs).retire
    AccessWent s t srcs ∧ t.mySeat.ln = s.mySeat.ln ∧ t.mySeat.loads = s.mySeat.loads ∧
      Stored s t k kind va n data rel hint true default := by
  obtain ⟨-, sideLog, -⟩ := look.mySeat
  unfold State.placeStore
  dsimp only
  rw [sideLog, if_neg (by omega)]
  obtain ⟨f, m, notes, rfl⟩ := look
  rw [newStore_looked notes]
  exact ⟨_, rfl, pushLog_issued notes k default va n data rel hint kind srcs default⟩

include room

/-- A store whose address has passed its checks: behind an entry of its page it goes into the side log, else into the store queue
(R209, R213). -/
theorem placeStore_ok (p : Place) : ∃ s2, s1.placeStore (.ok p) va n k data rel hint kind = some s2 ∧
    let t := (s2.takes srcs).retire
    AccessWent s t srcs ∧ t.mySeat.ln = s.mySeat.ln ∧ t.mySeat.loads = s.mySeat.loads ∧
      Stored s t k kind va n data rel hint (s1.joinsLog va) p := by
  obtain ⟨stores, sideLog, left, cycle⟩ := look.mySeat
  have free : s1.mySeat.storeRoom s1.myCore.cycle = true := by
    rw [cycle]
    unfold Seat.storeRoom at room ⊢
    rwa [stores, left]
  unfold State.placeStore
  dsimp only
  rw [sideLog, free]
  obtain ⟨f, m, notes, rfl⟩ := look
  rw [newStore_looked notes]
  by_cases joins : (f.modMySeat fun st => st.marked s.turn.stream m).joinsLog va = true
  · rw [if_pos joins, if_neg (by omega), joins]
    exact ⟨_, rfl, pushLog_issued notes k p va n data rel hint kind srcs p⟩
  · rw [if_neg joins, if_neg (by simp), Bool.eq_false_of_not_eq_true joins]
    exact ⟨_, rfl, pushStore_issued notes k p va n data rel hint kind srcs⟩

end

/-! ## ST, STX and STL -/

/-- Bit k of a store's operand. -/
def State.storeBit (s : State) (d : SSpec) (k : Nat) : Bool :=
  match d with
  | .x n => (s.me.rdX n).getLsbD k
  | .q n => (s.mySeat.q[n].head).getLsbD k

theorem getLsbD_lowBytes (v : VData) (n b : Nat) (h : b < 2048) :
    (v &&& BitVec.ofNat 2048 (ones (8 * n))).getLsbD b = (decide (b < 8 * n) && v.getLsbD b) := by
  rw [BitVec.getLsbD_and, BitVec.getLsbD_ofNat, ones, Nat.testBit_two_pow_sub_one, Bool.and_comm]
  simp [h]

theorem storeData_getLsbD (s : State) (d : SSpec) (size b : Nat) (h : b < 2048) :
    (s.storeData d size).getLsbD b = (decide (b < 8 * size) && s.storeBit d b) := by
  unfold State.storeData
  rw [getLsbD_lowBytes _ _ _ h]
  cases d with
  | x n => simp [State.storeBit, h]
  | q n => rfl

section
variable {s : State} {d : SSpec} {b : Fin 32} (cls : s.storeClass d = true) (wait : s.memWait [.x b, d] [] = none)
  (room : s.mySeat.storeRoom s.myCore.cycle = true) (log : s.mySeat.sideLog.length < 64)
  {va : Word} {size : Nat} {skew : Bool} (rel : Option Scope) (hint : Option (Fin 8))
include cls wait log

/-- A store on a missing page (R213). -/
theorem storeAt_missing {k : Nat} (missing : (s.check s.turn va size .wr skew true).1 = .missing k) :
    ∃ t, s.storeAt d b va size skew rel hint = .next t ∧
      StoreIssued s t [.x b, d] .store 0 va size (s.storeBit d) rel hint true default := by
  have look := looked_check s va size .wr skew true
  unfold State.storeAt
  rw [cls, wait]
  generalize s.check s.turn va size .wr skew true = c at *
  obtain ⟨a, s1⟩ := c
  cases missing
  obtain ⟨s2, place, went, ln, loads, stored⟩ :=
    placeStore_missing look log .store 0 va size (s.storeData d size) rel hint [.x b, d] k
  dsimp only
  rw [place]
  exact ⟨_, rfl, storeIssued_of went ln loads stored fun k hk => storeData_getLsbD s d size k hk⟩

include room

/-- A store whose address has passed its checks (R209). -/
theorem storeAt_ok {p : Place} (ok : (s.check s.turn va size .wr skew true).1 = .ok p) :
    ∃ t, s.storeAt d b va size skew rel hint = .next t ∧
      StoreIssued s t [.x b, d] .store 0 va size (s.storeBit d) rel hint ((s.check s.turn va size .wr skew true).2.joinsLog va) p := by
  have look := looked_check s va size .wr skew true
  unfold State.storeAt
  rw [cls, wait]
  generalize s.check s.turn va size .wr skew true = c at *
  obtain ⟨a, s1⟩ := c
  cases ok
  obtain ⟨s2, place, went, ln, loads, stored⟩ :=
    placeStore_ok look room log .store 0 va size (s.storeData d size) rel hint [.x b, d] p
  dsimp only
  rw [place]
  exact ⟨_, rfl, storeIssued_of went ln loads stored fun k hk => storeData_getLsbD s d size k hk⟩

end

theorem isVecQ_eq (d : SSpec) : isVecQ d = (match d with | .q 8 => true | .q 9 => true | _ => false) := by
  cases d with
  | x n => rfl
  | q n => revert n; decide

/-! ## RED -/

theorem redData_getLsbD (v : Word) (n b : Nat) (h : b < 2048) :
    (BitVec.ofNat 2048 (v.toNat % 2 ^ (8 * n))).getLsbD b = (decide (b < 8 * n) && v.getLsbD b) := by
  rw [BitVec.getLsbD_ofNat, Nat.testBit_mod_two_pow]
  simp [h, BitVec.getLsbD]

section
variable {s : State} {g : RedArgs} (ready : Ready s [g.a, g.b] []) (gate : s.gated = false)
include ready gate

/-- What RED does is what its address's checks say. -/
theorem exec_red : exec (.red g) s =
    match s.check s.turn (s.two g.a g.b).1 (atomSize g.dbl) .at' false true with
    | (.fault f, s1) => s1.raise f
    | (acc, s1) =>
      match s1.placeStore acc (s.two g.a g.b).1 (atomSize g.dbl) (.red g.op)
          (BitVec.ofNat 2048 ((s.two g.a g.b).2.toNat % 2 ^ (8 * atomSize g.dbl))) none none 1 with
      | none => s.stall none
      | some s2 => .next ((s2.takes [g.a, g.b]).retire) := by
  have wait : s.memWait [g.a, g.b] [] = none := by
    unfold State.memWait
    rw [ready.2]
    simp [gate]
  show execRed g s = _
  unfold execRed
  rw [ready.1, wait]
  rfl

theorem red_fault {f : Flt} (fault : (s.check s.turn (s.two g.a g.b).1 (atomSize g.dbl) .at' false true).1 = .fault f) :
    exec (.red g) s = .next
      ((s.check s.turn (s.two g.a g.b).1 (atomSize g.dbl) .at' false true).2.takeFault s.turn.ref f s.turn.stream.idx.val) := by
  have look := looked_check s (s.two g.a g.b).1 (atomSize g.dbl) .at' false true
  rw [exec_red ready gate]
  generalize s.check s.turn (s.two g.a g.b).1 (atomSize g.dbl) .at' false true = c at *
  obtain ⟨a, s1⟩ := c
  cases fault
  rw [← look.turn]
  rfl

variable (log : s.mySeat.sideLog.length < 64)
include log

theorem red_missing {k : Nat} (missing : (s.check s.turn (s.two g.a g.b).1 (atomSize g.dbl) .at' false true).1 = .missing k) :
    Runs (.red g) s fun t => StoreIssued s t [g.a, g.b] (.red g.op) 1 (s.two g.a g.b).1 (atomSize g.dbl)
      (fun k => (s.two g.a g.b).2.getLsbD k) none none true default := by
  have look := looked_check s (s.two g.a g.b).1 (atomSize g.dbl) .at' false true
  rw [Runs, exec_red ready gate]
  generalize s.check s.turn (s.two g.a g.b).1 (atomSize g.dbl) .at' false true = c at *
  obtain ⟨a, s1⟩ := c
  cases missing
  obtain ⟨s2, place, went, ln, loads, stored⟩ := placeStore_missing look log (.red g.op) 1 (s.two g.a g.b).1 (atomSize g.dbl)
    (BitVec.ofNat 2048 ((s.two g.a g.b).2.toNat % 2 ^ (8 * atomSize g.dbl))) none none [g.a, g.b] k
  dsimp only
  rw [place]
  exact ⟨_, rfl, storeIssued_of went ln loads stored fun k hk => redData_getLsbD _ _ k hk⟩

variable (room : s.mySeat.storeRoom s.myCore.cycle = true)
include room

theorem red_ok {p : Place} (ok : (s.check s.turn (s.two g.a g.b).1 (atomSize g.dbl) .at' false true).1 = .ok p) :
    Runs (.red g) s fun t => StoreIssued s t [g.a, g.b] (.red g.op) 1 (s.two g.a g.b).1 (atomSize g.dbl)
      (fun k => (s.two g.a g.b).2.getLsbD k) none none
      ((s.check s.turn (s.two g.a g.b).1 (atomSize g.dbl) .at' false true).2.joinsLog (s.two g.a g.b).1) p := by
  have look := looked_check s (s.two g.a g.b).1 (atomSize g.dbl) .at' false true
  rw [Runs, exec_red ready gate]
  generalize s.check s.turn (s.two g.a g.b).1 (atomSize g.dbl) .at' false true = c at *
  obtain ⟨a, s1⟩ := c
  cases ok
  obtain ⟨s2, place, went, ln, loads, stored⟩ := placeStore_ok look room log (.red g.op) 1 (s.two g.a g.b).1 (atomSize g.dbl)
    (BitVec.ofNat 2048 ((s.two g.a g.b).2.toNat % 2 ^ (8 * atomSize g.dbl))) none none [g.a, g.b] p
  dsimp only
  rw [place]
  exact ⟨_, rfl, storeIssued_of went ln loads stored fun k hk => redData_getLsbD _ _ k hk⟩

end

/-- Settles O21: the three stores are `storeAt` at their addresses, and RED is `placeStore` behind its checks. -/
theorem storesAndReductions : Obligations.StoresAndReductions := by
  unfold Obligations.StoresAndReductions
  refine ⟨fun s d b cls blocked gate room log => ?stores, fun s g ready gate room log =>
    ⟨fun p => red_ok ready gate log room, fun k => red_missing ready gate log, fun f => red_fault ready gate⟩⟩
  have wait : s.memWait [.x b, d] [] = none := by
    unfold State.memWait
    rw [blocked]
    simp [gate]
  intro wide bits size completes
  have hsize (z : Fin 4) : sizeOf z (isVecQ d) = size z := by rw [isVecQ_eq]; rfl
  have all (i : Instr) (va : Word) (z : Fin 4) (skew : Bool) (rel : Option Scope) (hint : Option (Fin 8))
      (run : exec i s = s.storeAt d b va (sizeOf z (isVecQ d)) skew rel hint) : completes i va (size z) skew rel hint := by
    rw [hsize] at run
    refine ⟨fun p ok => ?_, fun k missing => ?_⟩
    · rw [Runs, run]; exact storeAt_ok cls wait room log rel hint ok
    · rw [Runs, run]; exact storeAt_missing cls wait log rel hint missing
  refine ⟨fun z o => ?_, fun g hd hb => ?_, fun g hd hb => ?_⟩
  · have run : exec (.st d b z o) s = s.storeAt d b (s.address b o (sizeOf z (isVecQ d))) (sizeOf z (isVecQ d)) false none none := rfl
    have := all _ _ z false none none run
    rw [hsize] at this
    simpa [State.address] using this
  · subst hd hb; exact all _ _ g.size g.skew none g.hint rfl
  · subst hd hb; exact all _ _ g.size g.skew (some g.scope) none rfl

end Sys2Proof.Machine
end

section
/-! SUPPORT. A logged release whose replay meets another release in its own page walk, and obligation O18 (R213, R253, R347, R348). -/
namespace Sys2Proof.Machine

/-- A logged STL of S at device scope, at the first address behind the window. -/
def loggedRelease : LogEntry := { (default : LogEntry) with src := .S, size := 8, rel := some .device, va := 0x200_0000_0000#64 }

/-- The table entry that the walk for the page behind it reads. -/
def nextPageEntry : Place := tablePlace 0x1000_0000_0000#64 (8 * levelIndex (2 ^ 41 + 4096) 0)

/-- Where the logged release goes: its page is in the TLB. -/
def loggedPlace : Place := leafPlace 0xF#64 (2 ^ 41) 4096 (2 ^ 41)

/-- S's TLB holds the page of the logged release, of which S has touched nothing yet; the table entry that a prefetch of the next page reads
carries a release, and write 7 before it is on its way. -/
def releaseBehindPrefetch : State :=
  { State.reset.modSeat ⟨0, 0⟩ (fun st => { st with
      sideLog := [loggedRelease], tlbS := [⟨0, 2 ^ 41, 4096, 0xF#64⟩], sys := { st.sys with xlatRoot := 0x1000_0000_0000#64 } }) with
    flights := [{ (default : Flight) with id := 7, src := .hub 0 }],
    carried := [(nextPageEntry, 8, ⟨.stream ⟨⟨0, 0⟩, .K⟩, .device, [7]⟩)] }

theorem releaseBehindPrefetch_checked :
    (releaseBehindPrefetch.check ⟨⟨0, 0⟩, .S⟩ loggedRelease.va loggedRelease.size .wr false true).1 = .ok loggedPlace := by decide

theorem releaseBehindPrefetch_first : releaseBehindPrefetch.logFirst ⟨0, 0⟩ 0 loggedRelease loggedPlace = true := by decide

/-- Before the replay's check S has nothing to release. -/
theorem releaseBehindPrefetch_met :
    (releaseBehindPrefetch.modSeat ⟨0, 0⟩ fun st => { st with sideLog := dropAt 0 st.sideLog }).releaseMet ⟨0, 0⟩ .S (some .device) 0 =
      true := by decide

/-- The replay's check prefetches the next page, and so acquires what write 7 is part of: the release waits, and no write is sent. -/
theorem releaseBehindPrefetch_waits :
    (match exec (.sideLogReplay ⟨0, 0⟩ 0) releaseBehindPrefetch with | .next t => t.flights.length | _ => 0) = 1 := by decide

/-- Refutes O18: the orders of a logged store are looked at behind its check, not before it as the statement has it. In
`releaseBehindPrefetch` the check's prefetch (R347) acquires a release (R348) whose write is on its way, so that the logged release waits,
though its orders held in the state before. -/
theorem not_accessChecksAndMissingPages : ¬ Obligations.AccessChecksAndMissingPages := by
  unfold Obligations.AccessChecksAndMissingPages
  rintro ⟨-, -, -, -, replay⟩
  obtain ⟨t, run, -, -, f, sent, -⟩ := replay releaseBehindPrefetch ⟨0, 0⟩ 0 loggedRelease loggedPlace rfl releaseBehindPrefetch_checked
    releaseBehindPrefetch_first (by decide) releaseBehindPrefetch_met
  have waits := releaseBehindPrefetch_waits
  rw [run] at waits
  have two : t.flights.length = 2 := by rw [sent]; rfl
  exact absurd (two.symm.trans waits) (by decide)

end Sys2Proof.Machine
end

section
/-! SUPPORT. An atomic of another package that reaches past the window, and obligation O50 (R218, R319, R353). -/
namespace Sys2Proof.Machine

/-! ## The last byte of a write -/

/-- The last byte of a write is written last. -/
theorem State.writeFrom_last (s : State) (p : Place) (v i n : Nat) : s.writeFrom p v i (n + 1) =
    (s.writeFrom p v i n).writeKeyed p.slot (p.keyOf (i + n)) (BitVec.ofNat 8 (v / 256 ^ n)) := by
  induction n generalizing s v i with
  | zero => rw [pow_zero, Nat.div_one]; rfl
  | succ n ih =>
    rw [State.writeFrom, ih, State.writeFrom, Nat.div_div_eq_div_mul, ← pow_succ', Nat.add_assoc, Nat.add_comm 1]

/-- A write in the window changes no unit's key. -/
theorem State.writeFrom_unitKey (s : State) {p : Place} (v i n : Nat) (plain : p.Plain (i + n)) :
    (s.writeFrom p v i n).unitKey = s.unitKey := by
  induction n with
  | zero => rfl
  | succ n ih =>
    have below := plain.below
    rw [State.writeFrom_last, plain.keyOf, State.writeKeyed_window _ _ _ (by omega)]
    exact ih ⟨by omega, plain.skew⟩

/-! ## A unit that comes to stand under another key -/

theorem Cells.readN_zero (m : Cells) (k n : Nat) (h : ∀ j, k ≤ j → Cells.read m j = 0) : Cells.readN m k n = 0 := by
  induction n generalizing k with
  | zero => rfl
  | succ n ih => rw [Cells.readN, h k (Nat.le_refl k), ih (k + 1) fun j hj => h j (by omega)]; rfl

/-- What stands in a unit after its bytes were written again. -/
theorem read_rekeyBytes (v : BitVec 256) (k n : Nat) (m : Cells) (wf : Memory.wf m = true) :
    (∀ j, j < k → Cells.read (rekeyBytes v k n m) j = Cells.read m j) ∧
      ∀ j, k ≤ j → j < k + n → Cells.read (rekeyBytes v k n m) j = v.extractLsb' (8 * (j % 32)) 8 := by
  induction n generalizing k m with
  | zero => exact ⟨fun _ _ => rfl, fun j h h' => absurd h' (by omega)⟩
  | succ n ih =>
    obtain ⟨before, inside⟩ := ih (k + 1) _ (Cells.write_wf m k (v.extractLsb' (8 * (k % 32)) 8) wf)
    rw [rekeyBytes]
    refine ⟨fun j h => ?_, fun j h h' => ?_⟩
    · rw [before j (by omega), Cells.read_write_ne m _ _ _ wf (by omega)]
    · by_cases e : j = k
      · subst e
        rw [before j (by omega), Cells.read_write_same m _ _ wf]
      · exact inside j (by omega) (by omega)

/-- A unit that stands under another key is written again as it reads under the new one (R353). -/
theorem State.rekey_mem (s : State) {ko kw : BitVec 512} {u : Nat} (old : assoc u s.unitKey = some ko) (other : ko ≠ kw) :
    (s.rekey kw u).mem = rekeyBytes (recrypt ko kw (u - physBase / 32) (BitVec.ofNat 256 (Cells.readN s.mem (u * 32) 32)))
      (u * 32) 32 s.mem := by
  unfold State.rekey
  rw [old]
  show (if ko = kw then s else _).mem = _
  rw [if_neg other]

/-- A byte written to the first of an empty stack's units, which stands under another key: the unit's other bytes are those of its old
contents read under the key written with (R353). -/
theorem State.writeKeyed_rekeys {s : State} {ko : BitVec 512} {b : Byte} (wf : Memory.wf s.mem = true)
    (old : assoc (physBase / 32) s.unitKey = some ko) (other : ko ≠ 0) (empty : ∀ j, physBase ≤ j → s.byteAt j = 0) :
    (s.writeKeyed none physBase b).byteAt (physBase + 1) = (recrypt ko 0 0 0#256).extractLsb' 8 8 := by
  have unit : physBase / 32 * 32 = physBase := by decide
  have stack : (isPhys physBase && kindOf physBase = 0) = true := by decide
  have again : (s.rekey 0 (physBase / 32)).mem = rekeyBytes (recrypt ko 0 0 0#256) physBase 32 s.mem := by
    rw [s.rekey_mem old other, unit, Nat.sub_self, Cells.readN_zero _ _ _ empty]
  have written : (s.writeKeyed none physBase b).mem = Cells.write (s.rekey 0 (physBase / 32)).mem physBase b := by
    unfold State.writeKeyed
    rw [if_pos stack]
    rfl
  have place : 8 * ((physBase + 1) % 32) = 8 := by decide
  rw [State.byteAt, written, again, Cells.read_write_ne _ _ _ _ (rekeyBytes_wf _ _ _ _ wf) (Nat.succ_ne_self _),
    (read_rekeyBytes _ _ _ _ wf).2 _ (Nat.le_succ _) (Nat.add_lt_add_left (by decide) _), place]

/-! ## The atomic -/

/-- An atomic of z bytes at the window's first address. -/
def firstAtomic (z : Nat) : FlitReq := { load := .atomic .swap z 0 0, addr := 0, bytes := [], more := false }

/-- The first unit of stack memory stands under a key that is not that of a write without a slot. -/
def keyedUnit : State := { State.reset with unitKey := [(physBase / 32, 1)] }

theorem keyedUnit_answers (z : Nat) : keyedUnit.answer (windowPlace 0 false) z false = .ok := by
  have usable : (!keyedUnit.dieUsable 0 || keyedUnit.dieInReset 0) = false := by decide
  have clean : ((windowPlace 0 false).words z).any (fun w => keyedUnit.poison.contains w) = false := by
    rw [List.any_eq_false]
    exact fun _ _ => Bool.false_ne_true
  unfold State.answer State.answerWith
  rw [if_neg (by decide), show (windowPlace 0 false).home.die = 0 from rfl, usable, if_neg Bool.false_ne_true, if_neg (by decide), clean,
    if_neg Bool.false_ne_true]

theorem State.takeReq_atomic (s : State) (n : Fin 64) (src : Nat) {q : FlitReq} {op : AtomOp} {z : Nat} {v e : Word}
    (load : q.load = .atomic op z v e) : s.takeReq n src q = (s.atomicFrom n q.addr z op v e).respond src q.addr := by
  unfold State.takeReq
  rw [load]

/-- What the atomic leaves of memory is what its write leaves. -/
theorem firstAtomic_mem (n : Fin 64) (src z : Nat) : ∃ v, (keyedUnit.takeReq n src (firstAtomic z)).mem =
    (keyedUnit.writePlace (windowPlace 0 false) z v).mem := by
  have placed : keyedUnit.portPlace n 0 z .at' = (some (windowPlace 0 false), keyedUnit) := by
    unfold State.portPlace
    rw [if_pos (by decide), if_pos (by decide)]
  have quiet : keyedUnit.noteCorr none (windowPlace 0 false) z = keyedUnit := by
    unfold State.noteCorr
    rw [if_neg (by decide)]
  have put : (keyedUnit.atomicFrom n 0 z .swap 0 0).st = keyedUnit.putAmo (windowPlace 0 false) z .swap 0 0 := by
    unfold State.atomicFrom
    rw [placed]
    dsimp only
    rw [keyedUnit_answers, quiet]
  rw [keyedUnit.takeReq_atomic n src (show (firstAtomic z).load = .atomic .swap z 0 0 from rfl), Served.respond_mem,
    show (firstAtomic z).addr = 0 from rfl, put]
  unfold State.putAmo
  rw [if_pos (by decide), State.afterWrite_mem]
  exact ⟨_, rfl⟩

/-- When the atomic reaches one byte into stack memory, the byte behind is another one after it. -/
theorem firstAtomic_reaches (n : Fin 64) (src m : Nat) (hm : m = physBase) :
    (keyedUnit.takeReq n src (firstAtomic (m + 1))).byteAt (m + 1) ≠ keyedUnit.byteAt (m + 1) := by
  obtain ⟨v, mem⟩ := firstAtomic_mem n src (m + 1)
  have plain : (windowPlace 0 false).Plain (0 + m) := ⟨by rw [hm]; decide, rfl⟩
  have keys := keyedUnit.writeFrom_unitKey v 0 m plain
  have outside := (keyedUnit.writeFrom_byteAt v 0 m plain rfl).2
  have wf := State.writeFrom_wf keyedUnit (windowPlace 0 false) v 0 m rfl
  have last := keyedUnit.writeFrom_last (windowPlace 0 false) v 0 m
  rw [plain.keyOf, show (windowPlace 0 false).key + (0 + m) = m from (Nat.zero_add _).trans (Nat.zero_add m),
    show (windowPlace 0 false).slot = none from rfl] at last
  rw [show (windowPlace 0 false).key = 0 from rfl] at outside
  generalize keyedUnit.writeFrom (windowPlace 0 false) v 0 m = u at keys outside wf last
  subst hm
  have empty (j : Nat) (hj : physBase ≤ j) : u.byteAt j = 0 := outside j (.inr (by omega))
  have old : assoc (physBase / 32) keyedUnit.unitKey = some 1 := if_pos rfl
  have now : (keyedUnit.takeReq n src (firstAtomic (physBase + 1))).byteAt (physBase + 1) = (recrypt 1 0 0 0#256).extractLsb' 8 8 := by
    unfold State.byteAt
    rw [mem, State.writePlace, last]
    exact State.writeKeyed_rekeys wf (keys ▸ old) (by simp) empty
  rw [now]
  exact (by decide +kernel : (recrypt 1 0 0 0#256).extractLsb' 8 8 ≠ 0)

/-- Refutes O50: nothing bounds the size of an atomic that a flit carries. One at a window address that reaches one byte into stack memory
writes that byte under no key slot, so that the unit's other bytes, which stood under another key, read as others (R353): `firstAtomic` of
`physBase + 1` bytes in `keyedUnit`. -/
theorem not_fabricLinks : ¬ Obligations.FabricLinks := by
  unfold Obligations.FabricLinks
  rintro ⟨-, served, -⟩
  obtain ⟨m, hm⟩ : ∃ m, m = physBase := ⟨_, rfl⟩
  obtain ⟨-, -, wrote⟩ := served keyedUnit 0 0 (firstAtomic (m + 1)) (by decide)
  obtain ⟨-, -, outside⟩ := wrote ⟨⟨Nat.two_pow_pos 41, (by decide : (windowHome 0).pkg = 0)⟩, (by decide : inBoardRegion 0 = false)⟩ (keyedUnit_answers _) rfl
  exact firstAtomic_reaches 0 0 m hm (outside (m + 1) (.inr (Nat.zero_add _).le))

end Sys2Proof.Machine
end

section
/-! SUPPORT. Fences, their order events, CONJ and XFENCE, and obligation O25 (R214 to R217, R253, R255, R256). -/
namespace Sys2Proof.Machine

/-! ## Changing a stream -/

theorem Seat.modStr_congr (st : Seat) (i : StreamId) {f g : Stream → Stream} (h : f (st.getStr i) = g (st.getStr i)) :
    st.modStr i f = st.modStr i g := by
  unfold Seat.modStr vmod
  rw [show f st.str[i.idx] = g st.str[i.idx] from h]

theorem State.modStr_congr (s : State) (w : Who) {f g : Stream → Stream} (h : f (s.getStr w) = g (s.getStr w)) :
    s.modStr w f = s.modStr w g := congrArg (s.setSeat w.ref) (Seat.modStr_congr (s.getSeat w.ref) w.stream h)

theorem State.modStr_modStr (s : State) (w : Who) (f g : Stream → Stream) : (s.modStr w f).modStr w g = s.modStr w fun a => g (f a) :=
  (State.modSeat_modSeat s w.ref _ _).trans (congrArg (s.modSeat w.ref) (funext fun st => Seat.modStr_modStr st w.stream f g))

/-- What changes of the stream that goes on, beside where it goes to, is overwritten. -/
theorem Seat.goOn_over (st : Seat) (i : StreamId) (f : Stream → Stream) (now : Nat) (r : Stream × Bool) :
    (st.modStr i f).goOn i now r = st.goOn i now r := by
  unfold Seat.goOn
  rw [Seat.modStr_modStr]

/-- The running stream has changed by `f`, which leaves its sequencer, and goes on. -/
theorem State.modMe_retire (s : State) (f : Stream → Stream) :
    (s.modMe f).retire = s.modMySeat fun st => st.goOn s.turn.stream s.now (f s.me).advance := by
  rw [State.retire_eq, State.modMe_eq, State.modMySeat_modMySeat, State.modMySeat_now]
  refine State.modMySeat_congr s ?_
  show Seat.goOn (s.mySeat.modStr s.turn.stream f) s.turn.stream s.now ((s.mySeat.modStr s.turn.stream f).getStr s.turn.stream).advance = _
  rw [Seat.modStr_getStr, Seat.goOn_over]
  rfl

/-- The stream, with the marks that a fence changes: what it has acquired, and the releases its stores stand for (R253). -/
def Stream.fencing (a : Stream) (fwd : List Nat) (heard : List Heard) (fenced : List (Scope × List Nat)) : Stream :=
  { a with fwd := fwd, heard := heard, fenced := fenced }

/-- Going on looks at no marks: with the old ones put back the stream is as `KeepsStream` says. -/
theorem Stream.advance_fencing (a : Stream) (fwd : List Nat) (heard : List Heard) (fenced : List (Scope × List Nat)) :
    let b := (a.fencing fwd heard fenced).advance
    KeepsStream a (b.1.fencing a.fwd a.heard a.fenced) ∧ SameSeq a.advance.1 b.1 ∧ b.2 = a.advance.2 ∧
      (b.1.x = a.x ∧ b.1.p = a.p ∧ b.1.t = a.t) ∧ b.1.fwd = fwd ∧ b.1.heard = heard ∧ b.1.fenced = fenced := by
  intro b
  have kept : KeepsStream (a.fencing fwd heard fenced) b.1 := advance_keeps _
  have regs : b.1.x = a.x ∧ b.1.p = a.p ∧ b.1.t = a.t := advance_regs (a.fencing fwd heard fenced)
  obtain ⟨same, trip⟩ := advance_of_same (a := a) (b := a.fencing fwd heard fenced) ⟨rfl, rfl, rfl, rfl, rfl⟩ rfl
  exact ⟨⟨kept.loopPc, kept.stages, kept.halted, kept.passes, kept.comma, kept.packets, kept.div, rfl, rfl, rfl, kept.lastPage⟩,
    same, trip, regs, kept.fwd, kept.heard, kept.fenced⟩

/-- An instruction that changes such marks, which `put` puts back, and goes on. -/
theorem movedBut_fencing (s : State) (fwd : List Nat) (heard : List Heard) (fenced : List (Scope × List Nat)) {put : Stream → Stream}
    (h : Untouched put)
    (back : ∀ b : Stream, b.heard = heard → b.fenced = fenced → put b = b.fencing s.me.fwd s.me.heard s.me.fenced) :
    let t := (s.modMe fun a => a.fencing fwd heard fenced).retire
    MovedBut put s t [] s.me.advance.1 s.me.advance.2 ∧ t.me.fwd = fwd ∧ t.me.fenced = fenced := by
  intro t
  obtain ⟨keeps, same, trip, regs, hfwd, hheard, hfenced⟩ := s.me.advance_fencing fwd heard fenced
  have run : t = s.modMySeat fun st => st.goOn s.turn.stream s.now (s.me.fencing fwd heard fenced).advance := s.modMe_retire _
  clear_value t
  subst run
  generalize (s.me.fencing fwd heard fenced).advance = b at *
  have stood := back b.1 hheard hfenced
  have me : (s.modMySeat fun st => st.goOn s.turn.stream s.now b).me = { b.1 with issued := s.now + 1, wait := .none, waiting := none } :=
    (State.modMySeat_me _ _).trans (Seat.goOn_getStr _ _ _ _)
  have moved := movedBut_goOn s [] b h (stood ▸ keeps) (by rw [stood]; exact regs)
  refine ⟨trip ▸ Moved.of_same moved (by rw [stood]; exact same), ?_, ?_⟩
  · rw [me]; exact hfwd
  · rw [me]; exact hfenced

/-! ## FENCE -/

theorem mem_onWay {s : State} {l : List Nat} {i : Nat} (mem : i ∈ l) (there : ∃ f ∈ s.flights, f.id = i) : i ∈ s.onWay l := by
  obtain ⟨f, hf, id⟩ := there
  exact List.mem_filter.2 ⟨mem, List.any_eq_true.2 ⟨f, hf, decide_eq_true id⟩⟩

/-- A release stands for its stream's earlier writes (R253). -/
theorem mem_relIds {s : State} {r : SeatRef} {i : StreamId} {seq : Nat} {f : Flight} (mem : f ∈ s.flights)
    (mine : f.src = .stream ⟨r, i⟩) (before : f.id < seq) : f.id ∈ s.relIds r i seq := by
  refine List.mem_append_left _ (List.mem_append_left _ (List.mem_map.2 ⟨f, List.mem_filter.2 ⟨mem, ?_⟩, rfl⟩))
  rw [decide_eq_true mine, decide_eq_true before]
  rfl

/-- What a fence that passes changes (R253). -/
theorem passFence_marks (s : State) (c : Scope) (k : FenceKind) : ∃ fwd heard fenced,
    s.passFence c k = s.modMe (fun a => a.fencing fwd heard fenced) ∧
    (k ≠ .acq → ∃ ids, (c, ids) ∈ fenced ∧ ∀ f ∈ s.flights, f.src = .stream s.turn → f.id < s.seq → f.id ∈ ids) ∧
    (k ≠ .rel → ∀ h ∈ s.me.heard, syncs h.src h.scope s.turn c = true → ∀ i ∈ h.ids, (∃ f ∈ s.flights, f.id = i) → i ∈ fwd) := by
  let up := if k = .rel then [] else s.onWay (acquired s.turn c s.me.heard)
  let fwd := s.onWay s.me.fwd ++ up
  let heard := s.stillHeard s.me.heard
  let s1 := s.modMe fun t => { t with fwd := s.onWay t.fwd ++ up, heard := s.stillHeard t.heard }
  have takes : k ≠ .rel → ∀ h ∈ s.me.heard, syncs h.src h.scope s.turn c = true → ∀ i ∈ h.ids, (∃ f ∈ s.flights, f.id = i) → i ∈ fwd := by
    intro hk h hh hs i hi there
    refine List.mem_append_right _ ?_
    rw [show up = _ from if_neg hk]
    exact mem_onWay (List.mem_flatMap.2 ⟨h, List.mem_filter.2 ⟨hh, hs⟩, hi⟩) there
  have first : s1 = s.modMe fun a => a.fencing fwd heard s.me.fenced := s.modStr_congr s.turn rfl
  by_cases hk : k = .acq
  · refine ⟨fwd, heard, s.me.fenced, ?_, fun h => absurd hk h, takes⟩
    rw [← first]
    unfold State.passFence
    exact if_pos hk
  · let ids := s1.relIds s.turn.ref s.turn.stream s.seq
    let fenced := (s.me.fenced.filter fun x => !(s.onWay x.2).isEmpty) ++ [(c, ids)]
    refine ⟨fwd, heard, fenced, ?_, fun _ => ⟨ids, by simp [fenced], fun f hf mine before => mem_relIds (s := s1) hf mine before⟩, takes⟩
    have second : s1.modMe (fun t => { t with fenced := (t.fenced.filter fun x => !(s.onWay x.2).isEmpty) ++ [(c, ids)] }) =
        s.modMe fun a => a.fencing fwd heard fenced :=
      (s.modStr_modStr s.turn _ _).trans (s.modStr_congr s.turn rfl)
    rw [← second]
    unfold State.passFence
    exact if_neg hk

theorem exec_fence {s : State} {c : Scope} {k : FenceKind} (wait : s.me.wait = .none) (met : s.fenceMet c k = true) :
    exec (.fence c k) s = .next (if k = .sc then (s.passFence c k).modMe fun t => { t with wait := .scEvent c }
      else (s.passFence c k).retire) := by
  show execFence c k s = _
  unfold execFence
  rw [wait]
  dsimp only
  rw [met, apply_ite Host.Outcome.next]
  rfl

/-- A fence whose condition holds passes, and an sc fence comes to wait for its order event. -/
theorem fence_passes {s : State} {c : Scope} {k : FenceKind} (wait : s.me.wait = .none) (met : s.fenceMet c k = true) :
    let back : Stream → Stream := fun a => { a with fwd := s.me.fwd, heard := s.me.heard, fenced := s.me.fenced }
    Runs (.fence c k) s fun t =>
      (if k = .sc then t.modMe back = s.modMe (fun a => { a with wait := .scEvent c })
       else MovedBut back s t [] s.me.advance.1 s.me.advance.2) ∧
      (k ≠ .acq → ∃ ids, (c, ids) ∈ t.me.fenced ∧ ∀ f ∈ s.flights, f.src = .stream s.turn → f.id < s.seq → f.id ∈ ids) ∧
      (k ≠ .rel → ∀ h ∈ s.me.heard, syncs h.src h.scope s.turn c = true → ∀ i ∈ h.ids, (∃ f ∈ s.flights, f.id = i) → i ∈ t.me.fwd) := by
  intro back
  obtain ⟨fwd, heard, fenced, pass, releases, takes⟩ := passFence_marks s c k
  rw [Runs, exec_fence wait met, pass]
  refine ⟨_, rfl, ?_⟩
  by_cases hk : k = .sc
  · rw [if_pos hk, if_pos hk]
    let t := (s.modMe fun a => a.fencing fwd heard fenced).modMe fun a => { a with wait := .scEvent c }
    have run : t = s.modStr s.turn fun a => { a.fencing fwd heard fenced with wait := .scEvent c } := s.modStr_modStr s.turn _ _
    have me : t.me = { s.me.fencing fwd heard fenced with wait := .scEvent c } := by rw [run]; exact s.modStr_self s.turn _
    refine ⟨?_, me ▸ releases, me ▸ takes⟩
    show t.modMe back = _
    rw [run]
    exact (s.modStr_modStr s.turn _ _).trans (s.modStr_congr s.turn rfl)
  · rw [if_neg hk, if_neg hk]
    obtain ⟨moved, hfwd, hfenced⟩ := movedBut_fencing s fwd heard fenced (put := back) (fun _ _ => rfl) fun _ _ _ => rfl
    exact ⟨moved, hfenced.symm ▸ releases, hfwd.symm ▸ takes⟩

theorem fence_done {s : State} {c : Scope} {k : FenceKind} (wait : s.me.wait = .scDone) :
    Runs (.fence c k) s fun t => Moved s t [] s.me.advance.1 s.me.advance.2 := by
  have run : exec (.fence c k) s = .next s.retire := by
    show execFence c k s = _
    unfold execFence
    rw [wait]
  exact ⟨_, run, moved_retire s⟩

/-! ## SC_ORDER_EVENT and DOMAIN_FENCE_SETTLE -/

/-- A stream goes on in sequence outside its turn. -/
theorem movedAs_retire (s : State) (w : Who) : MovedAs w s (s.as w State.retire) [] := ⟨rfl, moved_retire { s with turn := w }⟩

/-- The first of n numbers whose image has a property. -/
theorem find_map_range {α : Type} (p : α → Bool) (g : Nat → α) {n k : Nat} (hk : k < n) (hit : p (g k) = true)
    (before : ∀ m < k, p (g m) = false) : ((List.range n).map g).find? p = some (g k) := by
  have first : (List.range n).find? (p ∘ g) = some k :=
    List.find?_range_eq_some.2 ⟨hit, List.mem_range.2 hk, fun j hj => by rw [Function.comp, before j hj]; rfl⟩
  rw [List.find?_map, first]
  rfl

/-- Taking an order event: the stream takes up what earlier fences stand for, and its own fence stands for its earlier writes (R256). -/
theorem takeEvent_marks (s : State) (w : Who) (x : Scope) : ∃ fwd past,
    s.takeEvent w x = { s.modStr w (fun a => { a with fwd := fwd }) with scPast := past } ∧
    ∀ f ∈ s.flights, f.src = .stream w → f.id < s.seq → ∃ h ∈ past, h.src = .stream w ∧ h.scope = x ∧ f.id ∈ h.ids := by
  let old := s.stillHeard s.scPast
  let fwd := s.onWay (s.getStr w).fwd ++ acquired w x old
  let s1 := s.modStr w fun t => { t with fwd := s.onWay t.fwd ++ acquired w x old }
  let mine : Heard := ⟨.stream w, x, s1.relIds w.ref w.stream s.seq⟩
  have first : s1 = s.modStr w fun a => { a with fwd := fwd } := s.modStr_congr w rfl
  refine ⟨fwd, s1.stillHeard (old ++ [mine]), ?_, fun f hf src before => ?_⟩
  · rw [← first]
    rfl
  · have there : f.id ∈ s1.onWay mine.ids := mem_onWay (mem_relIds (s := s1) hf src before) ⟨f, hf, rfl⟩
    refine ⟨{ mine with ids := s1.onWay mine.ids }, List.mem_filter.2 ⟨List.mem_map.2 ⟨mine, by simp, rfl⟩, ?_⟩, rfl, rfl, there⟩
    simpa using List.ne_nil_of_mem there

section
variable {s : State} {c : Fin 904} {k : Nat} (slot : s.timebase.toNat % 1024 = c.val)
  (fresh : s.core[c].wheelTurn ≠ s.timebase.toNat / 1024 + 1) (hk : k < 6)
  (waits : s.atWheel (wheelStream c (Fin.ofNat 6 (s.core[c].wheel.val + 1 + k))) = true)
  (before : ∀ m < k, s.atWheel (wheelStream c (Fin.ofNat 6 (s.core[c].wheel.val + 1 + m))) = false)
include slot fresh hk waits before

/-- In its core's slot, the first waiting fence in rotation takes its event (R255). -/
theorem exec_scOrderEvent {x : Scope} (wait : (s.getStr (wheelStream c (Fin.ofNat 6 (s.core[c].wheel.val + 1 + k)))).wait = .scEvent x) :
    let at' : Fin 6 := Fin.ofNat 6 (s.core[c].wheel.val + 1 + k)
    let w := wheelStream c at'
    let s1 := s.setCore c { s.core[c] with wheel := at', wheelTurn := s.timebase.toNat / 1024 + 1 }
    exec (.scOrderEvent c) s = .next
      (if x = .domain then (s1.takeEvent w x).modStr w fun t => { t with wait := .scTaken (s.timebase.toNat + 64) }
       else if s.coreHeld c = true then (s1.takeEvent w x).modStr w fun t => { t with wait := .scDone }
       else (s1.takeEvent w x).as w State.retire) := by
  intro at' w s1
  have first : ((List.range 6).map fun k => (Fin.ofNat 6 (s.core[c].wheel.val + 1 + k) : Fin 6)).find?
      (fun i => s.atWheel (wheelStream c i)) = some at' :=
    find_map_range (fun i => s.atWheel (wheelStream c i)) _ hk waits before
  show execScOrderEvent c s = _
  unfold execScOrderEvent
  dsimp only
  rw [if_neg (by simpa [slot] using fresh), first]
  dsimp only
  rw [wait]
  by_cases domain : x = .domain
  · subst domain
    rfl
  · rw [if_neg domain]
    cases x
    case domain => exact absurd rfl domain
    all_goals rfl

end

theorem exec_domainFenceSettle {s : State} {w : Who} {d : Nat} (wait : (s.getStr w).wait = .scTaken d) :
    exec (.domainFenceSettle w) s =
      .next (if d ≤ s.timebase.toNat ∧ s.synced = true ∧ s.coreHeld w.ref.core = false then s.as w State.retire else s) := by
  show execDomainFenceSettle w s = _
  unfold execDomainFenceSettle
  rw [wait]
  dsimp only
  rw [apply_ite Host.Outcome.next]
  refine if_congr ?_ rfl rfl
  simp [and_assoc]

/-! ## CONJ and XFENCE -/

/-- CONJ counts a conjunction of stream i, with its tag (R216). -/
def Seat.conj (st : Seat) (i : StreamId) (n : Fin 64) : Seat :=
  match i with
  | .L => { st with conjL := st.conjL + 1, tagsL := st.tagsL ++ [n] }
  | .S => { st with conjS := st.conjS + 1, tagsS := st.tagsS ++ [n] }
  | _ => st

theorem Seat.goOn_conj (st : Seat) (i j : StreamId) (n : Fin 64) (now : Nat) (r : Stream × Bool) :
    (st.conj j n).goOn i now r = (st.goOn i now r).conj j n := by
  unfold Seat.goOn Seat.turnRrb
  cases j <;> dsimp only <;> split <;> split <;> rfl

theorem exec_conj (s : State) (n : Fin 64) : exec (.conj n) s = .next (s.retire.modMySeat fun st => st.conj s.turn.stream n) := by
  have run : exec (.conj n) s = .next (s.modMySeat fun st => st.conj s.turn.stream n).retire := rfl
  rw [run, State.retire_eq, State.retire_eq, State.modMySeat_modMySeat, State.modMySeat_now]
  refine congrArg Host.Outcome.next (Eq.trans (State.modMySeat_congr s ?_) (State.modMySeat_modMySeat s _ _).symm)
  have mine : (s.mySeat.conj s.turn.stream n).getStr s.turn.stream = s.mySeat.getStr s.turn.stream := by
    unfold Seat.conj
    split <;> rfl
  show ((s.mySeat.conj s.turn.stream n).goOn s.turn.stream s.now ((s.mySeat.conj s.turn.stream n).getStr s.turn.stream).advance) = _
  rw [mine]
  exact Seat.goOn_conj _ _ _ _ _ _

theorem exec_xfence {s : State} (wait : s.me.wait = .none) : exec .xfence s =
    .next (if s.xfenceMet s.myCore.cycle then s.xfenceHeard.retire else s.modMe fun a => { a with wait := .xfence s.myCore.cycle }) := by
  show execXfence s = _
  unfold execXfence
  rw [wait]
  dsimp only
  split <;> rfl

/-- What an XFENCE makes the stream's next release stand for (R217). -/
theorem xfenceHeard_marks (s : State) : ∃ fwd, s.xfenceHeard = s.modMe (fun a => a.fencing fwd s.me.heard s.me.fenced) ∧
    ∀ k, k = .S ∨ k = .L → ∀ i ∈ (s.mySeat.getStr k).fwd, (∃ f ∈ s.flights, f.id = i) → i ∈ fwd := by
  let ids := s.onWay ((s.getStr ⟨s.turn.ref, .S⟩).fwd ++ (s.getStr ⟨s.turn.ref, .L⟩).fwd)
  have all (k : StreamId) (hk : k = .S ∨ k = .L) (i : Nat) (hi : i ∈ (s.mySeat.getStr k).fwd) (there : ∃ f ∈ s.flights, f.id = i) :
      i ∈ ids := by
    refine mem_onWay ?_ there
    rcases hk with rfl | rfl
    · exact List.mem_append_left _ hi
    · exact List.mem_append_right _ hi
  unfold State.xfenceHeard
  by_cases none : ids.isEmpty = true
  · refine ⟨s.me.fwd, (if_pos none).trans ?_, fun k hk i hi there => ?_⟩
    · exact (s.setSeat_same s.turn.ref).symm.trans
        (congrArg (s.setSeat s.turn.ref) (s.mySeat.modStr_same s.turn.stream (fun a => a.fencing _ _ _) rfl).symm)
    · have := all k hk i hi there
      rw [List.isEmpty_iff.1 none] at this
      exact absurd this List.not_mem_nil
  · exact ⟨s.onWay s.me.fwd ++ ids, (if_neg none).trans (s.modStr_congr s.turn rfl),
      fun k hk i hi there => List.mem_append_right _ (all k hk i hi there)⟩

/-- Settles O25: a fence passes with the marks of `passFence_marks`, an order event is taken with those of `takeEvent_marks`, and the rest
goes on in sequence. -/
theorem fencesAndConjunctions : Obligations.FencesAndConjunctions := by
  unfold Obligations.FencesAndConjunctions
  refine ⟨fun s c k wait met => fence_passes wait met, fun s c k hk => ?event, fun s w d wait => ?settle, fun s c k => fence_done,
    fun s n => ⟨_, moved_retire s, ?conj⟩, fun s wait => ?xfence⟩
  case event =>
    intro turn at' w slot fresh waits before s1 x wait
    obtain ⟨fwd, past, event, fenced⟩ := takeEvent_marks s1 w x
    have run := exec_scOrderEvent slot fresh hk waits before wait
    dsimp only at run
    rw [show State.takeEvent (s.setCore c _) w x = _ from event] at run
    refine ⟨_, run, fwd, past, fenced, ?_⟩
    by_cases domain : x = .domain
    · rw [if_pos domain, if_pos domain]
    · rw [if_neg domain, if_neg domain]
      by_cases held : s.coreHeld c = true
      · rw [if_pos held, if_pos held]
      · rw [if_neg held, if_neg held]
        exact movedAs_retire _ w
  case settle =>
    by_cases due : d ≤ s.timebase.toNat ∧ s.synced = true ∧ s.coreHeld w.ref.core = false
    · rw [if_pos due]
      exact ⟨_, (exec_domainFenceSettle wait).trans (congrArg _ (if_pos due)), movedAs_retire s w⟩
    · rw [if_neg due]
      exact (exec_domainFenceSettle wait).trans (congrArg _ (if_neg due))
  case conj => exact exec_conj s n
  case xfence =>
    by_cases met : s.xfenceMet s.myCore.cycle = true
    · rw [if_pos met]
      obtain ⟨fwd, heard, takes⟩ := xfenceHeard_marks s
      obtain ⟨moved, hfwd, -⟩ := movedBut_fencing s fwd s.me.heard s.me.fenced (put := fun a => { a with fwd := s.me.fwd })
        (fun _ _ => rfl) fun b hh hf => by rw [← hh, ← hf]; rfl
      refine ⟨_, (exec_xfence wait).trans (congrArg _ (if_pos met)), ?_⟩
      rw [heard]
      exact ⟨moved, hfwd.symm ▸ takes⟩
    · rw [if_neg met]
      exact (exec_xfence wait).trans (congrArg _ (if_neg met))

end Sys2Proof.Machine
end

section
/-! SUPPORT. The monitor wait, and obligation O26 (R223). -/
namespace Sys2Proof.Machine

/-! ## The end of a wait -/

theorem Seat.predStep_loads (st : Seat) (L : List LoadReq) (i : StreamId) (now : Nat) (srcs : List SSpec) (n : Fin 16) (v : Bool) :
    ({ st with loads := L } : Seat).predStep i now srcs n v = { st.predStep i now srcs n v with loads := L } := by
  have taken : ({ st with loads := L } : Seat).takeAll now srcs = { st.takeAll now srcs with loads := L } := by
    unfold Seat.takeAll
    induction srcs generalizing st with
    | nil => rfl
    | cons a r ih =>
      cases a with
      | x m => exact ih st
      | q m => exact ih (st.takeSrc now (.q m))
  have wrote (a : Seat) : ({ a with loads := L } : Seat).wrPred i n v = { a.wrPred i n v with loads := L } := by
    unfold Seat.wrPred
    split
    · rfl
    · split <;> rfl
  have gone (a : Seat) (r : Stream × Bool) : ({ a with loads := L } : Seat).goOn i now r = { a.goOn i now r with loads := L } := by
    unfold Seat.goOn Seat.turnRrb
    dsimp only
    split <;> split <;> rfl
  unfold Seat.predStep
  rw [taken, wrote]
  exact gone _ _

/-- Stream w, without a monitor and with any requests of its seat gone, writes its predicate and goes on. -/
theorem waitEnds_closeMwait (s : State) (w : Who) (srcs : List SSpec) (n : Fin 16) (v : Bool) (L : List LoadReq) {ms : List Monitor}
    (gone : ∀ m ∈ ms, m.who ≠ w) :
    WaitEnds w s ((State.modSeat { s with monitors := ms } w.ref fun st => { st with loads := L }).closeMwait w n srcs v) srcs n v := by
  let u : State := { s with turn := w }
  let x : State := { u with monitors := ms }
  have run : ((x.modMySeat fun st => { st with loads := L }).modMySeat fun st => st.predStep w.stream u.now srcs n v) =
      (((srcs.foldl State.take (x.modMySeat fun st => { st with loads := L })).wrPred n v).retire) := by
    rw [State.predStep_eq, State.modMySeat_now]
    rfl
  refine ⟨rfl, ?_, ?_⟩
  · show ∀ m ∈ (((srcs.foldl State.take (x.modMySeat fun st => { st with loads := L })).wrPred n v).retire).monitors, m.who ≠ w
    rw [← run]
    exact gone
  · have back : (State.modMySeat { ((srcs.foldl State.take (x.modMySeat fun st => { st with loads := L })).wrPred n v).retire with
        turn := w, monitors := s.monitors } fun a => { a with loads := (s.getSeat w.ref).loads }) =
        u.modMySeat fun st => st.predStep u.turn.stream u.now srcs n v := by
      rw [← run, State.modMySeat_modMySeat]
      show ((u.modMySeat fun st => ({ st with loads := L } : Seat).predStep w.stream u.now srcs n v).modMySeat _) = _
      rw [State.modMySeat_modMySeat]
      refine State.modMySeat_congr u ?_
      rw [Seat.predStep_loads]
      have kept := (predStep_result u srcs n v).1.seat.queues.2.1
      rw [State.modMySeat_mySeat] at kept
      exact congrArg (fun l => { u.mySeat.predStep w.stream u.now srcs n v with loads := l }) kept.symm
    show PredResult u (State.modMySeat { ((srcs.foldl State.take (x.modMySeat fun st => { st with loads := L })).wrPred n v).retire with
        turn := w, monitors := s.monitors } fun a => { a with loads := (s.getSeat w.ref).loads }) srcs n v
    rw [back]
    exact predStep_result u srcs n v

/-- A seat without stream i's requests for a monitor. -/
def Seat.disarmed (st : Seat) (i : StreamId) : Seat :=
  { st with loads := st.loads.filter fun l =>
      !(decide (l.stream = i) && match l.kind with | .mwait _ => true | .swait _ => true | _ => false) }

/-- Disarming changes the monitors and the seat's requests. -/
theorem State.disarm_eq (s : State) (w : Who) :
    s.disarm w = ({ s with monitors := s.monitors.filter fun m => decide (m.who ≠ w) } : State).modSeat w.ref fun st => st.disarmed w.stream := rfl

theorem State.modSeat_coreHeld (s : State) (r : SeatRef) (f : Seat → Seat) : (s.modSeat r f).coreHeld r.core = s.coreHeld r.core := by
  unfold State.coreHeld
  rw [State.modSeat_core]
  rfl

/-- Outside a freeze a monitor wait that ends writes its predicate and goes on (R223); requests of its seat may have gone before. -/
theorem waitEnds_endMwait (s : State) (w : Who) (srcs : List SSpec) (n : Fin 16) (v : Bool) (g : Seat → Seat) {L : List LoadReq}
    (hg : g (s.getSeat w.ref) = { s.getSeat w.ref with loads := L }) (runs : s.coreHeld w.ref.core = false) :
    WaitEnds w s ((s.modSeat w.ref g).endMwait w n srcs v) srcs n v := by
  have held : ((s.modSeat w.ref g).coreHeld w.ref.core) = false := (s.modSeat_coreHeld _ _).trans runs
  let ms := s.monitors.filter fun m => decide (m.who ≠ w)
  have gone : ∀ m ∈ ms, m.who ≠ w := fun m hm => of_decide_eq_true (List.mem_filter.1 hm).2
  have disarmed : (s.modSeat w.ref g).disarm w = State.modSeat { s with monitors := ms } w.ref fun st =>
      { st with loads := (({ s.getSeat w.ref with loads := L } : Seat).disarmed w.stream).loads } := by
    rw [State.disarm_eq]
    refine (State.modSeat_modSeat { s with monitors := ms } w.ref g _).trans ?_
    show State.setSeat _ _ ((g (s.getSeat w.ref)).disarmed w.stream) = _
    rw [hg]
    rfl
  unfold State.endMwait
  rw [held, disarmed, if_neg Bool.false_ne_true]
  exact waitEnds_closeMwait s w srcs n v _ gone

/-! ## MWAIT -/

/-- The seat of an MWAIT of stream i that has sent request l and waits. -/
def Seat.mwaitSent (st : Seat) (i : StreamId) (m : Marks) (l : LoadReq) (waiting : Wait) : Seat :=
  (((st.marked i m).disarmed i).addLoad l).modStr i fun t => { t with wait := waiting }

theorem State.modMySeat_disarm (s : State) (g : Seat → Seat) :
    (s.modMySeat g).disarm s.turn =
      ({ s with monitors := s.monitors.filter fun x => decide (x.who ≠ s.turn) } : State).modMySeat fun st => (g st).disarmed s.turn.stream :=
  (State.disarm_eq _ _).trans
    (State.modSeat_modSeat { s with monitors := s.monitors.filter fun x => decide (x.who ≠ s.turn) } s.turn.ref g fun st => st.disarmed s.turn.stream)

theorem State.modMySeat_pushLoad (s : State) (g : Seat → Seat) (l : LoadReq) :
    (s.modMySeat g).pushLoad l = s.bump.modMySeat fun st => (g st).addLoad l :=
  (congrArg State.bump (State.modMySeat_modMySeat s g fun st => st.addLoad l)).trans rfl

/-- The request leaves from the state in which its address has been looked up. -/
theorem State.mwaitSent_eq {s f : State} (notes : OnlyNotes s f) (m : Marks) (l : LoadReq) (waiting : Wait) :
    ((((f.modMySeat fun st => st.marked s.turn.stream m).disarm s.turn).pushLoad l).modMe fun t => { t with wait := waiting }) =
      ({ f with monitors := f.monitors.filter fun x => decide (x.who ≠ s.turn), seq := f.seq + 1 } : State).modMySeat fun st =>
        st.mwaitSent s.turn.stream m l waiting := by
  rw [← notes.turn, State.modMySeat_disarm, State.modMySeat_pushLoad, State.modMe_eq, State.modMySeat_modMySeat]
  rfl

/-- Nothing holds an access whose operands are ready and that no order gates. -/
theorem memWait_of_clear {s : State} {srcs dsts : List SSpec} (idle : s.blocked srcs dsts = none) (gate : s.gated = false) :
    s.memWait srcs dsts = none := by
  unfold State.memWait
  rw [idle]
  simp [gate]

theorem exec_mwait {s : State} {g : MwaitArgs} {p : Place} {s1 : State} (ready : Ready s [g.a, g.b] []) (gate : s.gated = false)
    (wait : s.me.wait = .none) (free : s.pFree g.p = true) (ok : s.check s.turn (s.two g.a g.b).1 8 .rd false false = (.ok p, s1)) :
    exec (.mwait g) s = .next (((s1.disarm s.turn).pushLoad
      (s.newReq (.mwait (s.two g.a g.b).2) p (s.two g.a g.b).1 8 0 none)).modMe fun t =>
        { t with wait := .mwait p.key (s.two g.a g.b).2 g.p (s.mySeat.sched + s.mySeat.lex[g.sym].hi.toNat) [g.a, g.b] }) := by
  have idle : s.memWait [g.a, g.b] [] = none := memWait_of_clear ready.2 gate
  show execMwait g s = _
  unfold execMwait
  rw [ready.1, wait]
  dsimp only
  rw [idle, free, show s.check s.turn (s.peek g.a) 8 .rd false false = _ from ok]
  rfl

/-- MWAIT sends a request that arms and compares at its home, and waits. -/
theorem mwait_sends {s : State} {g : MwaitArgs} {p : Place} (ready : Ready s [g.a, g.b] []) (gate : s.gated = false)
    (wait : s.me.wait = .none) (free : s.pFree g.p = true)
    (ok : (s.check s.turn (s.two g.a g.b).1 8 .rd false false).1 = .ok p) :
    Runs (.mwait g) s fun t => SameBytes s t ∧ t.me.pc = s.me.pc ∧ SameRegs s t ∧ t.mySeat.q = s.mySeat.q ∧
      t.me.wait = .mwait p.key (s.two g.a g.b).2 g.p (s.mySeat.sched + s.mySeat.lex[g.sym].hi.toNat) [g.a, g.b] ∧
      ∃ l ∈ t.mySeat.loads, l.kind = .mwait (s.two g.a g.b).2 ∧ l.place = p ∧ l.size = 8 ∧ l.stream = s.turn.stream ∧ l.got = none := by
  obtain ⟨f, m, notes, look⟩ := looked_check s (s.two g.a g.b).1 8 .rd false false
  have checked : s.check s.turn (s.two g.a g.b).1 8 .rd false false = (.ok p, f.modMySeat fun st => st.marked s.turn.stream m) :=
    Prod.ext ok look
  have run := exec_mwait ready gate wait free checked
  rw [State.mwaitSent_eq notes] at run
  generalize hw : Wait.mwait p.key (s.two g.a g.b).2 g.p (s.mySeat.sched + s.mySeat.lex[g.sym].hi.toNat) [g.a, g.b] = waiting at run ⊢
  generalize hu : ({ f with monitors := f.monitors.filter fun x => decide (x.who ≠ s.turn), seq := f.seq + 1 } : State) = u at run
  have turn : u.turn = s.turn := by rw [← hu]; exact notes.turn
  have seat : u.mySeat = s.mySeat := by
    unfold State.mySeat State.getSeat
    rw [turn, show u.core = s.core by rw [← hu]; exact notes.core]
  let l := s.newReq (.mwait (s.two g.a g.b).2) p (s.two g.a g.b).1 8 0 none
  refine ⟨_, run, ?_⟩
  have now : (u.modMySeat fun st => st.mwaitSent s.turn.stream m l waiting).mySeat = s.mySeat.mwaitSent s.turn.stream m l waiting := by
    rw [State.modMySeat_mySeat, seat]
  have me : (u.modMySeat fun st => st.mwaitSent s.turn.stream m l waiting).me = { s.me.marked m with wait := waiting } := by
    rw [State.modMySeat_me, seat, turn]
    refine (Seat.modStr_getStr _ _ _).trans ?_
    exact congrArg (fun t : Stream => { t with wait := waiting }) (Seat.modStr_getStr s.mySeat s.turn.stream fun t => t.marked m)
  refine ⟨fun k => ?_, ?_, ?_, ?_, ?_, l, ?_, rfl, rfl, rfl, rfl, rfl⟩
  · show Cells.read u.mem k = _
    rw [← hu]
    show Cells.read f.mem k = _
    rw [notes.mem]
    rfl
  · rw [me]; rfl
  · unfold SameRegs; rw [me]; exact ⟨fun _ => rfl, rfl, rfl⟩
  · rw [now]; rfl
  · rw [me]
  · rw [now]
    exact List.mem_append_right _ (List.mem_singleton.2 rfl)

/-! ## The arm and compare at the home -/

/-- A correctable error met by a read of a seat changes the stacks' counters, or the seat's (R201, R384). -/
theorem State.noteCorr_cases (s : State) (r : SeatRef) (p : Place) (n : Nat) :
    OnlyNotes s (s.noteCorr (some r) p n) ∨ ∃ c, s.noteCorr (some r) p n = s.modSeat r fun st => st.count 16 none c := by
  by_cases phys : isPhys p.key = true
  · left
    have same : s.noteCorr (some r) p n = s.noteCorr none p n := (if_pos phys).trans (if_pos phys).symm
    rw [same]
    exact onlyNotes_noteCorr s p n
  · unfold State.noteCorr
    rw [if_neg phys]
    dsimp only
    split
    · exact .inl (onlyNotes_refl s)
    · exact .inr ⟨_, rfl⟩

/-- Counting and acquiring leave the monitors and a seat's requests. -/
theorem State.noteCorr_hear_leaves (s : State) (w : Who) (p : Place) (n : Nat) (l : List Heard) :
    let t := (s.noteCorr (some w.ref) p n).hear w none l
    t.monitors = s.monitors ∧ (t.getSeat w.ref).loads = (s.getSeat w.ref).loads := by
  intro t
  have noted : (s.noteCorr (some w.ref) p n).monitors = s.monitors ∧
      ((s.noteCorr (some w.ref) p n).getSeat w.ref).loads = (s.getSeat w.ref).loads := by
    rcases s.noteCorr_cases w.ref p n with notes | ⟨c, counted⟩
    · exact ⟨by rw [notes.rest], by rw [notes.getSeat]⟩
    · rw [counted, State.modSeat_getSeat]
      exact ⟨rfl, rfl⟩
  have heard (u : State) : (u.hear w none l).monitors = u.monitors ∧ ((u.hear w none l).getSeat w.ref).loads = (u.getSeat w.ref).loads := by
    unfold State.hear
    split
    · exact ⟨rfl, rfl⟩
    · refine ⟨rfl, ?_⟩
      unfold State.modStr
      rw [State.modSeat_getSeat]
      rfl
  exact ⟨(heard _).1.trans noted.1, (heard _).2.trans noted.2⟩

/-- At its home the request of an MWAIT compares, and arms a monitor when the word is as expected and one is free (R223). -/
theorem homeAct_mwait {s : State} {r : SeatRef} {l : LoadReq} {e : Word} (kind : l.kind = .mwait e)
    (ok : s.answerReq r l l.place l.size = .ok) :
    let t := s.homeAct r l
    let v := s.dataAt l.place l.size
    SameBytes s t ∧ (∀ m ∈ (t.getSeat r).loads, m.seq = l.seq → m.got = some ⟨.ok, BitVec.ofNat 2048 v, false⟩) ∧
    if BitVec.ofNat 64 v = e ∧ s.monitorFree l = true then ⟨⟨r, l.stream⟩, l.place⟩ ∈ t.monitors else t.monitors = s.monitors := by
  intro t v
  let l1 : LoadReq := { l with got := some ⟨.ok, BitVec.ofNat 2048 v, false⟩ }
  let s1 := ((s.setReq r l1).noteCorr (some r) l.place l.size).hear ⟨r, l.stream⟩ none (s.heardAt l.place l.size)
  have run : t = if BitVec.ofNat 64 v = e ∧ s.monitorFree l = true then s1.arm ⟨r, l.stream⟩ l.place else s1 := by
    show s.homeAct r l = _
    unfold State.homeAct
    rw [kind]
    dsimp only
    unfold State.armAt
    dsimp only
    rw [ok]
    dsimp only
    refine if_congr ?_ rfl rfl
    simp [v]
  obtain ⟨monitors, loads⟩ := (s.setReq r l1).noteCorr_hear_leaves ⟨r, l.stream⟩ l.place l.size (s.heardAt l.place l.size)
  have mem : s1.mem = s.mem := (State.hear_mem _ _ _ _).trans (State.noteCorr_mem _ _ _ _)
  have got : ∀ m ∈ (s1.getSeat r).loads, m.seq = l.seq → m.got = some ⟨.ok, BitVec.ofNat 2048 v, false⟩ := by
    rw [show (s1.getSeat r).loads = _ from loads]
    exact s.setReq_got r l1
  have bytes (u : State) (h : u.mem = s1.mem) : SameBytes s u := fun k => by
    unfold State.byteAt
    rw [h, mem]
  clear_value t
  subst run
  by_cases arms : BitVec.ofNat 64 v = e ∧ s.monitorFree l = true
  · rw [if_pos arms, if_pos arms]
    exact ⟨bytes _ rfl, got, List.mem_append_right _ (List.mem_singleton.2 rfl)⟩
  · rw [if_neg arms, if_neg arms]
    exact ⟨bytes _ rfl, got, monitors⟩

/-! ## Its answer -/

/-- The answer of the arm and compare ends the wait, or leaves the monitor to end it (R223). -/
theorem exec_scalarAnswer_mwait {s : State} {w : Who} {i : Nat} {l : LoadReq} {a : Answer} {x e : Word} {k : Nat} {p : Fin 16} {due : Nat}
    {srcs : List SSpec} (hl : s.nthAnswer w i = some l) (ha : s.answerNow w.ref l = some a) (kind : l.kind = .mwait x)
    (wait : (s.getStr w).wait = .mwait k e p due srcs) (ok : a.ans = .ok) (runs : s.coreHeld w.ref.core = false) :
    let armed := s.monitors.any fun m => decide (m.who = w) && decide (m.place.key = l.place.key)
    exec (.scalarAnswer w i) s = .next (if a.data.setWidth 64 ≠ e ∨ armed = false then
      (s.dropLoad w.ref l).endMwait w p srcs (decide (a.data.setWidth 64 ≠ e)) else s.dropLoad w.ref l) := by
  intro armed
  have answered : exec (.scalarAnswer w i) s = .next (s.armAnswer w l a) := by
    show execScalarAnswer w i s = _
    simp [execScalarAnswer, hl, ha, runs, kind]
  rw [answered]
  unfold State.armAnswer
  rw [wait, ok]
  dsimp only
  refine congrArg Host.Outcome.next (if_congr ?_ rfl rfl)
  simp [armed]

/-! ## Obligation O26 -/

/-- An MWAIT that waits and whose request has been answered goes on waiting, unless a cut is latched. -/
theorem exec_mwait_waiting {s : State} {g : MwaitArgs} {k : Nat} {e : Word} {p : Fin 16} {due : Nat} {srcs : List SSpec}
    (ready : Ready s [g.a, g.b] []) (wait : s.me.wait = .mwait k e p due srcs) (answered : s.mySeat.arming s.turn.stream = false) :
    exec (.mwait g) s = if s.mySeat.cut.latch.isNone then s.stall none else .next (s.endMwait s.turn g.p [g.a, g.b] false) := by
  show execMwait g s = _
  unfold execMwait
  rw [ready.1, wait]
  dsimp only
  rw [answered]
  cases s.mySeat.cut.latch <;> rfl

theorem exec_mwait_woken {s : State} {g : MwaitArgs} {p : Fin 16} {v : Bool} {srcs : List SSpec} (ready : Ready s [g.a, g.b] [])
    (wait : s.me.wait = .woken p srcs v) : exec (.mwait g) s = .next (s.closeMwait s.turn p srcs v) := by
  show execMwait g s = _
  unfold execMwait
  rw [ready.1, wait]
  rfl

theorem exec_mwaitTimeout {s : State} {w : Who} {key : Nat} {e : Word} {p : Fin 16} {due : Nat} {srcs : List SSpec}
    (wait : (s.getStr w).wait = .mwait key e p due srcs) : exec (.mwaitTimeout w) s =
    .next (if (s.getSeat w.ref).sched < due then s else s.endMwait w p srcs false) := by
  show execMwaitTimeout w s = _
  unfold execMwaitTimeout
  rw [wait]
  dsimp only
  by_cases early : (s.getSeat w.ref).sched < due
  · rw [if_neg (by omega), if_pos early]
  · rw [if_pos (by omega), if_neg early]

/-- In a freeze a wait that ends leaves its instruction to end when its stream next runs (R18; log 53). -/
theorem State.endMwait_held {s : State} {w : Who} (held : s.coreHeld w.ref.core = true) (p : Fin 16) (srcs : List SSpec) (v : Bool) :
    s.endMwait w p srcs v = (s.disarm w).modStr w fun t => { t with wait := .woken p srcs v } := if_pos held

theorem waitEnds_of_runs {s : State} {w : Who} (runs : s.coreHeld w.ref.core = false) (p : Fin 16) (srcs : List SSpec) (v : Bool) :
    WaitEnds w s (s.endMwait w p srcs v) srcs p v := by
  have same : (s.modSeat w.ref fun st => st) = s := s.setSeat_same w.ref
  have := waitEnds_endMwait s w srcs p v (fun st => st) (L := (s.getSeat w.ref).loads) rfl runs
  rwa [same] at this

/-- Settles O26: the request is `mwait_sends`, its act at the home `homeAct_mwait`; each end of the wait is `State.endMwait`. -/
theorem monitorWait : Obligations.MonitorWait := by
  unfold Obligations.MonitorWait
  refine ⟨fun s g p ready gate wait free ok => mwait_sends ready gate wait free ok, fun s r l e kind ok => homeAct_mwait kind ok,
    fun s w i l a x e k p due srcs hl ha kind wait ok runs => ?answer, fun s g k e p due srcs ready wait answered => ?cut,
    fun s g p v srcs ready wait => ?woken, fun s w key e p due srcs wait => ?timeout⟩
  case answer =>
    intro armed
    have run := exec_scalarAnswer_mwait hl ha kind wait ok runs
    by_cases ends : a.data.setWidth 64 ≠ e ∨ armed = false
    · rw [if_pos ends]
      exact ⟨_, run.trans (congrArg _ (if_pos ends)), waitEnds_endMwait s w srcs p _ (fun st => st.dropLoad l) rfl runs⟩
    · rw [if_neg ends]
      exact run.trans (congrArg _ (if_neg ends))
  case cut =>
    have run := exec_mwait_waiting ready wait answered
    by_cases none : s.mySeat.cut.latch.isNone = true
    · rw [if_pos none]
      exact run.trans (if_pos none)
    · rw [if_neg none]
      replace run := run.trans (if_neg none)
      by_cases held : s.coreHeld s.turn.ref.core = true
      · rw [if_pos held]
        exact run.trans (congrArg _ (State.endMwait_held held _ _ _))
      · rw [if_neg held]
        exact ⟨_, run, waitEnds_of_runs (by simpa using held) _ _ _⟩
  case woken =>
    refine ⟨_, exec_mwait_woken ready wait, ?_⟩
    have closes : s.closeMwait s.turn p srcs v = s.modMySeat fun st => st.predStep s.turn.stream s.now srcs p v := by
      show { ((srcs.foldl State.take s).wrPred p v).retire with turn := s.turn } = _
      rw [s.predStep_eq srcs p v]
      rfl
    rw [closes]
    exact predStep_result s srcs p v
  case timeout =>
    have run := exec_mwaitTimeout wait
    by_cases early : (s.getSeat w.ref).sched < due
    · rw [if_pos early]
      exact run.trans (congrArg _ (if_pos early))
    · rw [if_neg early]
      replace run := run.trans (congrArg _ (if_neg early))
      by_cases held : s.coreHeld w.ref.core = true
      · rw [if_pos held]
        exact run.trans (congrArg _ (State.endMwait_held held _ _ _))
      · rw [if_neg held]
        exact ⟨_, run, waitEnds_of_runs (by simpa using held) _ _ _⟩

end Sys2Proof.Machine
end

section
/-! SUPPORT. What a write at its home changes, and obligation O23 (R201, R209, R218, R251). -/
namespace Sys2Proof.Machine

/-! ## Changes of streams alone -/

/-- Nothing has changed but streams, their seats and the monitors they wait on. -/
def OnlySeats (s t : State) : Prop := ∃ c ms, t = { s with core := c, monitors := ms }

theorem onlySeats_refl (s : State) : OnlySeats s s := ⟨s.core, s.monitors, rfl⟩

theorem onlySeats_trans {s t u : State} (h : OnlySeats s t) (k : OnlySeats t u) : OnlySeats s u := by
  obtain ⟨c, ms, rfl⟩ := h
  obtain ⟨d, ns, rfl⟩ := k
  exact ⟨d, ns, rfl⟩

theorem onlySeats_modSeat (s : State) (r : SeatRef) (f : Seat → Seat) : OnlySeats s (s.modSeat r f) := ⟨_, s.monitors, rfl⟩

theorem onlySeats_disarm (s : State) (w : Who) : OnlySeats s (s.disarm w) := ⟨_, _, rfl⟩

theorem onlySeats_hear (s : State) (w : Who) (acq : Option Scope) (l : List Heard) : OnlySeats s (s.hear w acq l) := by
  unfold State.hear
  split
  · exact onlySeats_refl s
  · exact onlySeats_modSeat s _ _

theorem onlySeats_closeMwait (s : State) (w : Who) (p : Fin 16) (srcs : List SSpec) (v : Bool) : OnlySeats s (s.closeMwait w p srcs v) := by
  have closes : s.closeMwait w p srcs v =
      { ((srcs.foldl State.take { s with turn := w }).wrPred p v).retire with turn := s.turn } := rfl
  rw [closes, State.predStep_eq]
  exact ⟨_, s.monitors, rfl⟩

theorem onlySeats_endMwait (s : State) (w : Who) (p : Fin 16) (srcs : List SSpec) (v : Bool) : OnlySeats s (s.endMwait w p srcs v) := by
  unfold State.endMwait
  split
  · exact onlySeats_trans (onlySeats_disarm s w) (onlySeats_modSeat _ _ _)
  · exact onlySeats_trans (onlySeats_disarm s w) (onlySeats_closeMwait _ _ _ _ _)

theorem onlySeats_foldl {α : Type} (g : State → α → State) (h : ∀ t a, OnlySeats t (g t a)) (l : List α) (s : State) :
    OnlySeats s (l.foldl g s) := by
  induction l generalizing s with
  | nil => exact onlySeats_refl s
  | cons a r ih => exact onlySeats_trans (h s a) (ih _)

/-- The monitors that a write wakes end the waits of their streams, and nothing else (R223, R301). -/
theorem onlySeats_wakeMonitors (s : State) (ws : List Nat) : OnlySeats s (s.wakeMonitors ws) := by
  unfold State.wakeMonitors
  refine onlySeats_foldl _ (fun t m => ?_) _ s
  split
  · split
    · exact onlySeats_trans (onlySeats_hear _ _ _ _) (onlySeats_endMwait _ _ _ _ _)
    · exact onlySeats_refl t
  · dsimp only
    split
    · exact onlySeats_trans (onlySeats_disarm t _) (onlySeats_modSeat _ _ _)
    · exact onlySeats_refl t
  · exact onlySeats_refl t

theorem OnlySeats.flights {s t : State} (h : OnlySeats s t) : t.flights = s.flights := by
  obtain ⟨c, ms, rfl⟩ := h
  rfl

/-! ## Writes on their way -/

theorem OnlyNotes.flights {s t : State} (h : OnlyNotes s t) : t.flights = s.flights := by rw [h.rest]

theorem State.rekey_flights (s : State) (kw : BitVec 512) (u : Nat) : (s.rekey kw u).flights = s.flights := by
  unfold State.rekey
  split
  · rfl
  · split <;> rfl

theorem State.writeKeyed_flights (s : State) (slot : Option (Fin 64)) (k : Nat) (b : Byte) :
    (s.writeKeyed slot k b).flights = s.flights := by
  unfold State.writeKeyed
  split
  · exact s.rekey_flights _ _
  · rfl

theorem State.writePlace_flights (s : State) (p : Place) (n v : Nat) : (s.writePlace p n v).flights = s.flights := by
  have writes (i m : Nat) : (s.writeFrom p v i m).flights = s.flights := by
    induction m with
    | zero => rfl
    | succ m ih =>
      rw [State.writeFrom_last, State.writeKeyed_flights]
      exact ih
  exact writes 0 n

theorem State.afterWrite_flights (s : State) (p : Place) (n : Nat) (store bad : Bool) : (s.afterWrite p n store bad).flights = s.flights := by
  unfold State.afterWrite
  dsimp only
  rw [(onlySeats_wakeMonitors _ _).flights]
  simp only [apply_ite State.flights, ite_self]

theorem State.noteCorr_flights (s : State) (src : Option SeatRef) (p : Place) (n : Nat) : (s.noteCorr src p n).flights = s.flights := by
  cases src with
  | none => exact (onlyNotes_noteCorr s p n).flights
  | some r =>
    rcases s.noteCorr_cases r p n with notes | ⟨c, counted⟩
    · exact notes.flights
    · rw [counted]; rfl

theorem State.dropWrite_flights (s : State) (src : Source) : (s.dropWrite src).flights = s.flights := by
  unfold State.dropWrite
  split <;> rfl

theorem State.performOne_flights (s : State) (src : Source) (k : WKind) (p : Place) (n data : Nat) (bad host : Bool) :
    (s.performOne src k p n data bad host).flights = s.flights := by
  unfold State.performOne
  split
  · rfl
  · split
    · split
      · exact s.afterWrite_flights _ _ _ _
      · dsimp only
        rw [State.afterWrite_flights, State.writePlace_flights]
        split
        · rfl
        · exact s.noteCorr_flights _ _ _
    · exact (State.dropWrite_flights _ _).trans (onlyNotes_noteBad s p n false).flights

theorem State.performParts_flights (s : State) (src : Source) (k : WKind) (p : Place) (n data : Nat) (bad host : Bool) :
    (s.performParts src k p n data bad host).flights = s.flights := by
  unfold State.performParts
  generalize writeParts k p n data = l
  induction l generalizing s with
  | nil => rfl
  | cons x l ih => exact (ih _).trans (s.performOne_flights _ _ _ _ _ _ _)

theorem State.overwrite_flights (s : State) (k : WKind) (p : Place) (n : Nat) (host : Bool) : (s.overwrite k p n host).flights = s.flights := by
  unfold State.overwrite
  split <;> rfl

theorem State.countArrival_flights (s : State) (f : Flight) (n : Nat) : (s.countArrival f n).flights = s.flights := by
  unfold State.countArrival
  split
  · split <;> rfl
  · rfl

/-! ## The units of an access -/

theorem mem_insNat {k a : Nat} {l : List Nat} : a ∈ insNat k l ↔ a = k ∨ a ∈ l := by
  induction l with
  | nil => simp [insNat]
  | cons b l ih =>
    rw [insNat]
    split
    · simp
    · split
      · rename_i same; simp [same]
      · rw [List.mem_cons, ih, List.mem_cons]; exact or_left_comm

theorem mem_wordsOf {p : Place} {w : Nat} (i n : Nat) : w ∈ wordsOf p i n ↔ ∃ j < n, p.keyOf (i + j) / 8 = w := by
  induction n generalizing i with
  | zero => simp [wordsOf]
  | succ n ih =>
    rw [wordsOf, mem_insNat, ih]
    constructor
    · rintro (rfl | ⟨j, hj, rfl⟩)
      · exact ⟨0, Nat.succ_pos n, rfl⟩
      · exact ⟨j + 1, Nat.succ_lt_succ hj, by rw [Nat.add_right_comm, Nat.add_assoc]⟩
    · rintro ⟨j, hj, rfl⟩
      cases j with
      | zero => exact .inl rfl
      | succ j => exact .inr ⟨j, Nat.lt_of_succ_lt_succ hj, by rw [Nat.add_right_comm, Nat.add_assoc]⟩

/-- The words that an access touches are those of its bytes. -/
theorem Place.mem_words {p : Place} {n w : Nat} : w ∈ p.words n ↔ ∃ j < n, p.keyOf j / 8 = w := by
  unfold Place.words
  simp only [mem_wordsOf, Nat.zero_add]

/-- The units that an access touches are those of its bytes. -/
theorem Place.mem_units {p : Place} {n u : Nat} : u ∈ p.units n ↔ ∃ j < n, p.keyOf j / 32 = u := by
  have words (l : List Nat) : u ∈ l.foldr (fun w l => insNat (w / 4) l) [] ↔ ∃ w ∈ l, w / 4 = u := by
    induction l with
    | nil => simp
    | cons w l ih => simp [mem_insNat, ih, eq_comm]
  unfold Place.units
  rw [words]
  constructor
  · rintro ⟨w, hw, rfl⟩
    obtain ⟨j, hj, rfl⟩ := Place.mem_words.1 hw
    exact ⟨j, hj, by omega⟩
  · rintro ⟨j, hj, rfl⟩
    exact ⟨_, Place.mem_words.2 ⟨j, hj, rfl⟩, by omega⟩

/-- Memory is in its canonical form, and no byte outside the units of U has changed. -/
structure KeepsOutside (U : List Nat) (s t : State) : Prop where
  wf   : Memory.wf t.mem = true
  byte : ∀ k, k / 32 ∉ U → t.byteAt k = s.byteAt k

theorem keepsOutside_of_mem {U : List Nat} {s t : State} (wf : Memory.wf s.mem = true) (mem : t.mem = s.mem) : KeepsOutside U s t :=
  ⟨mem ▸ wf, fun k _ => by unfold State.byteAt; rw [mem]⟩

theorem keepsOutside_trans {U : List Nat} {s t u : State} (h : KeepsOutside U s t) (k : KeepsOutside U t u) : KeepsOutside U s u :=
  ⟨k.wf, fun a ha => (k.byte a ha).trans (h.byte a ha)⟩

theorem read_rekeyBytes_after (v : BitVec 256) {j : Nat} (k n : Nat) {m : Cells} (wf : Memory.wf m = true) (after : k + n ≤ j) :
    Cells.read (rekeyBytes v k n m) j = Cells.read m j := by
  induction n generalizing k m with
  | zero => rfl
  | succ n ih => rw [rekeyBytes, ih _ (Cells.write_wf _ _ _ wf) (by omega), Cells.read_write_ne m _ _ _ wf (by omega)]

/-- Rekeying a unit leaves the bytes of the others (R353). -/
theorem State.rekey_byteAt (s : State) (kw : BitVec 512) {u k : Nat} (wf : Memory.wf s.mem = true) (other : k / 32 ≠ u) :
    (s.rekey kw u).byteAt k = s.byteAt k := by
  unfold State.byteAt
  cases old : assoc u s.unitKey with
  | none => unfold State.rekey; rw [old]
  | some ko =>
    by_cases same : ko = kw
    · unfold State.rekey
      rw [old]
      exact congrArg (fun t : State => Cells.read t.mem k) (if_pos same)
    · rw [s.rekey_mem old same]
      rcases Nat.lt_or_ge k (u * 32) with before | after
      · exact (read_rekeyBytes _ _ _ _ wf).1 k before
      · exact read_rekeyBytes_after _ _ _ wf (by omega)

theorem keepsOutside_writeKeyed {U : List Nat} (s : State) (slot : Option (Fin 64)) {k : Nat} (b : Byte) (wf : Memory.wf s.mem = true)
    (unit : k / 32 ∈ U) : KeepsOutside U s (s.writeKeyed slot k b) := by
  refine ⟨s.writeKeyed_wf _ _ _ wf, fun j hj => ?_⟩
  have other : j ≠ k := fun e => hj (e ▸ unit)
  unfold State.writeKeyed
  split
  · exact (Cells.read_write_ne _ _ _ _ (s.rekey_wf _ _ wf) other).trans (s.rekey_byteAt _ wf fun e => hj (e ▸ unit))
  · exact Cells.read_write_ne _ _ _ _ wf other

theorem keepsOutside_writePlace {U : List Nat} (s : State) (p : Place) (n v : Nat) (wf : Memory.wf s.mem = true)
    (units : ∀ u ∈ p.units n, u ∈ U) : KeepsOutside U s (s.writePlace p n v) := by
  have writes (m : Nat) (h : m ≤ n) : KeepsOutside U s (s.writeFrom p v 0 m) := by
    induction m with
    | zero => exact keepsOutside_of_mem wf rfl
    | succ m ih =>
      have before := ih (by omega)
      rw [State.writeFrom_last]
      exact keepsOutside_trans before
        (keepsOutside_writeKeyed _ _ _ before.wf (units _ (Place.mem_units.2 ⟨0 + m, by omega, rfl⟩)))
  exact writes n (Nat.le_refl n)

theorem keepsOutside_performOne {U : List Nat} (s : State) (src : Source) (k : WKind) (p : Place) (n data : Nat) (bad host : Bool)
    (wf : Memory.wf s.mem = true) (units : ∀ u ∈ p.units n, u ∈ U) : KeepsOutside U s (s.performOne src k p n data bad host) := by
  unfold State.performOne
  split
  · exact keepsOutside_of_mem wf rfl
  · split
    · split
      · exact keepsOutside_of_mem wf (State.afterWrite_mem _ _ _ _ _)
      · have read : KeepsOutside U s (if k = .store then s else s.noteCorr src.seat p n) :=
          keepsOutside_of_mem wf (by split; exacts [rfl, s.noteCorr_mem _ _ _])
        have written (v : Nat) := keepsOutside_trans read (keepsOutside_writePlace _ p n v read.wf units)
        exact keepsOutside_trans (written _) (keepsOutside_of_mem (written _).wf (State.afterWrite_mem _ _ _ _ _))
    · exact keepsOutside_of_mem wf ((State.dropWrite_mem _ _).trans (State.noteBad_mem _ _ _ _))

/-- The bytes of a part of a place. -/
theorem Place.keyOf_part (p : Place) (o i : Nat) : ({ p with key := p.key + o } : Place).keyOf i = p.keyOf (o + i) := by
  unfold Place.keyOf
  rw [Nat.add_assoc]

/-- Element i of an access of n bytes, z bytes wide, ends within it. -/
theorem element_within {n z i : Nat} (h : i < n / z) : z * i + z ≤ n :=
  calc z * i + z = z * (i + 1) := (Nat.mul_succ z i).symm
    _ ≤ z * (n / z) := Nat.mul_le_mul_left z h
    _ ≤ n := Nat.mul_div_le n z

theorem writeParts_units {k : WKind} {p : Place} {n data : Nat} {x : Place × Nat × Nat} (hx : x ∈ writeParts k p n data) :
    ∀ u ∈ x.1.units x.2.1, u ∈ p.units n := by
  intro u hu
  cases k with
  | store =>
    obtain rfl := List.mem_singleton.1 hx
    exact hu
  | red op =>
    obtain rfl := List.mem_singleton.1 hx
    exact hu
  | acc op =>
    obtain ⟨i, hi, rfl⟩ := List.mem_map.1 hx
    obtain ⟨j, hj, rfl⟩ := Place.mem_units.1 hu
    have within := element_within (List.mem_range.1 hi)
    exact Place.mem_units.2 ⟨accWidth op / 8 * i + j, (Nat.add_lt_add_left hj _).trans_le within, by rw [Place.keyOf_part]⟩

theorem keepsOutside_performParts (s : State) (src : Source) (k : WKind) (p : Place) (n data : Nat) (bad host : Bool)
    (wf : Memory.wf s.mem = true) : KeepsOutside (p.units n) s (s.performParts src k p n data bad host) := by
  have parts (l : List (Place × Nat × Nat)) (h : ∀ x ∈ l, ∀ u ∈ x.1.units x.2.1, u ∈ p.units n) (t : State) (wf : Memory.wf t.mem = true) :
      KeepsOutside (p.units n) t (l.foldl (fun s x => s.performOne src k x.1 x.2.1 x.2.2 bad host) t) := by
    induction l generalizing t with
    | nil => exact keepsOutside_of_mem wf rfl
    | cons x l ih =>
      have first := keepsOutside_performOne t src k x.1 x.2.1 x.2.2 bad host wf (h x (List.mem_cons_self ..))
      exact keepsOutside_trans first (ih (fun y hy => h y (List.mem_cons_of_mem x hy)) _ first.wf)
  exact parts _ (fun x => writeParts_units) s wf

/-! ## Bytes of numbers -/

/-- The low bits of a number have the number's low bytes. -/
theorem byte_mod (a : Nat) {n j : Nat} (h : j < n) : BitVec.ofNat 8 (a % 256 ^ n / 256 ^ j) = BitVec.ofNat 8 (a / 256 ^ j) := by
  refine BitVec.eq_of_getLsbD_eq fun i hi => ?_
  have base : (256 : Nat) = 2 ^ 8 := rfl
  rw [BitVec.getLsbD_ofNat, BitVec.getLsbD_ofNat, base, ← pow_mul, ← pow_mul, Nat.testBit_div_two_pow, Nat.testBit_div_two_pow,
    Nat.testBit_mod_two_pow, decide_eq_true (show i + 8 * j < 8 * n by omega), Bool.true_and]

/-- A field of a number's low bits is the number's. -/
theorem field_mod (a : Nat) {m o w : Nat} (h : o + w ≤ m) : a % 2 ^ m / 2 ^ o % 2 ^ w = a / 2 ^ o % 2 ^ w := by
  refine Nat.eq_of_testBit_eq fun i => ?_
  simp only [Nat.testBit_mod_two_pow, Nat.testBit_div_two_pow]
  by_cases hi : i < w
  · simp only [hi, decide_true, Bool.true_and, show i + o < m by omega]
  · simp [hi]

theorem tabulate_congr {w : Nat} {f g : Nat → Nat} {m a : Nat} (h : ∀ i, a ≤ i → i < a + m → f i = g i) :
    tabulate w f m a = tabulate w g m a := by
  induction m generalizing a with
  | zero => rfl
  | succ m ih => rw [tabulate, tabulate, h a (by omega) (by omega), ih fun i hi hj => h i (by omega) (by omega)]

theorem field_tabulate (w : Nat) (f : Nat → Nat) {m i : Nat} (a : Nat) (h : i < m) :
    tabulate w f m a / 2 ^ (w * i) % 2 ^ w = f (a + i) % 2 ^ w := by
  induction m generalizing a i with
  | zero => exact absurd h (Nat.not_lt_zero i)
  | succ m ih =>
    have pos : 0 < 2 ^ w := Nat.two_pow_pos w
    rw [tabulate]
    cases i with
    | zero => rw [Nat.mul_zero, pow_zero, Nat.div_one, Nat.add_mul_mod_self_left, Nat.mod_mod, Nat.add_zero]
    | succ i =>
      rw [Nat.mul_succ, Nat.add_comm (w * i), pow_add, ← Nat.div_div_eq_div_mul, Nat.add_mul_div_left _ _ pos,
        Nat.div_eq_of_lt (Nat.mod_lt _ pos), Nat.zero_add, ih (a + 1) (by omega), Nat.add_assoc, Nat.add_comm 1 i]

/-- Reading is reading the first bytes and the others. -/
theorem State.readFrom_add (s : State) (p : Place) (i a b : Nat) :
    s.readFrom p i (a + b) = s.readFrom p i a + 256 ^ a * s.readFrom p (i + a) b := by
  induction a generalizing i with
  | zero => simp [State.readFrom]
  | succ a ih =>
    rw [Nat.succ_add, State.readFrom, State.readFrom, ih, pow_succ, Nat.add_assoc i 1 a, Nat.add_comm 1 a]
    ring

theorem State.readFrom_part (s : State) (p : Place) (o i n : Nat) : s.readFrom { p with key := p.key + o } i n = s.readFrom p (o + i) n := by
  induction n generalizing i with
  | zero => rfl
  | succ n ih => rw [State.readFrom, State.readFrom, ih, Place.keyOf_part, Nat.add_assoc]

/-- A part of what is read is what is read of the part. -/
theorem State.readPlace_part (s : State) (p : Place) {n o m : Nat} (h : o + m ≤ n) :
    s.readPlace { p with key := p.key + o } m = s.readPlace p n / 256 ^ o % 256 ^ m := by
  obtain ⟨r, rfl⟩ := Nat.exists_eq_add_of_le h
  have low : s.readFrom p 0 o < 256 ^ o := s.readPlace_lt p o
  have mid : s.readPlace { p with key := p.key + o } m < 256 ^ m := s.readPlace_lt _ m
  have part : s.readPlace { p with key := p.key + o } m = s.readFrom p (0 + o) m := by
    rw [State.readPlace, State.readFrom_part, Nat.add_comm o]
  have whole : s.readPlace p (o + m + r) =
      s.readFrom p 0 o + 256 ^ o * (s.readPlace { p with key := p.key + o } m + 256 ^ m * s.readFrom p (0 + o + m) r) := by
    rw [part, State.readPlace, Nat.add_assoc o, s.readFrom_add p 0 o, s.readFrom_add p (0 + o) m]
  rw [whole, Nat.add_mul_div_left _ _ (by positivity), Nat.div_eq_of_lt low, Nat.zero_add, Nat.add_mul_mod_self_left, Nat.mod_eq_of_lt mid]

/-- What is read of a place of the window is fixed by its bytes. -/
theorem State.readPlace_bytes {s t : State} {p : Place} {n : Nat} (plain : p.Plain n)
    (same : ∀ j < n, t.byteAt (p.key + j) = s.byteAt (p.key + j)) : t.readPlace p n = s.readPlace p n := by
  have from' (i m : Nat) (h : i + m ≤ n) : t.readFrom p i m = s.readFrom p i m := by
    induction m generalizing i with
    | zero => rfl
    | succ m ih =>
      have below := plain.below
      rw [State.readFrom, State.readFrom, ih (i + 1) (by omega), plain.keyOf, t.readKeyed_window _ (by omega),
        s.readKeyed_window _ (by omega), same i (by omega)]
  exact from' 0 n (by omega)

/-! ## What a write leaves in the window -/

theorem accWidth_eq (op : Fin 4) : accWidth op = 8 * (accWidth op / 8) ∧ 0 < accWidth op / 8 := by
  revert op; decide

/-- A write's result holds the low n bytes of its data alone. -/
theorem WKind.result_mod (k : WKind) (old data : Nat) {n j : Nat} (hj : j < n) :
    BitVec.ofNat 8 (k.result n old (data % 256 ^ n) / 256 ^ j) = BitVec.ofNat 8 (k.result n old data / 256 ^ j) := by
  have base : (256 : Nat) ^ n = 2 ^ (8 * n) := by rw [pow_mul]; norm_num
  cases k with
  | store => exact byte_mod data hj
  | red op =>
    have same : atomApply op (8 * n) old (data % 256 ^ n) 0 = atomApply op (8 * n) old data 0 := by
      unfold atomApply
      rw [base, Nat.mod_mod]
    exact congrArg (fun v => BitVec.ofNat 8 (v / 256 ^ j)) same
  | acc op =>
    refine congrArg (fun v => BitVec.ofNat 8 (v / 256 ^ j)) (tabulate_congr fun i _ hi => ?_)
    rw [base, field_mod]
    rw [Nat.zero_add] at hi
    exact element_within hi

/-- Byte r of element i of an accumulation's result is that of the element's own (R290, R293). -/
theorem WKind.result_element (op : Fin 4) (old data : Nat) {n i r : Nat} (hi : i < n / (accWidth op / 8)) (hr : r < accWidth op / 8) :
    let z := accWidth op / 8
    BitVec.ofNat 8 ((WKind.acc op).result z (old / 256 ^ (z * i) % 256 ^ z) (data / 2 ^ (8 * z * i) % 2 ^ (8 * z)) / 256 ^ r) =
      BitVec.ofNat 8 ((WKind.acc op).result n old data / 256 ^ (z * i + r)) := by
  intro z
  obtain ⟨width, pos⟩ := accWidth_eq op
  have base (a : Nat) : (256 : Nat) ^ a = 2 ^ (8 * a) := by rw [pow_mul]; norm_num
  have bits : accWidth op = 8 * z := width
  have count : 8 * n / accWidth op = n / z := by rw [bits, Nat.mul_div_mul_left _ _ (by norm_num)]
  let f (j : Nat) : Nat := accElem op (old / 2 ^ (8 * z * j) % 2 ^ (8 * z)) (data / 2 ^ (8 * z * j) % 2 ^ (8 * z))
  have whole : (WKind.acc op).result n old data = tabulate (8 * z) f (n / z) 0 := by
    unfold WKind.result
    dsimp only
    rw [count, bits]
  have own : (WKind.acc op).result z (old / 256 ^ (z * i) % 256 ^ z) (data / 2 ^ (8 * z * i) % 2 ^ (8 * z)) = f i % 256 ^ z := by
    unfold WKind.result
    dsimp only
    rw [bits, Nat.div_self (by omega), tabulate, tabulate]
    simp only [Nat.mul_zero, pow_zero, Nat.div_one, Nat.add_zero, Nat.mod_mod, base, ← Nat.mul_assoc]
    rfl
  have element : (WKind.acc op).result n old data / 256 ^ (z * i) % 256 ^ z = f i % 256 ^ z := by
    have := field_tabulate (8 * z) f 0 hi
    rw [whole, base, base, ← Nat.mul_assoc, this, Nat.zero_add]
  rw [own, ← element, byte_mod _ hr, Nat.div_div_eq_div_mul, ← pow_add]

/-- A store or reduction, or one element of an accumulation, leaves its result in the window, and every other byte as before. -/
theorem State.performOne_window (s : State) (src : Source) {k : WKind} {p : Place} {n : Nat} (data : Nat) {host : Bool}
    (wf : Memory.wf s.mem = true) (here : p.isLocal = true) (plain : p.Plain n) (ok : s.writeAnswer k p n host = .ok) :
    let t := s.performOne src k p n data false host
    (∀ j < n, t.byteAt (p.key + j) = BitVec.ofNat 8 (k.result n (s.readPlace p n) data / 256 ^ j)) ∧
      ∀ a, a < p.key ∨ p.key + n ≤ a → t.byteAt a = s.byteAt a := by
  intro t
  let u := if k = .store then s else s.noteCorr src.seat p n
  have mem : u.mem = s.mem := by
    show (if k = .store then s else s.noteCorr src.seat p n).mem = _
    split
    · rfl
    · exact s.noteCorr_mem _ _ _
  have result : k.result n (if k = .store then 0 else u.readPlace p n) data = k.result n (s.readPlace p n) data := by
    by_cases store : k = .store
    · rw [store]; rfl
    · rw [if_neg store, State.readPlace_congr plain mem]
  have written : t.mem = (u.writePlace p n (k.result n (s.readPlace p n) data)).mem := by
    show (s.performOne src k p n data false host).mem = _
    unfold State.performOne
    rw [here, ok]
    exact (State.afterWrite_mem _ _ _ _ _).trans (congrArg (fun v => (u.writePlace p n v).mem) result)
  obtain ⟨inside, outside⟩ := u.writePlace_byteAt (k.result n (s.readPlace p n) data) plain (mem ▸ wf)
  refine ⟨fun j hj => ?_, fun a ha => ?_⟩
  · show Cells.read t.mem _ = _
    rw [written]; exact inside j hj
  · show Cells.read t.mem a = Cells.read s.mem a
    rw [written, ← mem]; exact outside a ha

/-- Places of the window are answered as before (R201, R205). -/
def SameWindow (s t : State) : Prop :=
  ∀ (p : Place) (n : Nat) (host : Bool), p.isLocal = true → isPhys p.key = false → t.answer p n host = s.answer p n host

theorem State.answer_window (s : State) {p : Place} (n : Nat) (host : Bool) (here : p.isLocal = true) (window : isPhys p.key = false) :
    s.answer p n host = if !s.dieUsable p.home.die || s.dieInReset p.home.die then .dieReset
      else if (p.words n).any fun w => s.poison.contains w then .uncorrectable else .ok := by
  unfold State.answer State.answerWith
  rw [here, window]
  rfl

theorem sameWindow_trans {s t u : State} (h : SameWindow s t) (k : SameWindow t u) : SameWindow s u :=
  fun p n host here window => (k p n host here window).trans (h p n host here window)

theorem OnlySeats.sameWindow {s t : State} (h : OnlySeats s t) : SameWindow s t := by
  obtain ⟨c, ms, rfl⟩ := h
  exact fun p n host here window => rfl

theorem OnlyNotes.sameWindow {s t : State} (h : OnlyNotes s t) : SameWindow s t := by
  intro p n host here window
  rw [State.answer_window _ n host here window, State.answer_window _ n host here window, h.rest]
  rfl

theorem sameWindow_noteCorr (s : State) (src : Option SeatRef) (p : Place) (n : Nat) : SameWindow s (s.noteCorr src p n) := by
  cases src with
  | none => exact (onlyNotes_noteCorr s p n).sameWindow
  | some r =>
    rcases s.noteCorr_cases r p n with notes | ⟨c, counted⟩
    · exact notes.sameWindow
    · rw [counted]; exact (onlySeats_modSeat s r _).sameWindow

/-- A write in the window changes memory alone. -/
theorem State.writePlace_window (s : State) {p : Place} {n : Nat} (v : Nat) (plain : p.Plain n) :
    ∃ c, s.writePlace p n v = { s with mem := c } := by
  have writes (m : Nat) (h : m ≤ n) : ∃ c, s.writeFrom p v 0 m = { s with mem := c } := by
    induction m with
    | zero => exact ⟨s.mem, rfl⟩
    | succ m ih =>
      obtain ⟨c, hc⟩ := ih (by omega)
      have below := plain.below
      rw [State.writeFrom_last, plain.keyOf, State.writeKeyed_window _ _ _ (by omega), hc]
      exact ⟨_, rfl⟩
  exact writes n (Nat.le_refl n)

theorem sameWindow_writePlace (s : State) {p : Place} {n : Nat} (v : Nat) (plain : p.Plain n) : SameWindow s (s.writePlace p n v) := by
  obtain ⟨c, hc⟩ := s.writePlace_window v plain
  rw [hc]
  exact fun q m host here window => rfl

theorem sameWindow_afterWrite (s : State) {p : Place} (n : Nat) (window : isPhys p.key = false) : SameWindow s (s.afterWrite p n false false) := by
  unfold State.afterWrite
  rw [window]
  refine sameWindow_trans (fun q m host here hq => ?_) (onlySeats_wakeMonitors _ _).sameWindow
  rw [State.answer_window _ m host here hq, State.answer_window _ m host here hq]
  simp

theorem sameWindow_performOne (s : State) (src : Source) {k : WKind} {p : Place} {n : Nat} (data : Nat) (host : Bool) (other : k ≠ .store)
    (plain : p.Plain n) (window : isPhys p.key = false) (ok : s.writeAnswer k p n host = .ok) :
    SameWindow s (s.performOne src k p n data false host) := by
  unfold State.performOne
  rw [ok]
  split
  · exact (onlySeats_refl s).sameWindow
  · dsimp only
    rw [if_neg Bool.false_ne_true, decide_eq_false other]
    exact sameWindow_trans (sameWindow_noteCorr s _ p n)
      (sameWindow_trans (sameWindow_writePlace _ _ plain) (sameWindow_afterWrite _ n window))

/-- A part of a place of the window that meets no error meets none. -/
theorem State.answer_part {s : State} {p : Place} {n o m : Nat} {host : Bool} (here : p.isLocal = true) (plain : p.Plain n)
    (within : o + m ≤ n) (some : 0 < m) (ok : s.answer p n host = .ok) : s.answer { p with key := p.key + o } m host = .ok := by
  have below := plain.below
  have window : isPhys p.key = false := isPhys_of_below (by omega)
  rw [State.answer_window _ _ _ here window] at ok
  rw [State.answer_window s m host (p := { p with key := p.key + o }) here (isPhys_of_below (show p.key + o < physBase by omega))]
  by_cases gone : (!s.dieUsable p.home.die || s.dieInReset p.home.die) = true
  · rw [if_pos gone] at ok; cases ok
  · rw [if_neg gone] at ok
    rw [if_neg gone, if_neg]
    intro poisoned
    obtain ⟨w, hw, hp⟩ := List.any_eq_true.1 poisoned
    obtain ⟨j, hj, rfl⟩ := Place.mem_words.1 hw
    have whole : ((p.words n).any fun w => s.poison.contains w) = true :=
      List.any_eq_true.2 ⟨_, Place.mem_words.2 ⟨o + j, by omega, by rw [Place.keyOf_part]⟩, hp⟩
    rw [if_pos whole] at ok
    cases ok

/-- The elements of an accumulation leave their results, one after another (R290, R293). -/
theorem State.performParts_acc (s : State) (src : Source) (op : Fin 4) {p : Place} {n : Nat} (data : Nat) {host : Bool}
    (wf : Memory.wf s.mem = true) (here : p.isLocal = true) (plain : p.Plain n) (elements : n % (accWidth op / 8) = 0)
    (ok : s.answer p n host = .ok) :
    let t := s.performParts src (.acc op) p n data false host
    (∀ j < n, t.byteAt (p.key + j) = BitVec.ofNat 8 ((WKind.acc op).result n (s.readPlace p n) data / 256 ^ j)) ∧
      ∀ a, a < p.key ∨ p.key + n ≤ a → t.byteAt a = s.byteAt a := by
  intro t
  obtain ⟨-, pos⟩ := accWidth_eq op
  let z := accWidth op / 8
  let g (u : State) (i : Nat) : State :=
    u.performOne src (.acc op) { p with key := p.key + z * i } z (data / 2 ^ (8 * z * i) % 2 ^ (8 * z)) false host
  have run : t = (List.range (n / z)).foldl g s := List.foldl_map
  have parts (m : Nat) (hm : m ≤ n / z) :
      let u := (List.range m).foldl g s
      Memory.wf u.mem = true ∧ SameWindow s u ∧
        (∀ j < z * m, u.byteAt (p.key + j) = BitVec.ofNat 8 ((WKind.acc op).result n (s.readPlace p n) data / 256 ^ j)) ∧
        ∀ a, a < p.key ∨ p.key + z * m ≤ a → u.byteAt a = s.byteAt a := by
    induction m with
    | zero => exact ⟨wf, (onlySeats_refl s).sameWindow, fun j hj => absurd hj (Nat.not_lt_zero j), fun _ _ => rfl⟩
    | succ m ih =>
      obtain ⟨wf', answers, done, rest⟩ := ih (by omega)
      have within : z * m + z ≤ n := element_within hm
      have below := plain.below
      rw [List.range_succ, List.foldl_append]
      generalize (List.range m).foldl g s = u at wf' answers done rest ⊢
      let q : Place := { p with key := p.key + z * m }
      have here' : q.isLocal = true := here
      have plain' : q.Plain z := ⟨by show p.key + z * m + z ≤ physBase; omega, plain.skew⟩
      have window : isPhys q.key = false := isPhys_of_below (by show p.key + z * m < physBase; omega)
      have okPart : u.writeAnswer (.acc op) q z host = .ok :=
        (answers q z host here' window).trans (State.answer_part here plain within pos ok)
      have old : u.readPlace q z = s.readPlace p n / 256 ^ (z * m) % 256 ^ z :=
        (State.readPlace_bytes plain' fun j hj => rest _ (.inr (by show p.key + z * m ≤ p.key + z * m + j; omega))).trans
          (s.readPlace_part p within)
      obtain ⟨inside, outside⟩ := u.performOne_window src (data / 2 ^ (8 * z * m) % 2 ^ (8 * z)) wf' here' plain' okPart
      refine ⟨u.performOne_wf _ _ _ _ _ _ _ wf', sameWindow_trans answers (sameWindow_performOne u src _ host (by simp) plain' window okPart),
        fun j hj => ?_, fun a ha => ?_⟩
      · rw [Nat.mul_succ] at hj
        rcases Nat.lt_or_ge j (z * m) with early | late
        · exact (outside _ (.inl (by show p.key + j < p.key + z * m; omega))).trans (done j early)
        · obtain ⟨r, rfl⟩ := Nat.exists_eq_add_of_le late
          have byte := inside r (by omega)
          rw [old, WKind.result_element op _ data hm (by omega)] at byte
          rw [← Nat.add_assoc]
          exact byte
      · rw [Nat.mul_succ] at ha
        exact (outside a (by show a < p.key + z * m ∨ p.key + z * m + z ≤ a; omega)).trans (rest a (by omega))
  obtain ⟨-, -, done, rest⟩ := parts (n / z) (Nat.le_refl _)
  have all : z * (n / z) = n := Nat.mul_div_cancel' (Nat.dvd_of_mod_eq_zero elements)
  rw [run]
  rw [all] at done rest
  exact ⟨done, rest⟩

/-- A write that meets no error leaves its result in the window, and every other byte as before. -/
theorem State.performParts_window (s : State) (src : Source) {k : WKind} {p : Place} {n : Nat} (data : Nat) {host : Bool}
    (wf : Memory.wf s.mem = true) (here : p.isLocal = true) (plain : p.Plain n)
    (elements : ∀ op, k = .acc op → n % (accWidth op / 8) = 0) (ok : s.writeAnswer k p n host = .ok) :
    let t := s.performParts src k p n data false host
    (∀ j < n, t.byteAt (p.key + j) = BitVec.ofNat 8 (k.result n (s.readPlace p n) data / 256 ^ j)) ∧
      ∀ a, a < p.key ∨ p.key + n ≤ a → t.byteAt a = s.byteAt a := by
  cases k with
  | store => exact s.performOne_window src data wf here plain ok
  | red op => exact s.performOne_window src data wf here plain ok
  | acc op => exact s.performParts_acc src op data wf here plain (elements op rfl) ok

/-! ## Obligation O23 -/

/-- The state in which the parts of a write from its first beat on are performed. -/
def State.flown (s : State) (f : Flight) : State :=
  let s1 := s.overwrite f.kind f.place f.size f.src.mayHost
  if s.goodBytes f.kind f.place f.size f.src.mayHost = 0 then s1 else s1.carry f f.place f.size

theorem State.performTo_eq (s : State) {f : Flight} (first : f.beats = 0) : s.performTo f f.size =
    ((s.flown f).performParts f.src f.kind f.place f.size (f.data.toNat % 256 ^ f.size) f.bad f.src.mayHost).countArrival f
      (s.goodBytes f.kind f.place f.size f.src.mayHost) := by
  have base : (256 : Nat) ^ f.size = 2 ^ (8 * f.size) := by rw [pow_mul]; norm_num
  have start : beatStart f.place.key f.beats = 0 := by rw [first]; rfl
  unfold State.performTo
  rw [start, base]
  dsimp only
  rw [Nat.mul_zero, pow_zero, Nat.div_one]
  rfl

theorem State.flown_mem (s : State) (f : Flight) : (s.flown f).mem = s.mem := by
  unfold State.flown
  dsimp only
  split
  · exact s.overwrite_mem _ _ _ _
  · exact s.overwrite_mem _ _ _ _

theorem State.flown_flights (s : State) (f : Flight) : (s.flown f).flights = s.flights := by
  unfold State.flown
  dsimp only
  split
  · exact s.overwrite_flights _ _ _ _
  · exact s.overwrite_flights _ _ _ _

/-- Ending and carrying releases leaves how writes are answered. -/
theorem State.flown_writeAnswer (s : State) (f : Flight) (k : WKind) (p : Place) (n : Nat) (host : Bool) :
    (s.flown f).writeAnswer k p n host = s.writeAnswer k p n host := by
  have carried : ∃ c, s.flown f = { s with carried := c } := by
    unfold State.flown State.overwrite
    dsimp only
    split <;> split <;> exact ⟨_, rfl⟩
  obtain ⟨c, hc⟩ := carried
  rw [hc]
  cases k <;> rfl

theorem exec_storePerform {s : State} {i : Nat} {f : Flight} (hf : s.flights[i]? = some f) (may : s.performable f = true) :
    exec (.storePerform i) s = .next (if f.place.isLocal then ({ s with flights := dropAt i s.flights } : State).performTo f f.size
      else { s with flights := dropAt i s.flights }) := by
  show execStorePerform i s = _
  unfold execStorePerform
  rw [hf]
  dsimp only
  rw [may]
  rfl

/-- A write that is performed at once has left its way, and no byte outside its units has changed. -/
theorem State.performTo_keeps (s : State) {f : Flight} (first : f.beats = 0) (wf : Memory.wf s.mem = true) :
    (s.performTo f f.size).flights = s.flights ∧ KeepsOutside (f.place.units f.size) s (s.performTo f f.size) := by
  rw [s.performTo_eq first]
  have flown := keepsOutside_of_mem (U := f.place.units f.size) wf (s.flown_mem f)
  have parts := keepsOutside_trans flown (keepsOutside_performParts _ f.src f.kind f.place f.size (f.data.toNat % 256 ^ f.size) f.bad
    f.src.mayHost flown.wf)
  exact ⟨(State.countArrival_flights _ _ _).trans ((State.performParts_flights _ _ _ _ _ _ _ _).trans (s.flown_flights f)),
    keepsOutside_trans parts (keepsOutside_of_mem parts.wf (State.countArrival_mem _ _ _))⟩

/-- A store or reduction that meets an error answer changes no byte (R205). -/
theorem State.performTo_refused (s : State) {f : Flight} (first : f.beats = 0) (here : f.place.isLocal = true)
    (refused : s.writeAnswer f.kind f.place f.size f.src.mayHost ≠ .ok) (one : ∀ op, f.kind ≠ .acc op) :
    (s.performTo f f.size).mem = s.mem := by
  have refused' : (s.flown f).writeAnswer f.kind f.place f.size f.src.mayHost ≠ .ok := by rwa [s.flown_writeAnswer]
  have part (u : State) (v : Nat) (h : u.writeAnswer f.kind f.place f.size f.src.mayHost ≠ .ok) :
      (u.performOne f.src f.kind f.place f.size v f.bad f.src.mayHost).mem = u.mem := by
    unfold State.performOne
    rw [here]
    cases answer : u.writeAnswer f.kind f.place f.size f.src.mayHost with
    | ok => exact absurd answer h
    | uncorrectable => exact (State.dropWrite_mem _ _).trans (State.noteBad_mem _ _ _ _)
    | dieReset => exact (State.dropWrite_mem _ _).trans (State.noteBad_mem _ _ _ _)
  have single (v : Nat) : writeParts f.kind f.place f.size v = [(f.place, f.size, v)] := by
    cases kind : f.kind with
    | store => rfl
    | red op => rfl
    | acc op => exact absurd kind (one op)
  rw [s.performTo_eq first, State.countArrival_mem, State.performParts, single]
  exact (part _ _ refused').trans (s.flown_mem f)

/-- At a place of the window a write leaves its result (R201, R218). -/
theorem State.performTo_window (s : State) {f : Flight} (first : f.beats = 0) (sound : f.bad = false) (wf : Memory.wf s.mem = true)
    (here : f.place.isLocal = true) (plain : f.place.Plain f.size) (elements : ∀ op, f.kind = .acc op → f.size % (accWidth op / 8) = 0)
    (ok : s.writeAnswer f.kind f.place f.size f.src.mayHost = .ok) :
    (∀ k, k < f.place.key ∨ f.place.key + f.size ≤ k → (s.performTo f f.size).byteAt k = s.byteAt k) ∧
      ∀ j < f.size, (s.performTo f f.size).byteAt (f.place.key + j) =
        BitVec.ofNat 8 (f.kind.result f.size (s.readPlace f.place f.size) f.data.toNat / 256 ^ j) := by
  obtain ⟨inside, outside⟩ := (s.flown f).performParts_window f.src (f.data.toNat % 256 ^ f.size) (by rw [s.flown_mem]; exact wf) here plain
    elements ((s.flown_writeAnswer f _ _ _ _).trans ok)
  have run := s.performTo_eq first
  rw [sound] at run
  refine ⟨fun k hk => ?_, fun j hj => ?_⟩
  · rw [run]
    show Cells.read _ k = Cells.read s.mem k
    rw [State.countArrival_mem, ← s.flown_mem f]
    exact outside k hk
  · rw [run]
    show Cells.read _ _ = _
    rw [State.countArrival_mem]
    have byte := inside j hj
    rw [State.readPlace_congr plain (s.flown_mem f), WKind.result_mod _ _ _ hj] at byte
    exact byte

/-- The entry at the head of a store queue leaves it once its time has come and no order holds it (R209, R251). -/
theorem State.departs_of {s : State} {r : SeatRef} {e : StoreReq} (time : e.issued + 8 ≤ s.core[r.core].cycle)
    (conj : s.conjSMet r e.stream e.conj = true) (release : s.releaseMet r e.stream e.rel e.seq = true)
    (clear : ∀ m ∈ (s.getSeat r).loads, m.stream = e.stream → m.seq < e.seq → m.way = none → m.got = none → m.missing = none →
      overlap m.place m.size e.place e.size = false) : s.departs r e = true := by
  have free : ((s.getSeat r).loads.any fun l => decide (l.stream = e.stream) && decide (l.seq < e.seq) && l.way.isNone && l.got.isNone &&
      l.missing.isNone && overlap l.place l.size e.place e.size) = false := by
    refine List.any_eq_false.2 fun m hm => ?_
    have := clear m hm
    simp only [Bool.and_eq_true, decide_eq_true_eq, Option.isNone_iff_eq_none, not_and]
    rintro ⟨⟨⟨⟨stream, seq⟩, way⟩, got⟩, missing⟩
    rw [this stream seq way got missing]
    exact Bool.false_ne_true
  unfold State.departs
  rw [conj, release, free, decide_eq_true time]
  rfl

/-- The seat that entry e has left. -/
def Seat.departed (st : Seat) (rest : List StoreReq) (now : Nat) : Seat :=
  { st with stores := rest, left := (now, (if st.left.1 = now then st.left.2 else 0) + 1) }

/-- The state that entry e of a store queue has left, its write on its way. -/
def State.departed (s : State) (r : SeatRef) (e : StoreReq) (rest : List StoreReq) : State :=
  { (s.modSeat r fun st => st.departed rest s.core[r.core].cycle).bump with
    flights := s.flights ++ [s.flightOf r e.stream e.kind e.place e.size e.data e.seq e.conj e.issued e.rel] }

theorem exec_storeDepart {s : State} {r : SeatRef} {e : StoreReq} {rest : List StoreReq} (head : (s.getSeat r).stores = e :: rest)
    (may : s.departs r e = true) : exec (.storeDepart r) s = .next ((s.departed r e rest).feedElems r) := by
  show execStoreDepart r s = _
  unfold execStoreDepart
  rw [head]
  dsimp only
  rw [if_pos may]
  rfl

/-- Waiting elements go on within their seat. -/
theorem State.feedElems_eq (s : State) (r : SeatRef) : ∃ g : Seat → Seat, s.feedElems r = s.modSeat r g ∧
    ((s.getSeat r).elems = [] → g (s.getSeat r) = s.getSeat r) := by
  unfold State.feedElems
  split
  · exact ⟨id, (s.setSeat_same r).symm, fun _ => rfl⟩
  · refine ⟨_, rfl, fun none => ?_⟩
    rw [none, Seat.feed, ← none]

/-- A place of the window whose bytes are those of v reads as v. -/
theorem State.readPlace_of_bytes {s : State} {p : Place} {n v : Nat} (plain : p.Plain n)
    (bytes : ∀ j < n, s.byteAt (p.key + j) = BitVec.ofNat 8 (v / 256 ^ j)) : s.readPlace p n = v % 256 ^ n := by
  have from' (i m : Nat) (h : i + m ≤ n) : s.readFrom p i m = v / 256 ^ i % 256 ^ m := by
    induction m generalizing i with
    | zero => rw [pow_zero, Nat.mod_one]; rfl
    | succ m ih =>
      have below := plain.below
      rw [State.readFrom, ih (i + 1) (by omega), plain.keyOf, s.readKeyed_window _ (by omega), bytes i (by omega), BitVec.toNat_ofNat,
        pow_succ (256 : Nat) i, ← Nat.div_div_eq_div_mul, pow_succ' (256 : Nat) m, Nat.mod_mul]
  have all := from' 0 n (by omega)
  rwa [pow_zero, Nat.div_one] at all

/-- Settles O23: a departure is `exec_storeDepart`; a write at its home is `State.performTo_eq`, by parts. -/
theorem storesDepartAndArePerformed : Obligations.StoresDepartAndArePerformed := by
  unfold Obligations.StoresDepartAndArePerformed
  refine ⟨fun s r e l head time conj release clear => ?depart, fun s i f hf may => ⟨fun away => ?away, fun here first sound wf elements =>
    ⟨fun ok => ?performed, fun refused one => ?refused⟩⟩, fun s p n v wf below skew => ?back⟩
  case depart =>
    obtain ⟨g, feeds, idle⟩ := (s.departed r e l).feedElems_eq r
    have run := exec_storeDepart head (State.departs_of time conj release clear)
    rw [feeds] at run
    have seat : (s.departed r e l).getSeat r = (s.getSeat r).departed l s.core[r.core].cycle :=
      s.modSeat_getSeat r fun st => st.departed l s.core[r.core].cycle
    refine ⟨_, run, fun k => rfl, rfl, fun k hk => ?_, fun none => ?_, _, rfl, rfl, rfl, rfl, rfl, rfl, rfl, rfl, rfl, rfl, rfl, rfl⟩
    · exact (State.setCore_ne (s.departed r e l) _ hk).trans (State.setCore_ne s _ hk)
    · rw [State.modSeat_getSeat, idle (by rw [seat]; exact none), seat]
      exact ⟨rfl, rfl⟩
  case away => exact (exec_storePerform hf may).trans (by rw [away]; rfl)
  case performed =>
    let u : State := { s with flights := dropAt i s.flights }
    have run := exec_storePerform hf may
    rw [if_pos here] at run
    obtain ⟨flights, outside⟩ := u.performTo_keeps first wf
    refine ⟨_, run, flights, fun k hk => outside.byte k hk, fun below skew _ => ?_⟩
    have okNow : u.writeAnswer f.kind f.place f.size f.src.mayHost = .ok := by
      rw [← ok]
      cases f.kind <;> rfl
    have old : u.readPlace f.place f.size = s.readPlace f.place f.size := State.readPlace_congr ⟨below, skew⟩ rfl
    have window := u.performTo_window first sound wf here ⟨below, skew⟩ elements okNow
    rw [old] at window
    exact window
  case refused =>
    let u : State := { s with flights := dropAt i s.flights }
    have run := exec_storePerform hf may
    rw [if_pos here] at run
    have refusedNow : u.writeAnswer f.kind f.place f.size f.src.mayHost ≠ .ok := by
      have same : u.writeAnswer f.kind f.place f.size f.src.mayHost = s.writeAnswer f.kind f.place f.size f.src.mayHost := by
        cases f.kind <;> rfl
      rwa [same]
    refine ⟨_, run, (u.performTo_keeps first wf).1, fun k => ?_⟩
    show Cells.read _ k = Cells.read s.mem k
    rw [u.performTo_refused first here refusedNow one]
  case back =>
    have plain : p.Plain n := ⟨below, skew⟩
    obtain ⟨inside, -⟩ := s.writePlace_byteAt v plain wf
    exact State.readPlace_of_bytes plain inside

end Sys2Proof.Machine
end

section
/-! SUPPORT. The arithmetic of atomics, AMO and VMRED (R218, R219, R221, R222). -/
namespace Sys2Proof.Machine

/-! ## The arithmetic of R218 -/

theorem toSigned_toNat {z : Nat} (hz : 0 < z) (v : BitVec z) : toSigned z v.toNat = v.toInt := by
  rw [toSigned_eq_toInt hz v.isLt, BitVec.ofNat_toNat, BitVec.setWidth_eq]

/-- The atomic operations on the values of words of z bits (R218). -/
theorem atomApply_words {z : Nat} (hz : 0 < z) (m v e : BitVec z) :
    let f (op : AtomOp) : BitVec z := BitVec.ofNat z (atomApply op z m.toNat v.toNat e.toNat)
    f .add = m + v ∧ f .and = m &&& v ∧ f .or = m ||| v ∧ f .xor = m ^^^ v ∧
    f .min = (if v.toInt < m.toInt then v else m) ∧ f .max = (if m.toInt < v.toInt then v else m) ∧
    f .minn = (if v.toNat < m.toNat then v else m) ∧ f .maxn = (if m.toNat < v.toNat then v else m) ∧
    f .swap = v ∧ f .cas = (if m = e then v else m) := by
  have low : v.toNat % 2 ^ z = v.toNat := Nat.mod_eq_of_lt v.isLt
  have word (a : BitVec z) : BitVec.ofNat z a.toNat = a := by rw [BitVec.ofNat_toNat, BitVec.setWidth_eq]
  have either (c : Prop) [Decidable c] (a b : BitVec z) : BitVec.ofNat z (if c then a.toNat else b.toNat) = if c then a else b := by
    split <;> exact word _
  dsimp only [atomApply]
  rw [low]
  refine ⟨?add, ?and, ?or, ?xor, ?min, ?max, ?minn, ?maxn, word v, ?cas⟩
  case add => rw [← BitVec.toNat_add, word]
  case and => rw [← BitVec.toNat_and, word]
  case or => rw [← BitVec.toNat_or, word]
  case xor => rw [← BitVec.toNat_xor, word]
  case min => rw [toSigned_toNat hz, toSigned_toNat hz]; exact either _ v m
  case max => rw [toSigned_toNat hz, toSigned_toNat hz]; exact either _ v m
  case minn =>
    rw [← either (v.toNat < m.toNat) v m]
    congr 1
    split <;> omega
  case maxn =>
    rw [← either (m.toNat < v.toNat) v m]
    congr 1
    split <;> omega
  case cas =>
    rw [Nat.mod_eq_of_lt e.isLt, either (m.toNat = e.toNat) v m]
    exact if_congr BitVec.toNat_inj rfl rfl

/-! ## AMO -/

/-- A request that takes no slot enters the load queue from the state in which its address has been looked up; its stream reads its sources
and goes on. -/
theorem pushLoad_issued {s f : State} (notes : OnlyNotes s f) (m : Marks) (l : LoadReq) (srcs : List SSpec) :
    let t := (State.takes ((f.modMySeat fun st => st.marked s.turn.stream m).pushLoad l) srcs).retire
    AccessWent s t srcs ∧ t.mySeat.ln = s.mySeat.ln ∧ t.mySeat.loads = s.mySeat.loads ++ [l] ∧ t.mySeat.stores = s.mySeat.stores ∧
      t.mySeat.sideLog = s.mySeat.sideLog := by
  have acc : Accessed s.turn.stream s.mySeat ((s.mySeat.marked s.turn.stream m).addLoad l) :=
    accessed_trans (accessed_marked s.mySeat s.turn.stream m) (accessed_loads _ _ _)
  rw [State.modMySeat_pushLoad]
  exact numbered_issued notes (fun st => (st.marked s.turn.stream m).addLoad l) acc srcs

theorem exec_amo {s : State} {g : AmoArgs} (cls : s.classOk [g.a, g.b] [g.d] = true) (idle : s.blocked (amoSources g) [g.d] = none)
    (gate : s.gated = false) (free : s.pFree ⟨g.pe.val, by omega⟩ = true) {p : Place} {s1 : State}
    (ok : s.check s.turn (s.two g.a g.b).1 (atomSize g.dbl) .at' false true = (.ok p, s1)) :
    exec (.amo g) s = .next (((s1.pushLoad (s.newReq (.amo g.op g.d (s.two g.a g.b).2 (match g.d with | .x k => s.me.rdX k | .q _ => 0) g.pe)
      p (s.two g.a g.b).1 (atomSize g.dbl) 0 none)).takes [g.a, g.b]).retire) := by
  have wait : s.memWait (amoSources g) [g.d] = none := memWait_of_clear idle gate
  show execAmo g s = _
  unfold execAmo
  rw [cls, wait, free]
  dsimp only
  rw [show s.check s.turn (s.peek g.a) (atomSize g.dbl) .at' false true = _ from ok]
  rfl

/-! ## VMRED -/

/-- The checks of the elements look addresses up, one after another (R222). -/
theorem checkElems_looked {base : Word} {idx : VData} {n k : Nat} {s u : State} {e : Nat} {l : List (Acc × Word)}
    (ok : s.checkElems base idx n k e = .ok (l, u)) :
    Looked s u ∧ l.length = k ∧ ∀ i (h : i < l.length), l[i].2 = elemAddr base idx n (e + i) := by
  induction k generalizing s e l u with
  | zero =>
    cases ok
    exact ⟨looked_refl s, rfl, fun i h => absurd h (Nat.not_lt_zero i)⟩
  | succ k ih =>
    have look := looked_check s (elemAddr base idx n e) n .at' false true
    rw [State.checkElems] at ok
    generalize s.check s.turn (elemAddr base idx n e) n .at' false true = c at look ok
    obtain ⟨a, s1⟩ := c
    have rest {a : Acc} (eq : (match s1.checkElems base idx n k (e + 1) with
        | .error f => .error f
        | .ok (l1, s2) => .ok ((a, elemAddr base idx n e) :: l1, s2)) = Except.ok (l, u)) :
        Looked s u ∧ l.length = k + 1 ∧ ∀ i (h : i < l.length), l[i].2 = elemAddr base idx n (e + i) := by
      cases checks : s1.checkElems base idx n k (e + 1) with
      | error f => rw [checks] at eq; cases eq
      | ok r =>
        obtain ⟨l1, u1⟩ := r
        rw [checks] at eq
        cases eq
        obtain ⟨look1, len, addr⟩ := ih checks
        refine ⟨looked_trans look look1, congrArg (· + 1) len, fun i h => ?_⟩
        cases i with
        | zero => rfl
        | succ i => exact (addr i (Nat.lt_of_succ_lt_succ h)).trans (by rw [Nat.add_assoc, Nat.add_comm 1 i])
    cases a with
    | fault f => cases ok
    | ok p => exact rest ok
    | missing d => exact rest ok

/-- The seat with elements in its store queue and elements waiting. -/
def Seat.fed (st : Seat) (stores : List StoreReq) (elems : List (StoreReq × Nat × Bool)) : Seat := { st with stores := stores, elems := elems }

/-- Elements that no side log takes go into the store queue in order, until it has no room (R209, R222). -/
theorem Seat.feed_queue (st : Seat) (now : Nat) (l : List (StoreReq × Nat × Bool)) (queue : ∀ x ∈ l, x.2.2 = false) :
    ∃ k, st.feed now l = st.fed (st.stores ++ (l.take k).map (fun x => x.1)) (l.drop k) ∧
      (l.drop k ≠ [] → (st.feed now l).storeRoom now = false) := by
  induction l generalizing st with
  | nil => exact ⟨0, by simp [Seat.feed, Seat.fed], fun h => absurd rfl h⟩
  | cons x l ih =>
    obtain ⟨r, e, logged⟩ := x
    have direct : logged = false := queue _ (List.mem_cons_self ..)
    subst direct
    by_cases room : st.storeRoom now = true
    · obtain ⟨k, feeds, full⟩ := ih { st with stores := st.stores ++ [r] } fun x hx => queue x (List.mem_cons_of_mem _ hx)
      have step : st.feed now ((r, e, false) :: l) = ({ st with stores := st.stores ++ [r] } : Seat).feed now l := by
        rw [Seat.feed, room]; rfl
      refine ⟨k + 1, ?_, ?_⟩
      · rw [step, feeds]
        simp [Seat.fed]
      · rw [step]
        exact full
    · have stays : st.feed now ((r, e, false) :: l) = st.fed st.stores ((r, e, false) :: l) := by
        rw [Seat.feed, if_neg Bool.false_ne_true, if_neg room]; rfl
      refine ⟨0, by rw [stays]; simp, fun _ => ?_⟩
      rw [stays]
      exact Bool.eq_false_of_not_eq_true room

theorem Seat.accessDone_keeps (st : Seat) (i : StreamId) (now : Nat) (srcs : List SSpec) : KeepsSeat i st (st.accessDone i now srcs) := by
  refine keepsSeat_trans (Seat.takeAll_keeps i now srcs st) (keepsSeat_goOn i _ now _ ?_)
  rw [Seat.takeAll_getStr]
  exact advance_keeps _

/-- Reading sources and going on leaves waiting elements, and changes nothing by them. -/
theorem Seat.accessDone_elems (st : Seat) (E : List (StoreReq × Nat × Bool)) (i : StreamId) (now : Nat) (srcs : List SSpec) :
    ({ st with elems := E } : Seat).accessDone i now srcs = { st.accessDone i now srcs with elems := E } := by
  have taken : ({ st with elems := E } : Seat).takeAll now srcs = { st.takeAll now srcs with elems := E } := by
    unfold Seat.takeAll
    induction srcs generalizing st with
    | nil => rfl
    | cons a r ih =>
      cases a with
      | x m => exact ih st
      | q m => exact ih (st.takeSrc now (.q m))
  have gone (a : Seat) (r : Stream × Bool) : ({ a with elems := E } : Seat).goOn i now r = { a.goOn i now r with elems := E } := by
    unfold Seat.goOn Seat.turnRrb
    dsimp only
    split <;> split <;> rfl
  unfold Seat.accessDone
  rw [taken]
  exact gone _ _

/-- The elements that a VMRED has checked, as they are to issue. -/
def State.redElems (u : State) (g : RedArgs) (vals : VData) (l : List (Acc × Word)) : List (StoreReq × Nat × Bool) :=
  l.zipIdx.map fun x => u.elemStore g.op (atomSize g.dbl) vals x

theorem exec_vmred {s : State} {g : RedArgs} (ready : Ready s [g.a, g.b] []) (idle : s.blocked [g.a, g.b, .q 8, .q 9] [] = none)
    (gate : s.gated = false) {l : List (Acc × Word)} {u : State}
    (ok : s.checkElems (s.two g.a g.b).1 s.mySeat.q[(9 : Fin 16)].head (atomSize g.dbl) (elemCount g.dbl (s.two g.a g.b).2) 0 = .ok (l, u)) :
    let els := u.redElems g s.mySeat.q[(8 : Fin 16)].head l
    exec (.vmred g) s = .next (((State.feedElems (({ u with seq := u.seq + els.length } : State).modMySeat fun st => { st with elems := els })
      s.turn.ref).takes [g.a, g.b, .q 8, .q 9]).retire) := by
  intro els
  have wait : s.memWait [g.a, g.b, .q 8, .q 9] [] = none := memWait_of_clear idle gate
  show execVmred g s = _
  unfold execVmred
  rw [ready.1, wait]
  show (match s.checkElems (s.two g.a g.b).1 s.mySeat.q[(9 : Fin 16)].head (atomSize g.dbl) (elemCount g.dbl (s.two g.a g.b).2) 0 with
    | .error (f, s1) => s1.raise f
    | .ok (l, s1) => _) = _
  rw [ok]
  rfl

/-- Outside a freeze waiting elements go on as soon as there is room. -/
theorem State.feedElems_mine {s : State} (runs : s.coreHeld s.turn.ref.core = false) :
    s.feedElems s.turn.ref = s.modMySeat fun st => st.feed s.myCore.cycle st.elems := if_neg (by rw [runs]; exact Bool.false_ne_true)

theorem OnlyNotes.coreHeld {s f : State} (notes : OnlyNotes s f) (c : Fin 904) : f.coreHeld c = s.coreHeld c := by
  rw [notes.rest]; rfl

theorem State.modMySeat_numbered (s : State) (a b : Seat → Seat) (k : Nat) :
    ({ s.modMySeat a with seq := k } : State).modMySeat b = { s.modMySeat fun st => b (a st) with seq := k } :=
  State.modMySeat_modMySeat { s with seq := k } a b

theorem KeepsSeat.elements {i : StreamId} {a b : Seat} (h : KeepsSeat i a b) : b.elems = a.elems ∧ b.left = a.left ∧ b.vamo = a.vamo := by
  rw [← h.rest]
  exact ⟨rfl, rfl, rfl⟩

/-- Elements whose checks have passed stand in the store queue, or wait for room there, and S goes on (R222). -/
theorem vmred_issued {s f : State} (notes : OnlyNotes s f) (m : Marks) (runs : s.coreHeld s.turn.ref.core = false) (k : Nat)
    {els : List (StoreReq × Nat × Bool)} (queue : ∀ x ∈ els, x.2.2 = false) (srcs : List SSpec) :
    let t := (State.takes (State.feedElems (({ f.modMySeat fun st => st.marked s.turn.stream m with seq := k } : State).modMySeat fun st =>
      { st with elems := els }) s.turn.ref) srcs).retire
    AccessWent s (t.modMySeat fun a => { a with elems := s.mySeat.elems }) srcs ∧ t.mySeat.sideLog = s.mySeat.sideLog ∧
      t.mySeat.loads = s.mySeat.loads ∧ (t.mySeat.elems ≠ [] → t.mySeat.storeRoom s.myCore.cycle = false) ∧
      t.mySeat.stores ++ t.mySeat.elems.map (fun x => x.1) = s.mySeat.stores ++ els.map fun x => x.1 := by
  intro t
  let a := s.mySeat.marked s.turn.stream m
  obtain ⟨j, feeds, full⟩ := ({ a with elems := els } : Seat).feed_queue s.myCore.cycle els queue
  let stores := s.mySeat.stores ++ (els.take j).map fun x => x.1
  let fed := a.fed stores (els.drop j)
  have feeds' : ({ a with elems := els } : Seat).feed s.myCore.cycle els = fed := feeds
  have seat : f.mySeat = s.mySeat := by unfold State.mySeat; rw [notes.getSeat, notes.turn]
  have run : t = ({ f with seq := k } : State).modMySeat fun _ => fed.accessDone s.turn.stream s.now srcs := by
    let g (st : Seat) : Seat := ({ st.marked s.turn.stream m with elems := els } : Seat).feed s.myCore.cycle els
    let v : State := ({ f.modMySeat fun st => st.marked s.turn.stream m with seq := k } : State).modMySeat fun st => { st with elems := els }
    let b (st : Seat) : Seat := { st.marked s.turn.stream m with elems := els }
    have one : v = { f.modMySeat b with seq := k } :=
      State.modMySeat_numbered f (fun st => st.marked s.turn.stream m) (fun st => { st with elems := els }) k
    have turn : s.turn = v.turn := by rw [one]; exact notes.turn.symm
    have held : v.coreHeld v.turn.ref.core = false := by
      have own : (f.modSeat f.turn.ref b).coreHeld f.turn.ref.core = false := by
        rw [State.modSeat_coreHeld, notes.coreHeld, notes.turn]
        exact runs
      rw [one]
      exact own
    have cycle : v.myCore.cycle = s.myCore.cycle := by
      have own : (f.modSeat f.turn.ref b).core[f.turn.ref.core].cycle = s.myCore.cycle := by
        rw [State.modSeat_core]
        show f.core[f.turn.ref.core].cycle = _
        simp only [notes.core, notes.turn, State.myCore]
      rw [one]
      exact own
    have fedState : v.feedElems s.turn.ref = { f.modMySeat g with seq := k } := by
      rw [turn, State.feedElems_mine held, cycle, one]
      exact State.modMySeat_numbered f b (fun st => st.feed s.myCore.cycle st.elems) k
    have issued := State.retire_takes notes g k srcs
    rw [show g s.mySeat = fed from feeds'] at issued
    exact (congrArg (fun w => (State.takes w srcs).retire) fedState).trans issued
  have mine : t.mySeat = fed.accessDone s.turn.stream s.now srcs := by rw [run, State.modMySeat_mySeat]
  have keeps := fed.accessDone_keeps s.turn.stream s.now srcs
  obtain ⟨-, loads, stores', sideLog⟩ := keeps.queues
  obtain ⟨elems, left, -⟩ := keeps.elements
  replace elems : (fed.accessDone s.turn.stream s.now srcs).elems = els.drop j := elems
  refine ⟨?_, ?_, ?_, ?_, ?_⟩
  · have back : (t.modMySeat fun a => { a with elems := s.mySeat.elems }) =
        ({ f with seq := k } : State).modMySeat fun _ => ({ a with stores := stores } : Seat).accessDone s.turn.stream s.now srcs := by
      rw [run, State.modMySeat_modMySeat]
      refine State.modMySeat_congr _ ?_
      show { fed.accessDone s.turn.stream s.now srcs with elems := s.mySeat.elems } = _
      rw [show fed = { ({ a with stores := stores } : Seat) with elems := els.drop j } from rfl, Seat.accessDone_elems]
      have own : (({ a with stores := stores } : Seat).accessDone s.turn.stream s.now srcs).elems = s.mySeat.elems :=
        (Seat.accessDone_keeps { a with stores := stores } s.turn.stream s.now srcs).elements.1
      exact congrArg (fun E => { ({ a with stores := stores } : Seat).accessDone s.turn.stream s.now srcs with elems := E }) own.symm
    rw [back]
    exact accessWent_issued notes k (accessed_trans (accessed_marked _ _ _) (accessed_stores _ _ _)) srcs
  · rw [mine]; exact sideLog
  · rw [mine]; exact loads
  · rw [mine, elems]
    intro waits
    have none := full waits
    rw [feeds'] at none
    unfold Seat.storeRoom at none ⊢
    rw [left, stores']
    exact none
  · rw [mine, elems, stores']
    show s.mySeat.stores ++ (els.take j).map (fun x => x.1) ++ (els.drop j).map (fun x => x.1) = _
    rw [List.append_assoc, ← List.map_append, List.take_append_drop]

/-- The address of an element, with its index as the spec writes it (R221). -/
theorem elemAddr_eq (s : State) (base : Word) (n i : Nat) :
    elemAddr base s.mySeat.q[(9 : Fin 16)].head n i = base + BitVec.ofInt 64 (s.elem' 9 32 i * n) := by
  unfold elemAddr State.elem'
  rw [toSigned_eq_toInt (by norm_num) (lane_lt _ _ _)]

theorem vmred_completes {s : State} {g : RedArgs} {l : List (Acc × Word)} {u : State} (ready : Ready s [g.a, g.b] [])
    (idle : s.blocked [g.a, g.b, .q 8, .q 9] [] = none) (gate : s.gated = false) (log : s.mySeat.sideLog = [])
    (runs : s.coreHeld s.turn.ref.core = false)
    (ok : s.checkElems (s.two g.a g.b).1 s.mySeat.q[(9 : Fin 16)].head (atomSize g.dbl) (elemCount g.dbl (s.two g.a g.b).2) 0 = .ok (l, u))
    (present : ∀ a ∈ l, ∃ p, a.1 = .ok p) :
    Runs (.vmred g) s fun t =>
      AccessWent s (t.modMySeat fun a => { a with elems := s.mySeat.elems }) [g.a, g.b, .q 8, .q 9] ∧ t.mySeat.sideLog = [] ∧
      t.mySeat.loads = s.mySeat.loads ∧ (t.mySeat.elems ≠ [] → t.mySeat.storeRoom s.myCore.cycle = false) ∧
      ∃ es, t.mySeat.stores ++ t.mySeat.elems.map (fun x => x.1) = s.mySeat.stores ++ es ∧ es.length = elemCount g.dbl (s.two g.a g.b).2 ∧
        ∀ i (h : i < es.length), es[i].kind = .red g.op ∧ es[i].size = atomSize g.dbl ∧ es[i].seq = s.seq + i ∧
          es[i].va = (s.two g.a g.b).1 + BitVec.ofInt 64 (s.elem' 9 32 i * atomSize g.dbl) ∧
          es[i].data = BitVec.ofNat 2048 (lane (s.mySeat.q[(8 : Fin 16)].head) (8 * atomSize g.dbl) i) := by
  obtain ⟨look, len, addr⟩ := checkElems_looked ok
  have run := exec_vmred ready idle gate ok
  let els := u.redElems g s.mySeat.q[(8 : Fin 16)].head l
  have empty : u.mySeat.sideLog = [] := by obtain ⟨-, same, -⟩ := look.mySeat; rw [same, log]
  have queue : ∀ x ∈ els, x.2.2 = false := by
    intro x hx
    obtain ⟨⟨a, i⟩, ha, rfl⟩ := List.mem_map.1 hx
    obtain ⟨p, hp⟩ := present a (List.fst_mem_of_mem_zipIdx ha)
    unfold State.elemStore
    dsimp only
    rw [hp]
    show u.joinsLog a.2 = false
    unfold State.joinsLog
    rw [empty, List.isEmpty_nil, Bool.or_true]
    rfl
  have seq : u.seq = s.seq := by
    obtain ⟨f, m, notes, rfl⟩ := look
    show f.seq = s.seq
    rw [notes.rest]
  have entries : els.length = elemCount g.dbl (s.two g.a g.b).2 ∧ ∀ i (h : i < (els.map fun x => x.1).length),
      let e := (els.map fun x => x.1)[i]
      e.kind = .red g.op ∧ e.size = atomSize g.dbl ∧ e.seq = s.seq + i ∧
        e.va = (s.two g.a g.b).1 + BitVec.ofInt 64 (s.elem' 9 32 i * atomSize g.dbl) ∧
        e.data = BitVec.ofNat 2048 (lane (s.mySeat.q[(8 : Fin 16)].head) (8 * atomSize g.dbl) i) := by
    refine ⟨by simp [els, State.redElems, len], fun i h => ?_⟩
    have hi : i < l.length := by simpa [els, State.redElems] using h
    have entry : (els.map fun x => x.1)[i] = (u.elemStore g.op (atomSize g.dbl) s.mySeat.q[(8 : Fin 16)].head (l[i], i)).1 := by
      simp [els, State.redElems]
    dsimp only
    rw [entry]
    refine ⟨rfl, rfl, congrArg (· + i) seq, ?_, rfl⟩
    have va := addr i hi
    rw [Nat.zero_add, elemAddr_eq] at va
    exact va
  obtain ⟨f, m, notes, rfl⟩ := look
  obtain ⟨went, sideLog, loads, room, stores⟩ := vmred_issued notes m runs _ queue [g.a, g.b, .q 8, .q 9]
  exact ⟨_, run, went, sideLog.trans log, loads, room, _, stores, (List.length_map ..).trans entries.1, entries.2⟩

end Sys2Proof.Machine
end

section
/-! SUPPORT. VAMO, and obligation O24 (R218, R221, R222). -/
namespace Sys2Proof.Machine

/-! ## A stream that no monitor holds -/

/-- Stream w is as before, and so is its seat's restart index. -/
structure Unwoken (w : Who) (s t : State) : Prop where
  str  : t.getStr w = s.getStr w
  vamo : (t.getSeat w.ref).vamo = (s.getSeat w.ref).vamo
  turn : t.turn = s.turn

theorem unwoken_of_core {w : Who} {s t : State} (core : t.core = s.core) (turn : t.turn = s.turn) : Unwoken w s t := by
  refine ⟨?_, ?_, turn⟩
  · unfold State.getStr State.getSeat; rw [core]
  · unfold State.getSeat; rw [core]

theorem unwoken_refl (w : Who) (s : State) : Unwoken w s s := ⟨rfl, rfl, rfl⟩

theorem unwoken_trans {w : Who} {s t u : State} (h : Unwoken w s t) (k : Unwoken w t u) : Unwoken w s u :=
  ⟨k.str.trans h.str, k.vamo.trans h.vamo, k.turn.trans h.turn⟩

/-- What stream v does to its seat, when it leaves the restart index and the seat's other streams, leaves another stream. -/
theorem unwoken_modSeat {w v : Who} (other : v ≠ w) (s : State) (f : Seat → Seat) (vamo : ∀ a, (f a).vamo = a.vamo)
    (streams : ∀ a j, j ≠ v.stream → (f a).getStr j = a.getStr j) : Unwoken w s (s.modSeat v.ref f) := by
  by_cases seat : w.ref = v.ref
  · have stream : w.stream ≠ v.stream := by
      intro e
      cases v; cases w
      exact other (by simp_all)
    refine ⟨?_, ?_, rfl⟩
    · unfold State.getStr
      rw [seat, State.modSeat_getSeat]
      exact streams _ _ stream
    · rw [seat, State.modSeat_getSeat]
      exact vamo _
  · refine ⟨?_, ?_, rfl⟩
    · unfold State.getStr
      rw [State.modSeat_getSeat_ne s f seat]
    · rw [State.modSeat_getSeat_ne s f seat]

theorem unwoken_modStr {w v : Who} (other : v ≠ w) (s : State) (f : Stream → Stream) : Unwoken w s (s.modStr v f) :=
  unwoken_modSeat other s _ (fun _ => rfl) fun a _ hj => a.modStr_getStr_ne f hj

theorem unwoken_hear {w v : Who} (other : v ≠ w) (s : State) (acq : Option Scope) (l : List Heard) : Unwoken w s (s.hear v acq l) := by
  unfold State.hear
  split
  · exact unwoken_refl w s
  · exact unwoken_modStr other s _

theorem unwoken_disarm {w v : Who} (other : v ≠ w) (s : State) : Unwoken w s (s.disarm v) :=
  unwoken_trans (t := { s with monitors := s.monitors.filter fun m => decide (m.who ≠ v) }) (unwoken_of_core rfl rfl)
    (unwoken_modSeat other _ _ (fun _ => rfl) fun _ _ _ => rfl)

theorem Seat.predStep_keeps (st : Seat) (i : StreamId) (now : Nat) (srcs : List SSpec) (n : Fin 16) (v : Bool) :
    KeepsSeat i st (st.predStep i now srcs n v) :=
  keepsSeat_trans (keepsSeat_trans (Seat.takeAll_keeps i now srcs st) (Seat.wrPred_keeps _ i n v))
    (keepsSeat_goOn i _ now _ (advance_keeps _))

theorem unwoken_endMwait {w v : Who} (other : v ≠ w) (s : State) (p : Fin 16) (srcs : List SSpec) (b : Bool) :
    Unwoken w s (s.endMwait v p srcs b) := by
  have disarmed := unwoken_disarm other s
  unfold State.endMwait
  split
  · exact unwoken_trans disarmed (unwoken_modStr other _ _)
  · refine unwoken_trans disarmed ?_
    generalize s.disarm v = u
    let x : State := { u with turn := v }
    have closes : u.closeMwait v p srcs b = { (x.modMySeat fun st => st.predStep v.stream x.now srcs p b) with turn := u.turn } := by
      rw [show (x.modMySeat fun st => st.predStep v.stream x.now srcs p b) = _ from (x.predStep_eq srcs p b).symm]
      rfl
    rw [closes]
    exact unwoken_trans (t := u.modSeat v.ref fun st => st.predStep v.stream x.now srcs p b)
      (unwoken_modSeat other u _ (fun a => (a.predStep_keeps _ _ _ _ _).elements.2.2) fun a j hj => (a.predStep_keeps _ _ _ _ _).others j hj)
      (unwoken_of_core rfl rfl)

/-- A write wakes no stream that waits for nothing (R223). -/
theorem unwoken_wakeMonitors {w : Who} {s : State} (idle : (s.getStr w).wait = .none) (ws : List Nat) : Unwoken w s (s.wakeMonitors ws) := by
  unfold State.wakeMonitors
  generalize s.monitors = ms
  induction ms generalizing s with
  | nil => exact unwoken_refl w s
  | cons m ms ih =>
    have other {x : Wait} (waits : (s.getStr m.who).wait = x) (h : x ≠ .none) : m.who ≠ w := by
      rintro rfl
      exact h (waits.symm.trans idle)
    have go {t : State} (first : Unwoken w s t) : Unwoken w s (ms.foldl _ t) := unwoken_trans first (ih (first.str ▸ idle))
    rw [List.foldl_cons]
    refine go ?_
    split
    · rename_i waits
      have other := other waits (by simp)
      split
      · exact unwoken_trans (unwoken_hear other s _ _) (unwoken_endMwait other _ _ _ _)
      · exact unwoken_refl w s
    · rename_i waits
      have other := other waits (by simp)
      dsimp only
      split
      · exact unwoken_trans (unwoken_disarm other s) (unwoken_modStr other _ _)
      · exact unwoken_refl w s
    · exact unwoken_refl w s

theorem unwoken_afterWrite {w : Who} {s : State} (idle : (s.getStr w).wait = .none) (p : Place) (n : Nat) (store bad : Bool) :
    Unwoken w s (s.afterWrite p n store bad) := by
  unfold State.afterWrite
  dsimp only
  have marked (u : State) (core : u.core = s.core) (turn : u.turn = s.turn) : Unwoken w s (u.wakeMonitors (p.words n)) := by
    have same : Unwoken w s u := unwoken_of_core core turn
    exact unwoken_trans same (unwoken_wakeMonitors (same.str ▸ idle) _)
  refine marked _ ?_ ?_
  · simp only [apply_ite State.core, ite_self]
  · simp only [apply_ite State.turn, ite_self]

/-- A store to a place of the window that meets no error leaves its bytes there, and streams that wait for nothing as they are. -/
theorem State.performWrite_store {s : State} {w : Who} (idle : (s.getStr w).wait = .none) (wf : Memory.wf s.mem = true) (src : Source)
    {q : Place} {n : Nat} (data : Nat) {host : Bool} (here : q.isLocal = true) (plain : q.Plain n)
    (ok : s.writeAnswer .store q n host = .ok) :
    let t := s.performWrite src .store q n data false host
    Unwoken w s t ∧ (∀ j < n, t.byteAt (q.key + j) = BitVec.ofNat 8 (data / 256 ^ j)) ∧
      ∀ k, k < q.key ∨ q.key + n ≤ k → t.byteAt k = s.byteAt k := by
  intro t
  have carried : ∃ c, s.overwrite .store q n host = { s with carried := c } := by
    unfold State.overwrite
    split <;> exact ⟨_, rfl⟩
  obtain ⟨c, hc⟩ := carried
  let u : State := { s with carried := c }
  have ok' : u.writeAnswer .store q n host = .ok := ok
  have run : t = (u.writePlace q n data).afterWrite q n true false := by
    show s.performWrite src .store q n data false host = _
    unfold State.performWrite
    rw [hc]
    show u.performOne src .store q n data false host = _
    unfold State.performOne
    rw [here, ok']
    rfl
  have written : Unwoken w s (u.writePlace q n data) := by
    refine unwoken_of_core (u.writePlace_core q n data) ?_
    obtain ⟨m, hm⟩ := u.writePlace_window data plain
    rw [hm]
  obtain ⟨inside, outside⟩ := u.writePlace_byteAt data plain wf
  have mem : t.mem = (u.writePlace q n data).mem := by rw [run]; exact State.afterWrite_mem _ _ _ _ _
  refine ⟨?_, fun j hj => ?_, fun k hk => ?_⟩
  · rw [run]
    exact unwoken_trans written (unwoken_afterWrite (written.str ▸ idle) _ _ _ _)
  · show Cells.read t.mem _ = _
    rw [mem]; exact inside j hj
  · show Cells.read t.mem k = _
    rw [mem]; exact outside k hk

theorem OnlySeats.writeAnswer {s t : State} (h : OnlySeats s t) (k : WKind) (p : Place) (n : Nat) (host : Bool) :
    t.writeAnswer k p n host = s.writeAnswer k p n host := by
  obtain ⟨c, ms, rfl⟩ := h
  cases k <;> rfl

/-! ## The parts of a VAMO -/

/-- The running stream has changed in its predicates alone; its restart index stands. -/
structure Predicated (s t : State) : Prop where
  turn : t.turn = s.turn
  me   : { t.me with p := s.me.p } = s.me
  vamo : t.mySeat.vamo = s.mySeat.vamo

theorem predicated_refl (s : State) : Predicated s s := ⟨rfl, rfl, rfl⟩

theorem predicated_trans {s t u : State} (h : Predicated s t) (k : Predicated t u) : Predicated s u := by
  refine ⟨k.turn.trans h.turn, ?_, k.vamo.trans h.vamo⟩
  have back := congrArg (fun a : Stream => { a with p := s.me.p }) k.me
  exact back.trans h.me

theorem Unwoken.predicated {s t : State} {w : Who} (h : Unwoken w s t) (mine : s.turn = w) : Predicated s t := by
  subst mine
  have me : t.me = s.me := by unfold State.me; rw [h.turn]; exact h.str
  have vamo : t.mySeat.vamo = s.mySeat.vamo := by unfold State.mySeat; rw [h.turn]; exact h.vamo
  exact ⟨h.turn, by rw [me], vamo⟩

theorem Predicated.advance {s t : State} (h : Predicated s t) : t.me.advance.1.pc = s.me.advance.1.pc ∧ t.me.pc = s.me.pc ∧ t.me.x = s.me.x := by
  have me := h.me
  have seq : SameSeq s.me t.me := by
    rw [← me]
    exact ⟨rfl, rfl, rfl, rfl, rfl⟩
  have loop : t.me.loopPc = s.me.loopPc := by rw [← me]
  exact ⟨(advance_of_same seq loop).1.1, seq.1, by rw [← me]⟩

/-- Stream S writes a predicate. -/
theorem State.wrPred_S {s : State} (stream : s.turn.stream = .S) (n : Fin 16) (v : Bool) :
    let t := s.wrPred n v
    Predicated s t ∧ t.mem = s.mem ∧ t.me = s.me.wrP n v ∧ t.mySeat.loads = s.mySeat.loads ∧ t.mySeat.q = s.mySeat.q ∧ OnlySeats s t := by
  intro t
  have run : t = s.modMySeat fun st => st.wrPred s.turn.stream n v := s.wrPred_eq n v
  have seat : t.mySeat = s.mySeat.wrPred s.turn.stream n v := by rw [run]; exact State.modMySeat_mySeat _ _
  have keeps := s.mySeat.wrPred_keeps s.turn.stream n v
  have me : t.me = s.me.wrP n v := by
    rw [run, State.modMySeat_me, Seat.wrPred_getStr, if_neg (by rw [stream]; decide)]
    rfl
  refine ⟨⟨by rw [run]; rfl, ?_, ?_⟩, by rw [run]; rfl, me, ?_, ?_, by rw [run]; exact onlySeats_modSeat s _ _⟩
  · rw [me]
    unfold Stream.wrP
    split <;> rfl
  · rw [seat]; exact keeps.elements.2.2
  · rw [seat]; exact keeps.queues.2.1
  · rw [seat]; exact Seat.wrPred_q _ _ _ _

/-- The first element of a VAMO clears its error predicate (R221). -/
def State.vamoStart (s t : State) (pe : Fin 16) : State := if s.vamoIndex = 0 then t.wrPred pe false else t

/-- The restart index of a VAMO is k (R222). -/
def State.vamoKeep (s t : State) (k : Nat) : State := t.modMySeat fun st => { st with vamo := some (s.me.pc, k) }

/-- A VAMO is over. -/
def State.vamoFinish (t : State) (srcs : List SSpec) : State := ((t.takes srcs).modMySeat fun st => { st with vamo := none }).retire

/-- An element that met an error sets the error predicate (R221). -/
def State.errorNoted (t : State) (pe : Fin 16) (a : Answer) : State := if a.ans = .ok then t else t.wrPred pe true

/-- After the answer of an element: its old value stands at its return address, and an error is noted (R221). -/
def State.vamoAnswered (s t : State) (pe : Fin 16) (ret : Option Place) (n : Nat) (a : Answer) : State :=
  State.errorNoted (match ret with
    | some q => (s.vamoStart t pe).performWrite (.stream s.turn) .store q n (a.data.toNat % 2 ^ (8 * n)) false false
    | none => s.vamoStart t pe) pe a

theorem rdP_zero_or (a : Stream) (n : Fin 16) : a.rdP n = (decide (n = 0) || a.rdP n) := by
  by_cases h : n = 0
  · rw [h]; rfl
  · simp [h]

section
variable {s t : State} (stream : t.turn.stream = .S) (pe : Fin 16)
include stream

theorem State.vamoStart_leaves :
    let u := s.vamoStart t pe
    Predicated t u ∧ u.mem = t.mem ∧ u.mySeat.loads = t.mySeat.loads ∧ u.mySeat.q = t.mySeat.q ∧ OnlySeats t u ∧
      u.me.rdP pe = (decide (pe = 0) || (decide (s.vamoIndex ≠ 0) && t.me.rdP pe)) := by
  intro u
  by_cases first : s.vamoIndex = 0
  · have run : u = t.wrPred pe false := if_pos first
    obtain ⟨pred, mem, me, loads, q, only⟩ := State.wrPred_S stream pe false
    rw [run]
    refine ⟨pred, mem, loads, q, only, ?_⟩
    rw [me, wrP_rdP, first]
    by_cases h : pe = 0
    · rw [h]; rfl
    · simp [h]
  · have run : u = t := if_neg first
    rw [run]
    refine ⟨predicated_refl t, rfl, rfl, rfl, onlySeats_refl t, ?_⟩
    rw [decide_eq_true first, Bool.true_and]
    exact rdP_zero_or _ _

theorem State.errorNoted_leaves (a : Answer) :
    let u := t.errorNoted pe a
    Predicated t u ∧ u.mem = t.mem ∧ u.mySeat.loads = t.mySeat.loads ∧
      u.me.rdP pe = (decide (pe = 0) || decide (a.ans ≠ .ok) || t.me.rdP pe) := by
  intro u
  by_cases ok : a.ans = .ok
  · have run : u = t := if_pos ok
    rw [run, ok]
    refine ⟨predicated_refl t, rfl, rfl, ?_⟩
    rw [show decide (Ans.ok ≠ Ans.ok) = false from rfl, Bool.or_false]
    exact rdP_zero_or _ _
  · have run : u = t.wrPred pe true := if_neg ok
    obtain ⟨pred, mem, me, loads, -, -⟩ := State.wrPred_S stream pe true
    rw [run]
    refine ⟨pred, mem, loads, ?_⟩
    rw [me, wrP_rdP, decide_eq_true ok, Bool.or_true, Bool.true_or]
    by_cases h : pe = 0
    · rw [h]; rfl
    · simp [h]

end

theorem State.vamoFinish_leaves (t : State) (srcs : List SSpec) :
    let u := t.vamoFinish srcs
    u.mem = t.mem ∧ u.mySeat.vamo = none ∧ u.me.pc = t.me.advance.1.pc ∧ u.me.x = t.me.x ∧ u.me.p = t.me.p ∧
      u.mySeat.loads = t.mySeat.loads ∧ ∀ n : Fin 16, u.mySeat.q[n].items = t.mySeat.q[n].items.drop (qCount n srcs) := by
  intro u
  let i := t.turn.stream
  let c : Seat := { t.mySeat.takeAll t.now srcs with vamo := none }
  have mine : c.getStr i = t.me := Seat.takeAll_getStr _ _ _ _
  have run : u = t.modMySeat fun _ => c.goOn i t.now t.me.advance := by
    show ((State.takes t srcs).modMySeat fun st => { st with vamo := none }).retire = _
    rw [State.retire_eq, State.takes, State.modMySeat_now, State.takeAll_now, State.modMySeat_modMySeat, State.takeAll_modMySeat]
    refine State.modMySeat_congr t ?_
    show Seat.goOn _ (State.turn _).stream _ (Seat.getStr _ (State.turn _).stream).advance = _
    rw [State.modMySeat_turn, State.takeAll_turn]
    exact congrArg (fun a : Stream => c.goOn i t.now a.advance) mine
  have keeps := keepsSeat_goOn i c t.now t.me.advance (by rw [mine]; exact advance_keeps _)
  have seat : u.mySeat = c.goOn i t.now t.me.advance := by rw [run]; exact State.modMySeat_mySeat _ _
  have me : u.me = { t.me.advance.1 with issued := t.now + 1, wait := .none, waiting := none } := by
    rw [run, State.modMySeat_me]
    exact Seat.goOn_getStr _ _ _ _
  obtain ⟨x, p, -⟩ := advance_regs t.me
  refine ⟨by rw [run]; rfl, ?_, by rw [me], by rw [me]; exact x, by rw [me]; exact p, ?_, fun n => ?_⟩
  · rw [seat]; exact keeps.elements.2.2
  · rw [seat]
    exact keeps.queues.2.1.trans (Seat.takeAll_keeps i t.now srcs t.mySeat).queues.2.1
  · rw [seat, Seat.goOn_q]
    exact Seat.takeAll_items t.now srcs t.mySeat n

/-- A VAMO is over, or stands at its next element. -/
theorem vamo_done {s t : State} (h : Predicated s t) (srcs : List SSpec) (count e : Nat) :
    let u := if count ≤ e + 1 then t.vamoFinish srcs else s.vamoKeep t (e + 1)
    u.mem = t.mem ∧ u.me.x = s.me.x ∧ u.me.p = t.me.p ∧ u.mySeat.loads = t.mySeat.loads ∧
      if count ≤ e + 1 then u.mySeat.vamo = none ∧ u.me.pc = s.me.advance.1.pc
      else u.mySeat.vamo = some (s.me.pc, e + 1) ∧ u.me.pc = s.me.pc := by
  intro u
  obtain ⟨next, pc, x⟩ := h.advance
  by_cases last : count ≤ e + 1
  · have run : u = t.vamoFinish srcs := if_pos last
    obtain ⟨mem, vamo, goes, x', p, loads, -⟩ := t.vamoFinish_leaves srcs
    rw [if_pos last, run]
    exact ⟨mem, x'.trans x, p, loads, vamo, goes.trans next⟩
  · have run : u = s.vamoKeep t (e + 1) := if_neg last
    have seat : (s.vamoKeep t (e + 1)).mySeat = { t.mySeat with vamo := some (s.me.pc, e + 1) } := State.modMySeat_mySeat _ _
    have me : (s.vamoKeep t (e + 1)).me = t.me := State.modMySeat_me _ _
    rw [if_neg last, run, seat, me]
    exact ⟨rfl, x, rfl, rfl, rfl, pc⟩

/-! ## What VAMO does -/

section
variable {s : State} {g : AmoArgs} (ready : Ready s [g.a, g.b, g.d] []) (idle : s.blocked [g.a, g.b, g.d, .q 8, .q 9] [] = none)
  (gate : s.gated = false)
include ready idle gate

theorem exec_vamo_none (free : s.pFree ⟨g.pe.val, by omega⟩ = true) (none : s.mySeat.elemReq = none)
    (all : elemCount g.dbl (s.two g.a g.b).2 ≤ s.vamoIndex) :
    exec (.vamo g) s = .next ((s.vamoStart s ⟨g.pe.val, by omega⟩).vamoFinish [g.a, g.b, g.d, .q 8, .q 9]) := by
  have wait : s.memWait [g.a, g.b, g.d, .q 8, .q 9] [] = .none := memWait_of_clear idle gate
  show execVamo g s = _
  unfold execVamo
  rw [ready.1, wait, none]
  dsimp only
  rw [free, if_pos (show elemCount g.dbl ((s.peeks [g.a, g.b, g.d]).getD 1 0) ≤ s.vamoIndex from all)]
  rfl

theorem exec_vamo_send (free : s.pFree ⟨g.pe.val, by omega⟩ = true) (none : s.mySeat.elemReq = none)
    (more : s.vamoIndex < elemCount g.dbl (s.two g.a g.b).2) {p : Place} {s1 : State} {ret : Option Place}
    (ok : s.check s.turn (elemAddr (s.two g.a g.b).1 s.mySeat.q[(9 : Fin 16)].head (atomSize g.dbl) s.vamoIndex) (atomSize g.dbl) .at'
      false true = (.ok p, s1))
    (back : s.returnPlace g.d ((s.peeks [g.a, g.b, g.d]).getD 2 0) s.vamoIndex (atomSize g.dbl) = .ok ret)
    (clear : s.returnBusy ret (atomSize g.dbl) = false) :
    exec (.vamo g) s = .next (s.vamoKeep (s1.pushLoad (s.newReq
      (.elem g.op (BitVec.ofNat 64 (lane s.mySeat.q[(8 : Fin 16)].head (8 * atomSize g.dbl) s.vamoIndex))) p
      (elemAddr (s.two g.a g.b).1 s.mySeat.q[(9 : Fin 16)].head (atomSize g.dbl) s.vamoIndex) (atomSize g.dbl) 0 .none)) s.vamoIndex) := by
  have wait : s.memWait [g.a, g.b, g.d, .q 8, .q 9] [] = .none := memWait_of_clear idle gate
  show execVamo g s = _
  unfold execVamo
  rw [ready.1, wait, none]
  dsimp only
  rw [free, if_neg (show ¬elemCount g.dbl ((s.peeks [g.a, g.b, g.d]).getD 1 0) ≤ s.vamoIndex from Nat.not_le.2 more),
    show s.check s.turn (elemAddr ((s.peeks [g.a, g.b, g.d]).getD 0 0) s.mySeat.q[(9 : Fin 16)].head (atomSize g.dbl) s.vamoIndex) _ .at'
      false true = _ from ok, back]
  dsimp only
  rw [clear]
  rfl

theorem exec_vamo_answer {l : LoadReq} {a : Answer} (sent : s.mySeat.elemReq = some l) (answer : s.answerNow s.turn.ref l = some a)
    {ret : Option Place} (back : s.returnPlace g.d ((s.peeks [g.a, g.b, g.d]).getD 2 0) s.vamoIndex (atomSize g.dbl) = .ok ret) :
    let t := s.vamoAnswered (s.dropLoad s.turn.ref l) ⟨g.pe.val, by omega⟩ ret (atomSize g.dbl) a
    exec (.vamo g) s = .next (if elemCount g.dbl (s.two g.a g.b).2 ≤ s.vamoIndex + 1 then t.vamoFinish [g.a, g.b, g.d, .q 8, .q 9]
      else s.vamoKeep t (s.vamoIndex + 1)) := by
  intro t
  have wait : s.memWait [g.a, g.b, g.d, .q 8, .q 9] [] = .none := memWait_of_clear idle gate
  show execVamo g s = _
  unfold execVamo
  rw [ready.1, wait, sent]
  dsimp only
  rw [answer, back]
  by_cases last : elemCount g.dbl (s.two g.a g.b).2 ≤ s.vamoIndex + 1
  · rw [if_pos last]
    cases ret <;> exact if_pos last
  · rw [if_neg last]
    cases ret <;> exact if_neg last

/-- A VAMO without elements left goes on (R221). -/
theorem vamo_none (stream : s.turn.stream = .S) (free : s.pFree ⟨g.pe.val, by omega⟩ = true) (none : s.mySeat.elemReq = none)
    (all : elemCount g.dbl (s.two g.a g.b).2 ≤ s.vamoIndex) :
    Runs (.vamo g) s fun t => SameBytes s t ∧ t.mySeat.vamo = .none ∧ t.me.pc = s.me.advance.1.pc ∧ (∀ k, t.me.rdX k = s.me.rdX k) ∧
      Queues s t [g.a, g.b, g.d, .q 8, .q 9] .none 0 0 := by
  have run := exec_vamo_none ready idle gate free none all
  let pe : Fin 16 := ⟨g.pe.val, by omega⟩
  have start : Predicated s (s.vamoStart s pe) ∧ (s.vamoStart s pe).mem = s.mem ∧ (s.vamoStart s pe).mySeat.q = s.mySeat.q := by
    unfold State.vamoStart
    split
    · obtain ⟨pred, mem, -, -, q, -⟩ := State.wrPred_S stream pe false
      exact ⟨pred, mem, q⟩
    · exact ⟨predicated_refl s, rfl, rfl⟩
  obtain ⟨pred, mem, q⟩ := start
  obtain ⟨next, -, x⟩ := pred.advance
  obtain ⟨mem', vamo, pc, x', -, -, items⟩ := (s.vamoStart s pe).vamoFinish_leaves [g.a, g.b, g.d, .q 8, .q 9]
  refine ⟨_, run, fun k => ?_, vamo, pc.trans next, fun k => ?_, fun n => ?_⟩
  · show Cells.read _ k = Cells.read s.mem k
    rw [mem', mem]
  · unfold Stream.rdX
    rw [x', x]
  · have := items n
    rw [q] at this
    simpa using this

/-- The element at the restart index goes to its home (R221, R222). -/
theorem vamo_send (free : s.pFree ⟨g.pe.val, by omega⟩ = true) (none : s.mySeat.elemReq = none)
    (more : s.vamoIndex < elemCount g.dbl (s.two g.a g.b).2) {p : Place} {ret : Option Place} {va : Word}
    (hva : va = elemAddr (s.two g.a g.b).1 s.mySeat.q[(9 : Fin 16)].head (atomSize g.dbl) s.vamoIndex)
    (ok : (s.check s.turn va (atomSize g.dbl) .at' false true).1 = .ok p)
    (back : s.returnPlace g.d ((s.peeks [g.a, g.b, g.d]).getD 2 0) s.vamoIndex (atomSize g.dbl) = .ok ret)
    (clear : s.returnBusy ret (atomSize g.dbl) = false) :
    Runs (.vamo g) s fun t => SameBytes s t ∧ t.mySeat.vamo = some (s.me.pc, s.vamoIndex) ∧ t.me.pc = s.me.pc ∧ SameRegs s t ∧
      Requested s t (.elem g.op (BitVec.ofNat 64 (lane (s.mySeat.q[(8 : Fin 16)].head) (8 * atomSize g.dbl) s.vamoIndex))) p va
        (atomSize g.dbl) 0 .none .none := by
  obtain ⟨f, m, notes, look⟩ := looked_check s va (atomSize g.dbl) .at' false true
  have checked : s.check s.turn va (atomSize g.dbl) .at' false true = (.ok p, f.modMySeat fun st => st.marked s.turn.stream m) :=
    Prod.ext ok look
  subst hva
  have run := exec_vamo_send ready idle gate free none more checked back clear
  let l := s.newReq (.elem g.op (BitVec.ofNat 64 (lane s.mySeat.q[(8 : Fin 16)].head (8 * atomSize g.dbl) s.vamoIndex))) p
    (elemAddr (s.two g.a g.b).1 s.mySeat.q[(9 : Fin 16)].head (atomSize g.dbl) s.vamoIndex) (atomSize g.dbl) 0 .none
  let h (st : Seat) : Seat := { (st.marked s.turn.stream m).addLoad l with vamo := some (s.me.pc, s.vamoIndex) }
  have sends : s.vamoKeep ((f.modMySeat fun st => st.marked s.turn.stream m).pushLoad l) s.vamoIndex = f.bump.modMySeat h := by
    rw [State.modMySeat_pushLoad]
    exact State.modMySeat_modMySeat f.bump _ _
  rw [sends] at run
  have turn : f.bump.turn = s.turn := notes.turn
  have before : f.bump.mySeat = s.mySeat := by unfold State.mySeat; rw [turn]; exact notes.getSeat _
  have seat : (f.bump.modMySeat h).mySeat = h s.mySeat := by rw [State.modMySeat_mySeat, before]
  have me : (f.bump.modMySeat h).me = s.me.marked m := by
    rw [State.modMySeat_me, before, turn]
    exact Seat.modStr_getStr _ _ _
  refine ⟨_, run, fun k => ?_, ?_, ?_, ?_, ?_⟩
  · show Cells.read f.mem k = Cells.read s.mem k
    rw [notes.mem]
  · rw [seat]
  · rw [me]; rfl
  · unfold SameRegs; rw [me]; exact ⟨fun _ => rfl, rfl, rfl⟩
  · unfold Requested; rw [seat]; exact ⟨rfl, rfl, rfl⟩

/-- The answer of an element whose old value returns nowhere (R221). -/
theorem vamo_answer (stream : s.turn.stream = .S) {l : LoadReq} {a : Answer} (sent : s.mySeat.elemReq = some l)
    (answer : s.answerNow s.turn.ref l = some a) (nowhere : g.d = .x 0) :
    let e := s.vamoIndex
    let count := elemCount g.dbl (s.two g.a g.b).2
    Runs (.vamo g) s fun t => SameBytes s t ∧
      (if count ≤ e + 1 then t.mySeat.vamo = none ∧ t.me.pc = s.me.advance.1.pc
        else t.mySeat.vamo = some (s.me.pc, e + 1) ∧ t.me.pc = s.me.pc) ∧
      (∀ k, t.me.rdX k = s.me.rdX k) ∧ t.mySeat.loads = s.mySeat.loads.filter (fun m => decide (m.seq ≠ l.seq)) ∧
      t.me.rdP ⟨g.pe.val, by omega⟩ = (decide (g.pe = 0) || decide (a.ans ≠ .ok) || (decide (e ≠ 0) && s.me.rdP ⟨g.pe.val, by omega⟩)) := by
  intro e count
  have back : s.returnPlace g.d ((s.peeks [g.a, g.b, g.d]).getD 2 0) s.vamoIndex (atomSize g.dbl) = .ok none := if_pos nowhere
  have run := exec_vamo_answer ready idle gate sent answer back
  let pe : Fin 16 := ⟨g.pe.val, by omega⟩
  let s0 := s.dropLoad s.turn.ref l
  have seat : s0.mySeat = s.mySeat.dropLoad l := s.modSeat_getSeat s.turn.ref _
  have me : s0.me = s.me := s.modSeat_getStr s.turn _
  have dropped : Predicated s s0 := ⟨rfl, by rw [me], by rw [seat]; rfl⟩
  obtain ⟨pred1, mem1, loads1, -, -, p1⟩ := State.vamoStart_leaves (s := s) (t := s0) stream pe
  let t := (s.vamoStart s0 pe).errorNoted pe a
  replace run : exec (.vamo g) s = .next
      (if count ≤ e + 1 then t.vamoFinish [g.a, g.b, g.d, .q 8, .q 9] else s.vamoKeep t (e + 1)) := run
  have start := (predicated_trans dropped pred1)
  obtain ⟨pred2, mem2, loads2, p2⟩ := State.errorNoted_leaves (t := s.vamoStart s0 pe) (by rw [start.turn]; exact stream) pe a
  obtain ⟨mem, x, p, loads, done⟩ := vamo_done (t := t) (predicated_trans start pred2) [g.a, g.b, g.d, .q 8, .q 9] count e
  refine ⟨_, run, fun k => ?_, done, fun k => ?_, ?_, ?_⟩
  · show Cells.read _ k = Cells.read s.mem k
    rw [mem, mem2, mem1]
    rfl
  · unfold Stream.rdX
    rw [x]
  · rw [loads, loads2, loads1, seat]
    rfl
  · have zero : decide (pe = 0) = decide (g.pe = 0) := decide_eq_decide.2 (by simp only [pe, Fin.ext_iff]; rfl)
    unfold Stream.rdP at p2 p1 ⊢
    rw [p]
    refine p2.trans ?_
    rw [p1, zero, me]
    cases decide (g.pe = 0) <;> rfl

/-- The answer of an element whose old value returns to a place of the window (R221). -/
theorem vamo_return (stream : s.turn.stream = .S) (unheld : s.me.wait = .none) {l : LoadReq} {a : Answer}
    (sent : s.mySeat.elemReq = some l) (answer : s.answerNow s.turn.ref l = some a) {q : Place}
    (back : s.returnPlace g.d ((s.peeks [g.a, g.b, g.d]).getD 2 0) s.vamoIndex (atomSize g.dbl) = .ok (some q)) (here : q.isLocal = true)
    (wf : Memory.wf s.mem = true) (plain : q.Plain (atomSize g.dbl)) (ok : s.writeAnswer .store q (atomSize g.dbl) false = .ok) :
    let e := s.vamoIndex
    let count := elemCount g.dbl (s.two g.a g.b).2
    Runs (.vamo g) s fun t =>
      (if count ≤ e + 1 then t.mySeat.vamo = none ∧ t.me.pc = s.me.advance.1.pc
        else t.mySeat.vamo = some (s.me.pc, e + 1) ∧ t.me.pc = s.me.pc) ∧
      (∀ j < atomSize g.dbl, t.byteAt (q.key + j) = BitVec.ofNat 8 (a.data.toNat / 256 ^ j)) ∧
      ∀ k, k < q.key ∨ q.key + atomSize g.dbl ≤ k → t.byteAt k = s.byteAt k := by
  intro e count
  have run := exec_vamo_answer ready idle gate sent answer back
  let pe : Fin 16 := ⟨g.pe.val, by omega⟩
  let n := atomSize g.dbl
  let s0 := s.dropLoad s.turn.ref l
  have seat : s0.mySeat = s.mySeat.dropLoad l := s.modSeat_getSeat s.turn.ref _
  have me : s0.me = s.me := s.modSeat_getStr s.turn _
  have dropped : Predicated s s0 := ⟨rfl, by rw [me], by rw [seat]; rfl⟩
  obtain ⟨pred1, mem1, -, -, only, -⟩ := State.vamoStart_leaves (s := s) (t := s0) stream pe
  have start := predicated_trans dropped pred1
  let s1 := s.vamoStart s0 pe
  have mem1' : s1.mem = s.mem := mem1
  have unheld1 : (s1.getStr s.turn).wait = .none := by
    have same : s1.me.wait = s.me.wait := by rw [← start.me]
    rw [← start.turn]
    exact same.trans unheld
  have ok1 : s1.writeAnswer .store q n false = .ok :=
    ((onlySeats_trans (onlySeats_modSeat s s.turn.ref _) only).writeAnswer _ _ _ _).trans ok
  obtain ⟨asleep, inside, outside⟩ := State.performWrite_store unheld1 (mem1' ▸ wf) (.stream s.turn) (a.data.toNat % 2 ^ (8 * n)) here plain ok1
  let s2 := s1.performWrite (.stream s.turn) .store q n (a.data.toNat % 2 ^ (8 * n)) false false
  let t := s2.errorNoted pe a
  replace run : exec (.vamo g) s = .next
      (if count ≤ e + 1 then t.vamoFinish [g.a, g.b, g.d, .q 8, .q 9] else s.vamoKeep t (e + 1)) := run
  have stored : Predicated s s2 := predicated_trans start (asleep.predicated start.turn)
  obtain ⟨pred3, mem3, -, -⟩ := State.errorNoted_leaves (t := s2) (by rw [stored.turn]; exact stream) pe a
  obtain ⟨mem, -, -, -, done⟩ := vamo_done (predicated_trans stored pred3) [g.a, g.b, g.d, .q 8, .q 9] count e
  have base : (2 : Nat) ^ (8 * n) = 256 ^ n := by rw [pow_mul]; norm_num
  have bytes (k : Nat) := congrArg (fun c => Cells.read c k) (mem.trans mem3)
  have before (k : Nat) : s1.byteAt k = s.byteAt k := congrArg (fun c => Cells.read c k) mem1'
  refine ⟨_, run, done, fun j hj => (bytes _).trans ?_, fun k hk => (bytes k).trans ((outside k hk).trans (before k))⟩
  refine (inside j hj).trans ?_
  rw [base, byte_mod _ hj]

end

/-! ## Obligation O24 -/

/-- Settles O24: AMO's request is `pushLoad_issued`, VAMO's steps are `vamo_none`, `vamo_send`, `vamo_answer` and `vamo_return`, VMRED is
`vmred_completes`, and the arithmetic is `atomApply_words`. -/
theorem atomicsAndTheirArithmetic : Obligations.AtomicsAndTheirArithmetic := by
  unfold Obligations.AtomicsAndTheirArithmetic
  refine ⟨⟨fun s g p cls idle gate free => ?amo, fun s g ready idle gate stream unheld free => ?vamo,
    fun s g l u ready idle gate log runs => ?vmred⟩, fun z m v e hz => atomApply_words hz m v e⟩
  case amo =>
    intro n ok
    obtain ⟨f, m, notes, look⟩ := looked_check s (s.two g.a g.b).1 n .at' false true
    have checked : s.check s.turn (s.two g.a g.b).1 n .at' false true = (.ok p, f.modMySeat fun st => st.marked s.turn.stream m) :=
      Prod.ext ok look
    obtain ⟨went, ln, loads, stores, sideLog⟩ := pushLoad_issued notes m (s.newReq (.amo g.op g.d (s.two g.a g.b).2
      (match g.d with | .x k => s.me.rdX k | .q _ => 0) g.pe) p (s.two g.a g.b).1 n 0 none) [g.a, g.b]
    exact ⟨_, exec_amo cls idle gate free checked, went, ln, stores, sideLog, loads⟩
  case vamo =>
    intro n count e d done
    refine ⟨fun none all => vamo_none ready idle gate stream free none all,
      fun p ret none more ok back clear => vamo_send ready idle gate free none more (elemAddr_eq s _ n e).symm ok back clear,
      fun l a sent answer => ⟨fun nowhere => vamo_answer ready idle gate stream sent answer nowhere,
        fun q back here wf below skew ok => vamo_return ready idle gate stream unheld sent answer back here wf ⟨below, skew⟩ ok⟩⟩
  case vmred =>
    intro n count ok present
    exact vmred_completes ready idle gate log runs ok present

end Sys2Proof.Machine
end
